-- ==== Sys2Proof/Word.lean ====
section
/-! DEFINITION. The word types of the module: bytes, 32-bit and 64-bit words (R6, R8). -/

namespace Sys2Proof

/-- One byte. -/
abbrev Byte := BitVec 8

/-- A per-thread register, 32 bits (R50). -/
abbrev W32 := BitVec 32

/-- A control register, a group scalar register or a descriptor word, 64 bits (R8, R50). -/
abbrev W64 := BitVec 64

/-- A physical address of the one 48-bit address space (R12). -/
abbrev PA := BitVec 48

/-- A SHA-384 digest or root (R379). -/
abbrev Digest := BitVec 384

end Sys2Proof
end

