-- ==== Sys2Proof/Syntax.lean ====
section
/-! DEFINITION. The commands of the module: one constructor of `Instr` per row of the table of operations
and events, with the operands that say which unit acts and what its surroundings give it. -/

namespace Sys2Proof

/-! ## Names of units (chapter "Shesizin at a glance", Identifiers; R183) -/

/-- Room [row,col] of the logical grid. -/
structure RoomId where
  row : Fin 6
  col : Fin 16
deriving DecidableEq, Repr

/-- Core 0 to 5 of a Room. -/
structure CoreId where
  room : RoomId
  core : Fin 6
deriving DecidableEq, Repr

/-- One of the 32 group slots of a core (R51). -/
structure GroupRef where
  core : CoreId
  slot : Fin 32
deriving DecidableEq, Repr

/-- An endpoint of the Bellwire (R183). -/
inductive Endpoint where
  | core (c : CoreId)
  | hall (r : RoomId)
  | dispatcher (k : Fin 8)
  | cellar (k : Fin 8)
  | parlour (n : Fin 2)
  | porch (n : Fin 2)
  | hearth
  | power
deriving DecidableEq, Repr

/-- Who makes an access to a control register: an agent under a Suite tag (an engine, a hart, a copy engine),
M-mode code of a hart (the monitor, ID 255), the Hearth, or the board management controller over I3C (R8, R443). -/
inductive Agent where
  | suite (n : BitVec 8)
  | mmode (hart : Fin 128)
  | hearth
  | bmc
deriving DecidableEq, Repr

/-- A memory controller: that of package M00 to M31, or that of DDR5 channel A to L (R24, R258). -/
inductive Ctl where
  | lpd (p : Fin 32)
  | ddr (c : Fin 12)
deriving DecidableEq, Repr

/-- A link port: BY0 to BY3 or BZ0 to BZ5. -/
inductive Port where
  | by (i : Fin 4)
  | bz (i : Fin 6)
deriving DecidableEq, Repr

/-! ## What a check at the point of detection found (R407) -/

/-- The outcome of a code check and its single retry: nothing wrong, corrected in place, an uncorrectable error
whose retry succeeded, an uncorrectable error whose retry failed. -/
inductive Ecc where
  | clean
  | corrected
  | transient
  | lasting
deriving DecidableEq, Repr

/-- A CRC-checked transfer and its single resend: `ok`, `resent` (the first failed, the second passed),
`failed` (both failed). -/
inductive Crc where
  | ok
  | resent
  | failed
deriving DecidableEq, Repr

/-- What the pins did to one memory read attempt of a line: for each of the four sectors (LPDDR6) or two halves (DDR5)
the error symbols added to the symbols stored, none where the list ends (R287, R305); and the bits of
the line's tag that were read wrong (R291, R292). -/
structure Burst where
  sectors : List (List Byte)
  tagErr  : BitVec 32
deriving DecidableEq, Repr

/-! ## Messages from outside -/

/-- The fields of a mail-slot message (R190). -/
structure MailMsg where
  cmd     : BitVec 8
  len     : BitVec 3
  auth    : Bool
  ack     : Bool
  rsvd    : Bool          -- 1: some reserved bit of the header is set
  suite   : BitVec 8
  gen     : BitVec 16
  seqno   : W64
  opa     : W64
  opb     : W64
  opc     : W64
  opd     : W64
  tag     : BitVec 128
  payload : List Byte     -- 64 × LEN bytes
deriving DecidableEq, Repr

/-- The header of a Beyfy message (R318). -/
structure BeyfyHdr where
  type    : BitVec 8
  len     : BitVec 6
  session : BitVec 12
  suite   : BitVec 8
  gen     : BitVec 16
  status  : BitVec 8
  tag     : BitVec 16
  count   : BitVec 10
  addr    : W64
  arg     : W64
deriving DecidableEq, Repr

/-- The header of a Breezeway message (R343). -/
structure PeerHdr where
  type   : BitVec 4
  len    : BitVec 9
  psess  : BitVec 8
  status : BitVec 8
  xtag   : BitVec 16
  offset : BitVec 48
  arg    : BitVec 32
  tag    : BitVec 128
deriving DecidableEq, Repr

/-- The link word and header fields of a flit, and what the receiver's checks found: FEC corrected, FEC failed or
CRC failed (R312, R314, R315, R337). -/
structure Flit where
  ftype    : BitVec 2
  fseq     : BitVec 12
  ackseq   : BitVec 12
  ackValid : Bool
  nak      : Bool
  crHreq   : BitVec 16
  crMreq   : BitVec 16
  fecCorr  : Bool
  bad      : Bool
deriving DecidableEq, Repr

/-- How a Hearth call arrives (R375): from an agent of a Suite through HRT_CALL_GO, or as HEARTH_CALL on a Beyfy
port with its transaction tag, a session (0 for none), its SEQNO, its argument area as sent and its tag. -/
inductive CallVia where
  | inModule (suite : BitVec 8) (seqno : W64)
  | beyfy (port : Fin 4) (xtag : BitVec 16) (session : BitVec 12) (auth : Bool) (seqno : W64) (body : List Byte) (tag : BitVec 128)
deriving DecidableEq, Repr

/-- The resource block of SUITE_CREATE, SUITE_GROW and SUITE_SHRINK (R378). `rect` is `none` for all 0xFF;
bytes 0 to 3 otherwise. -/
structure ResBlock where
  rowLo     : BitVec 8
  rowHi     : BitVec 8
  colLo     : BitVec 8
  colHi     : BitVec 8
  slices    : BitVec 128
  cpy       : BitVec 32
  win       : BitVec 8
  resLpd    : BitVec 8
  ctx       : BitVec 16
  harts     : BitVec 128
  lpdGlobal : BitVec 32
  lpdLocal  : List (BitVec 32)   -- LPD_LOCAL0 to LPD_LOCAL7
  ddrPages  : BitVec 32
  resDdr    : BitVec 8
  rsvd      : BitVec 24
  tpk       : BitVec 768
deriving DecidableEq, Repr

/-- The named words of a region-table entry (R229). -/
structure RegionWords where
  w0 : W64
  w1 : W64
  w2 : W64
  w3 : W64
deriving DecidableEq, Repr

/-- A token of R385: action, MODID, nonce and signature. -/
structure Token where
  action : BitVec 16
  modid  : W64
  nonce  : BitVec 256
  sig    : BitVec 768
deriving DecidableEq, Repr

/-- A register that a hart's load or store names: integer, floating-point, or one whole vector register (R262). -/
inductive HartReg where
  | x (n : Fin 32)
  | f (n : Fin 32)
  | v (n : Fin 32)
deriving DecidableEq, Repr

/-- One hart access: the virtual address (for xtval), the physical address of its first byte and, where it crosses a
page, of the first byte of the second page, the PBMT of each page, the size in bytes (R266, R268), and whether M-mode makes it
(R282). `pbmt` 3 stands for the reserved code. -/
structure HartAcc where
  va    : W64
  pa    : W64
  pa2   : W64
  pbmt  : BitVec 2
  pbmt2 : BitVec 2
  size  : Fin 33
  mmode : Bool
deriving DecidableEq, Repr

/-- A group's SPAWN as its dispatcher answers it: the group, and what the read of a descriptor in Room memory found (R112, R169). -/
structure SpawnRead where
  group : GroupRef
  ecc   : Ecc
deriving DecidableEq, Repr

/-- A spill of a sequence context: its number, and what each read of Room memory found, in the order of the reads (R169, R216). -/
structure SpillRead where
  ctx  : Nat
  eccs : List Ecc
deriving DecidableEq, Repr

/-- A call of the monitor: the hart and the FID it passes (R276). -/
structure KmonCall where
  hart : Fin 128
  fid  : Nat
deriving DecidableEq, Repr

/-- What the start-up checks found of one firmware-image copy (R435, R437). -/
structure ImageCopy where
  magic    : BitVec 32
  version  : BitVec 32
  length   : BitVec 32
  stageOff : List (BitVec 32)
  stageLen : List (BitVec 32)
  digests  : List Digest      -- STAGE1 to STAGE4 digests of the header
  actual   : List Digest      -- SHA-384 of the four stages as loaded
  header   : List Byte        -- bytes 0 to 3,999, over which the signature is made
  sig      : BitVec 768
deriving DecidableEq, Repr

/-- What the start-up checks found of one configuration-block copy (R436, R437). -/
structure ConfigCopy where
  magic    : BitVec 32
  version  : BitVec 32
  length   : BitVec 32
  bootOff  : BitVec 32
  bootLen  : BitVec 32
  modes    : BitVec 8
  opKey    : BitVec 768
  digest   : Digest
  actual   : Digest           -- SHA-384 of bytes 4,096 to LENGTH − 1
  boot     : List Byte        -- the boot image
deriving DecidableEq, Repr

/-- What a DIMM's SPD says (R280, R281). -/
structure Spd where
  present : Bool
  ok      : Bool              -- the SPD passes its check
  ddr5    : Bool              -- the standard is JESD79-5
  rdimm   : Bool              -- an RDIMM, 3DS or not
  ecc     : Bool              -- an ECC DIMM with two 40-bit sub-channels
  capGib  : BitVec 9
  ranks2  : Bool
  stack   : BitVec 2
  x8      : Bool
  rates   : BitVec 9          -- bit i: 3,200 + 400 i MT/s is listed
deriving DecidableEq, Repr

/-- The sensors read at one evaluation (R390): per Wing the highest compute-die and Cellar readings, per Parlour and
per Porch the highest reading (units of 0.25 °C), power averages in W, and the number of powered and of stretched
cores of each Wing and Parlour over the last period. -/
structure Sensors where
  wingDie     : List Nat
  wingCellar  : List Nat
  plrDie      : List Nat
  porchDie    : List Nat
  modulePower : Nat
  wingPower   : List Nat
  plrPower    : List Nat
  wingPowered : List Nat
  wingStretch : List Nat
  plrPowered  : List Nat
  plrStretch  : List Nat
  throtLow    : Bool
deriving DecidableEq, Repr

/-- The commands. Each docstring gives the row's mnemonic and the rules it rests on. -/
inductive Instr where
  -- supply, reset and start-up
  | powerUp (vinMv : Nat) (en ref0 ref1 : Bool)                     -- POWER_UP, R459
  | inrushComplete                                                   -- INRUSH_COMPLETE, R456
  | enableDeassert                                                   -- ENABLE_DEASSERT, R460
  | powerLoss                                                        -- POWER_LOSS, R405
  | refclkLoss (porch : Fin 2)                                       -- REFCLK_LOSS, R465
  | brownOut                                                         -- BROWN_OUT, R395
  | resetInput (widthNs : Nat)                                       -- RESET_INPUT, R461
  | moduleReset (agent : Agent) (key : BitVec 16)                    -- MODULE_RESET, R446
  | hearthRomStart (entropyOk : Bool)                                -- HEARTH_ROM_START, R438
  | dieIdentityCheck (straps : List (BitVec 4))                      -- DIE_IDENTITY_CHECK, R27
  | firmwareVerify (a b : ImageCopy)                                 -- FIRMWARE_VERIFY, R437
  | linkTrainingBoot (corridors : BitVec 10) (parlourLinks porchLinks : BitVec 4) (stairs : BitVec 8)
                                                                     -- LINK_TRAINING_BOOT, R438
  | memoryTraining (lpdRates : List (BitVec 4)) (spds : List Spd) (ddrTrained : BitVec 12)
                                                                     -- MEMORY_TRAINING, R281
  | startupWipe                                                      -- STARTUP_WIPE, R386
  | startupMonitorLoad (a b : ConfigCopy) (monitorDigest : Digest)
                                                                     -- STARTUP_MONITOR_LOAD, R438
  | startupReady                                                     -- STARTUP_READY, R441
  | startupStepOverrun (fault : BitVec 8)                            -- STARTUP_STEP_OVERRUN, R439
  | controlRegisterWrite (agent : Agent) (addr : PA) (size : Nat) (value : W64)
                                                                     -- CONTROL_REGISTER_WRITE, R8
  | rcFieldRead (agent : Agent) (addr : PA) (size : Nat) (added : W64)
                                                                     -- RC_FIELD_READ, R11
  -- Bellwire and time
  | heartbeat (source : Endpoint)                                    -- HEARTBEAT, R44
  | bellwireMessageReceive (index : Nat) (crc : Crc)                 -- BELLWIRE_MESSAGE_RECEIVE, R184
  | wingStampRead (reader : Endpoint) (agent : Agent) (wing : Fin 8) -- WING_STAMP_READ, R43
  | mtimeTick (parlour : Fin 2)                                      -- MTIME_TICK, R47
  | mtimecmpWrite (agent : Agent) (parlour : Fin 2) (core : Fin 64) (value : W64)
                                                                     -- MTIMECMP_WRITE, R279
  -- kernels and EGIS instructions; w is the instruction word, l its extension word
  | launch (c : CoreId)                                              -- LAUNCH, R55
  | nop (g : GroupRef) (w l : W64)                                   -- NOP
  | br (g : GroupRef) (w l : W64)                                    -- BR
  | brany (g : GroupRef) (w l : W64)                                 -- BRANY
  | brnone (g : GroupRef) (w l : W64)                                -- BRNONE
  | brd (g : GroupRef) (w l : W64)                                   -- BRD
  | join (g : GroupRef) (w l : W64)                                  -- JOIN
  | jmpr (g : GroupRef) (w l : W64)                                  -- JMPR
  | call (g : GroupRef) (w l : W64)                                  -- CALL
  | exit (g : GroupRef) (w l : W64)                                  -- EXIT
  | trap (g : GroupRef) (w l : W64)                                  -- TRAP
  | mxbegin (g : GroupRef) (w l : W64)                               -- MXBEGIN
  | mxend (g : GroupRef) (w l : W64)                                 -- MXEND
  | efence (g : GroupRef) (w l : W64)                                -- EFENCE
  | efenceComplete (g : GroupRef)                                    -- EFENCE_COMPLETE
  | rbar (g : GroupRef) (w l : W64)                                  -- RBAR
  | rbarArrival (g : GroupRef)                                       -- RBAR_ARRIVAL
  | spawn (g : GroupRef) (w l : W64)                                 -- SPAWN
  | spawnAnswer (c : SpawnRead)                                      -- SPAWN_ANSWER
  | twait (g : GroupRef) (w l : W64)                                 -- TWAIT
  | gsr (g : GroupRef) (w l : W64)                                   -- GSR
  | sadd (g : GroupRef) (w l : W64)                                  -- SADD
  | ssub (g : GroupRef) (w l : W64)                                  -- SSUB
  | smul (g : GroupRef) (w l : W64)                                  -- SMUL
  | sand (g : GroupRef) (w l : W64)                                  -- SAND
  | sor (g : GroupRef) (w l : W64)                                   -- SOR
  | sxor (g : GroupRef) (w l : W64)                                  -- SXOR
  | sshl (g : GroupRef) (w l : W64)                                  -- SSHL
  | sshr (g : GroupRef) (w l : W64)                                  -- SSHR
  | ssra (g : GroupRef) (w l : W64)                                  -- SSRA
  | smin (g : GroupRef) (w l : W64)                                  -- SMIN
  | smax (g : GroupRef) (w l : W64)                                  -- SMAX
  | sminu (g : GroupRef) (w l : W64)                                 -- SMINU
  | smaxu (g : GroupRef) (w l : W64)                                 -- SMAXU
  | sslt (g : GroupRef) (w l : W64)                                  -- SSLT
  | ssltu (g : GroupRef) (w l : W64)                                 -- SSLTU
  | saddImm (g : GroupRef) (w l : W64)                               -- SADD_IMM
  | ssubImm (g : GroupRef) (w l : W64)                               -- SSUB_IMM
  | smulImm (g : GroupRef) (w l : W64)                               -- SMUL_IMM
  | sandImm (g : GroupRef) (w l : W64)                               -- SAND_IMM
  | sorImm (g : GroupRef) (w l : W64)                                -- SOR_IMM
  | sxorImm (g : GroupRef) (w l : W64)                               -- SXOR_IMM
  | sshlImm (g : GroupRef) (w l : W64)                               -- SSHL_IMM
  | sshrImm (g : GroupRef) (w l : W64)                               -- SSHR_IMM
  | ssraImm (g : GroupRef) (w l : W64)                               -- SSRA_IMM
  | sminImm (g : GroupRef) (w l : W64)                               -- SMIN_IMM
  | smaxImm (g : GroupRef) (w l : W64)                               -- SMAX_IMM
  | sminuImm (g : GroupRef) (w l : W64)                              -- SMINU_IMM
  | smaxuImm (g : GroupRef) (w l : W64)                              -- SMAXU_IMM
  | ssltImm (g : GroupRef) (w l : W64)                               -- SSLT_IMM
  | ssltuImm (g : GroupRef) (w l : W64)                              -- SSLTU_IMM
  | sli (g : GroupRef) (w l : W64)                                   -- SLI
  | vadd (g : GroupRef) (w l : W64)                                  -- VADD
  | vsub (g : GroupRef) (w l : W64)                                  -- VSUB
  | vmul (g : GroupRef) (w l : W64)                                  -- VMUL
  | vfma (g : GroupRef) (w l : W64)                                  -- VFMA
  | vmin (g : GroupRef) (w l : W64)                                  -- VMIN
  | vmax (g : GroupRef) (w l : W64)                                  -- VMAX
  | vand (g : GroupRef) (w l : W64)                                  -- VAND
  | vor (g : GroupRef) (w l : W64)                                   -- VOR
  | vxor (g : GroupRef) (w l : W64)                                  -- VXOR
  | vshl (g : GroupRef) (w l : W64)                                  -- VSHL
  | vshr (g : GroupRef) (w l : W64)                                  -- VSHR
  | vcvt (g : GroupRef) (w l : W64)                                  -- VCVT
  | vcmp (g : GroupRef) (w l : W64)                                  -- VCMP
  | vsel (g : GroupRef) (w l : W64)                                  -- VSEL
  | vmov (g : GroupRef) (w l : W64)                                  -- VMOV
  | vshfl (g : GroupRef) (w l : W64)                                 -- VSHFL
  | vsfu (g : GroupRef) (w l : W64)                                  -- VSFU
  | pand (g : GroupRef) (w l : W64)                                  -- PAND
  | por (g : GroupRef) (w l : W64)                                   -- POR
  | pxor (g : GroupRef) (w l : W64)                                  -- PXOR
  | pandn (g : GroupRef) (w l : W64)                                 -- PANDN
  | pnot (g : GroupRef) (w l : W64)                                  -- PNOT
  | pfroms (g : GroupRef) (w l : W64)                                -- PFROMS
  | sfromp (g : GroupRef) (w l : W64)                                -- SFROMP
  | pcnt (g : GroupRef) (w l : W64)                                  -- PCNT
  | sld (g : GroupRef) (w l : W64)                                   -- SLD
  | sst (g : GroupRef) (w l : W64)                                   -- SST
  | acq (g : GroupRef) (w l : W64)                                   -- ACQ
  | acqRo (g : GroupRef) (w l : W64)                                 -- ACQ_RO
  | rel (g : GroupRef) (w l : W64)                                   -- REL
  | relStoreIssue (g : GroupRef)                                     -- REL_STORE_ISSUE
  | vld (g : GroupRef) (w l : W64)                                   -- VLD
  | vst (g : GroupRef) (w l : W64)                                   -- VST
  | vatom (g : GroupRef) (w l : W64)                                 -- VATOM
  | vredadd (g : GroupRef) (w l : W64)                               -- VREDADD
  | tld (g : GroupRef) (w l : W64)                                   -- TLD
  | tst (g : GroupRef) (w l : W64)                                   -- TST
  | mxred (g : GroupRef) (w l : W64)                                 -- MXRED
  | mma (g : GroupRef) (w l : W64)                                   -- MMA
  | mmas (g : GroupRef) (w l : W64)                                  -- MMAS
  | aclr (g : GroupRef) (w l : W64)                                  -- ACLR
  | acvt (g : GroupRef) (w l : W64)                                  -- ACVT
  | aflg (g : GroupRef) (w l : W64)                                  -- AFLG
  | tmov (g : GroupRef) (w l : W64)                                  -- TMOV
  | dmaq (g : GroupRef) (w l : W64)                                  -- DMAQ
  -- completion of engine operations, parking and replay
  | loadDataReturn (g : GroupRef) (op : Nat)                         -- LOAD_DATA_RETURN, R73
  | tokenSignal (g : GroupRef) (op : Nat)                            -- TOKEN_SIGNAL, R152
  | groupPark (g : GroupRef)                                         -- GROUP_PARK, R72
  | replay (agent : Agent) (c : CoreId) (value : W64)                -- REPLAY, R75
  | discard (agent : Agent) (c : CoreId) (value : W64)               -- DISCARD, R79
  | automaticReplay (c : CoreId)                                     -- AUTOMATIC_REPLAY, R76
  | registerFileUe (g : GroupRef) (idleFill : Bool)                  -- REGISTER_FILE_UE, R77
  | groupFree (g : GroupRef)                                         -- GROUP_FREE, R79
  -- Rooms, Room DMA and the mesh
  | roomMemoryAccess (r : RoomId) (req : Nat) (ecc : Ecc)            -- ROOM_MEMORY_ACCESS, R167
  | roomRectWrite (agent : Agent) (r : RoomId) (value : W64)         -- ROOM_RECT_WRITE, R185
  | roomWipeComplete (r : RoomId)                                    -- ROOM_WIPE_COMPLETE, R170
  | dmaReadReturn (c : CoreId) (req : Nat)                           -- DMA_READ_RETURN, R174
  | dmaWriteAck (c : CoreId) (req : Nat)                             -- DMA_WRITE_ACK, R174
  | dmaRequestTimeout (c : CoreId) (req : Nat)                       -- DMA_REQUEST_TIMEOUT, R174
  | meshPacketForward (req : Nat)                                    -- MESH_PACKET_FORWARD, R176
  | roomLaneBeat (r : RoomId) (dir : Fin 4) (crc : Crc)              -- ROOM_LANE_BEAT, R176
  | routerFailure (r : RoomId)                                       -- ROUTER_FAILURE, R426
  -- mail slots and graphs
  | mail (port : Fin 4) (hdr : BeyfyHdr) (msg : MailMsg)             -- MAIL, R323
  | mailCredit (suite : BitVec 8) (session : BitVec 12)              -- MAIL_CREDIT, R323
  | submit (suite : BitVec 8)                                        -- SUBMIT, R197
  | token (suite : BitVec 8)                                         -- TOKEN, R192
  | credit (suite : BitVec 8)                                        -- CREDIT, R192
  | admitCtxs (suite : BitVec 8)                                         -- ADMIT, R214
  | retire (suite : BitVec 8)                                        -- RETIRE, R214
  | retireComplete (suite : BitVec 8)                                -- RETIRE_COMPLETE, R214
  | endGraph (suite : BitVec 8)                                      -- END, R204
  | resubmit (suite : BitVec 8)                                      -- RESUBMIT, R220
  | order (suite : BitVec 8)                                         -- ORDER, R217
  | firing (wing : Fin 8)                                            -- FIRING, R199
  | launchRefuse (wing : Fin 8)                                      -- LAUNCH_REFUSE, R200
  | freed (wing : Fin 8)                                             -- FREED, R200
  | done (wing : Fin 8)                                              -- DONE, R201
  | spillComplete (suite : BitVec 8) (c : SpillRead)                 -- SPILL_COMPLETE, R216
  | tokenAdd (wing : Fin 8)                                          -- TOKEN_ADD, R205
  | creditReturn (wing : Fin 8)                                      -- CREDIT_RETURN, R205
  | graphStall (suite : BitVec 8)                                    -- GRAPH_STALL, R203
  | streamChunkIssue (wing : Fin 8) (stream : Nat)                   -- STREAM_CHUNK_ISSUE, R209
  | streamChunkDelivered (wing : Fin 8) (stream : Nat) (member : Nat) -- STREAM_CHUNK_DELIVERED, R209
  | slotDone (wing : Fin 8)                                          -- SLOT_DONE, R209
  | pageReinstalledReport (r : RoomId)                               -- PAGE_REINSTALLED_REPORT, R212
  | eventRecord (wing : Fin 8)                                       -- EVENT_RECORD, R221
  | sinkQueueDrain (wing : Fin 8) (suite : BitVec 8)                 -- SINK_QUEUE_DRAIN, R221
  | graphModeWrite (agent : Agent) (suite : BitVec 8) (value : W64)  -- GRAPH_MODE_WRITE, R217
  -- unified cache, directory, maintenance, reductions
  | homeRequest (req : Nat) (ecc : Ecc)                              -- HOME_REQUEST, R233
  | rdS (req : Nat) (ecc : Ecc)                                      -- RD_S, R240
  | rdX (req : Nat) (ecc : Ecc)                                      -- RD_X, R240
  | upg (req : Nat) (ecc : Ecc)                                      -- UPG, R240
  | wbD (parlour : Fin 2) (tag : BitVec 8) (line : Nat)              -- WB_D, R237
  | offerC (parlour : Fin 2) (tag : BitVec 8) (line : Nat)           -- OFFER_C, R237
  | snoopAnswer (snoop : Nat) (ecc : Ecc)                            -- SNOOP_ANSWER, R240
  | snpSh (snoop : Nat)                                              -- SNP_SH, R259
  | snpInv (snoop : Nat)                                             -- SNP_INV, R259
  | memoryFill (slice : Fin 128) (line : Nat) (sector : Fin 4)       -- MEMORY_FILL, R234
  | evictionAck (slice : Fin 128) (line : Nat)                       -- EVICTION_ACK, R236
  | homeResponseTimeout (slice : Fin 128) (line : Nat)               -- HOME_RESPONSE_TIMEOUT, R243
  | redContribution (req : Nat)                                      -- RED_CONTRIBUTION, R254
  | adderPartial (slice : Fin 128) (line : Nat)                      -- ADDER_PARTIAL, R255
  | adderRmwComplete (pkg : Fin 32) (line : Nat) (ecc : Ecc)         -- ADDER_RMW_COMPLETE, R299
  | tallyAdd (index : Nat)                                           -- TALLY_ADD, R255
  | sliceEnable (agent : Agent) (slice : Fin 128)                    -- SLICE_ENABLE, R246
  | sliceDisable (agent : Agent) (slice : Fin 128)                   -- SLICE_DISABLE, R246
  | rocEnable (agent : Agent) (c : CoreId)                           -- ROC_ENABLE, R247
  | rocInval (agent : Agent) (c : CoreId)                            -- ROC_INVAL, R247
  | clean (wing : Fin 8) (slot : Fin 8)                              -- CLEAN, R250
  | inval (wing : Fin 8) (slot : Fin 8)                              -- INVAL, R250
  | cleanInval (wing : Fin 8) (slot : Fin 8)                         -- CLEAN_INVAL, R250
  | zero (wing : Fin 8) (slot : Fin 8)                               -- ZERO, R250
  | prefetch (wing : Fin 8) (slot : Fin 8)                           -- PREFETCH, R250
  | last (wing : Fin 8) (slot : Fin 8)                               -- LAST, R250
  | maintenanceComplete (wing : Fin 8) (slot : Fin 8)                -- MAINTENANCE_COMPLETE, R251
  -- Parlour harts
  | lr (h : Fin 128) (a : HartAcc) (rd : Fin 32)                     -- LR, R270
  | sc (h : Fin 128) (a : HartAcc) (rd rs2 : Fin 32) (spurious : Bool) -- SC, R270
  | lrHoldExpiry (h : Fin 128)                                       -- LR_HOLD_EXPIRY, R270
  | amo (h : Fin 128) (a : HartAcc) (op : Fin 9) (rd rs2 : Fin 32)   -- AMO, R271
  | cboClean (h : Fin 128) (a : HartAcc)                             -- CBO_CLEAN, R264
  | cboFlush (h : Fin 128) (a : HartAcc)                             -- CBO_FLUSH, R264
  | cboInval (h : Fin 128) (a : HartAcc)                             -- CBO_INVAL, R264
  | cboZero (h : Fin 128) (a : HartAcc)                              -- CBO_ZERO, R264
  | mxsuiteWrite (h : Fin 128) (mmode : Bool) (value : W64)          -- MXSUITE_WRITE, R274
  | hartDevStoreTimeout (h : Fin 128) (req : Nat)                    -- HART_DEV_STORE_TIMEOUT, R272
  | hartDevLoadTimeout (h : Fin 128) (req : Nat)                     -- HART_DEV_LOAD_TIMEOUT, R272
  | msend (h : Fin 128) (insn : W32)                                 -- MSEND, R278
  | msendAnswer (h : Fin 128)                                        -- MSEND_ANSWER, R278
  | kmonVersion (c : KmonCall)                                       -- KMON_VERSION, R276
  | kmonHartOwner (h : Fin 128)                                      -- KMON_HART_OWNER, R276
  | kmonRun (h : Fin 128)                                            -- KMON_RUN, R276
  | vmExit (h : Fin 128) (cause : W64) (passed : List W64)           -- VM_EXIT, R276
  | kmonMove (h : Fin 128)                                           -- KMON_MOVE, R276
  | kmonKick (h : Fin 128)                                           -- KMON_KICK, R276
  | sbiHsmStart (h : Fin 128)                                        -- SBI_HSM_START, R441
  | sbiSrst (h : Fin 128)                                            -- SBI_SRST, R441
  | msiWrite (tag : BitVec 8) (addr : PA) (data : W32)               -- MSI_WRITE, R276
  -- memory controllers
  | controllerReadRequest (slice : Fin 128) (line : Nat) (sector : Fin 4) -- CONTROLLER_READ_REQUEST, R294
  | sectorBurstReturn (slice : Fin 128) (line : Nat) (sector : Fin 4) (first retry : Burst)
                                                                     -- SECTOR_BURST_RETURN, R292
  | refresh (m : Ctl) (channel : Fin 4) (bank : Fin 16)              -- REFRESH, R283
  | calibrationPause (m : Ctl) (channel : Fin 4) (idle : Bool)       -- CALIBRATION_PAUSE, R300
  | calibrationDue (m : Ctl) (channel : Fin 4)                       -- CALIBRATION_DUE, R301
  | calibrationGo (agent : Agent) (m : Ctl) (mask : BitVec 4)        -- CALIBRATION_GO, R301
  | calibrationDeadline (m : Ctl) (channel : Fin 4)                  -- CALIBRATION_DEADLINE, R301
  | calibrationDone (m : Ctl) (channel : Fin 4)                      -- CALIBRATION_DONE, R300
  | slotMapApply (m : Ctl)                                           -- SLOT_MAP_APPLY, R298
  | fullWipe (agent : Agent) (m : Ctl)                               -- FULL_WIPE, R307
  | pageWipe (agent : Agent) (m : Ctl) (page : BitVec 27)            -- PAGE_WIPE, R308
  | wipeDone (m : Ctl)                                               -- WIPE_DONE, R307
  | packageFailure (m : Ctl) (trigger : BitVec 8)                    -- PACKAGE_FAILURE, R427
  -- Beyfy
  | beyfyFlit (port : Fin 4) (f : Flit)                              -- BEYFY_FLIT, R315
  | nak (port : Port) (ackseq : BitVec 12) (again retrainOk : Bool)  -- NAK, R315
  | trainingDetectLock (port : Port)                                 -- TRAINING_DETECT_LOCK, R317
  | trainingEqReport (port : Port) (passed : BitVec 16)              -- TRAINING_EQ_REPORT, R317
  | trainingAlign (port : Port)                                      -- TRAINING_ALIGN, R317
  | trainingConfig (port : Port) (partner : BitVec 2) (modid : W64) (peerPort : BitVec 3) (bufA bufB : BitVec 16)
                                                                     -- TRAINING_CONFIG, R340
  | trainingStateTimeout (port : Port)                               -- TRAINING_STATE_TIMEOUT, R317
  | portRetrain (agent : Agent) (port : Port)                        -- PORT_RETRAIN, R316
  | cpyGo (agent : Agent) (engine : Fin 32) (value : W64)            -- CPY_GO, R327
  | cpyStart (port : Fin 4) (hdr : BeyfyHdr) (seqno : W64) (zero8 : W64) (tag : BitVec 128)
                                                                     -- CPY_START, R327
  | copy (engine : Fin 32)                                           -- COPY, R325
  | copyZero (engine : Fin 32)                                       -- COPY_ZERO, R325
  | atomAdd64 (engine : Fin 32)                                      -- ATOM_ADD64, R325
  | atomCas64 (engine : Fin 32)                                      -- ATOM_CAS64, R325
  | dmaRdata (port : Fin 4) (hdr : BeyfyHdr) (data : List Byte)      -- DMA_RDATA, R329
  | dmaWack (port : Fin 4) (hdr : BeyfyHdr)                          -- DMA_WACK, R322
  | copyDescriptorEnd (engine : Fin 32)                              -- COPY_DESCRIPTOR_END, R329
  | copyHostTimeout (engine : Fin 32) (tag : BitVec 16)              -- COPY_HOST_TIMEOUT, R329
  | winRd (port : Fin 4) (hdr : BeyfyHdr)                            -- WIN_RD, R333
  | winWr (port : Fin 4) (hdr : BeyfyHdr) (data : List Byte)         -- WIN_WR, R333
  | windowTimeout (port : Fin 4) (write : Bool) (tag : BitVec 16)    -- WINDOW_TIMEOUT, R333
  -- Breezeway
  | breezewayFlit (port : Fin 6) (f : Flit) (hdr : PeerHdr) (payload : List Byte)
                                                                     -- BREEZEWAY_FLIT, R339
  | lctl (port : Fin 6) (hdr : PeerHdr)                              -- LCTL, R339
  | pwr (port : Fin 6) (hdr : PeerHdr) (data : List Byte)            -- PWR, R346
  | pwack (port : Fin 6) (hdr : PeerHdr)                             -- PWACK, R353
  | peerWriteTimeout (port : Fin 6) (hdr : PeerHdr)                  -- PEER_WRITE_TIMEOUT, R346
  | allreduce (porch : Fin 2) (slot : Fin 8)                         -- ALLREDUCE, R349
  | reduceScatter (porch : Fin 2) (slot : Fin 8)                     -- REDUCE_SCATTER, R349
  | allgather (porch : Fin 2) (slot : Fin 8)                         -- ALLGATHER, R349
  | broadcast (porch : Fin 2) (slot : Fin 8)                         -- BROADCAST, R349
  | put (porch : Fin 2) (slot : Fin 8)                               -- PUT, R349
  | collHdr (port : Fin 6) (hdr : PeerHdr) (payload : List Byte)     -- COLL_HDR, R350
  | collData (port : Fin 6) (hdr : PeerHdr) (payload : List Byte)    -- COLL_DATA, R349
  | collDone (port : Fin 6) (hdr : PeerHdr) (payload : List Byte)    -- COLL_DONE, R353
  | collectiveComplete (porch : Fin 2) (slot : Fin 8)                -- COLLECTIVE_COMPLETE, R353
  | abort (port : Fin 6) (hdr : PeerHdr) (payload : List Byte)       -- ABORT, R355
  | prog (port : Fin 6) (hdr : PeerHdr)                              -- PROG, R354
  | progSend (porch : Fin 2) (psess : BitVec 8)                      -- PROG_SEND, R354
  | peerLost (porch : Fin 2) (psess : BitVec 8)                      -- PEER_LOST, R354
  -- Hearth calls and their completions
  | getId (via : CallVia)                                            -- GET_ID, R377
  | sessionOpen (via : CallVia) (suite : BitVec 8) (gen : BitVec 16) (qt : BitVec 768) (nt : BitVec 256) (sig : BitVec 768)
                                                                     -- SESSION_OPEN, R371
  | nonce (via : CallVia)                                            -- NONCE, R377
  | suiteCreate (via : CallVia) (suite : BitVec 8) (b : ResBlock)    -- SUITE_CREATE, R362
  | suiteBuildComplete (suite : BitVec 8) (wipeFailed : Bool)        -- SUITE_BUILD_COMPLETE, R362
  | suiteGrow (via : CallVia) (suite : BitVec 8) (gen : BitVec 16) (b : ResBlock)     -- SUITE_GROW, R364
  | suiteShrink (via : CallVia) (suite : BitVec 8) (gen : BitVec 16) (b : ResBlock)   -- SUITE_SHRINK, R364
  | suiteChangeComplete (suite : BitVec 8)                           -- SUITE_CHANGE_COMPLETE, R362
  | quiesceTimeout (suite : BitVec 8)                                -- QUIESCE_TIMEOUT, R364
  | mailSlotMove (suite : BitVec 8)                                  -- MAIL_SLOT_MOVE, R364
  | suiteReset (via : CallVia) (suite : BitVec 8) (gen : BitVec 16)  -- SUITE_RESET, R363
  | suiteResetComplete (suite : BitVec 8)                            -- SUITE_RESET_COMPLETE, R362
  | suiteRemove (via : CallVia) (suite : BitVec 8) (gen : BitVec 16) -- SUITE_REMOVE, R363
  | suiteRemoveComplete (suite : BitVec 8)                           -- SUITE_REMOVE_COMPLETE, R362
  | strictSet (via : CallVia) (strict : Bool)                        -- STRICT_SET, R298
  | selftest (via : CallVia) (unit : BitVec 16)                      -- SELFTEST, R430
  | selftestComplete (unit : BitVec 16) (result : W64)               -- SELFTEST_COMPLETE, R431
  | lifecycle (via : CallVia) (target : BitVec 3) (tok : Token)      -- LIFECYCLE, R385
  | debugOpen (via : CallVia) (tok : Token)                          -- DEBUG_OPEN, R387
  | attest (via : CallVia) (suite : BitVec 8) (gen : BitVec 16) (nonce : BitVec 384)  -- ATTEST, R380
  | sessionClose (via : CallVia) (suite : BitVec 8) (gen : BitVec 16) (session : BitVec 12)  -- SESSION_CLOSE, R377
  | senderSet (via : CallVia) (suite : BitVec 8) (gen : BitVec 16) (isHart : Bool) (sender : BitVec 12) (limit : BitVec 8)
                                                                     -- SENDER_SET, R188
  | regionSet (via : CallVia) (suite : BitVec 8) (gen : BitVec 16) (index : BitVec 8) (e : RegionWords)
                                                                     -- REGION_SET, R229
  | rootSet (via : CallVia) (suite : BitVec 8) (gen : BitVec 16) (pa : W64)   -- ROOT_SET, R377
  | pageRelease (via : CallVia) (suite : BitVec 8) (gen : BitVec 16) (pages : List W64)   -- PAGE_RELEASE, R368
  | pageShare (via : CallVia) (suite : BitVec 8) (gen : BitVec 16) (on : Bool) (pages : List W64)  -- PAGE_SHARE, R368
  | pageChangeComplete                                               -- PAGE_CHANGE_COMPLETE, R368
  | commonInstall (via : CallVia) (suite : BitVec 8) (gen : BitVec 16) (image : W64) (count : BitVec 32) (list : W64)
      (sig : BitVec 768) (backed : Bool)                             -- COMMON_INSTALL, R381
  | commonMap (via : CallVia) (suite : BitVec 8) (gen : BitVec 16) (cid : BitVec 4) (root : Digest) (index : BitVec 8)
      (va : W64)                                                     -- COMMON_MAP, R382
  | commonRemove (via : CallVia) (suite : BitVec 8) (gen : BitVec 16) (cid : BitVec 4)   -- COMMON_REMOVE, R377
  | commonRepair (via : CallVia) (suite : BitVec 8) (gen : BitVec 16) (cid : BitVec 4) (index : BitVec 32) (src : W64)
                                                                     -- COMMON_REPAIR, R383
  | commonPageRepair (cid : BitVec 4) (index : BitVec 32) (lastingAgain : Bool)          -- COMMON_PAGE_REPAIR, R383
  | vhartCreate (via : CallVia) (suite : BitVec 8) (gen : BitVec 16) (hart : BitVec 8) (entry root a0 : W64)
                                                                     -- VHART_CREATE, R377
  | vhartDestroy (via : CallVia) (suite : BitVec 8) (gen : BitVec 16) (handle : W64)     -- VHART_DESTROY, R377
  | peerOffer (via : CallVia) (suite : BitVec 8) (gen : BitVec 16) (port : Fin 6) (psess : BitVec 8) (modid : W64) (buf : W64)
                                                                     -- PEER_OFFER, R373
  | peerAccept (via : CallVia) (suite : BitVec 8) (gen : BitVec 16) (port : Fin 6) (offer answer : W64)  -- PEER_ACCEPT, R373
  | peerFinish (via : CallVia) (suite : BitVec 8) (gen : BitVec 16) (answer : W64)       -- PEER_FINISH, R373
  | peerClose (via : CallVia) (suite : BitVec 8) (gen : BitVec 16) (porch : Fin 2) (psess : BitVec 8)    -- PEER_CLOSE, R355
  -- power
  | powerEvaluation (x : Sensors)                                    -- POWER_EVALUATION, R390
  | voltageAverage (mv : Nat)                                        -- VOLTAGE_AVERAGE, R395
  | energySample (mv tenMa : Nat)                                    -- ENERGY_SAMPLE, R403
  | gustWindow (c : CoreId) (wanted : Nat)                           -- GUST_WINDOW, R392
  | throttleEpisodeEnd (u : Fin 16) (r : Fin 7) (ownCycles : Nat)    -- THROTTLE_EPISODE_END, R402
  | jobStart (agent : Agent) (value : W64)                           -- JOB_START, R404
  | jobStop (agent : Agent) (value : W64)                            -- JOB_STOP, R404
  | corePowerGate (c : CoreId)                                       -- CORE_POWER_GATE, R405
  | corePowerReady (c : CoreId)                                      -- CORE_POWER_READY, R405
  -- RAS and unit losses
  | rasReport                                                        -- RAS_REPORT, R410
  | rasQueueDrain                                                    -- RAS_QUEUE_DRAIN, R414
  | rasSuppressionWindow (page : Nat) (subject : BitVec 16)          -- RAS_SUPPRESSION_WINDOW, R415
  | writeDropped (req : Nat) (reason : BitVec 2)                     -- WRITE_DROPPED, R421
  | errorCountWindow (c : CoreId) (bank : Option (Fin 16))           -- ERROR_COUNT_WINDOW, R423
  | wingFenceCmdCore (agent : Agent) (wing : Fin 8) (value : W64)    -- WING_FENCE_CMD_CORE, R423
  | wingFenceCmdRoom (agent : Agent) (wing : Fin 8) (value : W64)    -- WING_FENCE_CMD_ROOM, R425
  | wingLoss (wing : Fin 8) (trigger : BitVec 8)                     -- WING_LOSS, R428
  | cellarLinkFailure (link : BitVec 8) (crc : Crc)                  -- CELLAR_LINK_FAILURE, R428
  -- management commands
  | faultClear (agent : Agent) (key : BitVec 16)                     -- FAULT_CLEAR, R444
  | fwOpen (agent : Agent) (config : Bool)                           -- FW_OPEN, R444
  | fwEraseComplete                                                  -- FW_ERASE_COMPLETE, R445
  | fwData (agent : Agent) (bytes : List Byte)                       -- FW_DATA, R445
  | fwClose (agent : Agent)                                          -- FW_CLOSE, R445
  | fwVerifyComplete (ok : Bool)                                     -- FW_VERIFY_COMPLETE, R445
  | fwAbort (agent : Agent)                                          -- FW_ABORT, R444
  -- translation operations
  | fill (suite : BitVec 8)                                          -- FILL, R449
  | invalVa (suite : BitVec 8)                                       -- INVAL_VA, R449
  | invalAll (suite : BitVec 8)                                      -- INVAL_ALL, R449
  | walkModeWrite (agent : Agent) (suite : BitVec 8) (value : W64)   -- WALK_MODE_WRITE, R449
  | xlatOpComplete (suite : BitVec 8)                                -- XLAT_OP_COMPLETE, R449
  | supplyDroop (c : CoreId) (stretched : Bool)                      -- SUPPLY_DROOP, R34
  | deviceRegionLoadTimeout (g : GroupRef) (req : Nat)               -- DEVICE_REGION_LOAD_TIMEOUT, R73
  | hartLoad (h : Fin 128) (a : HartAcc) (rd : HartReg) (signed : Bool)  -- HART_LOAD, R273
  | hartStore (h : Fin 128) (a : HartAcc) (rs2 : HartReg)             -- HART_STORE, R268
  | hallFailure (r : RoomId) (trigger : BitVec 8)                    -- HALL_FAILURE, R425
  | hallLaneFailure (c : CoreId)                                     -- HALL_LANE_FAILURE, R423
deriving DecidableEq, Repr

end Sys2Proof
end

