-- ==== Sys2Proof/Decode.lean ====
section
/-! DEFINITION. The command that a word spells. The opcode table gives no row any bits (every row's fields are empty): a
command of this block is an event of its surroundings, so no word spells one. -/

namespace Sys2Proof

/-- The command a word spells by the table's bits: none, since no row of the table gives bits. -/
def decodeTableWord (_nbits _w : Nat) : Option Instr := none

/-- Whether OPC of a group instruction's word is assigned (R93). -/
def assignedOpcode (n : Nat) : Bool :=
  [(0x01, 0x11), (0x20, 0x2E), (0x30, 0x3F), (0x40, 0x50), (0x58, 0x5F), (0x80, 0x84), (0x88, 0x8B), (0x90, 0x92), (0xA0, 0xA5),
    (0xC0, 0xC0)].any (fun r => decide (r.1 ≤ n) && decide (n ≤ r.2))

end Sys2Proof
end

