-- ==== Sys2Proof/Config.lean ====
section
/-! DEFINITION. What one implementation fixes and the spec leaves open, and the functions that published standards
define and the spec only names. Every one is opaque: nothing can be proved of its value. -/

namespace Sys2Proof

/-! ## Free values (the assumption log names each) -/

/-- A fresh free value per draw: applied to the state's counter `freeCtr` (log 2). -/
opaque Config.freeBits : Nat → BitVec 64

/-- A free choice per draw, where the spec lets the module choose between two behaviours (log 2). -/
opaque Config.freeBool : Nat → Bool

/-- A free 768-bit value per draw: public keys and signatures the Hearth makes (R369, R371, R379). -/
opaque Config.freeKey : Nat → BitVec 768

/-- The result of VSFU for the functions that R122 bounds but does not fix, by function code and input bits. -/
opaque Config.vsfu : BitVec 3 → BitVec 32 → BitVec 32

/-- Whether a collective's conversion of a result that overflows its format saturates: R352 names R140, which takes SAT from an
instruction, and gives the collective unit no SAT. -/
opaque Config.collSat : Bool

/-! ## What fuses and manufacturing hold -/

/-- The module identity MODID, a fused serial unique to each module (R340). -/
opaque Config.modid : BitVec 64

/-- The compute-die and Cellar revisions and the Stair repairs of Wing k, and the die revision of Parlour n (R29). -/
opaque Config.wingRev : Nat → BitVec 24

/-- The die revision fuse of Parlour n (R29). -/
opaque Config.plrRev : Nat → BitVec 8

/-- The monitor's version, [31:16] major, [15:0] minor (R276). -/
opaque Config.monitorVersion : BitVec 32

/-- The device identity key's public half and the Kilaris keys in the Hearth ROM (R379, R385, R435). -/
opaque Config.dikPublic : BitVec 768

/-- The Kilaris firmware key (R435). -/
opaque Config.firmwareKey : BitVec 768

/-- The Kilaris authorisation key (R385). -/
opaque Config.authorisationKey : BitVec 768

/-- The Kilaris root key in the Hearth ROM (R373, R379). -/
opaque Config.rootKey : BitVec 768

/-- The certificate that binds the device identity key to MODID (R379). -/
opaque Config.dikCert : BitVec 768

/-- The action codes of tokens, which R385 does not give: for a target life-cycle state 0 to 4, and 5 for DEBUG_OPEN. -/
opaque Config.tokenAction : Nat → BitVec 16

/-- The keys a key slot holds once they have been drawn, by the number of the drawing (R369): [255:0] and [511:256] the two keys of
AES-256-XTS, data first, [767:512] the tag key. -/
opaque Config.slotKey : Nat → BitVec 768

/-! ## Functions of published standards (R6, R371, R372, R379) -/

/-- SHA-384 (FIPS 180-4). -/
opaque Config.sha384 : List Byte → Digest

/-- The AES-256 block cipher (FIPS 197); byte 0 of a key and of a block is its bits [7:0]. -/
opaque Config.aes256 : BitVec 256 → BitVec 128 → BitVec 128

/-- The inverse cipher of AES-256 (FIPS 197). -/
opaque Config.aes256Inv : BitVec 256 → BitVec 128 → BitVec 128

/-- ECDSA P-384 verification (FIPS 186-5) of a signature over SHA-384 of the bytes. -/
opaque Config.ecdsaVerify : BitVec 768 → List Byte → BitVec 768 → Bool

/-- An ECDSA P-384 signature by a key of the Hearth over the bytes. -/
opaque Config.ecdsaSign : BitVec 768 → List Byte → BitVec 768

/-- The AES-256-GCM tag of (key, nonce, additional data, ciphertext). -/
opaque Config.gcmTag : BitVec 256 → List Byte → List Byte → List Byte → BitVec 128

/-- AES-256-GCM encryption of data under (key, nonce); it keeps the length in the model's use of it. -/
opaque Config.gcmByte : BitVec 256 → List Byte → Nat → Byte

/-- ECDH P-384 with HKDF-SHA-384 (RFC 5869): the key for (own secret, peer public key, salt, info). -/
opaque Config.deriveKey : BitVec 768 → BitVec 768 → List Byte → List Byte → BitVec 256

end Sys2Proof
end

