-- ==== Sys2Proof/Machine/Table.lean ====
section
/-! DEFINITION. Plain-data containers of the state: tables keyed by a number, and memory as a canonical list of
cells. Every sparse part of the machine (its cores, lines, pages, entries) is a table with a stated default. -/

namespace Sys2Proof.Machine

/-- A sparse table: pairs of a key and a value, keys strictly rising. -/
abbrev Table (α : Type) := List (Nat × α)

/-- The entry at a key, if the table lists it. -/
def Table.find {α : Type} : Table α → Nat → Option α
  | [], _ => none
  | (k, v) :: t, i => if i = k then some v else Table.find t i

/-- The entry at a key, or the default for an unlisted key. -/
def Table.get {α : Type} (d : α) (t : Table α) (i : Nat) : α :=
  (Table.find t i).getD d

/-- Put a value at a key, keeping the keys strictly rising. -/
def Table.set {α : Type} : Table α → Nat → α → Table α
  | [], i, v => [(i, v)]
  | (k, w) :: t, i, v =>
    if i < k then (i, v) :: (k, w) :: t
    else if i = k then (i, v) :: t
    else (k, w) :: Table.set t i v

/-- Drop a key. -/
def Table.erase {α : Type} : Table α → Nat → Table α
  | [], _ => []
  | (k, w) :: t, i => if i = k then t else (k, w) :: Table.erase t i

/-- Change the entry at a key. -/
def Table.upd {α : Type} (d : α) (t : Table α) (i : Nat) (f : α → α) : Table α :=
  Table.set t i (f (Table.get d t i))

/-- Keep only the entries that satisfy a test. -/
def Table.keep {α : Type} (p : Nat → α → Bool) (t : Table α) : Table α :=
  t.filter (fun e => p e.1 e.2)

/-- Change every listed entry. -/
def Table.mapVals {α : Type} (f : Nat → α → α) (t : Table α) : Table α :=
  t.map (fun e => (e.1, f e.1 e.2))

/-- The keys listed. -/
def Table.keys {α : Type} (t : Table α) : List Nat := t.map Prod.fst

/-- Keys strictly rise from a bound. -/
def Table.risesFrom {α : Type} : Nat → Table α → Bool
  | _, [] => true
  | b, (k, _) :: t => decide (b ≤ k) && Table.risesFrom (k + 1) t

/-- The canonical form of a table: its keys strictly rise. -/
def Table.wf {α : Type} (t : Table α) : Bool := Table.risesFrom 0 t

/-- Memory: cells at strictly rising addresses, none of them holding zero, which is what an unlisted address
reads as (R170, R307: every memory is wiped with zeros before a Suite can reach it). -/
abbrev Mem := List Host.Cell

/-- The byte at an address. -/
def Mem.read : Mem → Nat → Byte
  | [], _ => 0
  | (k, b) :: m, a => if a = k then b else Mem.read m a

/-- Store one byte; a zero removes the cell. -/
def Mem.write : Mem → Nat → Byte → Mem
  | [], a, b => if b = 0 then [] else [(a, b)]
  | (k, c) :: m, a, b =>
    if a < k then (if b = 0 then (k, c) :: m else (a, b) :: (k, c) :: m)
    else if a = k then (if b = 0 then m else (a, b) :: m)
    else (k, c) :: Mem.write m a b

/-- Cells strictly rise from a bound and none holds zero. -/
def Mem.risesFrom : Nat → Mem → Bool
  | _, [] => true
  | lo, (k, b) :: m => decide (lo ≤ k) && (b != 0) && Mem.risesFrom (k + 1) m

/-- The canonical form of memory. -/
def Mem.wf (m : Mem) : Bool := Mem.risesFrom 0 m

/-- `n` bytes from an address, ascending. -/
def Mem.readN (m : Mem) (a n : Nat) : List Byte :=
  (List.range n).map (fun i => Mem.read m (a + i))

/-- Store bytes from an address, ascending. -/
def Mem.writeN (m : Mem) (a : Nat) : List Byte → Mem
  | [] => m
  | b :: bs => Mem.writeN (Mem.write m a b) (a + 1) bs

/-- Drop every cell of a range, which makes the range read zero. -/
def Mem.clear (m : Mem) (a n : Nat) : Mem :=
  m.filter (fun c => decide (c.1 < a) || decide (a + n ≤ c.1))

/-- The number held by bytes in little-endian order (R6). -/
def leNat : List Byte → Nat
  | [] => 0
  | b :: bs => b.toNat + 256 * leNat bs

/-- The low `n` bytes of a number in little-endian order (R6). -/
def leBytes : Nat → Nat → List Byte
  | 0, _ => []
  | n + 1, v => BitVec.ofNat 8 v :: leBytes n (v / 256)

/-- Bits [lo + n − 1 : lo] of a number. -/
def bitsOf (v lo n : Nat) : Nat := (v / 2 ^ lo) % 2 ^ n

/-- Bit `i` of a number. -/
def bitOf (v i : Nat) : Bool := (v / 2 ^ i) % 2 = 1

/-- A saturating counter step (R11 and the counters "saturating" of the register tables). -/
def satAdd (width v n : Nat) : Nat := min (v + n) (2 ^ width - 1)

end Sys2Proof.Machine
end

