-- ==== Sys2Proof/Machine/StateCore.lean ====
section
/-! DEFINITION. The state of the accelerator: requests in flight, groups, cores, Rooms (chapters 03 to 07). -/

namespace Sys2Proof.Machine

/-- The four engines of a core (R50). -/
inductive Engine where
  | scalar
  | vector
  | matrix
  | dma
deriving DecidableEq, Repr

/-- Park and report causes (R74, R77). -/
inductive Cause where
  | illegal
  | divergence
  | stackOverflow
  | translation
  | poison
  | align
  | region
  | trap
  | resource
  | ecc
deriving DecidableEq, Repr

/-- Region attributes (R229). -/
inductive Attr where
  | wbA
  | wbNA
  | wt
  | stream
  | ro
  | red
  | dev
deriving DecidableEq, Repr

/-! ## Requests in flight -/

/-- What a request asks for. -/
inductive ReqKind where
  | read
  | write
  | atomic
  | red
deriving DecidableEq, Repr

/-- Who waits for a request's answer. -/
inductive Owner where
  | group (g : GroupRef) (op : Nat)          -- a memory instruction of a group
  | dma (g : GroupRef) (op : Nat) (block : Nat)  -- a block of a Room DMA descriptor
  | hart (h : Fin 128)
  | window (port : Fin 4) (tag : BitVec 16)  -- a host Window access
deriving DecidableEq, Repr

/-- One ordered contribution of a VATOM word request: thread, operand (compare value for CAS), new value of CAS (R70). -/
structure Contribution where
  thread : Nat
  a      : W64
  b      : W64
deriving DecidableEq, Repr

/-- How far a request has come: at its port, in a miss entry, waiting on a snoop, or answered. -/
inductive ReqStage where
  | sent
  | missed
  | answered
deriving DecidableEq, Repr

/-- The kind of a hart's coherence request (R240); `none` for every other request. -/
inductive ParReq where
  | none
  | rdS
  | rdX
  | upg
deriving DecidableEq, Repr

/-- A request on its way to a bank, a home or a device target. -/
structure Req where
  owner   : Owner
  kind    : ReqKind
  par     : ParReq            -- a Parlour's coherence request
  suite   : BitVec 8          -- Suite tag (R359)
  gen     : BitVec 16
  room    : Option RoomId     -- the Room whose memory it names; none for a physical address
  addr    : Nat               -- Room offset or physical address
  va      : W64               -- the address the instruction formed, for FAULT_ADDR
  size    : Nat
  attr    : Attr
  data    : List Byte         -- bytes written
  atomFn  : BitVec 8          -- FN of R103
  contrib : List Contribution
  red     : List (Nat × Int × Bool × Bool)  -- byte offset of the element, u', INEXACT, OUT (R252)
  tallyPa : Nat               -- physical address of the first tally word
  index   : Nat               -- thread, row or block number
  lane    : Nat               -- Hall lane (R167)
  seq     : Nat               -- order in which its lane, or the router it stands at, received it (R168, R177)
  inPort  : Nat               -- input of the router it stands at: 0 to 3 as PORTS_UP, 4 the Hall (R176)
  via     : Option RoomId     -- the other Room by whose Stair port a transfer between it and external memory moves (R177)
  ported  : Bool              -- a write that has entered its core's port before a CORE fence completed (R108, R150)
  router  : Option RoomId     -- the router the packet stands at; none when not on the mesh
  back    : Bool              -- 1: the packet travels back as an answer
  mark    : Bool              -- a write of poisoned data
  mmode   : Bool              -- an M-mode access of a hart (R282)
  stage   : ReqStage
  answer  : List Byte         -- data returned, or old values of an atomic
  poison  : Bool              -- data returned is marked poisoned
  failed  : Bool              -- refused, timed out or dropped after issue
  gone    : Bool              -- discarded in flight (R179); only its timeout ends it
  fill    : List Byte         -- the whole line, for a load that may fill the read-only cache (R160)
  noFill  : Bool              -- made before an invalidation of the read-only cache (R107)
deriving DecidableEq, Repr

/-! ## Groups -/

/-- One accumulator element (R124): N, or the FP32 value in [31:0]; its tally and OUT. -/
structure AccElem where
  n     : BitVec 128
  tally : BitVec 16
  out   : Bool
deriving DecidableEq, Repr

/-- An accumulator tile (R124): element (i, j) at key 64 i + j; anchor, mode and sticky flags. -/
structure Acc where
  elems   : Table AccElem
  anchor  : BitVec 12
  fp32    : Bool
  inexact : Bool
  wrap    : Bool              -- the sticky WRAP of FP32 mode
deriving DecidableEq, Repr

/-- An entry of the reconvergence stack (R66). -/
structure StackEntry where
  join : W32
  all  : BitVec 128
  pend : BitVec 128
  pc   : W32
deriving DecidableEq, Repr

/-- A fault found and not yet parked (R72): its cause and FAULT_ADDR. -/
structure GroupFault where
  cause : Cause
  addr  : W64
deriving DecidableEq, Repr

/-- A register or a tile row that a load or an atomic writes (R73). -/
inductive Dest where
  | none
  | sreg (r : Nat)
  | greg (r : Nat)
  | pair (r : Nat)
  | tile (t : Nat)
deriving DecidableEq, Repr

/-- A place that carries a poison mark (R73). -/
inductive Place where
  | sreg (r : Nat)
  | greg (r : Nat)
  | row (t i : Nat)
deriving DecidableEq, Repr

/-- A poison mark: the place, the address the marking load accessed, and the operation that R75 sends again. -/
structure Mark where
  place : Place
  addr  : W64
  op    : Nat
deriving DecidableEq, Repr

/-- A memory instruction issued and not yet complete. -/
structure MemOp where
  id      : Nat
  engine  : Engine
  load    : Bool              -- returns data (load or atomic)
  acquire : Bool              -- ACQ or ACQ.RO: the group does not issue past it (R106)
  roInval : Bool              -- ACQ.RO (R107)
  dest    : Dest
  size    : Nat               -- element size in bytes
  signed  : Bool
  token   : Option (Fin 8)    -- token to signal (R102)
  open_   : Nat               -- requests not yet performed
  replay  : List Req          -- the requests as first sent, for R75
  only    : Option (List Place) -- a re-executed load writes only these places (R75)
deriving DecidableEq, Repr

/-- A fence not yet complete (R108): its scope is CORE, the engines it holds and the operations it awaits. -/
structure Fence where
  core  : Bool
  dst   : BitVec 4
  await : List Nat
deriving DecidableEq, Repr

/-- What the whole group waits for. -/
inductive Wait where
  | none
  | rbar (bar : Nat) (count : Nat)                  -- RBAR issued, arrival not yet taken
  | atBarrier (bar : Nat)                           -- arrival counted, waiting for the release
  | rel (space1 : Bool) (addr : Nat) (va : W64) (data : List Byte) (attr : Attr) (token : Option (Fin 8))
  | spawn (room : Bool) (addr : W64) (rd : Nat)
  | replay                                          -- the loads and atomics that R75 sends again have not all returned
deriving DecidableEq, Repr

/-- The states of a group slot (R79). -/
inductive SlotState where
  | free
  | active
  | parked
  | draining
deriving DecidableEq, Repr

/-- A group slot (R51, R58, R79). -/
structure Slot where
  state     : SlotState
  parkSeq   : BitVec 16
  age       : Nat              -- order of launch (R63)
  suite     : BitVec 8
  gen       : BitVec 16
  wing      : Fin 8            -- dispatcher that holds the task
  taskIdx   : Nat
  firing    : Nat
  groupIdx  : Nat
  kernel    : W64              -- virtual address of the kernel header
  width     : Nat              -- W: 16, 32, 64 or 128
  gregs     : Nat              -- number of allocated g registers
  ntiles    : Nat
  naccs     : Nat
  ngroups   : Nat
  entry     : Nat
  codeLen   : Nat
  sideFx    : Bool             -- SIDE_EFFECTS of the header
  sideDone  : Bool             -- a reduction or a space-0 VATOM has issued (R78)
  pc        : W32
  s         : Table W64
  p         : Table (BitVec 128)
  g         : Table W32        -- register r of thread t at key 128 r + t
  tiles     : Mem              -- byte b of row i of tile t at key 4096 t + 64 i + b
  accs      : Table Acc
  stack     : List StackEntry  -- top first
  inMx      : Bool
  tokens    : Table (BitVec 16)
  fenceErr  : Bool
  tokenOvf  : Bool
  ops       : List MemOp       -- issued, oldest first
  fences    : List Fence
  wait      : Wait
  fault     : Option GroupFault
  marks     : List Mark
  kept      : List MemOp       -- completed loads and atomics with a mark outstanding, for R75
  replays   : Nat
  autoPc    : Option W32       -- pc of the automatic replay already spent (R76)
  spawns    : Nat              -- ordinal of SPAWN (R113)
  exited    : Bool             -- reached DRAINING through EXIT
  outcome   : BitVec 8         -- how the task ends: 0 completed, 1 failed with the cause in [7:4], 2 lost, 3 and 4 ended
                               -- by R77, 5 and 6 by a fence; 3 and 5 with the restart of R78 allowed
deriving DecidableEq, Repr

/-- A slot in FREE: nothing of an earlier group remains (R59). -/
def Slot.reset : Slot :=
  { state := .free, parkSeq := 0, age := 0, suite := 0, gen := 0, wing := 0, taskIdx := 0, firing := 0, groupIdx := 0,
    kernel := 0, width := 16, gregs := 0, ntiles := 0, naccs := 0, ngroups := 0, entry := 0, codeLen := 0,
    sideFx := false, sideDone := false, pc := 0, s := [], p := [], g := [], tiles := [], accs := [], stack := [],
    inMx := false, tokens := [], fenceErr := false, tokenOvf := false, ops := [], fences := [], wait := .none,
    fault := none, marks := [], kept := [], replays := 0, autoPc := none, spawns := 0, exited := false, outcome := 0 }

/-! ## Cores -/

/-- A block of a Room DMA transfer (R145): the Room whose memory it lies in (none: external), its address there, the
virtual address, its position in the transfer counted over all rows, its length and its attribute. -/
structure DmaBlock where
  room : Option RoomId
  addr : Nat
  va   : W64
  pos  : Nat
  len  : Nat
  attr : Attr
deriving DecidableEq, Repr

/-- A Room DMA descriptor being carried out (R171, R173): the four words, its group, and what is still open. -/
structure DmaDesc where
  id     : Nat
  g      : GroupRef
  pages  : List (Nat × Nat)    -- virtual pages pinned (R172): first address and SIZE code
  srcs   : List DmaBlock       -- source blocks, in row order
  dsts   : List DmaBlock       -- destination blocks, in row order
  got    : List (Nat × List Byte × Bool)  -- source blocks returned: number, bytes, poisoned
  sent   : List Nat            -- destination blocks already sent
  ended  : List Nat            -- destination blocks acknowledged or dropped
  began  : Bool                -- 0: it still waits for an earlier descriptor of its group (R159, R173)
deriving DecidableEq, Repr

/-- One core (R50, R51, R82, R247, R392, R405, R423). -/
structure Core where
  slots      : Table Slot
  ages       : Nat             -- next launch age
  nextOp     : Nat             -- next operation number
  fenced     : Bool
  staleCmds  : BitVec 16
  corrected  : BitVec 16
  uncorr     : BitVec 16
  replayMode : Bool            -- CORE_FAULT_CTL.REPLAY_MODE
  rocEnable  : Bool            -- CORE_ROC_CTL
  rocClean   : Bool
  rocRefused : Bool
  rocLines   : Table (List Byte)  -- lines held by the read-only cache, by line number
  dma        : List DmaDesc
  gustA      : Nat             -- A of the last window (R392)
  gustWin    : Nat             -- windows since core reset
  gustBusy   : Nat             -- busy cycles granted in the last window
  gustFill   : Nat             -- idle-fill cycles of the last window (R393)
  gustHeld   : Bool            -- the last window withheld MAC-pipe work (R392)
  powered    : Bool            -- 0: power-gated under R405
  powerWait  : Bool            -- a launch waits for power
  stretched  : Bool            -- a cycle is stretched (R34)
  regUeCount : Nat             -- REG_UE in the running error-count window (R423)
  reinstalled : List Nat       -- pages reported reinstalled, not yet acted on (R76)
deriving DecidableEq, Repr

/-- A core after reset (reset columns of CORE_STATUS, CORE_FAULT_CTL, CORE_ECC, CORE_ROC_CTL; A = 0 before window 0). -/
def Core.reset : Core :=
  { slots := [], ages := 0, nextOp := 0, fenced := false, staleCmds := 0, corrected := 0, uncorr := 0,
    replayMode := false, rocEnable := false, rocClean := false, rocRefused := false, rocLines := [], dma := [],
    gustA := 0, gustWin := 0, gustBusy := 0, gustFill := 0, gustHeld := false, powered := false, powerWait := false, stretched := false,
    regUeCount := 0, reinstalled := [] }

/-! ## Rooms -/

/-- A Room barrier (R110, R111): the arrivals of the current phase and the phase's COUNT. -/
structure Barrier where
  count : Nat
  want  : Nat
  phase : Nat
deriving DecidableEq, Repr

/-- A Room: its Hall, its memory and its router (R165 to R185, R406). -/
structure Room where
  rect       : W64             -- ROOM_RECT
  lost       : Bool
  routerOk   : Bool
  wiping     : Bool
  portsUp    : BitVec 4        -- PORTS_UP: row − 1, column + 1, row + 1, column − 1
  mem        : Mem             -- 48 MiB, by offset
  poison     : List Nat        -- numbers of the 64 B blocks marked poisoned (R169)
  corrected  : BitVec 16
  transient  : BitVec 16
  poisoned   : BitVec 16
  discard    : BitVec 16
  laneRetry  : BitVec 16
  pwr        : W64             -- ROOM_PWR
  barriers   : Table Barrier
  bankPtr    : Table Nat       -- round-robin pointer of each bank (R167)
  outPtr     : Table Nat       -- round-robin pointer of each output of the router (R176)
  bankPoison : Table Nat       -- blocks of each bank poisoned in the running window (R425)
deriving DecidableEq, Repr

/-- A Room after reset. STEP_REQ resets to 32 (R406). -/
def Room.reset : Room :=
  { rect := 0, lost := false, routerOk := true, wiping := false, portsUp := 0, mem := [], poison := [], corrected := 0,
    transient := 0, poisoned := 0, discard := 0, laneRetry := 0, pwr := 32, barriers := [], bankPtr := [],
    outPtr := [], bankPoison := [] }

end Sys2Proof.Machine
end

