-- ==== Sys2Proof/Machine/StateGraph.lean ====
section
/-! DEFINITION. The state of the graph engine, the Bellwire and the per-Suite graph blocks (chapters 07, 08 and R449). -/

namespace Sys2Proof.Machine

/-! ## Records and Bellwire messages -/

/-- A 32 B record as four 64-bit words (R81, R222, R384). -/
structure Record where
  w0 : W64
  w1 : W64
  w2 : W64
  w3 : W64
deriving DecidableEq, Repr

/-- The 32 B report of a unit to the Hearth (R410, R411): its fields and the Suite it affects. -/
structure RasRep where
  cause      : BitVec 8
  outcome    : BitVec 4
  suite      : BitVec 8
  gen        : BitVec 16
  subject    : BitVec 16
  locA       : BitVec 16
  locB       : W32
  addr       : W64
  detail     : W32
  suppressed : W32
deriving DecidableEq, Repr

/-- What a Bellwire message carries (R181, R205). -/
inductive Payload where
  | tokenAdd (edge n : Nat)
  | creditRet (edge n : Nat)
  | slotDone (stream member chunk : Nat)
  | launch (task firing : Nat) (kernel desc : W64)
  | refuse (task : Nat) (resource : Bool)
  | freed
  | done (task firing : Nat) (outcome : BitVec 8)   -- 0 completed, 1 failed, 2 lost; [7:4] park cause
  | record (r : Record)
  | ras (r : RasRep)
  | reinstalled (page : Nat) (cid : BitVec 16)
  | beat
  | other (cls op : Nat)       -- a message of which the model keeps class and OP alone
deriving DecidableEq, Repr

/-- A Bellwire message: the header fields that its payload does not settle (R182), and what it carries. -/
structure BwMsg where
  src     : Endpoint
  dst     : Endpoint
  suite   : BitVec 8
  gen     : BitVec 16
  stamp   : W32
  payload : Payload
deriving DecidableEq, Repr

/-! ## Task, edge and stream tables of a dispatcher (R194 to R220) -/

/-- Where a task entry stands. -/
inductive TaskState where
  | installed       -- graph not yet reported ready
  | idle
  | waiting         -- tokens taken, no core accepted yet (R200)
  | launching       -- launch sent, not yet answered
  | running
  | finished        -- DONE
  | failed
  | lost
  | lostInput
deriving DecidableEq, Repr

/-- A task entry (R195, R198, R220). -/
structure Task where
  suite     : BitVec 8
  gen       : BitVec 16
  graph     : Nat             -- handle; 0 for a spawned task
  index     : Nat             -- graph-local index
  desc      : W64             -- address of the descriptor, s0 of every group
  descRoom  : Bool            -- the descriptor lies in Room memory (a spawned task)
  kernel    : W64
  word1     : W64
  seqList   : W64
  ins       : List Nat        -- handles of input edges
  outs      : List Nat        -- handles of output edges
  state     : TaskState
  count     : Nat             -- firings completed
  firing    : Nat             -- number of the firing in flight
  core      : Nat             -- core of the Room that has the launch in hand, or runs it
  tried     : List Nat        -- cores that refused the launch in hand
  restarted : Bool            -- the firing has used the one restart of R77
  avoid     : Option Nat      -- core to try last after an uncorrectable register error (R424)
  refire    : Nat             -- replay firings owed (R220)
  replaying : Bool            -- the firing in flight is a replay firing
  able      : Bool            -- the entry stands in the able queue
  ctxs      : List Nat        -- contexts named by the firing in flight
  advance   : Nat
deriving DecidableEq, Repr

/-- An edge entry (R196). `tokens` counts tokens present, `held` those taken by a firing in flight. -/
structure Edge where
  suite     : BitVec 8
  gen       : BitVec 16
  graph     : Nat
  index     : Nat
  producer  : Option (Nat × Nat)   -- wing and TASK_IDX; none = external
  consumer  : Option (Nat × Nat)
  isCount   : Bool
  capacity  : Nat
  threshold : Nat
  tokens    : Nat
  held      : Nat
  credits   : Nat
  bufRoom   : BitVec 8
  lostBuf   : Bool            -- its BUF_ROOM was lost and not yet rebound
deriving DecidableEq, Repr

/-- A stream entry (R208, R209): the descriptor words, the next chunk, chunks still being delivered with the members
not yet served, and per member the DONE number of each buffer. -/
structure Stream where
  suite   : BitVec 8
  gen     : BitVec 16
  graph   : Nat
  words   : List W64
  next    : Nat
  busy    : List (Nat × List Nat)
  dones   : Table Nat           -- key 16 × buffer + member
  marked  : List (Nat × Nat)    -- (member, buffer) holding blocks still marked poisoned
  stopped : Bool
deriving DecidableEq, Repr

/-- A Wing's graph dispatcher. -/
structure Dispatcher where
  tasks   : Table Task
  edges   : Table Edge
  streams : Table Stream
  able    : List Nat            -- entries able to fire, in the order they became able (R199)
  accepted : Table Nat          -- by Room: the core that last accepted a launch (R200)
deriving DecidableEq, Repr

/-- A dispatcher with empty tables. -/
def Dispatcher.reset : Dispatcher := { tasks := [], edges := [], streams := [], able := [], accepted := [] }

/-! ## Per-Suite state -/

/-- A mail sender: a Beyfy session or a hart (R188). -/
inductive Sender where
  | session (n : BitVec 12)
  | hart (h : Nat)
deriving DecidableEq, Repr

/-- A registered sender with its credit limit, its entries in use, the last SEQNO accepted and credits to return (R188, R191, R323). -/
structure SenderReg where
  sender  : Sender
  limit   : Nat
  inUse   : Nat
  lastSeq : Nat
  owed    : Nat
  port    : Nat                -- Beyfy port its last message came in by
deriving DecidableEq, Repr

/-- A resident sequence context (R213). -/
structure Ctx where
  kvBase    : W64
  pos       : Nat
  kvLimit   : Nat
  spilled   : Nat
  hotCap    : Nat
  spillTok  : Nat
  segs      : Nat
  parts     : List W32
  segUnits  : Nat
  state     : BitVec 2        -- 1 ACTIVE, 2 FULL, 3 LOST
  spillBusy : Bool
  users     : Nat             -- firings in flight that name it
  retiring  : Bool
deriving DecidableEq, Repr

/-- A graph of a Suite (R197). -/
structure Graph where
  tasks   : List (Nat × Nat)   -- wing and TASK_IDX, in graph-local order
  edges   : List Nat           -- handles, in descriptor order
  streams : List (Nat × Nat)
  ended   : Bool
deriving DecidableEq, Repr

/-- An entry of the translation caches of a Suite (R449). -/
structure Xlat where
  va   : W64
  size : BitVec 2
  pte  : W64
deriving DecidableEq, Repr

/-- A graph block and what the dispatchers and the Hearth hold for one Suite (R187, R213, R217, R221, R223, R449). -/
structure GSuite where
  mode      : W64              -- GRAPH_MODE
  sink      : W64              -- GRAPH_SINK
  wr        : W32              -- GRAPH_SINK_PTR
  rd        : W32
  ctxReg    : W64              -- GRAPH_CTX: QUOTA and BASE
  leadWing  : Fin 8
  slotNo    : Nat
  hasSlot   : Bool
  mail      : List (Sender × MailMsg)
  senders   : List SenderReg
  accepted  : BitVec 16
  discarded : BitVec 16
  sinkLost  : BitVec 16
  graphs    : Table Graph
  ctxs      : Table Ctx
  orders    : Table (List Nat)        -- order list of each Wing
  sinkQueue : Table (List Record)     -- records waiting, per Wing
  spawned   : List ((Nat × Nat × Nat) × W64)  -- accepted SPAWN keys and their answers (R113)
  stalled   : Bool                    -- STALL already written for the present stop
  moving    : Bool                    -- the mail slot is being moved (R364)
  walkMode  : Bool                    -- GRAPH_XLAT_CTL.WALK_MODE
  xbusy     : Bool
  xva       : W64                     -- GRAPH_XLAT_VA
  xpte      : W64                     -- PTE written with the operation in progress
  xop       : BitVec 2
  xdone     : Bool                    -- the operation has been performed; BUSY still to clear
  xlats     : List Xlat
  root      : W64                     -- ROOT_SET
deriving DecidableEq, Repr

/-- The graph block at reset. -/
def GSuite.reset : GSuite :=
  { mode := 0, sink := 0, wr := 0, rd := 0, ctxReg := 0, leadWing := 0, slotNo := 0, hasSlot := false, mail := [],
    senders := [], accepted := 0, discarded := 0, sinkLost := 0, graphs := [], ctxs := [], orders := [],
    sinkQueue := [], spawned := [], stalled := false, moving := false, walkMode := false, xbusy := false, xva := 0,
    xpte := 0, xop := 0, xdone := false, xlats := [], root := 0 }

end Sys2Proof.Machine
end

