-- ==== Sys2Proof/Machine/StateCache.lean ====
section
/-! DEFINITION. The state of the unified cache, the home directories, the Parlours and the memory controllers
(chapters 09, 10 and 11). Lines are numbered by physical address / 128. -/

namespace Sys2Proof.Machine

/-- The key of a line in a slice. -/
def lineKey (slice line : Nat) : Nat := slice * 2 ^ 41 + line

/-! ## Slices -/

/-- An element of a partial: the pair (T, N) of R253 with OUT and INEXACT. -/
structure PartElem where
  tally   : BitVec 16
  n       : BitVec 128
  out     : Bool
  inexact : Bool
deriving DecidableEq, Repr

/-- A reduction partial of one line (R253): eight elements by number, and the physical address of the first tally word. -/
structure Partial where
  elems   : Table PartElem
  tallyPa : Nat
deriving DecidableEq, Repr

/-- A line held by a slice (R224, R244): 128 bytes, valid and dirty bits of its four sectors, the poison mark. -/
structure SLine where
  data   : List Byte
  valid  : BitVec 4
  dirty  : BitVec 4
  poison : Bool
deriving DecidableEq, Repr

/-- A directory state (R239). -/
inductive Dir where
  | i
  | s (p : BitVec 2)
  | e (n : Fin 2)
deriving DecidableEq, Repr

/-- A miss entry (R234): the joined requests, the sectors still to be asked for (in order), those asked and not
returned, those returned and not installed, with the data received. -/
structure Miss where
  attr    : Attr
  suite   : BitVec 8
  joined  : List Nat
  want    : List Nat
  asked   : List Nat
  arrived : List (Nat × List Byte)
  filled  : List (Nat × List Byte)
  poison  : Bool
deriving DecidableEq, Repr

/-- What the eviction buffer holds for a line (R236). -/
inductive Evicted where
  | dirty (l : SLine)
  | part (p : Partial) (sent : Bool)    -- sent: taken by the adder, not yet acknowledged
deriving DecidableEq, Repr

/-- The registers and pointer of one slice (R257, R233). -/
structure SliceReg where
  enable       : Bool
  cleanState   : Bool
  refused      : Bool
  powered      : Bool
  suite        : BitVec 8
  owned        : Bool
  corrected    : BitVec 16
  transient    : BitVec 16
  poisoned     : BitVec 16
  offerDecl    : BitVec 16
  dirRecalls   : BitVec 16
  timeouts     : BitVec 16
  portPtr      : Nat
deriving DecidableEq, Repr

/-- A slice after reset. -/
def SliceReg.reset : SliceReg :=
  { enable := false, cleanState := false, refused := false, powered := false, suite := 0, owned := false, corrected := 0,
    transient := 0, poisoned := 0, offerDecl := 0, dirRecalls := 0, timeouts := 0, portPtr := 0 }

/-- A snoop on its way (R240): to which Parlour, whether it invalidates, and the answer once given: the dirty data with
its poison mark, or no data. -/
structure Snoop where
  id       : Nat
  slice    : Nat
  line     : Nat
  parlour  : Fin 2
  inv      : Bool
  answered : Bool
  data     : Option (List Byte × Bool)
deriving DecidableEq, Repr

/-- A maintenance slot of a Wing (R248, R251). -/
structure Maint where
  busy     : Bool
  owner    : BitVec 8
  status   : BitVec 8
  byHearth : Bool
  desc     : W64
  started  : Bool              -- the line steps are done; MAINTENANCE_COMPLETE is due
  ranges   : List (Nat × Nat)  -- physical ranges whose lines it has handled
  slices   : List Nat          -- slices that completion leaves with no line (R246)
  result   : BitVec 8
  faultVa  : W64
  doneAddr : W64
deriving DecidableEq, Repr

/-- A maintenance slot after reset. -/
def Maint.reset : Maint :=
  { busy := false, owner := 0, status := 0, byHearth := false, desc := 0, started := false, ranges := [], slices := [],
    result := 0, faultVa := 0, doneAddr := 0 }

/-! ## Parlours -/

/-- A line held by a Parlour's caches (R259, R260): the Suite tag that filled it, whether the die holds it alone. -/
structure L3Line where
  tag    : BitVec 8
  data   : List Byte
  dirty  : Bool
  poison : Bool
  excl   : Bool
deriving DecidableEq, Repr

/-- A load, LR, SC, store or AMO of a hart that waits for its line or its target (R270 to R273). -/
inductive HartWait where
  | none
  | load (a : HartAcc) (rd : HartReg) (signed : Bool)
  | lr (a : HartAcc) (rd : Nat)
  | store (a : HartAcc) (rs2 : HartReg)
  | amo (a : HartAcc) (op rd rs2 : Nat)
  | devLoad (req : Nat) (a : HartAcc) (rd : HartReg) (signed : Bool)
  | homeAmo (req : Nat) (a : HartAcc) (rd : Nat)
deriving DecidableEq, Repr

/-- An MSEND without its answer (R278): rd, the message, and the earlier device stores it waits for. -/
structure HartMail where
  rd    : Nat
  msg   : MailMsg
  after : List Nat
deriving DecidableEq, Repr

/-- A Parlour hart (R258, R261, R270 to R274, R441). -/
structure Hart where
  x          : Table W64
  f          : Table W64
  v          : Table (BitVec 256)
  mstatusVs  : BitVec 2        -- mstatus.VS; 0 is Off
  virt       : Bool            -- V
  mxsuite    : W64
  sxerr      : Bool
  vsxerr     : Bool
  vscsr      : Table W64       -- the VS CSRs, by CSR number
  csr        : Table W64       -- the other CSRs of R261 and R262 that hold a value, by CSR number
  htimedelta : W64
  started    : Bool            -- running; 0: waits for an SBI HSM start
  inReset    : Bool
  reserve    : Option Nat      -- reserved line (R270)
  lrHold     : Bool            -- within the 256 cycles after LR
  wait       : HartWait
  devStores  : List Nat        -- device stores not yet acknowledged
  mail       : Option HartMail -- an MSEND that waits for its answer
  lateTrap   : Option (Nat × W64)  -- a trap that waits for that answer to be written (R278)
  l1d        : List Nat        -- lines, by key, in the L1 data cache, latest first (R258)
  l2         : List Nat        -- lines, by key, in the L2 cache, latest first (R258)
  timerPend  : Bool            -- machine timer interrupt pending (R279)
  stimePend  : Bool            -- time has reached stimecmp (Sstc)
  vstimePend : Bool            -- the guest's time has reached vstimecmp
  exc        : Option (Nat × W64)  -- last exception taken: code and xtval
  vhart      : Option W64      -- handle of the virtual hart running
  owner      : BitVec 8        -- HRT_HART_OWN
  ownerGen   : BitVec 16
  imsicM     : BitVec 256      -- pending identities of the machine-level file
  imsicS     : BitVec 256      -- of the supervisor-level file
  imsicG     : Table (BitVec 256)  -- of guest files 1 to 7
  guestUsed  : List Nat        -- guest files in use by a confidential VM
deriving DecidableEq, Repr

/-- A hart in reset. mxsuite resets to 255 (R440). -/
def Hart.reset : Hart :=
  { x := [], f := [], v := [], mstatusVs := 1, virt := false, mxsuite := 255, sxerr := false, vsxerr := false, vscsr := [], csr := [],
    htimedelta := 0, started := false, inReset := true, reserve := none, lrHold := false, wait := .none, devStores := [],
    mail := none, lateTrap := none, l1d := [], l2 := [], timerPend := false, stimePend := false, vstimePend := false, exc := none,
    vhart := none, owner := 0, ownerGen := 0, imsicM := 0, imsicS := 0, imsicG := [], guestUsed := [] }

/-- A virtual hart (R276, R377): its Suite, the hart it is bound to, entry, G-stage root, a0, last time read, guest file. -/
structure VHart where
  suite    : BitVec 8
  hart     : Nat
  entry    : W64
  root     : W64
  a0       : W64
  started  : Bool
  lastTime : W64
  delta    : W64               -- htimedelta of its guest
  kicked   : Bool              -- an interrupt sent while it is out
  file     : Nat               -- guest file in use while it runs; 0 none
  die      : Nat               -- the Parlour for which `delta` was set
  regs     : Table W64         -- the guest's integer registers while it is out
  fregs    : Table W64         -- its floating-point registers
  vregs    : Table (BitVec 256)  -- its vector registers
  vscsr    : Table W64         -- its VS CSRs
  vsxerr   : Bool
deriving DecidableEq, Repr

/-- A Parlour's shared state (R47, R279, R282). -/
structure Parlour where
  l3        : Table L3Line
  mtime     : W64
  refLocked : Bool
  mtimecmp  : Table W64
  chPresent : BitVec 6
  chSpdOk   : BitVec 6
  chIn      : BitVec 6
  chTrained : BitVec 6
  chRate    : BitVec 4
  chCap     : Table Nat
  chRanks2  : BitVec 6
  chStack   : Table (BitVec 2)
  chX8      : BitVec 6
deriving DecidableEq, Repr

/-- A Parlour at reset. -/
def Parlour.reset : Parlour :=
  { l3 := [], mtime := 0, refLocked := false, mtimecmp := [], chPresent := 0, chSpdOk := 0, chIn := 0, chTrained := 0,
    chRate := 0, chCap := [], chRanks2 := 0, chStack := [], chX8 := 0 }

/-! ## Memory controllers -/

/-- A request held by a controller (R294): the home slice and line, the sector, and whether its entry is reserved. -/
structure CtlReq where
  slice    : Nat
  line     : Nat
  sector   : Nat
  suite    : BitVec 8
  reserved : Bool
  run      : Bool              -- a run request: all the sectors of a STREAM miss in one entry (R285)
deriving DecidableEq, Repr

/-- A read-modify-write of a memory-side adder (R299). -/
structure Rmw where
  line   : Nat
  part   : Partial
  slices : List Nat            -- home slices whose partials it carries, to be acknowledged
deriving DecidableEq, Repr

/-- A memory controller: an LPDDR6 controller or a DDR5 channel (R283 to R310). -/
structure Mc where
  chUp      : BitVec 4
  inService : Bool
  failed    : Bool
  wiping    : Bool
  rate      : BitVec 3
  refMult   : BitVec 2
  corrected : BitVec 16
  transient : BitVec 16
  poisoned  : BitVec 16
  integrity : BitVec 16
  calMode   : Bool
  due       : BitVec 4
  forced    : BitVec 16
  calDone   : BitVec 16
  calWait   : BitVec 4         -- channels whose pause has been asked for and waits for another channel's
  paused    : BitVec 4         -- channels pausing now
  calMsi    : W64
  bursts    : BitVec 48
  applied   : BitVec 16
  merged    : BitVec 16
  poisDrop  : BitVec 16
  wipeDone  : Bool
  wipePage  : Option Nat       -- page wipe in progress
  progress  : W32
  strict    : Bool
  slotMap   : Table W64
  nextMap   : Option (Bool × Table W64)   -- STRICT and map waiting for the frame boundary
  credMap   : Table W64
  reqs      : List CtlReq
  rmws      : List Rmw
  refreshes : Nat
deriving DecidableEq, Repr

/-- A controller at reset. -/
def Mc.reset : Mc :=
  { chUp := 0, inService := false, failed := false, wiping := false, rate := 0, refMult := 0, corrected := 0,
    transient := 0, poisoned := 0, integrity := 0, calMode := false, due := 0, forced := 0, calDone := 0, calWait := 0,
    paused := 0, calMsi := 0, bursts := 0, applied := 0, merged := 0, poisDrop := 0, wipeDone := false, wipePage := none,
    progress := 0, strict := false, slotMap := [], nextMap := none, credMap := [], reqs := [], rmws := [],
    refreshes := 0 }

/-- A tally add on its way to the tally word's home (R255). -/
structure TallyMsg where
  pa      : Nat
  line    : Nat                -- the element line whose partial sent it
  suite   : BitVec 8
  t       : BitVec 16
  out     : Bool
  inexact : Bool
deriving DecidableEq, Repr

end Sys2Proof.Machine
end

