-- ==== Sys2Proof/Machine/StateHost.lean ====
section
/-! DEFINITION. The state of the Porches: Beyfy and Breezeway ports, copy engines, Windows, peer sessions and the
collective units (chapters 12 and 13). -/

namespace Sys2Proof.Machine

/-- Training states of a port (R317, BYL_PORT_STATUS.STATE). -/
inductive PortState where
  | down
  | detect
  | eq
  | align
  | config
  | active
deriving DecidableEq, Repr

/-- The flit layer of one port, Beyfy or Breezeway (R314 to R317, R339). -/
structure Link where
  state     : PortState
  narrow    : Bool             -- WIDTH4 or WIDTH8
  partner   : BitVec 2         -- 0 none, 1 host adapter, 2 module
  retrains  : BitVec 8
  fecCorr   : W32
  replays   : BitVec 16
  lasting   : BitVec 16
  secondTry : Bool             -- the port has returned to DETECT once
  expect    : BitVec 12        -- FSEQ expected next
  nakSent   : Bool             -- a NAK is out for the present gap
  badSeq    : Option (BitVec 12)  -- the replayed flit that failed last
  nextSeq   : BitVec 12        -- FSEQ of the next data flit sent
  acked     : BitVec 12        -- last data flit the partner acknowledged
  replaying : Option (BitVec 12)  -- the flit the replay has resumed from
  creditA   : BitVec 16        -- credits held toward the partner: MREQ, or PREQ
  creditB   : BitVec 16        -- credits held toward the partner: HREQ, or COLL
  aligned   : Nat              -- align flits received in a row
  repair    : Bool             -- retraining for a lasting error (R315)
deriving DecidableEq, Repr

/-- A port at reset. -/
def Link.reset : Link :=
  { state := .down, narrow := false, partner := 0, retrains := 0, fecCorr := 0, replays := 0, lasting := 0,
    secondTry := false, expect := 0, nakSent := false, badSeq := none, nextSeq := 0, acked := 4095, replaying := none,
    creditA := 0, creditB := 0, aligned := 0, repair := false }

/-- An answer or request the module has sent toward the host or a peer, kept in the order sent. -/
structure SentMsg where
  type   : BitVec 8
  suite  : BitVec 8
  gen    : BitVec 16
  session : BitVec 12
  status : BitVec 8
  tag    : BitVec 16
  addr   : W64
  arg    : W64
  data   : List Byte
deriving DecidableEq, Repr

/-- A Beyfy port with its Window (R318 to R335). -/
structure ByPort where
  link      : Link
  discarded : BitVec 16
  staleGen  : BitVec 16
  winCtl    : W64              -- BYL_WIN_CTL
  winRef    : BitVec 16
  winPois   : BitVec 16
  winTime   : BitVec 16
  hostTags  : List (BitVec 16) -- tags of host requests outstanding
  nextTag   : BitVec 16        -- transaction tag of the module's next request
  sent      : List SentMsg
  outq      : List SentMsg     -- requests that wait for credits (R321), oldest first
deriving DecidableEq, Repr

/-- A Beyfy port at reset. -/
def ByPort.reset : ByPort :=
  { link := Link.reset, discarded := 0, staleGen := 0, winCtl := 0, winRef := 0, winPois := 0, winTime := 0,
    hostTags := [], nextTag := 0, sent := [], outq := [] }

/-- A host request of a copy engine that is not yet answered: its Beyfy tag, kind (0 read, 1 write, 2 record, 3 GCM
tag read), position in the transfer, length, host address and the bytes written; `again`: it has been reissued. -/
structure HostReq where
  tag   : BitVec 16
  kind  : BitVec 2
  pos   : Nat
  len   : Nat
  addr  : W64
  data  : List Byte
  again : Bool
deriving DecidableEq, Repr

/-- A copy engine (R324 to R331). -/
structure CopyEngine where
  busy       : Bool
  goRefused  : Bool
  lastStatus : BitVec 8
  ctl        : W64             -- CPY_CTL
  msiAddr    : W64
  msiData    : W64
  cur        : W64             -- CPY_CUR
  own        : W64             -- CPY_OWN
  descReg    : Table W64       -- CPY_DESC0 to 7
  words      : Option (List W64)  -- the descriptor in hand
  moved      : Bool            -- its operation has started (requests may still be open)
  status     : BitVec 8        -- status it will end with
  next       : Nat             -- bytes of the transfer issued so far
  failPos    : Option Nat      -- position of the first byte that failed
  result     : W64             -- old value of an ATOM
  open_      : List HostReq
  gcmBuf     : Table (List Byte)  -- what has come of the record in hand, by position (R328)
  gcmAgain   : Bool            -- the record in hand is being read a second time
  tags       : List Byte       -- GCM tags of the records sent
  noteSent   : Bool            -- the completion record has been written or is on its way to the host
deriving DecidableEq, Repr

/-- A copy engine at reset. -/
def CopyEngine.reset : CopyEngine :=
  { busy := false, goRefused := false, lastStatus := 0, ctl := 0, msiAddr := 0, msiData := 0, cur := 0, own := 0,
    descReg := [], words := none, moved := false, status := 0, next := 0, failPos := none, result := 0, open_ := [],
    gcmBuf := [], gcmAgain := false, tags := [], noteSent := false }

/-- A Breezeway port (R336 to R356). -/
structure BzPort where
  link      : Link
  modid     : W64
  peerPort  : BitVec 3
  discarded : BitVec 16
  authFail  : BitVec 16
  sent      : List SentMsg
  outq      : List SentMsg     -- messages that wait for credits (R345), oldest first
deriving DecidableEq, Repr

/-- A Breezeway port at reset. -/
def BzPort.reset : BzPort :=
  { link := Link.reset, modid := 0, peerPort := 0, discarded := 0, authFail := 0, sent := [], outq := [] }

/-- The header and payload of a peer message that waits in the receive buffer. -/
structure PeerMsg where
  hdr     : PeerHdr
  payload : List Byte
deriving DecidableEq, Repr

/-- A peer session of a Porch (R341, R342): its register pair, the peer, keys and message counters. -/
structure PeerSess where
  lo        : W64              -- BZW_SESS +0x0
  hi        : W64              -- BZW_SESS +0x8
  peer      : W64              -- peer MODID
  peerSuite : BitVec 8
  peerGen   : BitVec 16
  rxKey     : BitVec 256
  txKey     : BitVec 256
  rxCount   : W64
  txCount   : W64
  offered   : Bool             -- PEER_OFFER made, not yet finished
  secret    : BitVec 768       -- private half of the ephemeral key of the offer
  nonce     : BitVec 256       -- nonce of the offer
  nextX     : BitVec 16        -- XTAG of the next PWR
  pwrOut    : List (BitVec 16 × Nat)  -- PWR sent and not answered, with the slot that sent each
  held      : List PeerMsg     -- COLL messages received for a collective not yet started here
deriving DecidableEq, Repr

/-- A session at reset. -/
def PeerSess.reset : PeerSess :=
  { lo := 0, hi := 0, peer := 0, peerSuite := 0, peerGen := 0, rxKey := 0, txKey := 0, rxCount := 0, txCount := 0,
    offered := false, secret := 0, nonce := 0, nextX := 0, pwrOut := [], held := [] }

/-- A slot of a collective unit (R347 to R355). -/
structure CollSlot where
  busy      : Bool
  owner     : BitVec 8
  status    : BitVec 8
  desc      : W64
  words     : Option (List W64)
  elems     : Table PartElem   -- staging buffer: own share plus what has been combined
  hdrOk     : Bool
  steps     : Nat              -- chunks received
  dstDone   : Bool
  doneFrom  : List Nat         -- ranks whose COLL_DONE has arrived
  putOpen   : Nat              -- PWR of a PUT not yet answered
  started   : Bool             -- the descriptor has passed its checks and the operation runs
  inexact   : Bool
  wrap      : Bool
deriving DecidableEq, Repr

/-- A slot at reset. -/
def CollSlot.reset : CollSlot :=
  { busy := false, owner := 0, status := 0, desc := 0, words := none, elems := [], hdrOk := false, steps := 0,
    dstDone := false, doneFrom := [], putOpen := 0, started := false, inexact := false, wrap := false }

end Sys2Proof.Machine
end

