-- ==== Sys2Proof/Machine/StateHearth.lean ====
section
/-! DEFINITION. The state of the Hearth, of power management and of the Wings' own registers (chapters 01, 14 to 18). -/

namespace Sys2Proof.Machine

/-! ## Supply, pins and power (chapters 15 and 18) -/

/-- The module's lands and its supply (R456 to R465). -/
structure Pins where
  inRange   : Bool             -- VIN lies in 40 to 60 V
  charged   : Bool             -- the inrush charge is complete (R456)
  en        : Bool
  ref0      : Bool
  ref1      : Bool
  thermtrip : Bool             -- THERMTRIP_N pulled low (R463)
  throt     : Bool             -- THROT_N sampled low (R462)
  modOn     : Bool             -- MOD_ON (R463)
deriving DecidableEq, Repr

/-- A record of one reason of one unit (R402). -/
structure ThrRec where
  totalPm  : W64
  lastPm   : W32
  episodes : W32
  lastOwn  : W64
  lastEnd  : W64
  active   : Bool
  running  : Bool              -- an episode has started and not ended
  startPm  : W64               -- power-management cycle at which the episode started
  edgePm   : W64               -- cycle at which the reason last became active
  endPm    : W64               -- cycle of its last active edge
  pm       : W64               -- cycles of the episode in which it was active
deriving DecidableEq, Repr

/-- A record that never ran. -/
def ThrRec.reset : ThrRec :=
  { totalPm := 0, lastPm := 0, episodes := 0, lastOwn := 0, lastEnd := 0, active := false, running := false, startPm := 0,
    edgePm := 0, endPm := 0, pm := 0 }

/-- The limits of one unit: a Wing (0 to 7) or a Parlour (8, 9) (R391, R394, R397, R399). -/
structure UnitPwr where
  thermal  : Nat
  droop    : Nat
  capLim   : Nat
  noDroop  : Nat               -- periods in a row with no stretched cycle, at most 4
  isDroop  : Nat               -- periods in a row with at least 1/64 of the cores stretched, at most 4
  hotZero  : Bool              -- gust ceiling held to 0 (R397)
  dieT     : Nat
  cellarT  : Nat
  step     : Nat
  thDie    : Bool              -- the thermal limit is held down for the unit's own die
  thCellar : Bool              -- it is held down for the Cellar
  ref      : W64               -- PWR_WING_REF or PWR_PLR_REF
  cap      : Nat               -- PWR_CAP_WING or PWR_CAP_PLR
  capStep  : Nat               -- PWR_CAP_STEP
  overBit  : Bool              -- OVER bit of PWR_CAP_EVT
deriving DecidableEq, Repr

/-- Limits of a Wing at reset: every limit starts at step 32 (R394, R397); cap 300 W. The reference core of W k is
core 0 of Room [ROW_LO, COL_LO] of its WING_ID. -/
def UnitPwr.wing (k : Nat) : UnitPwr :=
  { thermal := 32, droop := 32, capLim := 32, noDroop := 0, isDroop := 0, hotZero := false, dieT := 0, cellarT := 0, step := 0,
    thDie := false, thCellar := false,
    ref := BitVec.ofNat 64 ((4 * (k % 4)) * 8 + (if k < 4 then 0 else 3) * 128), cap := 300, capStep := 32, overBit := false }

/-- Limits of a Parlour at reset: steps up to 38; cap 200 W. -/
def UnitPwr.parlour : UnitPwr :=
  { thermal := 38, droop := 38, capLim := 38, noDroop := 0, isDroop := 0, hotZero := false, dieT := 0, cellarT := 0, step := 0,
    thDie := false, thCellar := false, ref := 0, cap := 200, capStep := 38, overBit := false }

/-- The power controller (R389 to R406). -/
structure Power where
  vinAvg     : Nat
  iin        : Nat
  watts      : Nat
  uv         : Bool
  uvCalm     : Nat             -- cycles at or above 40.0 V while undervoltage holds
  owner      : BitVec 8
  capMode    : Bool             -- CAP_MODE as written
  capNow     : Bool             -- the mode in effect since the last evaluation (R400)
  capModule  : Nat
  units      : Table UnitPwr
  modOver    : Bool
  overCycles : Nat             -- cycles of evaluations above the module cap in a row (R400)
  forcing    : Bool
  forced     : BitVec 16
  capMsi     : W64
  recs       : Table ThrRec    -- record of unit u and reason r at key 8 u + r
  porchT     : List Nat
  tripCount  : Nat             -- evaluations in a row at or above a trip point
  energy     : W64             -- PWR_ENERGY, microjoules
  energyFrac : Nat             -- part of a microjoule not yet counted, in units of 1/2,500,000 µJ
  pmCycles   : W64             -- power-management cycles since power-up
  jobRun     : Bool
  jobValid   : Bool
  jobSuite   : BitVec 8
  jobE0      : W64
  jobPm0     : W64
  jobExcl    : Bool            -- exclusive tenancy held at every cycle so far
  jobEnergy  : W64
  jobPm      : W64
deriving DecidableEq, Repr

/-- The limits of unit u at reset. -/
def UnitPwr.reset (u : Nat) : UnitPwr := if u < 8 then UnitPwr.wing u else UnitPwr.parlour

/-- The power controller at power-on. -/
def Power.reset : Power :=
  { vinAvg := 0, iin := 0, watts := 0, uv := false, uvCalm := 0, owner := 0, capMode := false, capNow := false, capModule := 2500,
    units := (List.range 10).map (fun u => (u, UnitPwr.reset u)), modOver := false, overCycles := 0, forcing := false,
    forced := 0, capMsi := 0, recs := [], porchT := [0, 0], tripCount := 0, energy := 0, energyFrac := 0, pmCycles := 0,
    jobRun := false, jobValid := false, jobSuite := 0, jobE0 := 0, jobPm0 := 0, jobExcl := false, jobEnergy := 0,
    jobPm := 0 }

/-! ## Wings -/

/-- The registers of a Wing that no other structure holds (R29, R185, R257, R433, R45). -/
structure Wing where
  wpos      : BitVec 3
  strapOk   : Bool
  included  : Bool
  portUp    : BitVec 3         -- UP of PORT_E, PORT_W, PORT_S
  porchUp   : Bool
  staleGen  : BitVec 16
  noEndp    : BitVec 16
  resent    : BitVec 16
  fenceMode : Bool
  cfabRetry : BitVec 16
  snpRetry  : BitVec 16
  fencedN   : Nat
  roomsLost : Nat
  ignored   : BitVec 8
  lost      : Bool
  maint     : Table Maint
  cfabPtr   : Nat              -- the Cellar router's pointer over its inputs: east, west, north–south, die link, local (R233)
deriving DecidableEq, Repr

/-- A Wing at reset. -/
def Wing.reset : Wing :=
  { wpos := 0, strapOk := false, included := false, portUp := 0, porchUp := false, staleGen := 0, noEndp := 0, resent := 0,
    fenceMode := false, cfabRetry := 0, snpRetry := 0, fencedN := 0, roomsLost := 0, ignored := 0, lost := false,
    maint := [], cfabPtr := 0 }

/-! ## The Hearth -/

/-- Life-cycle states (R385). -/
inductive Life where
  | blank
  | provisioned
  | field
  | return_
  | scrapped
deriving DecidableEq, Repr

/-- The states of a Suite (R362). -/
inductive SuiteState where
  | absent
  | building
  | active
  | changing
  | resetting
  | removing
deriving DecidableEq, Repr

/-- A rectangle of the grid (R178, R378). -/
structure Rect where
  rowLo : Nat
  rowHi : Nat
  colLo : Nat
  colHi : Nat
deriving DecidableEq, Repr

/-- What a change of a Suite still has to do (R364). -/
structure Change where
  rect     : Option Rect       -- the rectangle after the change
  dropped  : List RoomId       -- Rooms to be removed
  added    : List RoomId
  slices   : BitVec 128        -- slices after the change
  cpy      : BitVec 32
  win      : BitVec 8
  harts    : BitVec 128
  ctx      : BitVec 16
  resLpd   : BitVec 8
  resDdr   : BitVec 8
  newPages : List Nat
  killed   : Bool              -- the quiesce count has run out
  lead     : Option (Fin 8 × Nat)  -- lead Wing and slot that the mail slot has still to move to (R364)
deriving DecidableEq, Repr

/-- A Suite as the Hearth keeps it (R360 to R364, R388). -/
structure Suite where
  state    : SuiteState
  retired  : Bool
  keyIdx   : BitVec 7
  gen      : BitVec 16
  staleAll : Bool              -- removal at generation 0xFFFF: everything carrying the ID is stale (R361)
  rect     : Option Rect
  slices   : BitVec 128
  cpy      : BitVec 32
  win      : BitVec 8
  harts    : BitVec 128
  ctx      : BitVec 16
  resLpd   : BitVec 8
  resDdr   : BitVec 8
  rootPage : Nat
  tpk      : BitVec 768
  regions  : Table RegionWords
  maps     : Table W64         -- UC_HMAP (0 to 15) and UC_WMAP (16 + 2 k + half) registers written over the round-robin fill (R257)
  change   : Option Change
  afterRemove : Bool           -- a SUITE_REMOVE waits for the running call (R362)
  callBusy : Bool              -- HRT_CALL_STAT of the Suite
  lastStat : BitVec 8
  refused  : BitVec 16
  callBuf  : Option W64        -- buffer of the in-module call that HRT_CALL_GO has announced
  wiped    : Bool              -- the wipes and slice steps of the reset or removal have been started
deriving DecidableEq, Repr

/-- A Suite that does not exist. -/
def Suite.reset : Suite :=
  { state := .absent, retired := false, keyIdx := 0, gen := 0, staleAll := false, rect := none, slices := 0, cpy := 0, win := 0,
    harts := 0, ctx := 0, resLpd := 0, resDdr := 0, rootPage := 0, tpk := 0, regions := [], maps := [], change := none,
    afterRemove := false, callBusy := false, lastStat := 0, refused := 0, callBuf := none, wiped := false }

/-- An entry of the page-owner table (R366). -/
structure PageEntry where
  owner  : BitVec 8
  valid  : Bool
  keyIdx : BitVec 7
  shared : Bool
  common : Bool
  cid    : BitVec 4
  ddr5   : Bool
deriving DecidableEq, Repr

/-- An entry with VALID 0: the page is free (R366). -/
def PageEntry.reset : PageEntry :=
  { owner := 0, valid := false, keyIdx := 0, shared := false, common := false, cid := 0, ddr5 := false }

/-- A page change in progress (R368): the page by PA[47:21], and the controllers whose wipe has not been reported DONE. -/
structure PageChange where
  page    : Nat
  waiting : List Nat
deriving DecidableEq, Repr

/-- A Beyfy session (R371, R372). -/
structure Session where
  suite   : BitVec 8
  gen     : BitVec 16
  cmdKey  : BitVec 256
  h2mKey  : BitVec 256
  m2hKey  : BitVec 256
  lastSeq : Nat                -- last SEQNO the Hearth accepted
  cpySeq  : Nat                -- last SEQNO of a CPY_START accepted
  dseqIn  : Nat
  dseqOut : Nat
deriving DecidableEq, Repr

/-- A common region (R381, R382, R388). -/
structure CommonRegion where
  valid     : Bool
  backed    : Bool
  publisher : BitVec 8
  pages4k   : W32
  readers   : BitVec 256
  pages     : List Nat         -- its 2 MiB pages, in order
  backing   : List Nat         -- backing DDR5 pages, in order
  digests   : List Digest
  root      : Digest
  repairing : List Nat         -- 4 KiB indices waiting for a source
deriving DecidableEq, Repr

/-- No region. -/
def CommonRegion.reset : CommonRegion :=
  { valid := false, backed := false, publisher := 0, pages4k := 0, readers := 0, pages := [], backing := [], digests := [],
    root := 0, repairing := [] }

/-- A completed RAS record (R411): the report with what the Hearth filled in. -/
structure RasRec where
  rep      : RasRep
  reporter : BitVec 16
  stamp    : W64
  hstamp   : W64
  seq      : W64
deriving DecidableEq, Repr

/-- An answer of the Hearth to a call (R374): status and result words. -/
structure Answer where
  call   : BitVec 8
  status : BitVec 8
  suite  : BitVec 8
  gen    : BitVec 16
  seqno  : W64
  stamp  : W64
  result : List Byte
deriving DecidableEq, Repr

/-- A report window of R415: the reporter, the 2 MiB page of ADDR and SUBJECT; whether the window is open; the reports
held back and not yet carried in SUPPRESSED. -/
structure SupWin where
  reporter : Nat
  page     : Nat
  subject  : BitVec 16
  running  : Bool
  held     : Nat
deriving DecidableEq, Repr

/-- A call taken and not yet answered (R362, R368): its code, the Suite named, how it came, and the pages it changes. -/
structure Running where
  call  : Nat
  suite : BitVec 8
  via   : CallVia
  pages : List Nat
deriving DecidableEq, Repr

/-- An instruction of the test access port (R469). -/
inductive TapInsn where
  | idcode
  | bypass
  | other (code : Nat)
deriving DecidableEq, Repr

/-- The test access port: TRST_N held low, by its pull-down too, and the instruction last loaded. -/
structure Tap where
  trstLow : Bool
  insn    : TapInsn
deriving DecidableEq, Repr

/-- The fuses of the two Parlours and the two Porches (R25), a bit for each die: its number, its lock bit, and HEARTH_EN of a Porch.
They are set at manufacturing; no command changes them. -/
structure Fuses where
  plrNum    : BitVec 2
  plrLock   : BitVec 2
  porchNum  : BitVec 2
  porchLock : BitVec 2
  hearthEn  : BitVec 2
deriving DecidableEq, Repr

/-- The fuses of a module without a fault of R27. DESIGN CHOICE (log 189): its Hearth is on Porch 0, where R26 has it in every module
whose Porch 0 Hearth passed its test. -/
def Fuses.reset : Fuses := { plrNum := 2, plrLock := 3, porchNum := 2, porchLock := 3, hearthEn := 1 }

/-- The checks of R27 find no fault. -/
def Fuses.ok (f : Fuses) : Bool :=
  (f.plrNum = 1 || f.plrNum = 2) && (f.porchNum = 1 || f.porchNum = 2) && f.plrLock = 3 && f.porchLock = 3
    && (f.hearthEn = 1 || f.hearthEn = 2)

/-- The Hearth (chapters 14, 16 and 17). -/
structure Hearth where
  life       : Life
  debugOpen  : Bool
  debugCount : Nat
  ready      : Bool
  repairMode : Bool
  strict     : Bool
  sealed     : Bool             -- the fused seed is sealed (R385, R387)
  seedGone   : Bool             -- sealed for good (RETURN)
  tapOpen    : Bool             -- the test access port is open
  suites     : Table Suite
  keys       : Table Nat        -- key slots that hold keys, with the number of the drawing (R369)
  pages      : Table PageEntry
  ddrToZero  : Bool             -- every DDR5 page not listed in `pages` is Suite 0's (R360)
  changes    : List PageChange
  sessions   : Table Session
  commons    : Table CommonRegion
  vharts     : Table VHart
  nextHandle : Nat
  nonces     : List (BitVec 256)
  ak         : BitVec 768
  opKey      : BitVec 768
  fwDigest   : Digest
  monDigest  : Digest
  bands      : Table W64        -- CFAB_BAND
  wingIn     : BitVec 8         -- HRT_DIE_MAP
  plrIn      : BitVec 2
  porchIn    : BitVec 2
  fuses      : Fuses
  identityOk : Bool
  degraded   : Bool
  pkgIn      : BitVec 32
  routes     : List Nat         -- links excluded from the configuration (R18, R19)
  routeTable : Option (Table (List Nat))  -- the route table of a degraded configuration: Corridors by 8 × from + to (R18)
  phase      : BitVec 4         -- HRT_MGMT_STATUS
  step       : Nat              -- start-up step in progress, 0 when none
  fault      : BitVec 8
  imageB     : Bool
  configB    : Bool
  lastReset  : BitVec 3
  resets     : BitVec 16
  resetReq   : Option (BitVec 3)  -- a module reset requested and not yet begun
  modes      : BitVec 8         -- MODES of the configuration block in use
  bootLen    : Nat
  cfgCopy    : Option ConfigCopy
  faultList  : List (Nat × Nat) -- kind and number of each unit listed (R429)
  clearReq   : Bool             -- FAULT_CLEAR waits for the next module reset
  fwState    : BitVec 3         -- HRT_MGMT_FW
  fwTarget   : Bool
  fwCopyB    : Bool
  fwWritten  : W32
  fwBytes    : List Byte        -- what the open write has received
  flashBad   : List Nat         -- flash copies left invalid: 2 × target + copy
  faultWait  : List (Nat × Nat) -- fault-list writes that wait for an open firmware write (R445)
  imgBad     : List Nat         -- image copies abandoned in this start (R437)
  imgValid   : Option (Bool × Bool)  -- what this start found of the image copies A and B
  cfgValid   : Option (Bool × Bool)  -- what it found of the configuration copies
  monLen     : Nat              -- bytes of stage 4
  answers    : List Answer      -- answers given, latest first
  selftests  : List (BitVec 16 × CallVia)  -- self-tests running
  running    : List Running
  ringReg    : W64              -- HRT_RAS_RING
  rasWr      : W32
  rasRd      : W32
  rasQueue   : List RasRec
  rasLost    : BitVec 16
  rasSeq     : W64
  suppress   : List SupWin
  hsmWaiting : List Nat         -- harts waiting for an SBI HSM start
deriving DecidableEq, Repr

/-- HEARTH_PORCH: the Porch that carries the active Hearth (R26). -/
def Hearth.hearthPorch (h : Hearth) : Bool := h.fuses.hearthEn.getLsbD 1

end Sys2Proof.Machine
end

