-- ==== Sys2Proof/Machine/State.lean ====
section
/-! DEFINITION. The whole state of the module, the reasons a step can stop, and the state before power-on. -/

namespace Sys2Proof.Machine

/-- Why a step could stop with a fault. The spec gives every command an effect in every state, so no meaning of this
model raises one: that is safe (no claim rests on a stop). -/
inductive Fault where
  /-- A byte of external memory outside the map of R12 was asked for; no command raises it (safe). -/
  | unbacked
deriving DecidableEq, Repr

/-- Why a command could be refused. -/
inductive Refusal where
  /-- The command has no meaning in the model yet: raised by `exec` for an arm not written (safe). -/
  | notModelled (mnemonic : String)
deriving DecidableEq, Repr

/-- The module. -/
structure State where
  /-- Commands waiting, first in first out. -/
  pending    : List Instr
  /-- The model's own counter of free values drawn so far (log 2). -/
  freeCtr    : Nat
  /-- The module is ON (R405). -/
  on         : Bool
  pins       : Pins
  power      : Power
  hearth     : Hearth
  /-- Bellwire messages on their way (R181), oldest first. -/
  bw         : List BwMsg
  /-- Messages delivered to their endpoint and not yet acted on. -/
  delivered  : List BwMsg
  /-- Hops out of service after a failed resend (R184): the endpoint each served. -/
  hopsOut    : List Endpoint
  /-- Extended stamps (R43, R45) by endpoint number. -/
  stamps     : Table W64
  wings      : Table Wing
  rooms      : Table Room
  cores      : Table Core
  disps      : Table Dispatcher
  gsuites    : Table GSuite
  /-- Requests in flight. -/
  reqs       : Table Req
  nextReq    : Nat
  /-- External memory: the plaintext of each line under the keys it was stored with, by physical address (R290). -/
  ext        : Mem
  /-- The drawing of keys each line was stored under, by line, since its part of the page was last wiped (R290). -/
  extKeys    : Table Nat
  /-- The drawing of keys that the wipe of a controller's part of a page used, by 64 × page + controller, and of all of a page, at
  64 × page + 63 (R308). -/
  pageKeys   : Table Nat
  /-- The drawing of keys under which the rest of a controller's memory stands; 0, and for an unlisted one: bytes stored as they
  are, which is what a full wipe leaves (R307). -/
  ctlKeys    : Table Nat
  /-- Numbers of the lines whose copy in external memory is poisoned. -/
  extPoison  : List Nat
  slices     : Table SliceReg
  /-- Lines held by slices, by `lineKey`. -/
  lines      : Table SLine
  /-- Directory states, by `lineKey`. -/
  dirs       : Table Dir
  misses     : Table Miss
  evicted    : Table Evicted
  partials   : Table Partial
  snoops     : List Snoop
  nextSnoop  : Nat
  /-- The requests that wait in a line's queue, by `lineKey`, in the order they were taken (R233). -/
  busyLines  : Table (List Nat)
  tallies    : List TallyMsg
  parlours   : Table Parlour
  harts      : Table Hart
  mcs        : Table Mc
  byPorts    : Table ByPort
  engines    : Table CopyEngine
  bzPorts    : Table BzPort
  sessions   : Table PeerSess
  colls      : Table CollSlot
  /-- The dynamic address of the I3C target, once one is assigned (R466). -/
  i3cAddr    : Option (BitVec 7)
  tap        : Tap
  /-- What the last control-register access returned, and whether it was accepted (R8). -/
  lastRead   : W64
  lastOk     : Bool
  /-- MSIs and interrupts raised toward the Parlours: address and data of each, latest first. -/
  msis       : List (W64 × W32)
deriving DecidableEq, Repr

/-- The Hearth of a module that has never been powered (log 3). -/
def Hearth.reset : Hearth :=
  { life := .field, debugOpen := false, debugCount := 0, ready := false, repairMode := false, strict := false, sealed :=
    false, seedGone := false, tapOpen := false, suites := [], keys := [], pages := [], ddrToZero := false, changes := [],
    sessions := [], commons := [], vharts := [], nextHandle := 1, nonces := [], ak := 0, opKey := 0, fwDigest := 0, monDigest
    := 0, bands := [], wingIn := 0, plrIn := 0, porchIn := 0, fuses := Fuses.reset, identityOk := false, degraded := false,
    pkgIn := 0, routes := [], routeTable := none, phase := 0, step := 0, fault := 0, imageB := false, configB := false,
    lastReset := 0, resets := 0, resetReq := none, modes := 0, bootLen := 0, cfgCopy := none, faultList := [], clearReq :=
    false, fwState := 0, fwTarget := false, fwCopyB := false, fwWritten := 0, fwBytes := [], flashBad := [], faultWait := [],
    imgBad := [], imgValid := none, cfgValid := none, monLen := 0, answers := [], selftests := [], running := [], ringReg :=
    0, rasWr := 0, rasRd := 0, rasQueue := [], rasLost := 0, rasSeq := 0, suppress := [], hsmWaiting := [] }

/-- The lands of an unpowered module. -/
def Pins.reset : Pins :=
  { inRange := false, charged := false, en := false, ref0 := false, ref1 := false, thermtrip := false, throt := false, modOn := false }

/-- The module before power is applied (log 3): OFF, no command waiting, every register at its Reset column. -/
def State.reset : State :=
  { pending := [], freeCtr := 0, on := false, pins := Pins.reset, power := Power.reset, hearth := Hearth.reset, bw := [],
    delivered := [], hopsOut := [], stamps := [], wings := [], rooms := [], cores := [], disps := [], gsuites := [], reqs :=
    [], nextReq := 0, ext := [], extKeys := [], pageKeys := [], ctlKeys := [], extPoison := [], slices := [], lines := [],
    dirs := [], misses := [], evicted := [], partials := [], snoops := [], nextSnoop := 0, busyLines := [], tallies := [],
    parlours := [], harts := [], mcs := [], byPorts := [], engines := [], bzPorts := [], sessions := [], colls := [], i3cAddr
    := none, tap := { trstLow := true, insn := .idcode }, lastRead := 0, lastOk := true, msis := [] }

end Sys2Proof.Machine
end

