-- ==== Sys2Proof/Machine/Numbers.lean ====
section
/-! DEFINITION. Element formats, exact values, single rounding, and AF128 (chapter "Matrix engine, number formats and
AF128"). Every value is exact until the one rounding the rule asks for. -/

namespace Sys2Proof.Machine

/-! ## Exact values -/

/-- An exact value: ± m × 2^e (with a sign for zero), an infinity or a NaN. -/
inductive FV where
  | fin (neg : Bool) (m : Nat) (e : Int)
  | inf (neg : Bool)
  | nan (neg : Bool)
deriving DecidableEq, Repr

/-- A floating-point format of R115: exponent bits, fraction bits, bias; `kind` 0 has infinities and NaNs as IEEE 754,
1 is E4M3 (NaN only at S.1111.111), 2 has neither. -/
structure Fmt where
  eb   : Nat
  mb   : Nat
  bias : Int
  kind : Nat
deriving DecidableEq, Repr

/-- binary32 (R115). -/
def fp32 : Fmt := ⟨8, 23, 127, 0⟩
/-- binary16 (R115). -/
def fp16 : Fmt := ⟨5, 10, 15, 0⟩
/-- BF16 (R115). -/
def bf16 : Fmt := ⟨8, 7, 127, 0⟩
/-- FP8 E4M3 (R115). -/
def e4m3 : Fmt := ⟨4, 3, 7, 1⟩
/-- FP8 E5M2 (R115). -/
def e5m2 : Fmt := ⟨5, 2, 15, 0⟩
/-- FP6 E2M3 (R115). -/
def e2m3 : Fmt := ⟨2, 3, 1, 2⟩
/-- FP6 E3M2 (R115). -/
def e3m2 : Fmt := ⟨3, 2, 3, 2⟩
/-- FP4 E2M1 (R115). -/
def e2m1 : Fmt := ⟨2, 1, 1, 2⟩

/-- The number of bits of a format. -/
def Fmt.width (f : Fmt) : Nat := 1 + f.eb + f.mb

/-- The exact value of the bits of a format (R115). -/
def Fmt.value (f : Fmt) (v : Nat) : FV :=
  let neg := bitOf v (f.eb + f.mb)
  let ex := bitsOf v f.mb f.eb
  let fr := bitsOf v 0 f.mb
  if f.kind = 0 && ex = 2 ^ f.eb - 1 then (if fr = 0 then .inf neg else .nan neg)
  else if f.kind = 1 && ex = 2 ^ f.eb - 1 && fr = 2 ^ f.mb - 1 then .nan neg
  else if ex = 0 then .fin neg fr (1 - f.bias - f.mb)
  else .fin neg (2 ^ f.mb + fr) (ex - f.bias - f.mb)

/-- The sign bit in place. -/
def Fmt.signBit (f : Fmt) (neg : Bool) : Nat := if neg then 2 ^ (f.eb + f.mb) else 0

/-- The largest finite encoding, without its sign. -/
def Fmt.largest (f : Fmt) : Nat :=
  if f.kind = 0 then (2 ^ f.eb - 1) * 2 ^ f.mb - 1
  else if f.kind = 1 then 2 ^ (f.eb + f.mb) - 2
  else 2 ^ (f.eb + f.mb) - 1

/-- The canonical NaN (R118, R121): the quiet NaN for FP32, FP16 and BF16; for FP8 it keeps the sign. -/
def Fmt.canonNan (f : Fmt) (neg : Bool) : Nat :=
  if f.kind = 1 then f.signBit neg + (2 ^ (f.eb + f.mb) - 1)
  else if f.width = 8 then f.signBit neg + ((2 ^ f.eb - 1) * 2 ^ f.mb + 2 ^ (f.mb - 1))
  else (2 ^ f.eb - 1) * 2 ^ f.mb + 2 ^ (f.mb - 1)

/-- An infinite result: ±∞, or NaN for E4M3 (R121), which keeps the sign as the canonical NaN of a NaN does (DESIGN CHOICE,
log 181). -/
def Fmt.infinite (f : Fmt) (neg : Bool) : Nat :=
  if f.kind = 1 then f.canonNan neg else f.signBit neg + (2 ^ f.eb - 1) * 2 ^ f.mb

/-- Rounding codes of R121. -/
inductive Rnd where
  | near
  | zero
  | down
  | up
deriving DecidableEq, Repr

/-- The rounding of FN[6:5]. -/
def Rnd.ofCode (n : Nat) : Rnd :=
  if n = 0 then .near else if n = 1 then .zero else if n = 2 then .down else .up

/-- ⌊m × 2^(e − q)⌋ rounded as asked: an integer count of units 2^q, for a value of sign `neg`. -/
def roundMag (r : Rnd) (neg : Bool) (m : Nat) (e q : Int) : Nat :=
  if q ≤ e then m * 2 ^ (e - q).toNat
  else
    let s := (q - e).toNat
    let fl := m / 2 ^ s
    let lo := m % 2 ^ s
    let upMag : Bool :=
      match r with
      | .near => decide (2 ^ s < 2 * lo) || (decide (2 * lo = 2 ^ s) && decide (fl % 2 = 1))
      | .zero => false
      | .down => neg && decide (lo ≠ 0)
      | .up => !neg && decide (lo ≠ 0)
    if upMag then fl + 1 else fl

/-- Whether m × 2^e is a whole number of units 2^q. -/
def exactAt (m : Nat) (e q : Int) : Bool :=
  decide (q ≤ e) || decide (m % 2 ^ (q - e).toNat = 0)

/-- The result of a rounding: the bits, whether the rounding was inexact, whether it overflowed. -/
structure Rounded where
  bits     : Nat
  inexact  : Bool
  overflow : Bool
deriving DecidableEq, Repr

/-- What an overflow gives (R121). -/
def Fmt.overflowBits (f : Fmt) (r : Rnd) (sat neg : Bool) : Nat :=
  if sat then f.signBit neg + f.largest
  else
    match r with
    | .near => f.infinite neg
    | .zero => f.signBit neg + f.largest
    | .down => if neg then f.infinite neg else f.signBit neg + f.largest
    | .up => if neg then f.signBit neg + f.largest else f.infinite neg

/-- Round an exact finite value once to a format (R118, R121, R140): subnormals are kept. -/
def Fmt.roundFin (f : Fmt) (r : Rnd) (sat neg : Bool) (m : Nat) (e : Int) : Rounded :=
  if m = 0 then ⟨f.signBit neg, false, false⟩
  else
    let top : Int := Nat.log2 m + e
    let q : Int := max top (1 - f.bias) - f.mb
    let u0 := roundMag r neg m e q
    let ovf1 := decide (2 ^ (f.mb + 1) ≤ u0)
    let u := if ovf1 then u0 / 2 else u0
    let q1 : Int := if ovf1 then q + 1 else q
    let mag : Nat :=
      if u < 2 ^ f.mb then u
      else (q1 + f.mb + f.bias).toNat * 2 ^ f.mb + (u - 2 ^ f.mb)
    if f.largest < mag then ⟨f.overflowBits r sat neg, true, true⟩
    else ⟨f.signBit neg + mag, !exactAt m e q, false⟩

/-- Round any exact value to a format. ±∞ becomes ± largest finite with SAT (R121). -/
def Fmt.round (f : Fmt) (r : Rnd) (sat : Bool) : FV → Rounded
  | .nan neg => ⟨f.canonNan neg, false, false⟩
  | .inf neg => ⟨if sat then f.signBit neg + f.largest else f.infinite neg, false, false⟩
  | .fin neg m e => f.roundFin r sat neg m e

/-- Round to nearest, ties to even, without saturation: every vector operation (R118). -/
def Fmt.near (f : Fmt) (v : FV) : Nat := (f.round .near false v).bits

/-! ## Exact arithmetic -/

/-- A signed integer as sign and magnitude; an exact zero is +0. -/
def FV.ofInt (v : Int) (e : Int) : FV := .fin (decide (v < 0)) v.natAbs e

/-- The signed integer m × 2^(e − q), for q ≤ e. -/
def signedAt (neg : Bool) (m : Nat) (e q : Int) : Int :=
  let v : Int := (m * 2 ^ (e - q).toNat : Nat)
  if neg then -v else v

/-- The exact sum (IEEE 754 rules for infinities, NaN and the sign of zero). -/
def FV.add : FV → FV → FV
  | .nan n, _ => .nan n
  | _, .nan n => .nan n
  | .inf a, .inf b => if a = b then .inf a else .nan false
  | .inf a, .fin _ _ _ => .inf a
  | .fin _ _ _, .inf b => .inf b
  | .fin n1 m1 e1, .fin n2 m2 e2 =>
    if m1 = 0 && m2 = 0 then .fin (n1 && n2) 0 0
    else
      let q := min e1 e2
      FV.ofInt (signedAt n1 m1 e1 q + signedAt n2 m2 e2 q) q

/-- The exact product; infinity times zero is NaN (R134). -/
def FV.mul : FV → FV → FV
  | .nan n, _ => .nan n
  | _, .nan n => .nan n
  | .inf a, .inf b => .inf (a != b)
  | .inf a, .fin b m _ => if m = 0 then .nan false else .inf (a != b)
  | .fin a m _, .inf b => if m = 0 then .nan false else .inf (a != b)
  | .fin a m e, .fin b n f => .fin (a != b) (m * n) (e + f)

/-- The opposite value. -/
def FV.neg : FV → FV
  | .fin n m e => .fin (!n) m e
  | .inf n => .inf (!n)
  | .nan n => .nan n

/-- Whether a value is a NaN. -/
def FV.isNan : FV → Bool
  | .nan _ => true
  | _ => false

/-- The value as a comparable pair (infinity level, integer at a common unit) against another finite value. -/
def FV.lt : FV → FV → Bool
  | .nan _, _ => false
  | _, .nan _ => false
  | .inf a, .inf b => a && !b
  | .inf a, .fin _ _ _ => a
  | .fin _ _ _, .inf b => !b
  | .fin n1 m1 e1, .fin n2 m2 e2 =>
    let q := min e1 e2
    decide (signedAt n1 m1 e1 q < signedAt n2 m2 e2 q)

/-- Equality of values: +0 equals −0 (R120). -/
def FV.eq (a b : FV) : Bool := !a.isNan && !b.isNan && !a.lt b && !b.lt a

/-- The sign of a value's encoding. -/
def FV.sign : FV → Bool
  | .fin n _ _ => n
  | .inf n => n
  | .nan n => n

/-- A total order of the non-NaN values with −0 below +0 (R119). -/
def FV.below (a b : FV) : Bool := a.lt b || (a.eq b && a.sign && !b.sign)

/-- ⌊√n⌋ by bits from `k` down. -/
def isqrtFrom (n : Nat) : Nat → Nat → Nat
  | 0, r => if (r + 1) * (r + 1) ≤ n then r + 1 else r
  | k + 1, r =>
    let c := r + 2 ^ (k + 1)
    isqrtFrom n k (if c * c ≤ n then c else r)

/-- ⌊√n⌋. -/
def isqrt (n : Nat) : Nat := isqrtFrom n (Nat.log2 n / 2 + 1) 0

/-- The correctly rounded square root (R122): −0 gives −0, a negative value NaN. -/
def fp32Sqrt (v : Nat) : Nat :=
  match fp32.value v with
  | .nan _ => fp32.canonNan false
  | .inf neg => if neg then fp32.canonNan false else fp32.infinite false
  | .fin neg m e =>
    if m = 0 then fp32.signBit neg
    else if neg then fp32.canonNan false
    else
      let odd : Nat := (e % 2).toNat
      let n := m * 2 ^ (64 + odd)
      let r := isqrt n
      let sticky : Nat := if r * r = n then 0 else 1
      (fp32.roundFin .near false false (2 * r + sticky) ((e - 64 - odd) / 2 - 1)).bits

/-! ## Special functions: a free value inside the bound of R122 -/

/-- A free positive FP32 result held between two encodings of positive values. -/
def clampFree (fn : BitVec 3) (v lo hi : Nat) : Nat :=
  let x := (Config.vsfu fn (BitVec.ofNat 32 v)).toNat % 2 ^ 31
  if x < lo then lo else if hi < x then hi else x

/-- RCP and RSQRT: a free choice among the encodings within 1 ulp of the exact value, of which `num / den` × 2^e is
the exact square or the exact value rounded down (log 4). -/
def withinUlp (fn : BitVec 3) (v : Nat) (neg : Bool) (m : Nat) (exact : Bool) (e : Int) : Nat :=
  let lo := (fp32.roundFin .zero true false m e).bits
  let hi := (fp32.roundFin .up false false (if exact then m else m + 1) e).bits
  fp32.signBit neg + clampFree fn v (if exact then lo - 1 else lo) (if exact then min (hi + 1) (fp32.infinite false) else hi)

/-- The place of an encoding in the order of FP32 values, and back. -/
def fp32Place (b : Nat) : Int := if bitOf b 31 then -(bitsOf b 0 31 : Nat) else (bitsOf b 0 31 : Nat)

/-- The encoding at a place. -/
def fp32At (x : Int) : Nat := if x < 0 then 2 ^ 31 + x.natAbs else x.natAbs

/-- The place of the least FP32 value not below z × 2^q, or of the greatest not above it. -/
def fp32Bound (above : Bool) (z q : Int) : Int :=
  if 0 ≤ z then ((fp32.roundFin (if above then .up else .zero) false false z.natAbs q).bits : Int)
  else -((fp32.roundFin (if above then .zero else .up) false false z.natAbs q).bits : Int)

/-- A free FP32 result between two places. -/
def placeFree (fn : BitVec 3) (v : Nat) (lo hi : Int) : Nat :=
  let x := fp32Place (Config.vsfu fn (BitVec.ofNat 32 v)).toNat
  fp32At (if x < lo then lo else if hi < x then hi else x)

/-- Fixed-point unit of the brackets of EXP2 and LOG2. -/
def fxOne : Nat := 2 ^ 160

/-- Multiply a bracket of 2^g by that of 2^(1/2), 2^(1/4), … for the bits of an n-bit fraction, most significant first;
`r` brackets the root last used. -/
def exp2Bits : Nat → Nat → Nat × Nat → Nat × Nat → Nat × Nat
  | 0, _, _, p => p
  | n + 1, frac, r, p =>
    let r1 := (isqrt (r.1 * fxOne), isqrt (r.2 * fxOne) + 1)
    let p1 := if bitOf frac n then (p.1 * r1.1 / fxOne, p.2 * r1.2 / fxOne + 1) else p
    exp2Bits n frac r1 p1

/-- A bracket of 2^x for x = ± m × 2^e: an integer k, and bounds of 2^(x − k) in fixed point. A value smaller than 2^−60 is
bracketed by 1 ± 2^−60. -/
def exp2Bracket (neg : Bool) (m : Nat) (e : Int) : Int × Nat × Nat :=
  if m = 0 then (0, fxOne, fxOne)
  else if Nat.log2 m + e < -60 then (0, if neg then fxOne - 2 ^ 100 else fxOne, if neg then fxOne else fxOne + 2 ^ 100)
  else
    let n := (-e).toNat
    let x : Int := if 0 ≤ e then (m * 2 ^ e.toNat : Nat) else m
    let y := if neg then -x else x
    let k := y / (2 ^ n : Nat)
    let b := exp2Bits n (y % (2 ^ n : Nat)).toNat (2 * fxOne, 2 * fxOne) (fxOne, fxOne)
    (k, b.1, b.2)

/-- EXP2 of a finite value: a free result within 2 ulp (R122, log 4). -/
def vsfuExp2 (v : Nat) (neg : Bool) (m : Nat) (e : Int) : Nat :=
  let top : Int := Nat.log2 m + e
  if !neg && 10 ≤ top && m ≠ 0 then fp32.infinite false
  else if neg && 10 ≤ top then placeFree 2 v 0 2
  else
    let (k, lo, hi) := exp2Bracket neg m e
    let ulp2 : Int := (2 ^ (160 - 22 + (max (-126) k - k).toNat) : Nat)
    let up := fp32Bound false (lo + ulp2) (k - 160)
    let over_ := (fp32.roundFin .zero false false (lo + ulp2).toNat (k - 160)).overflow
    placeFree 2 v (max 0 (fp32Bound true (hi - ulp2) (k - 160))) (if over_ then (fp32.infinite false : Nat) else up)

/-- The first n bits of log2 c for c in fixed point from 1 to below 2, squaring with the rounding asked for. -/
def log2Bits (up : Bool) : Nat → Nat → Nat → Nat
  | 0, _, acc => acc
  | n + 1, c, acc =>
    let q := c * c / fxOne + (if up then 1 else 0)
    if 2 * fxOne ≤ q then log2Bits up n (q / 2 + (if up then 1 else 0)) (2 * acc + 1) else log2Bits up n q (2 * acc)

/-- LOG2 of a positive finite value: a free result within 2 ulp, or within 2^−22 for 0.5 ≤ x < 2 (R122, log 4). -/
def vsfuLog2 (v m : Nat) (e : Int) : Nat :=
  let k : Int := Nat.log2 m + e
  let c := m * fxOne / 2 ^ Nat.log2 m
  let power := decide (m = 2 ^ Nat.log2 m)
  let base : Int := k * (2 ^ 60 : Nat)
  let lo : Int := base + log2Bits false 60 c 0
  let hi : Int := if power then base else base + log2Bits true 60 c 0 + 1
  let t : Int := if -1 ≤ k && k < 1 then (2 ^ 38 : Nat) else (2 ^ (Nat.log2 lo.natAbs - 22) : Nat)
  placeFree 3 v (fp32Bound true (hi - t) (-60)) (fp32Bound false (lo + t) (-60))

/-- VSFU (R122): RCP, RSQRT, EXP2, LOG2, SQRT of an FP32 value. -/
def vsfuValue (fn : Nat) (v : Nat) : Nat :=
  let f := BitVec.ofNat 3 fn
  if fn = 4 then fp32Sqrt v
  else
    match fp32.value v with
    | .nan _ => fp32.canonNan false
    | .inf neg =>
      if fn = 0 then fp32.signBit neg
      else if fn = 1 then (if neg then fp32.canonNan false else 0)
      else if fn = 2 then (if neg then 0 else fp32.infinite false)
      else (if neg then fp32.canonNan false else fp32.infinite false)
    | .fin neg m e =>
      if fn = 0 then
        if m = 0 then fp32.infinite neg
        else
          let n := 2 ^ 64 / m
          withinUlp f v neg n (decide (2 ^ 64 % m = 0)) (-e - 64)
      else if fn = 1 then
        if m = 0 then fp32.infinite neg
        else if neg then fp32.canonNan false
        else
          let odd : Nat := (e % 2).toNat
          let n := 2 ^ 128 / (m * 2 ^ odd)
          let r := isqrt n
          withinUlp f v false r (decide (r * r = n) && decide (2 ^ 128 % (m * 2 ^ odd) = 0)) (-((e - odd) / 2) - 64)
      else if fn = 2 then vsfuExp2 v neg m e
      else if m = 0 then fp32.infinite true
      else if neg then fp32.canonNan false
      else vsfuLog2 v m e

/-! ## AF128 (R132 to R136) -/

/-- Judge one contribution against an anchor (R134): `none` when it adds nothing and sets OUT; the flag is INEXACT. -/
def afRound (anchor : Int) : FV → Option Int × Bool
  | .nan _ => (none, false)
  | .inf _ => (none, false)
  | .fin neg m e =>
    let u := roundMag .near neg m e anchor
    let v : Int := if neg then -(u : Int) else u
    let inex := !exactAt m e anchor
    if v < -(2 ^ 127) || 2 ^ 127 ≤ v then (none, inex) else (some v, inex)

/-- Add an in-range contribution to an element: carry out of 128 bits goes to the tally, modulo 2^16 (R135). -/
def AccElem.add (x : AccElem) (u : Int) : AccElem :=
  let sum := x.n.toInt + u
  let t : BitVec 16 := if 2 ^ 127 ≤ sum then x.tally + 1 else if sum < -(2 ^ 127) then x.tally - 1 else x.tally
  { x with n := BitVec.ofInt 128 sum, tally := t }

/-- The reset element. -/
def AccElem.reset : AccElem := { n := 0, tally := 0, out := false }

/-- One contribution to an element in AF128 mode: the element and whether INEXACT is set. -/
def AccElem.contribute (anchor : Int) (x : AccElem) (c : FV) : AccElem × Bool :=
  match afRound anchor c with
  | (some u, ix) => (x.add u, ix)
  | (none, ix) => ({ x with out := true }, ix)

/-- Contributions one after another: the element, and whether any was inexact. -/
def AccElem.contributeAll (anchor : Int) : AccElem → List FV → AccElem × Bool
  | x, [] => (x, false)
  | x, c :: cs =>
    let r := x.contribute anchor c
    let q := AccElem.contributeAll anchor r.1 cs
    (q.1, r.2 || q.2)

/-- An element that reads as wrapped: OUT set or a non-zero tally (R135). -/
def AccElem.wrapped (x : AccElem) : Bool := x.out || x.tally != 0

/-- The reset format of an accumulator (R124). -/
def Acc.reset : Acc := { elems := [], anchor := 0, fp32 := false, inexact := false, wrap := false }

/-- The accumulator's anchor as a number. -/
def Acc.anchorInt (a : Acc) : Int := a.anchor.toInt

/-- The WRAP flag as it reads (R135, R138). -/
def Acc.wrapFlag (a : Acc) : Bool :=
  if a.fp32 then a.wrap else a.elems.any (fun e => e.2.wrapped)

/-- The value of an element as `ACVT` and `MXRED` take it (R139 to R141); `none` for a wrapped AF128 element. -/
def Acc.value (a : Acc) (k : Nat) : Option FV :=
  let x := Table.get AccElem.reset a.elems k
  if a.fp32 then some (Sys2Proof.Machine.fp32.value (x.n.toNat % 2 ^ 32))
  else if x.wrapped then none
  else some (FV.ofInt x.n.toInt a.anchorInt)

/-! ## Matrix operands (R123, R125, R127 to R129) -/

/-- The class of a pair of format codes: 0 FP8, 1 FP8 with FP6, 2 FP6, 3 FP4, 4 INT8, 5 BF16, 6 FP16 (R127). -/
def mmaClass (fa fb : Nat) : Option Nat :=
  let fp8 := fun c => decide (c ≤ 1)
  let fp6 := fun c => decide (c = 2) || decide (c = 3)
  if fp8 fa && fp8 fb then some 0
  else if (fp8 fa && fp6 fb) || (fp6 fa && fp8 fb) then some 1
  else if fp6 fa && fp6 fb then some 2
  else if fa = 4 && fb = 4 then some 3
  else if fa = 5 && fb = 5 then some 4
  else if fa = 6 && fb = 6 then some 5
  else if fa = 7 && fb = 7 then some 6
  else none

/-- K of an `MMA` of a class (R127). -/
def mmaK (c : Nat) : Nat := if c ≤ 2 then 64 else if c = 3 then 128 else if c = 4 then 64 else 32

/-- MAC-pipe occupancy of a class (R127). -/
def mmaCycles (c : Nat) : Nat := if c = 2 then 32 else 64

/-- The format of an operand code below 5 or above 5 (R125). -/
def codeFmt (c : Nat) : Fmt :=
  if c = 0 then e4m3 else if c = 1 then e5m2 else if c = 2 then e2m3 else if c = 3 then e3m2
  else if c = 4 then e2m1 else if c = 6 then bf16 else if c = 7 then fp16 else fp32

/-- Element `k` of a 64 B tile row, packed under R116; `row` gives byte `b` of the row. -/
def packedElem (c : Nat) (mx : Bool) (row : Nat → Byte) (k : Nat) : FV :=
  if c = 5 then
    let v := (row k).toInt
    FV.ofInt v (if mx then -6 else 0)
  else if c = 4 then
    let b := (row (k / 2)).toNat
    e2m1.value (if k % 2 = 0 then b % 16 else b / 16)
  else if c = 2 || c = 3 then (codeFmt c).value ((row k).toNat % 64)
  else if c = 6 || c = 7 then (codeFmt c).value ((row (2 * k)).toNat + 256 * (row (2 * k + 1)).toNat)
  else (codeFmt c).value (row k).toNat

/-- Multiply by an E8M0 scale; 0xFF makes the element NaN (R117). -/
def scaleBy (sc : Byte) (v : FV) : FV :=
  if sc = 0xFF then .nan false else FV.mul v (.fin false 1 ((sc.toNat : Int) - 127))

/-! ## Vector types (R90) -/

/-- The floating-point format of a type code. -/
def tyFmt (ty : Nat) : Option Fmt :=
  if ty = 2 then some fp32 else if ty = 3 then some fp16 else if ty = 4 then some bf16
  else if ty = 7 then some e4m3 else if ty = 8 then some e5m2 else none

/-- Bits of a type. -/
def tyWidth (ty : Nat) : Nat :=
  if ty = 5 || ty = 6 then 64 else if ty = 3 || ty = 4 then 16 else if ty = 7 || ty = 8 then 8 else 32

/-- Signed integer types. -/
def tySigned (ty : Nat) : Bool := ty = 1 || ty = 6

/-- The integer value of the bits of an integer type. -/
def tyInt (ty v : Nat) : Int :=
  let w := tyWidth ty
  let u := v % 2 ^ w
  if tySigned ty && decide (2 ^ (w - 1) ≤ u) then (u : Int) - 2 ^ w else u

/-- The low bits of an integer, as a type holds them. -/
def wrapInt (w : Nat) (v : Int) : Nat := (v % (2 ^ w : Nat)).toNat

/-- The least and the greatest value of an integer type. -/
def tyMin (ty : Nat) : Int := if tySigned ty then -(2 ^ (tyWidth ty - 1)) else 0
/-- See `tyMin`. -/
def tyMax (ty : Nat) : Int := if tySigned ty then 2 ^ (tyWidth ty - 1) - 1 else 2 ^ tyWidth ty - 1

/-- Clamp to a type's range. -/
def tyClamp (ty : Nat) (v : Int) : Int := if v < tyMin ty then tyMin ty else if tyMax ty < v then tyMax ty else v

/-- VCVT (R121) from type `src` to type `dst`. -/
def vcvtValue (src dst : Nat) (sat : Bool) (r : Rnd) (v : Nat) : Nat :=
  match tyFmt src, tyFmt dst with
  | some f, some g =>
    if src = dst then (match f.value v with | .nan n => f.canonNan n | _ => v % 2 ^ f.width)
    else (g.round r sat (f.value v)).bits
  | some f, none =>
    match f.value v with
    | .nan _ => 0
    | .inf neg => wrapInt (tyWidth dst) (if neg then tyMin dst else tyMax dst)
    | .fin neg m e =>
      let u := roundMag r neg m e 0
      wrapInt (tyWidth dst) (tyClamp dst (if neg then -(u : Int) else u))
  | none, some g => (g.round r sat (FV.ofInt (tyInt src v) 0)).bits
  | none, none =>
    let x := tyInt src v
    if tyWidth src < tyWidth dst then wrapInt (tyWidth dst) x
    else if sat then wrapInt (tyWidth dst) (tyClamp dst x) else wrapInt (tyWidth dst) x

/-- VADD, VSUB, VMUL, VFMA on one element (R118, R119). -/
def vArith (op ty a b c : Nat) : Nat :=
  match tyFmt ty with
  | some f =>
    let x := f.value a
    let y := f.value b
    if op = 0 then f.near (x.add y)
    else if op = 1 then f.near (x.add y.neg)
    else if op = 2 then f.near (x.mul y)
    else f.near ((x.mul y).add (f.value c))
  | none =>
    let w := tyWidth ty
    let x := tyInt ty a
    let y := tyInt ty b
    if op = 0 then wrapInt w (x + y) else if op = 1 then wrapInt w (x - y)
    else if op = 2 then wrapInt w (x * y) else wrapInt w (x * y + tyInt ty c)

/-- VMIN and VMAX (R119). -/
def vMinMax (max : Bool) (ty a b : Nat) : Nat :=
  match tyFmt ty with
  | some f =>
    let x := f.value a
    let y := f.value b
    if x.isNan && y.isNan then f.canonNan false
    else if x.isNan then b % 2 ^ f.width
    else if y.isNan then a % 2 ^ f.width
    else if y.below x != max then b % 2 ^ f.width
    else a % 2 ^ f.width
  | none => if (decide (tyInt ty b < tyInt ty a)) != max then b % 2 ^ tyWidth ty else a % 2 ^ tyWidth ty

/-- VCMP (R120): test FN on two elements. -/
def vCompare (fn ty a b : Nat) : Bool :=
  match tyFmt ty with
  | some f =>
    let x := f.value a
    let y := f.value b
    let un := x.isNan || y.isNan
    if fn = 0 then x.eq y else if fn = 1 then !x.eq y else if fn = 2 then x.lt y
    else if fn = 3 then !un && !y.lt x else if fn = 4 then y.lt x else if fn = 5 then !un && !x.lt y
    else if fn = 6 then !un else un
  | none =>
    let x := tyInt ty a
    let y := tyInt ty b
    if fn = 0 then decide (x = y) else if fn = 1 then decide (x ≠ y) else if fn = 2 then decide (x < y)
    else if fn = 3 then decide (x ≤ y) else if fn = 4 then decide (y < x) else decide (y ≤ x)

end Sys2Proof.Machine
end

