-- ==== Sys2Proof/Machine/Ops.lean ====
section
/-! DEFINITION. The named operations over the state that every family uses: where units live in the tables, free
values, causal stamps, Bellwire messages, reports to the Hearth. -/

namespace Sys2Proof.Machine

/-- Short name of an outcome of this machine. -/
abbrev Out := Host.Outcome State Fault Refusal

/-! ## Units and their keys -/

/-- Number of Room [row,col]: 16 × row + col. -/
def roomKey (r : RoomId) : Nat := 16 * r.row.val + r.col.val

/-- Number of a core: 6 × Room + core. -/
def coreKey (c : CoreId) : Nat := 6 * roomKey c.room + c.core.val

/-- The Room of a number. -/
def roomOfKey (k : Nat) : RoomId := ⟨Fin.ofNat 6 (k / 16), Fin.ofNat 16 k⟩

/-- The core of a number. -/
def coreOfKey (k : Nat) : CoreId := ⟨roomOfKey (k / 6), Fin.ofNat 6 k⟩

/-- The Wing that holds a Room (R22): top row for grid rows 0 to 2. -/
def wingOfRoom (r : RoomId) : Fin 8 := Fin.ofNat 8 ((if r.row.val < 3 then 0 else 4) + r.col.val / 4)

/-- The key of a controller: packages 0 to 31, DDR5 channels 32 to 43. -/
def ctlKey : Ctl → Nat
  | .lpd p => p.val
  | .ddr c => 32 + c.val

/-- The number of an endpoint in the stamp table (R183). -/
def endpointKey : Endpoint → Nat
  | .core c => coreKey c
  | .hall r => 600 + roomKey r
  | .dispatcher k => 700 + k.val
  | .cellar k => 710 + k.val
  | .parlour n => 720 + n.val
  | .porch n => 724 + n.val
  | .hearth => 728
  | .power => 729

/-! ## Reading and changing one unit -/

/-- A core. -/
def State.core (s : State) (c : CoreId) : Core := Table.get Core.reset s.cores (coreKey c)

/-- Change a core. -/
def State.updCore (s : State) (c : CoreId) (f : Core → Core) : State :=
  { s with cores := Table.upd Core.reset s.cores (coreKey c) f }

/-- A group slot. -/
def State.slot (s : State) (g : GroupRef) : Slot := Table.get Slot.reset (s.core g.core).slots g.slot.val

/-- Change a group slot. -/
def State.updSlot (s : State) (g : GroupRef) (f : Slot → Slot) : State :=
  s.updCore g.core (fun c => { c with slots := Table.upd Slot.reset c.slots g.slot.val f })

/-- A Room. -/
def State.room (s : State) (r : RoomId) : Room := Table.get Room.reset s.rooms (roomKey r)

/-- Change a Room. -/
def State.updRoom (s : State) (r : RoomId) (f : Room → Room) : State :=
  { s with rooms := Table.upd Room.reset s.rooms (roomKey r) f }

/-- A Wing. -/
def State.wing (s : State) (k : Fin 8) : Wing := Table.get Wing.reset s.wings k.val

/-- Change a Wing. -/
def State.updWing (s : State) (k : Fin 8) (f : Wing → Wing) : State :=
  { s with wings := Table.upd Wing.reset s.wings k.val f }

/-- A dispatcher. -/
def State.disp (s : State) (k : Fin 8) : Dispatcher := Table.get Dispatcher.reset s.disps k.val

/-- Change a dispatcher. -/
def State.updDisp (s : State) (k : Fin 8) (f : Dispatcher → Dispatcher) : State :=
  { s with disps := Table.upd Dispatcher.reset s.disps k.val f }

/-- The graph block of a Suite. -/
def State.gsuite (s : State) (n : BitVec 8) : GSuite := Table.get GSuite.reset s.gsuites n.toNat

/-- Change the graph block of a Suite. -/
def State.updGsuite (s : State) (n : BitVec 8) (f : GSuite → GSuite) : State :=
  { s with gsuites := Table.upd GSuite.reset s.gsuites n.toNat f }

/-- A Suite. -/
def State.suite (s : State) (n : BitVec 8) : Suite := Table.get Suite.reset s.hearth.suites n.toNat

/-- Change the Hearth. -/
def State.updHearth (s : State) (f : Hearth → Hearth) : State := { s with hearth := f s.hearth }

/-- Change a Suite. -/
def State.updSuite (s : State) (n : BitVec 8) (f : Suite → Suite) : State :=
  s.updHearth (fun h => { h with suites := Table.upd Suite.reset h.suites n.toNat f })

/-- A Parlour. -/
def State.parlour (s : State) (n : Fin 2) : Parlour := Table.get Parlour.reset s.parlours n.val

/-- Change a Parlour. -/
def State.updParlour (s : State) (n : Fin 2) (f : Parlour → Parlour) : State :=
  { s with parlours := Table.upd Parlour.reset s.parlours n.val f }

/-- A hart (mhartid 64 n + c, R28). -/
def State.hart (s : State) (h : Fin 128) : Hart := Table.get Hart.reset s.harts h.val

/-- Change a hart. -/
def State.updHart (s : State) (h : Fin 128) (f : Hart → Hart) : State :=
  { s with harts := Table.upd Hart.reset s.harts h.val f }

/-- The Parlour of a hart. -/
def parlourOf (h : Fin 128) : Fin 2 := Fin.ofNat 2 (h.val / 64)

/-- A memory controller. -/
def State.mc (s : State) (m : Ctl) : Mc := Table.get Mc.reset s.mcs (ctlKey m)

/-- Change a memory controller. -/
def State.updMc (s : State) (m : Ctl) (f : Mc → Mc) : State :=
  { s with mcs := Table.upd Mc.reset s.mcs (ctlKey m) f }

/-- A slice's registers. -/
def State.slice (s : State) (k : Nat) : SliceReg := Table.get SliceReg.reset s.slices k

/-- Change a slice's registers. -/
def State.updSlice (s : State) (k : Nat) (f : SliceReg → SliceReg) : State :=
  { s with slices := Table.upd SliceReg.reset s.slices k f }

/-- A Beyfy port. -/
def State.byPort (s : State) (i : Fin 4) : ByPort := Table.get ByPort.reset s.byPorts i.val

/-- Change a Beyfy port. -/
def State.updByPort (s : State) (i : Fin 4) (f : ByPort → ByPort) : State :=
  { s with byPorts := Table.upd ByPort.reset s.byPorts i.val f }

/-- A Breezeway port. -/
def State.bzPort (s : State) (i : Fin 6) : BzPort := Table.get BzPort.reset s.bzPorts i.val

/-- Change a Breezeway port. -/
def State.updBzPort (s : State) (i : Fin 6) (f : BzPort → BzPort) : State :=
  { s with bzPorts := Table.upd BzPort.reset s.bzPorts i.val f }

/-- A copy engine. -/
def State.engine (s : State) (e : Fin 32) : CopyEngine := Table.get CopyEngine.reset s.engines e.val

/-- Change a copy engine. -/
def State.updEngine (s : State) (e : Fin 32) (f : CopyEngine → CopyEngine) : State :=
  { s with engines := Table.upd CopyEngine.reset s.engines e.val f }

/-- The key of a peer session of a Porch. -/
def sessKey (porch : Fin 2) (p : Nat) : Nat := 256 * porch.val + p

/-- A peer session. -/
def State.sess (s : State) (porch : Fin 2) (p : Nat) : PeerSess := Table.get PeerSess.reset s.sessions (sessKey porch p)

/-- Change a peer session. -/
def State.updSess (s : State) (porch : Fin 2) (p : Nat) (f : PeerSess → PeerSess) : State :=
  { s with sessions := Table.upd PeerSess.reset s.sessions (sessKey porch p) f }

/-- A collective slot of a Porch. -/
def State.coll (s : State) (porch : Fin 2) (n : Nat) : CollSlot := Table.get CollSlot.reset s.colls (8 * porch.val + n)

/-- Change a collective slot. -/
def State.updColl (s : State) (porch : Fin 2) (n : Nat) (f : CollSlot → CollSlot) : State :=
  { s with colls := Table.upd CollSlot.reset s.colls (8 * porch.val + n) f }

/-! ## Free values -/

/-- Draw a free 64-bit value. -/
def State.drawBits (s : State) : W64 × State := (Config.freeBits s.freeCtr, { s with freeCtr := s.freeCtr + 1 })

/-- Draw a free choice. -/
def State.drawBool (s : State) : Bool × State := (Config.freeBool s.freeCtr, { s with freeCtr := s.freeCtr + 1 })

/-- Draw a free 768-bit value. -/
def State.drawKey (s : State) : BitVec 768 × State := (Config.freeKey s.freeCtr, { s with freeCtr := s.freeCtr + 1 })

/-- The keys of a slot are drawn anew (R369); the draw is known by its number (log 2). -/
def State.drawSlot (s : State) (slot : Nat) : State :=
  { s with hearth := { s.hearth with keys := Table.set s.hearth.keys slot (s.freeCtr + 1) }, freeCtr := s.freeCtr + 1 }

/-! ## Causal stamps (R43, R45) -/

/-- The extended stamp of an endpoint. -/
def State.stamp (s : State) (e : Endpoint) : W64 := Table.get 0 s.stamps (endpointKey e)

/-- Set an extended stamp. -/
def State.setStamp (s : State) (e : Endpoint) (v : W64) : State :=
  { s with stamps := Table.set s.stamps (endpointKey e) v }

/-- Before a send or a record the endpoint adds 1 to its stamp (R43 step 1); the epoch counts the wraps (R45). -/
def State.stepStamp (s : State) (e : Endpoint) : State := s.setStamp e (s.stamp e + 1)

/-- Whether stamp `b` is later than stamp `a`: (b − a) mod 2^32 lies between 1 and 2^31 − 1. -/
def laterStamp (b a : W32) : Bool :=
  let d := (b - a).toNat
  decide (1 ≤ d) && decide (d < 2 ^ 31)

/-- The extended stamp after receiving stamp `m`: the larger of the two, plus 1 (R43 step 2). -/
def stampAfterReceive (own : W64) (m : W32) : W64 :=
  let low : W32 := BitVec.ofNat 32 own.toNat
  if laterStamp m low then own + BitVec.ofNat 64 (m - low).toNat + 1 else own + 1

/-- Receive a stamp. -/
def State.receiveStamp (s : State) (e : Endpoint) (m : W32) : State :=
  s.setStamp e (stampAfterReceive (s.stamp e) m)

/-- The endpoint of an agent of the control space: the Parlour of a hart; for a Suite's accesses, whose hart is not named, Parlour 0
(log 187); the Porch of the board management controller. -/
def agentEndpoint (a : Agent) : Endpoint :=
  match a with
  | .hearth => .hearth
  | .mmode h => .parlour (parlourOf h)
  | .suite _ => .parlour 0
  | .bmc => .porch 0

/-- A message of class CTL from one endpoint to another, of which only the stamps matter here: the sender's advances and the
receiver takes it (R43, R181). Nothing passes within one endpoint. -/
def State.ctlAsk (s : State) (src dst : Endpoint) : State :=
  if src = dst then s
  else
    let t := s.stepStamp src
    t.receiveStamp dst (BitVec.ofNat 32 (t.stamp src).toNat)

/-- An access of a control register is an exchange: the access, what it does, and the reply (R43, R46, R181). -/
def State.ctlExchange (s : State) (src dst : Endpoint) (f : State → State) : State := (f (s.ctlAsk src dst)).ctlAsk dst src

/-! ## Bellwire messages (R181, R182) -/

/-- Send a message: the sender's stamp advances and the message carries it. -/
def State.send (s : State) (src dst : Endpoint) (suite : BitVec 8) (gen : BitVec 16) (p : Payload) : State :=
  let t := s.stepStamp src
  let m : BwMsg :=
    { src := src, dst := dst, suite := suite, gen := gen, stamp := BitVec.ofNat 32 (t.stamp src).toNat, payload := p }
  { t with bw := t.bw ++ [m] }

/-- An empty report, to be filled in. -/
def RasRep.zero : RasRep :=
  { cause := 0, outcome := 0, suite := 0, gen := 0, subject := 0, locA := 0, locB := 0, addr := 0, detail := 0,
    suppressed := 0 }

/-- The generation of a Suite: that of the Hearth, which the module broadcasts (R361). -/
def State.genOf (s : State) (n : BitVec 8) : BitVec 16 := (s.suite n).gen

/-- Send a report to the Hearth (R410), except where a suppression window for its page and SUBJECT is open and the
cause is one of those R415 holds back (`held`): then it is only counted. -/
def State.report (s : State) (src : Endpoint) (r : RasRep) : State :=
  s.send src .hearth r.suite r.gen (.ras r)

/-- Take the first delivered message that satisfies a test. -/
def takeFirst (p : BwMsg → Bool) : List BwMsg → Option (BwMsg × List BwMsg)
  | [] => none
  | m :: ms =>
    if p m then some (m, ms)
    else
      match takeFirst p ms with
      | none => none
      | some (x, rest) => some (x, m :: rest)

/-! ## Small helpers -/

/-- Update element `i` of a list. -/
def listSet {α : Type} : List α → Nat → α → List α
  | [], _, _ => []
  | _ :: xs, 0, v => v :: xs
  | x :: xs, i + 1, v => x :: listSet xs i v

/-- Element `i` of a list, or a default. -/
def listGet {α : Type} (d : α) : List α → Nat → α
  | [], _ => d
  | x :: _, 0 => x
  | _ :: xs, i + 1 => listGet d xs i

/-- Element `i` of a list, if it has one. -/
def listAt {α : Type} : List α → Nat → Option α
  | [], _ => none
  | x :: _, 0 => some x
  | _ :: xs, i + 1 => listAt xs i

/-- Drop element `i` of a list. -/
def listDrop {α : Type} : List α → Nat → List α
  | [], _ => []
  | _ :: xs, 0 => xs
  | x :: xs, i + 1 => x :: listDrop xs i

/-- Add a number to a list used as a set. -/
def addOnce (x : Nat) (l : List Nat) : List Nat := if l.contains x then l else l ++ [x]

/-- Drop a number from a list used as a set. -/
def dropAll (x : Nat) (l : List Nat) : List Nat := l.filter (fun y => y != x)

/-- Put an element before the first that does not come before it. -/
def insertBy {α : Type} (before : α → α → Bool) (x : α) : List α → List α
  | [] => [x]
  | y :: ys => if before y x then y :: insertBy before x ys else x :: y :: ys

/-- A list in order; equals keep their places. -/
def sortBy {α : Type} (before : α → α → Bool) (l : List α) : List α := l.foldr (insertBy (fun a b => before a b)) []

/-- A saturating 16-bit counter step. -/
def sat16 (v : BitVec 16) (n : Nat) : BitVec 16 := BitVec.ofNat 16 (satAdd 16 v.toNat n)

/-- Replace bits [lo + n − 1 : lo] of a number. -/
def putBits (v lo n x : Nat) : Nat := v - bitsOf v lo n * 2 ^ lo + (x % 2 ^ n) * 2 ^ lo

/-- Sign-extend the low `n` bits of a number to 64 bits. -/
def sext64 (n v : Nat) : W64 :=
  if bitOf v (n - 1) then BitVec.ofInt 64 ((bitsOf v 0 n : Int) - 2 ^ n) else BitVec.ofNat 64 (bitsOf v 0 n)

end Sys2Proof.Machine
end

