-- ==== Sys2Proof/Machine/Crypto.lean ====
section
/-! DEFINITION. Protected messages: AES-256-GCM nonces, opening and sealing over the opaque standard functions (R372,
R328), and the byte layouts that are authenticated (R190, R318). -/

namespace Sys2Proof.Machine

/-- Exclusive-or of data with the key stream of (key, nonce): encryption and decryption alike. -/
def gcmCrypt (key : BitVec 256) (nonce d : List Byte) : List Byte :=
  (List.range d.length).map (fun i => listGet 0 d i ^^^ Config.gcmByte key nonce i)

/-- Open a protected message: its plaintext if the tag is right. -/
def gcmOpen (key : BitVec 256) (nonce aad cipher : List Byte) (tag : BitVec 128) : Option (List Byte) :=
  if Config.gcmTag key nonce aad cipher = tag then some (gcmCrypt key nonce cipher) else none

/-- Seal a message: its ciphertext and tag. -/
def gcmSeal (key : BitVec 256) (nonce aad plain : List Byte) : List Byte × BitVec 128 :=
  let c := gcmCrypt key nonce plain
  (c, Config.gcmTag key nonce aad c)

/-- The 12 B nonce of a command-key message (R372): domain, SESSION, 0x00, SEQNO. -/
def cmdNonce (domain : Nat) (session : BitVec 12) (seq : W64) : List Byte :=
  leBytes 1 domain ++ leBytes 2 session.toNat ++ [0] ++ leBytes 8 seq.toNat

/-- Bytes 0 to 47 of a mail-slot message (R190). -/
def mailHead (m : MailMsg) : List Byte :=
  leBytes 8 (m.cmd.toNat + m.len.toNat * 2 ^ 8 + (if m.auth then 2 ^ 11 else 0) + (if m.ack then 2 ^ 12 else 0)
      + m.suite.toNat * 2 ^ 16 + m.gen.toNat * 2 ^ 32)
    ++ leBytes 8 m.seqno.toNat ++ leBytes 8 m.opa.toNat ++ leBytes 8 m.opb.toNat ++ leBytes 8 m.opc.toNat
    ++ leBytes 8 m.opd.toNat

/-- The 32 B header of a Beyfy message (R318). -/
def beyfyBytes (h : BeyfyHdr) : List Byte :=
  leBytes 8 (h.type.toNat + h.len.toNat * 2 ^ 8 + h.session.toNat * 2 ^ 16 + h.suite.toNat * 2 ^ 32 + h.gen.toNat * 2 ^ 40
      + h.status.toNat * 2 ^ 56)
    ++ leBytes 8 (h.tag.toNat + h.count.toNat * 2 ^ 16) ++ leBytes 8 h.addr.toNat ++ leBytes 8 h.arg.toNat

/-- The bytes of a 768-bit key or signature. -/
def keyBytes (k : BitVec 768) : List Byte := leBytes 96 k.toNat

/-- The bytes of a digest. -/
def digestBytes (d : Digest) : List Byte := leBytes 48 d.toNat

end Sys2Proof.Machine
end

