-- ==== Sys2Proof/Machine/Flags.lean ====
section
/-! DEFINITION. The flags: the group status (R109), token counters (R102), and the accumulator flags word (R137). -/

namespace Sys2Proof.Machine

/-- The group status word: bit 0 FENCE_ERR, bit 1 TOKEN_OVF, the rest 0 (R109). -/
def Slot.status (sl : Slot) : W64 :=
  BitVec.ofNat 64 ((if sl.fenceErr then 1 else 0) + (if sl.tokenOvf then 2 else 0))

/-- Signal a token: at 65,535 it stays there and sets TOKEN_OVF (R102). -/
def Slot.signal (sl : Slot) (k : Fin 8) : Slot :=
  let v := Table.get 0 sl.tokens k.val
  if v = 65535 then { sl with tokenOvf := true }
  else { sl with tokens := Table.set sl.tokens k.val (v + 1) }

/-- Signal a token if one is named. -/
def Slot.signalOpt (sl : Slot) : Option (Fin 8) → Slot
  | none => sl
  | some k => sl.signal k

/-- The word `AFLG` writes: INEXACT, WRAP, MODE, and the anchor sign-extended in [63:32] (R137). -/
def Acc.flagsWord (a : Acc) : W64 :=
  BitVec.ofNat 64 ((if a.inexact then 1 else 0) + (if a.wrapFlag then 2 else 0) + (if a.fp32 then 4 else 0)
    + (wrapInt 32 a.anchorInt) * 2 ^ 32)

/-- The clear of `AFLG` with MOD[0] = 1 (R137): INEXACT, every tally and OUT bit, and the sticky WRAP of FP32 mode. -/
def Acc.clearFlags (a : Acc) : Acc :=
  { a with elems := Table.mapVals (fun _ x => { x with tally := 0, out := false }) a.elems, inexact := false, wrap := false }

end Sys2Proof.Machine
end

