-- ==== Sys2Proof/Machine/Operands.lean ====
section
/-! DEFINITION. EGIS operands (chapter "EGIS instruction formats and summary"): the fields of the instruction word, the
ILLEGAL checks on them, registers and masks, poison marks, and the one way an instruction issues. -/

namespace Sys2Proof.Machine

/-! ## Fields of the instruction word (R84, R87) -/

/-- An instruction word and its extension word. -/
structure Insn where
  w : Nat
  l : Nat
deriving DecidableEq, Repr

/-- A field of the word. -/
def Insn.bits (i : Insn) (lo n : Nat) : Nat := bitsOf i.w lo n
/-- PR (R84). -/
def Insn.pr (i : Insn) : Nat := i.bits 8 4
/-- PN (R84). -/
def Insn.pn (i : Insn) : Bool := bitOf i.w 12
/-- X (R84). -/
def Insn.x (i : Insn) : Bool := bitOf i.w 13
/-- RD of formats R, I and M. -/
def Insn.rd (i : Insn) : Nat := i.bits 16 8
/-- RA of formats R and I. -/
def Insn.ra (i : Insn) : Nat := i.bits 24 8
/-- RB of format R. -/
def Insn.rb (i : Insn) : Nat := i.bits 32 8
/-- RC of format R. -/
def Insn.rc (i : Insn) : Nat := i.bits 40 8
/-- SK of format R. -/
def Insn.sk (i : Insn) : Nat := i.bits 48 3
/-- TY of format R. -/
def Insn.ty (i : Insn) : Nat := i.bits 52 4
/-- FN of format R, and of `VATOM`. -/
def Insn.fn (i : Insn) : Nat := i.bits 56 8
/-- IMM of format I, as it stands. -/
def Insn.imm (i : Insn) : Nat := i.bits 32 32
/-- The immediate operand: IMM sign-extended, or L (R87, R92). -/
def Insn.immOp (i : Insn) : W64 := if i.x then BitVec.ofNat 64 i.l else sext64 32 i.imm
/-- PS of formats B1 and B2. -/
def Insn.ps (i : Insn) : Nat := i.bits 16 4
/-- SA of format B1. -/
def Insn.sa (i : Insn) : Nat := i.bits 20 6
/-- SB of format B1. -/
def Insn.sb (i : Insn) : Nat := i.bits 26 6
/-- CC of format B1. -/
def Insn.cc (i : Insn) : Nat := i.bits 32 3
/-- CZ of format B1. -/
def Insn.cz (i : Insn) : Bool := bitOf i.w 35
/-- TOFF of format B1, as 32 bits. -/
def Insn.toff (i : Insn) : W32 := BitVec.ofNat 32 (sext64 24 (i.bits 40 24)).toNat
/-- JOFF of format B2. -/
def Insn.joff2 (i : Insn) : W32 := BitVec.ofNat 32 (sext64 22 (i.bits 20 22)).toNat
/-- TOFF of format B2. -/
def Insn.toff2 (i : Insn) : W32 := BitVec.ofNat 32 (sext64 22 (i.bits 42 22)).toNat
/-- SB of format M. -/
def Insn.base (i : Insn) : Nat := i.bits 24 6
/-- SP of format M. -/
def Insn.sp (i : Insn) : Nat := i.bits 30 2
/-- RI of format M. -/
def Insn.ri (i : Insn) : Nat := i.bits 32 8
/-- IX of format M. -/
def Insn.ix (i : Insn) : Bool := bitOf i.w 40
/-- SC of format M. -/
def Insn.sc (i : Insn) : Nat := i.bits 41 2
/-- SZ of format M. -/
def Insn.sz (i : Insn) : Nat := i.bits 43 3
/-- SX of format M. -/
def Insn.sx (i : Insn) : Bool := bitOf i.w 46
/-- TK of format M. -/
def Insn.tk (i : Insn) : Nat := i.bits 48 4
/-- OFF of format M, as it stands. -/
def Insn.off (i : Insn) : Nat := i.bits 52 12
/-- The byte offset of a format M instruction: OFF sign-extended, or L; 0 or L for `VATOM` (R99, R103). -/
def Insn.offset (i : Insn) (atom : Bool) : W64 :=
  if i.x then BitVec.ofNat 64 i.l else if atom then 0 else sext64 12 i.off
/-- The token that TK names. -/
def Insn.token (i : Insn) : Option (Fin 8) := if bitOf i.tk 3 then some (Fin.ofNat 8 i.tk) else none
/-- DT of format X. -/
def Insn.dt (i : Insn) : Nat := i.bits 16 4
/-- SA of format X. -/
def Insn.xsa (i : Insn) : Nat := i.bits 20 4
/-- SB of format X. -/
def Insn.xsb (i : Insn) : Nat := i.bits 24 4
/-- SM of format X. -/
def Insn.xsm (i : Insn) : Nat := i.bits 28 4
/-- FA of format X. -/
def Insn.fa (i : Insn) : Nat := i.bits 32 4
/-- FB of format X. -/
def Insn.fb (i : Insn) : Nat := i.bits 36 4
/-- SS of format X. -/
def Insn.ss (i : Insn) : Nat := i.bits 40 6
/-- MOD of format X. -/
def Insn.mod (i : Insn) : Nat := i.bits 48 8

/-- The length of the instruction in 8 B units (R83). -/
def Insn.units (i : Insn) : W32 := if i.x then 2 else 1

/-! ## ILLEGAL checks on the header and the formats (R84 to R89, R92)

A field that an opcode gives no use must be 0: R85 makes any value the chapter does not define illegal (log 6). -/

/-- Reserved bits [15:14] are 0, and PR and PN are as R86 asks: free on a predicated instruction but for PR = 0 with
PN = 1, zero on every other. -/
def Insn.headerOk (i : Insn) (pred : Bool) : Bool :=
  i.bits 14 2 = 0 && (if pred then !(i.pr = 0 && i.pn) else i.pr = 0 && !i.pn)

/-- Format N: everything above the header is 0. -/
def Insn.okN (i : Insn) : Bool := i.headerOk false && !i.x && i.bits 16 48 = 0

/-- Format R of a scalar, mask or DMA opcode, with the largest RD, RA and RB it allows and the FN bits it defines. X = 1
is allowed with RB = 0 and SK bit 49 = 0 (R92); an opcode without an operand B makes no use of L. -/
def Insn.okR (i : Insn) (rd ra rb fnMask : Nat) : Bool :=
  i.headerOk false && !bitOf i.w 51 && i.rd ≤ rd && i.ra ≤ ra && i.rb ≤ rb && i.rc = 0 && i.sk = 0 && i.ty = 0
    && i.fn ≤ fnMask && (!i.x || i.rb = 0)

/-- Format I of a scalar opcode; with X = 1, IMM must be 0 (R92). -/
def Insn.okI (i : Insn) (rd ra : Nat) : Bool :=
  i.headerOk false && i.rd ≤ rd && i.ra ≤ ra && (!i.x || i.imm = 0)

/-- Format B1: bits [39:36] are 0 and there is no extension word. -/
def Insn.okB1 (i : Insn) : Bool := i.headerOk false && !i.x && i.bits 36 4 = 0

/-- Format F. -/
def Insn.okF (i : Insn) : Bool := i.headerOk false && !i.x && i.bits 26 6 = 0 && i.bits 40 24 = 0

/-- Format X. -/
def Insn.okX (i : Insn) : Bool := i.headerOk false && !i.x && i.bits 46 2 = 0 && i.bits 56 8 = 0

/-- Format M: bit 47 is 0, SP is 0 or 1, and with X = 1 OFF is 0 (R92); `tk` says whether TK may be set (R102), `sx`
whether SX may (R101). -/
def Insn.okM (i : Insn) (pred tk sx atom : Bool) : Bool :=
  i.headerOk pred && !bitOf i.w 47 && i.sp ≤ 1 && (atom || !i.x || i.off = 0)
    && (i.tk = 0 || (tk && bitOf i.tk 3)) && (sx || !i.sx)

/-! ## Registers and masks -/

/-- Scalar register r. -/
def Slot.sreg (sl : Slot) (r : Nat) : W64 := Table.get 0 sl.s r

/-- All W bits (R54, R60). -/
def Slot.full (sl : Slot) : BitVec 128 := BitVec.ofNat 128 (2 ^ sl.width - 1)

/-- Mask register r: bits at or above W read 0 (R60). -/
def Slot.mask (sl : Slot) (r : Nat) : BitVec 128 := Table.get 0 sl.p r &&& sl.full

/-- Write a scalar register; its poison mark goes with the whole write (log 7). -/
def Slot.setS (sl : Slot) (r : Nat) (v : W64) : Slot :=
  { sl with s := Table.set sl.s r v, marks := sl.marks.filter (fun m => m.place != .sreg r) }

/-- Write a mask register: bits at or above W are ignored (R60). -/
def Slot.setP (sl : Slot) (r : Nat) (v : BitVec 128) : Slot := { sl with p := Table.set sl.p r (v &&& sl.full) }

/-- The key of register r of thread t. -/
def gKey (r t : Nat) : Nat := 128 * r + t

/-- Register r of thread t. -/
def Slot.greg (sl : Slot) (r t : Nat) : W32 := Table.get 0 sl.g (gKey r t)

/-- Register r of thread t, or the pair r, r + 1 for a 64-bit type, low half in r (R90). -/
def Slot.gval (sl : Slot) (wide : Bool) (r t : Nat) : Nat :=
  if wide then (sl.greg r t).toNat + 2 ^ 32 * (sl.greg (r + 1) t).toNat else (sl.greg r t).toNat

/-- Write register r, or the pair, of thread t. -/
def Slot.setG (sl : Slot) (wide : Bool) (r t v : Nat) : Slot :=
  let g1 := Table.set sl.g (gKey r t) (BitVec.ofNat 32 v)
  { sl with g := if wide then Table.set g1 (gKey (r + 1) t) (BitVec.ofNat 32 (v / 2 ^ 32)) else g1 }

/-- The threads an instruction acts for (R86): p0 ∧ pPR, or p0 ∧ ¬pPR; PR = 0 selects p0. -/
def Slot.active (sl : Slot) (i : Insn) : BitVec 128 :=
  if i.pr = 0 then sl.mask 0 else if i.pn then sl.mask 0 &&& ~~~(sl.mask i.pr) else sl.mask 0 &&& sl.mask i.pr

/-- Whether thread t is in a mask. -/
def inMask (m : BitVec 128) (t : Nat) : Bool := m.getLsbD t

/-- Give every active thread of a group a new value of rd. -/
def Slot.writeThreads (sl : Slot) (wide : Bool) (rd : Nat) (m : BitVec 128) (f : Nat → Nat) : Slot :=
  (List.range sl.width).foldl (fun x t => if inMask m t then x.setG wide rd t (f t) else x) sl

/-- Byte b of row i of tile t. -/
def tileKey (t i b : Nat) : Nat := 4096 * t + 64 * i + b

/-- A tile row as bytes by position. -/
def Slot.row (sl : Slot) (t i : Nat) : Nat → Byte := fun b => sl.tiles.read (tileKey t i b)

/-- Whether the kernel's allocation holds g registers r to r + n − 1 (R60). -/
def Slot.hasG (sl : Slot) (r n : Nat) : Bool := r + n ≤ sl.gregs

/-- Accumulator k. -/
def Slot.acc (sl : Slot) (k : Nat) : Acc := Table.get Acc.reset sl.accs k

/-- Write accumulator k. -/
def Slot.setAcc (sl : Slot) (k : Nat) (a : Acc) : Slot := { sl with accs := Table.set sl.accs k a }

/-! ## Places read and written, and readiness (R62, R73) -/

/-- What an instruction reads and writes of the places a load can leave pending or poisoned. For a g register `part`
says that only some threads are written. -/
structure Use where
  engine : Engine
  reads  : List Place
  writes : List Place
  part   : Bool
deriving DecidableEq, Repr

/-- An s register as a place, for a list. -/
def pS (r : Nat) : List Place := [.sreg r]

/-- A g register or pair as places. -/
def pG (wide : Bool) (r : Nat) : List Place := if wide then [.greg r, .greg (r + 1)] else [.greg r]

/-- All rows of a tile. -/
def pTile (t : Nat) : List Place := (List.range 64).map (fun i => .row t i)

/-- Rows lo to lo + n − 1 of a tile. -/
def pRows (t lo n : Nat) : List Place := (List.range n).map (fun i => .row t (lo + i))

/-- The places an outstanding load or atomic will write. -/
def MemOp.pendingPlaces (o : MemOp) : List Place :=
  match o.only with
  | some ps => ps
  | none =>
    match o.dest with
    | .none => []
    | .sreg r => pS r
    | .greg r => pG false r
    | .pair r => pG true r
    | .tile t => pTile t

/-- Whether a place waits for load data. -/
def Slot.pendingPlace (sl : Slot) (p : Place) : Bool := sl.ops.any (fun o => o.load && o.pendingPlaces.contains p)

/-- The bit of an engine in an `EFENCE` mask (R108). -/
def engineBit : Engine → Nat
  | .scalar => 0
  | .vector => 1
  | .matrix => 2
  | .dma => 3

/-- Whether a fence holds back an engine. -/
def Slot.fenced (sl : Slot) (e : Engine) : Bool := sl.fences.any (fun f => f.dst.getLsbD (engineBit e))

/-- Whether the group can issue anything at all: ACTIVE, no fault found, not waiting as a whole, no acquire load
outstanding (R62, R106). -/
def Slot.canIssue (sl : Slot) : Bool :=
  decide (sl.state = .active) && decide (sl.fault = none) && decide (sl.wait = .none) && !sl.ops.any (fun o => o.acquire)

/-- Whether the registers and the engine of an instruction are free (R62). -/
def Slot.ready (sl : Slot) (u : Use) : Bool :=
  !sl.fenced u.engine && !(u.reads ++ u.writes).any sl.pendingPlace

/-- The address of the first poison mark met (R73): a marked place read, or a marked g register written in part. An
instruction whose active mask is empty meets the marks of its operands too (DESIGN CHOICE, log 182). -/
def Slot.poisonHit (sl : Slot) (u : Use) : Option W64 :=
  let hit := fun (p : Place) => (sl.marks.find? (fun m => decide (m.place = p))).map (fun m => m.addr)
  match u.reads.findSome? hit with
  | some a => some a
  | none => if u.part then (u.writes.filter (fun p => match p with | .greg _ => true | _ => false)).findSome? hit else none

/-- Clear the marks of the places an instruction wholly writes (R73). -/
def Slot.clearMarks (sl : Slot) (u : Use) : Slot :=
  if u.part then sl else { sl with marks := sl.marks.filter (fun m => !u.writes.contains m.place) }

/-- Whether a fetch of `n` units at pc lies in the kernel's code (R53). -/
def Slot.fetchOk (sl : Slot) (n : Nat) : Bool :=
  decide (sl.entry ≤ sl.pc.toNat) && decide (sl.pc.toNat + n ≤ sl.entry + sl.codeLen)

/-- Record the fault of an instruction: the group issues nothing more and parks when its earlier instructions have
completed (R72). -/
def Slot.park (sl : Slot) (c : Cause) (addr : W64) : Slot := { sl with fault := some { cause := c, addr := addr } }

/-- A fault of R74. -/
def parkWith {α : Type} (c : Cause) (addr : W64) : Except GroupFault α := .error { cause := c, addr := addr }

/-- The one way an EGIS instruction issues. A group that cannot issue, or an instruction that is not ready, leaves
everything as it is (log 5). Then, in order: the fetch (R53), the ILLEGAL checks (R85), readiness (R62), poison marks
(R73), and the instruction's own effect, which may still find a fault. `eff` gets the slot with its pc moved past the
instruction and the marks of whole writes cleared, and the state; it answers the slot and the state of everything else. -/
def State.issue (s : State) (g : GroupRef) (w l : W64) (legal : Insn → Slot → Bool) (use : Insn → Slot → Use)
    (eff : Insn → Slot → Slot → State → Except GroupFault Slot × State) : State :=
  let i : Insn := ⟨w.toNat, l.toNat⟩
  let sl := s.slot g
  if !sl.canIssue then s
  else if !sl.fetchOk i.units.toNat || !assignedOpcode (i.bits 0 8) || !legal i sl then s.updSlot g (fun x => x.park .illegal 0)
  else
    let u := use i sl
    if !sl.ready u then s
    else
      match sl.poisonHit u with
      | some a => s.updSlot g (fun x => x.park .poison a)
      | none =>
        match eff i sl { sl.clearMarks u with pc := sl.pc + i.units } s with
        | (.error f, s1) => s1.updSlot g (fun x => x.park f.cause f.addr)
        | (.ok x, s1) => s1.updSlot g (fun _ => x)

/-- Issue of an instruction that changes only its group. -/
def State.issueSlot (s : State) (g : GroupRef) (w l : W64) (legal : Insn → Slot → Bool) (use : Insn → Slot → Use)
    (eff : Insn → Slot → Slot → Except GroupFault Slot) : Out :=
  .next (s.issue g w l legal use (fun i sl nx st => (eff i sl nx, st)))

/-- A write of mask register r: inside a matrix region p0 keeps all W bits, or DIVERGENCE (R68). -/
def Slot.writeMask (sl : Slot) (r : Nat) (v : BitVec 128) : Except GroupFault Slot :=
  if sl.inMx && r = 0 && v &&& sl.full != sl.full then parkWith .divergence 0 else .ok (sl.setP r v)

end Sys2Proof.Machine
end

