-- ==== Sys2Proof/Machine/Scalar.lean ====
section
/-! DEFINITION. Scalar arithmetic and logic, opcodes 0x20 to 0x3F (R93). -/

namespace Sys2Proof.Machine

/-- SADD: the sum on 64 bits (R93). -/
def saddValue (a b : W64) : W64 := a + b

/-- SSUB: the difference (R93). -/
def ssubValue (a b : W64) : W64 := a - b

/-- SMUL: the low 64 bits of the product (R93). -/
def smulValue (a b : W64) : W64 := a * b

/-- SAND: bitwise and (R93). -/
def sandValue (a b : W64) : W64 := a &&& b

/-- SOR: bitwise or (R93). -/
def sorValue (a b : W64) : W64 := a ||| b

/-- SXOR: bitwise exclusive or (R93). -/
def sxorValue (a b : W64) : W64 := a ^^^ b

/-- SSHL: shift left by the low 6 bits of the count (R93). -/
def sshlValue (a b : W64) : W64 := a <<< (b.toNat % 64)

/-- SSHR: logical right shift by the low 6 bits of the count (R93). -/
def sshrValue (a b : W64) : W64 := a >>> (b.toNat % 64)

/-- SSRA: arithmetic right shift by the low 6 bits of the count (R93). -/
def ssraValue (a b : W64) : W64 := a.sshiftRight (b.toNat % 64)

/-- SMIN: the signed minimum (R93). -/
def sminValue (a b : W64) : W64 := if b.slt a then b else a

/-- SMAX: the signed maximum (R93). -/
def smaxValue (a b : W64) : W64 := if a.slt b then b else a

/-- SMINU: the unsigned minimum (R93). -/
def sminuValue (a b : W64) : W64 := if b < a then b else a

/-- SMAXU: the unsigned maximum (R93). -/
def smaxuValue (a b : W64) : W64 := if a < b then b else a

/-- SSLT: 1 if signed less, else 0 (R93). -/
def ssltValue (a b : W64) : W64 := if a.slt b then 1 else 0

/-- SSLTU: 1 if unsigned less, else 0 (R93). -/
def ssltuValue (a b : W64) : W64 := if a < b then 1 else 0

/-- Operand B of a scalar format R instruction: sRB, or L (R92). -/
def Slot.scalarB (sl : Slot) (i : Insn) : W64 := if i.x then BitVec.ofNat 64 i.l else sl.sreg i.rb

/-- A scalar instruction sRD ← sRA op sRB (R93). -/
def scalarOp (f : W64 → W64 → W64) (g : GroupRef) (w l : W64) (s : State) : Out :=
  s.issueSlot g w l (fun i _ => i.okR 63 63 63 0)
    (fun i _ => { engine := .scalar, reads := pS i.ra ++ (if i.x then [] else pS i.rb), writes := pS i.rd, part := false })
    (fun i sl nx => .ok (nx.setS i.rd (f (sl.sreg i.ra) (sl.scalarB i))))

/-- A scalar immediate instruction sRD ← sRA op IMM (R93). -/
def scalarImm (f : W64 → W64 → W64) (g : GroupRef) (w l : W64) (s : State) : Out :=
  s.issueSlot g w l (fun i _ => i.okI 63 63)
    (fun i _ => { engine := .scalar, reads := pS i.ra, writes := pS i.rd, part := false })
    (fun i sl nx => .ok (nx.setS i.rd (f (sl.sreg i.ra) i.immOp)))

/-- SADD. -/
def execSadd (g : GroupRef) (w l : W64) (s : State) : Out := scalarOp saddValue g w l s

/-- SSUB. -/
def execSsub (g : GroupRef) (w l : W64) (s : State) : Out := scalarOp ssubValue g w l s

/-- SMUL. -/
def execSmul (g : GroupRef) (w l : W64) (s : State) : Out := scalarOp smulValue g w l s

/-- SAND. -/
def execSand (g : GroupRef) (w l : W64) (s : State) : Out := scalarOp sandValue g w l s

/-- SOR. -/
def execSor (g : GroupRef) (w l : W64) (s : State) : Out := scalarOp sorValue g w l s

/-- SXOR. -/
def execSxor (g : GroupRef) (w l : W64) (s : State) : Out := scalarOp sxorValue g w l s

/-- SSHL. -/
def execSshl (g : GroupRef) (w l : W64) (s : State) : Out := scalarOp sshlValue g w l s

/-- SSHR. -/
def execSshr (g : GroupRef) (w l : W64) (s : State) : Out := scalarOp sshrValue g w l s

/-- SSRA. -/
def execSsra (g : GroupRef) (w l : W64) (s : State) : Out := scalarOp ssraValue g w l s

/-- SMIN. -/
def execSmin (g : GroupRef) (w l : W64) (s : State) : Out := scalarOp sminValue g w l s

/-- SMAX. -/
def execSmax (g : GroupRef) (w l : W64) (s : State) : Out := scalarOp smaxValue g w l s

/-- SMINU. -/
def execSminu (g : GroupRef) (w l : W64) (s : State) : Out := scalarOp sminuValue g w l s

/-- SMAXU. -/
def execSmaxu (g : GroupRef) (w l : W64) (s : State) : Out := scalarOp smaxuValue g w l s

/-- SSLT. -/
def execSslt (g : GroupRef) (w l : W64) (s : State) : Out := scalarOp ssltValue g w l s

/-- SSLTU. -/
def execSsltu (g : GroupRef) (w l : W64) (s : State) : Out := scalarOp ssltuValue g w l s

/-- SADD_IMM. -/
def execSaddImm (g : GroupRef) (w l : W64) (s : State) : Out := scalarImm saddValue g w l s

/-- SSUB_IMM. -/
def execSsubImm (g : GroupRef) (w l : W64) (s : State) : Out := scalarImm ssubValue g w l s

/-- SMUL_IMM. -/
def execSmulImm (g : GroupRef) (w l : W64) (s : State) : Out := scalarImm smulValue g w l s

/-- SAND_IMM. -/
def execSandImm (g : GroupRef) (w l : W64) (s : State) : Out := scalarImm sandValue g w l s

/-- SOR_IMM. -/
def execSorImm (g : GroupRef) (w l : W64) (s : State) : Out := scalarImm sorValue g w l s

/-- SXOR_IMM. -/
def execSxorImm (g : GroupRef) (w l : W64) (s : State) : Out := scalarImm sxorValue g w l s

/-- SSHL_IMM. -/
def execSshlImm (g : GroupRef) (w l : W64) (s : State) : Out := scalarImm sshlValue g w l s

/-- SSHR_IMM. -/
def execSshrImm (g : GroupRef) (w l : W64) (s : State) : Out := scalarImm sshrValue g w l s

/-- SSRA_IMM. -/
def execSsraImm (g : GroupRef) (w l : W64) (s : State) : Out := scalarImm ssraValue g w l s

/-- SMIN_IMM. -/
def execSminImm (g : GroupRef) (w l : W64) (s : State) : Out := scalarImm sminValue g w l s

/-- SMAX_IMM. -/
def execSmaxImm (g : GroupRef) (w l : W64) (s : State) : Out := scalarImm smaxValue g w l s

/-- SMINU_IMM. -/
def execSminuImm (g : GroupRef) (w l : W64) (s : State) : Out := scalarImm sminuValue g w l s

/-- SMAXU_IMM. -/
def execSmaxuImm (g : GroupRef) (w l : W64) (s : State) : Out := scalarImm smaxuValue g w l s

/-- SSLT_IMM. -/
def execSsltImm (g : GroupRef) (w l : W64) (s : State) : Out := scalarImm ssltValue g w l s

/-- SSLTU_IMM. -/
def execSsltuImm (g : GroupRef) (w l : W64) (s : State) : Out := scalarImm ssltuValue g w l s

/-- SLI: sRD ← IMM, or L (R93). -/
def execSli (g : GroupRef) (w l : W64) (s : State) : Out :=
  s.issueSlot g w l (fun i _ => i.okI 63 0)
    (fun i _ => { engine := .scalar, reads := [], writes := pS i.rd, part := false })
    (fun i _ nx => .ok (nx.setS i.rd i.immOp))

end Sys2Proof.Machine
end

