-- ==== Sys2Proof/Machine/Control.lean ====
section
/-! DEFINITION. Control flow, divergence, matrix regions, tokens and the group status: opcodes 0x01 to 0x0C, 0x10 and
0x11 (R65 to R69, R93 to R98, R102, R109, R114). -/

namespace Sys2Proof.Machine

/-- An instruction of the scalar engine that reads and writes no register a load can leave pending. -/
def useNone (_ : Insn) (_ : Slot) : Use := { engine := .scalar, reads := [], writes := [], part := false }

/-- NOP: no effect (R93). -/
def execNop (g : GroupRef) (w l : W64) (s : State) : Out :=
  s.issueSlot g w l (fun i _ => i.okN) useNone (fun _ _ nx => .ok nx)

/-- The condition of `BR` (R94). -/
def brCond (cc : Nat) (a b : W64) : Bool :=
  if cc = 0 then a = b else if cc = 1 then a ≠ b else if cc = 2 then a.slt b else if cc = 3 then !a.slt b
  else if cc = 4 then a < b else if cc = 5 then !decide (a < b) else true

/-- The legal fields of `BR`: PS is 0, CC is not 7, and with CC 6 SA, SB and CZ are 0 (R94). -/
def brLegal (i : Insn) : Bool :=
  i.okB1 && i.ps = 0 && i.cc ≠ 7 && (i.cc ≠ 6 || (i.sa = 0 && i.sb = 0 && !i.cz))

/-- BR: if CC holds for sSA and sSB (or 0), go to pc + TOFF (R93, R94). -/
def execBr (g : GroupRef) (w l : W64) (s : State) : Out :=
  s.issueSlot g w l (fun i _ => brLegal i)
    (fun i _ => { engine := .scalar, reads := if i.cc = 6 then [] else pS i.sa ++ (if i.cz then [] else pS i.sb), writes := [], part := false })
    (fun i sl nx =>
      let b : W64 := if i.cz then 0 else sl.sreg i.sb
      .ok (if brCond i.cc (sl.sreg i.sa) b then { nx with pc := sl.pc + i.toff } else nx))

/-- The legal fields of `BRANY` and `BRNONE`: only PS and TOFF are used. -/
def brMaskLegal (i : Insn) : Bool := i.okB1 && i.sa = 0 && i.sb = 0 && i.cc = 0 && !i.cz

/-- BRANY: go to pc + TOFF if p0 ∧ pPS has any bit set (R93, R94). -/
def execBrany (g : GroupRef) (w l : W64) (s : State) : Out :=
  s.issueSlot g w l (fun i _ => brMaskLegal i) useNone
    (fun i sl nx => .ok (if sl.mask 0 &&& sl.mask i.ps != 0 then { nx with pc := sl.pc + i.toff } else nx))

/-- BRNONE: go to pc + TOFF if p0 ∧ pPS is empty (R93, R94). -/
def execBrnone (g : GroupRef) (w l : W64) (s : State) : Out :=
  s.issueSlot g w l (fun i _ => brMaskLegal i) useNone
    (fun i sl nx => .ok (if sl.mask 0 &&& sl.mask i.ps = 0 then { nx with pc := sl.pc + i.toff } else nx))

/-- BRD pN, T, J (R66). Inside a matrix region a split is DIVERGENCE (R68); with 16 entries on the stack it is
STACK_OVERFLOW. Where both hold, DIVERGENCE comes first (DESIGN CHOICE, log 182). -/
def brdEffect (i : Insn) (sl nx : Slot) : Except GroupFault Slot :=
  let e := sl.mask 0
  let taken := e &&& sl.mask i.ps
  let fall := e &&& ~~~(sl.mask i.ps)
  if fall = 0 then .ok { nx with pc := sl.pc + i.toff2 }
  else if taken = 0 then .ok nx
  else if sl.inMx then parkWith .divergence 0
  else if 16 ≤ sl.stack.length then parkWith .stackOverflow 0
  else
    let entry : StackEntry := { join := sl.pc + i.joff2, all := e, pend := fall, pc := sl.pc + 1 }
    let nx1 := nx.setP 0 taken
    .ok { nx1 with stack := entry :: sl.stack, pc := sl.pc + i.toff2 }

/-- BRD. -/
def execBrd (g : GroupRef) (w l : W64) (s : State) : Out :=
  s.issueSlot g w l (fun i _ => i.headerOk false && !i.x) useNone brdEffect

/-- JOIN at address A (R67): acts only when the top entry's J equals A. A write of p0 inside a matrix region keeps all
W bits (R68). -/
def joinEffect (_ : Insn) (sl nx : Slot) : Except GroupFault Slot :=
  match sl.stack with
  | [] => .ok nx
  | e :: rest =>
    if e.join ≠ sl.pc then .ok nx
    else if e.pend ≠ 0 then
      (nx.writeMask 0 e.pend).map (fun x => { x with stack := { e with pend := 0 } :: rest, pc := e.pc })
    else (nx.writeMask 0 e.all).map (fun x => { x with stack := rest })

/-- JOIN. -/
def execJoin (g : GroupRef) (w l : W64) (s : State) : Out :=
  s.issueSlot g w l (fun i _ => i.okN) useNone joinEffect

/-- JMPR: go to sRA[31:0] (R93, R95). -/
def execJmpr (g : GroupRef) (w l : W64) (s : State) : Out :=
  s.issueSlot g w l (fun i _ => i.okR 0 63 0 0)
    (fun i _ => { engine := .scalar, reads := pS i.ra, writes := [], part := false })
    (fun i sl nx => .ok { nx with pc := BitVec.ofNat 32 (sl.sreg i.ra).toNat })

/-- CALL: sSA ← pc + 1; go to pc + TOFF (R93, R95). -/
def execCall (g : GroupRef) (w l : W64) (s : State) : Out :=
  s.issueSlot g w l (fun i _ => i.okB1 && i.ps = 0 && i.sb = 0 && i.cc = 0 && !i.cz)
    (fun i _ => { engine := .scalar, reads := [], writes := pS i.sa, part := false })
    (fun i sl nx =>
      let x := nx.setS i.sa (BitVec.ofNat 64 (sl.pc + 1).toNat)
      .ok { x with pc := sl.pc + i.toff })

/-- EXIT: the group moves to DRAINING, whatever p0 and the stack hold (R97); inside a matrix region it is ILLEGAL (R69). -/
def execExit (g : GroupRef) (w l : W64) (s : State) : Out :=
  s.issueSlot g w l (fun i sl => i.okN && !sl.inMx) useNone
    (fun _ _ nx => .ok { nx with state := .draining, exited := true })

/-- TRAP: park with cause TRAP; FAULT_ADDR takes IMM, zero-extended, or L (R98). -/
def execTrap (g : GroupRef) (w l : W64) (s : State) : Out :=
  s.issueSlot g w l (fun i _ => i.okI 0 0) useNone
    (fun i _ _ => parkWith .trap (BitVec.ofNat 64 (if i.x then i.l else i.imm)))

/-- MXBEGIN: enter a matrix region; ILLEGAL inside one (R69), DIVERGENCE unless p0 holds all W bits (R68, R114). -/
def execMxbegin (g : GroupRef) (w l : W64) (s : State) : Out :=
  s.issueSlot g w l (fun i sl => i.okN && !sl.inMx) useNone
    (fun _ sl nx => if sl.mask 0 = sl.full then .ok { nx with inMx := true } else parkWith .divergence 0)

/-- MXEND: leave the matrix region; ILLEGAL outside one (R69, R114). -/
def execMxend (g : GroupRef) (w l : W64) (s : State) : Out :=
  s.issueSlot g w l (fun i sl => i.okN && sl.inMx) useNone (fun _ _ nx => .ok { nx with inMx := false })

/-- TWAIT kN, n: ready once kN ≥ n, then n is subtracted (R102). Until then it has not issued. -/
def execTwait (g : GroupRef) (w l : W64) (s : State) : Out :=
  let i : Insn := ⟨w.toNat, l.toNat⟩
  let sl := s.slot g
  let n := (if i.x then i.l else i.imm)
  let legal := assignedOpcode (i.bits 0 8) && i.okI 7 0 && decide (1 ≤ n) && decide (n ≤ 65535)
  if legal && decide ((Table.get 0 sl.tokens i.rd).toNat < n) then
    (if sl.canIssue && !sl.fetchOk i.units.toNat then .next (s.updSlot g (fun x => x.park .illegal 0)) else .next s)
  else
    s.issueSlot g w l (fun _ _ => legal) useNone
      (fun i sl nx => .ok { nx with tokens := Table.set nx.tokens i.rd (Table.get 0 sl.tokens i.rd - BitVec.ofNat 16 n) })

/-- GSR: sRD ← group status; FN[0] = 1 clears each bit returned as 1 (R109). -/
def execGsr (g : GroupRef) (w l : W64) (s : State) : Out :=
  s.issueSlot g w l (fun i _ => i.okR 63 0 0 1)
    (fun i _ => { engine := .scalar, reads := [], writes := pS i.rd, part := false })
    (fun i sl nx =>
      let x := nx.setS i.rd sl.status
      .ok (if i.fn = 1 then { x with fenceErr := false, tokenOvf := false } else x))

/-- The operation is a group atomic. -/
def MemOp.atomic (o : MemOp) : Bool := o.replay.any (fun r => r.kind = .atomic)

/-- The operation has accesses not yet performed (R150): loads whose data has not come, atomic words not applied, and at
ROOM and MODULE scope writes and contributions not taken at their serialising point. At CORE scope a write is performed
when it enters the core's port; Room DMA has no event of its own there and is awaited as at ROOM (log 50). -/
def MemOp.unperformed (o : MemOp) (core : Bool) : Bool :=
  (o.load && o.replay.any (fun r => r.kind = .read)) || (o.open_ != 0 && (!core || o.atomic || o.engine = .dma))

/-- The operations of the engines in `mask` with accesses not yet performed. -/
def Slot.outstanding (sl : Slot) (core : Bool) (mask : BitVec 4) : List Nat :=
  (sl.ops.filter (fun o => mask.getLsbD (engineBit o.engine) && o.unperformed core)).map (fun o => o.id)

/-- The writes of a CORE-scope fence's engines have entered the core's port: no later access of the core to their bytes
passes them (R150). -/
def State.enterPort (s : State) (g : GroupRef) (sl : Slot) (mask : BitVec 4) : State :=
  let mine := fun (r : Req) => match r.owner with
    | .group h op => h = g && sl.ops.any (fun o => o.id = op && mask.getLsbD (engineBit o.engine))
    | _ => false
  { s with reqs := Table.mapVals (fun _ r => if r.kind = .write && mine r then { r with ported := true } else r) s.reqs }

/-- EFENCE (R108): the group's DST engines wait until every access its SRC engines issued earlier has been performed at
SCOPE; with nothing outstanding it is complete at once. SCOPE 0 is CORE. -/
def execEfence (g : GroupRef) (w l : W64) (s : State) : Out :=
  .next (s.issue g w l
    (fun i _ => i.okF && i.bits 16 4 ≠ 0 && i.bits 20 4 ≠ 0 && i.bits 24 2 ≠ 3 && i.bits 32 8 = 0) useNone
    (fun i sl nx st =>
      let src : BitVec 4 := BitVec.ofNat 4 (i.bits 16 4)
      let core := decide (i.bits 24 2 = 0)
      let await := sl.outstanding core src
      (.ok (if await = [] then nx
        else { nx with fences := nx.fences ++ [{ core := core, dst := BitVec.ofNat 4 (i.bits 20 4), await := await }] }),
       if core then st.enterPort g sl src else st)))

/-- EFENCE_COMPLETE: the first fence all of whose accesses have been performed completes (R108, R109). -/
def execEfenceComplete (g : GroupRef) (s : State) : Out :=
  let sl := s.slot g
  match sl.fences.findIdx? (fun f => !f.await.any (fun o => (sl.outstanding f.core 15).contains o)) with
  | none => .next s
  | some k => .next (s.updSlot g (fun x => { x with fences := listDrop x.fences k }))

/-- RBAR (R110): the group waits for its earlier accesses, then arrives at barrier BAR with COUNT, 1 to 192. -/
def execRbar (g : GroupRef) (w l : W64) (s : State) : Out :=
  s.issueSlot g w l
    (fun i _ => i.okF && i.bits 20 4 = 0 && i.bits 24 2 = 0 && decide (1 ≤ i.bits 32 8) && decide (i.bits 32 8 ≤ 192))
    useNone (fun i _ nx => .ok { nx with wait := .rbar (i.bits 16 4) (i.bits 32 8) })

/-- Release every group of a Room that waits at barrier `b`. -/
def State.releaseBarrier (s : State) (r : RoomId) (b : Nat) : State :=
  let free := fun (x : Slot) => if x.wait = .atBarrier b then { x with wait := .none } else x
  let one := fun (st : State) (c : Fin 6) =>
    st.updCore ⟨r, c⟩ (fun x => { x with slots := Table.mapVals (fun _ sl => free sl) x.slots })
  [0, 1, 2, 3, 4, 5].foldl one s

/-- RBAR_ARRIVAL: with its earlier accesses performed the group arrives (R110). The Hall takes arrivals one at a time:
the first of a phase fixes COUNT, one with another COUNT parks ILLEGAL at its RBAR, and the one that completes the
count releases every waiting group and starts a new phase (R111). -/
def execRbarArrival (g : GroupRef) (s : State) : Out :=
  let sl := s.slot g
  match sl.wait with
  | .rbar bar count =>
    if sl.outstanding false 15 ≠ [] then .next s
    else
      let r := g.core.room
      let b := Table.get { count := 0, want := 0, phase := 0 } (s.room r).barriers bar
      if b.count ≠ 0 && b.want ≠ count then
        .next (s.updSlot g (fun x => { x.park .illegal 0 with wait := .none, pc := x.pc - 1 }))
      else if b.count + 1 = count then
        let s1 := s.updRoom r (fun x =>
          { x with barriers := Table.set x.barriers bar { count := 0, want := 0, phase := b.phase + 1 } })
        .next ((s1.updSlot g (fun x => { x with wait := .none })).releaseBarrier r bar)
      else
        let s1 := s.updRoom r (fun x =>
          { x with barriers := Table.set x.barriers bar { count := b.count + 1, want := count, phase := b.phase } })
        .next (s1.updSlot g (fun x => { x with wait := .atBarrier bar }))
  | _ => .next s

end Sys2Proof.Machine
end

