-- ==== Sys2Proof/Machine/Vector.lean ====
section
/-! DEFINITION. The vector engine's arithmetic, conversions, moves and mask instructions: opcodes 0x40 to 0x5F (R86,
R89 to R91, R93, R118 to R122). -/

namespace Sys2Proof.Machine

/-- The 64-bit element types (R90). -/
def tyWide (ty : Nat) : Bool := ty = 5 || ty = 6

/-- Integer element types. -/
def tyInteger (ty : Nat) : Bool := ty = 0 || ty = 1 || ty = 5 || ty = 6

/-- A source field is legal: unused and 0, a broadcast s register (R89), or an allocated g register or pair, the pair
even (R60, R91). -/
def srcLegal (sl : Slot) (used wide sk : Bool) (r : Nat) : Bool :=
  if !used then r = 0 && !sk
  else if sk then r ≤ 63
  else sl.hasG r (if wide then 2 else 1) && (!wide || r % 2 = 0)

/-- The header and source fields of a vector instruction are legal; `useB` and `useC` say which operands it has beside
A, `wide` whether they are pairs. X = 1 replaces operand B; where there is none, L is not used (R92). -/
def vecSrcLegal (i : Insn) (sl : Slot) (useB useC wide : Bool) : Bool :=
  i.headerOk true && !bitOf i.w 51
    && srcLegal sl true wide (bitOf i.sk 0) i.ra
    && (if i.x then i.rb = 0 && !bitOf i.sk 1 else srcLegal sl useB wide (bitOf i.sk 1) i.rb)
    && srcLegal sl useC wide (bitOf i.sk 2) i.rc

/-- A destination g register or pair is legal. -/
def dstLegal (sl : Slot) (wide : Bool) (r : Nat) : Bool := srcLegal sl true wide false r

/-- The value of operand A for thread t (R89, R90). -/
def Slot.opA (sl : Slot) (i : Insn) (wide : Bool) (t : Nat) : Nat :=
  if bitOf i.sk 0 then (sl.sreg i.ra).toNat % (if wide then 2 ^ 64 else 2 ^ 32) else sl.gval wide i.ra t

/-- The value of operand B for thread t; L with X = 1 (R92). -/
def Slot.opB (sl : Slot) (i : Insn) (wide : Bool) (t : Nat) : Nat :=
  if i.x then i.l % (if wide then 2 ^ 64 else 2 ^ 32)
  else if bitOf i.sk 1 then (sl.sreg i.rb).toNat % (if wide then 2 ^ 64 else 2 ^ 32) else sl.gval wide i.rb t

/-- The value of operand C for thread t. -/
def Slot.opC (sl : Slot) (i : Insn) (wide : Bool) (t : Nat) : Nat :=
  if bitOf i.sk 2 then (sl.sreg i.rc).toNat % (if wide then 2 ^ 64 else 2 ^ 32) else sl.gval wide i.rc t

/-- Places of a source field. -/
def srcPlaces (used wide sk : Bool) (r : Nat) : List Place := if !used then [] else if sk then pS r else pG wide r

/-- What a vector instruction reads and writes. -/
def vecUse (useB useC wide dstWide : Bool) (i : Insn) (sl : Slot) : Use :=
  { engine := .vector,
    reads := srcPlaces true wide (bitOf i.sk 0) i.ra ++ srcPlaces (useB && !i.x) wide (bitOf i.sk 1) i.rb
      ++ srcPlaces useC wide (bitOf i.sk 2) i.rc,
    writes := pG dstWide i.rd, part := sl.active i != sl.full }

/-- The bits of a result as its type holds them: 16-bit types in the low half with the upper half 0 (R90). -/
def holdBits (ty v : Nat) : Nat := v % 2 ^ tyWidth ty

/-- A vector instruction of one result per active thread, on types `tys`, with operands A, B and perhaps C. -/
def vecOp (useB useC : Bool) (tys : Nat → Bool) (f : Nat → Nat → Nat → Nat → Nat) (g : GroupRef) (w l : W64) (s : State) : Out :=
  s.issueSlot g w l
    (fun i sl => tys i.ty && i.fn = 0 && vecSrcLegal i sl useB useC (tyWide i.ty) && dstLegal sl (tyWide i.ty) i.rd)
    (fun i sl => vecUse useB useC (tyWide i.ty) (tyWide i.ty) i sl)
    (fun i sl nx =>
      let wide := tyWide i.ty
      .ok (nx.writeThreads wide i.rd (sl.active i)
        (fun t => holdBits i.ty (f i.ty (sl.opA i wide t) (sl.opB i wide t) (sl.opC i wide t)))))

/-- VADD (R93, R118, R119). -/
def execVadd (g : GroupRef) (w l : W64) (s : State) : Out := vecOp true false (fun t => t ≤ 6) (vArith 0) g w l s

/-- VSUB. -/
def execVsub (g : GroupRef) (w l : W64) (s : State) : Out := vecOp true false (fun t => t ≤ 6) (vArith 1) g w l s

/-- VMUL: the low half for integers. -/
def execVmul (g : GroupRef) (w l : W64) (s : State) : Out := vecOp true false (fun t => t ≤ 6) (vArith 2) g w l s

/-- VFMA: a × b + c, rounded once. -/
def execVfma (g : GroupRef) (w l : W64) (s : State) : Out := vecOp true true (fun t => t ≤ 6) (vArith 3) g w l s

/-- VMIN (R119). -/
def execVmin (g : GroupRef) (w l : W64) (s : State) : Out :=
  vecOp true false (fun t => t ≤ 6) (fun ty a b _ => vMinMax false ty a b) g w l s

/-- VMAX (R119). -/
def execVmax (g : GroupRef) (w l : W64) (s : State) : Out :=
  vecOp true false (fun t => t ≤ 6) (fun ty a b _ => vMinMax true ty a b) g w l s

/-- VAND: bitwise, TY 0, 1, 5 or 6. -/
def execVand (g : GroupRef) (w l : W64) (s : State) : Out := vecOp true false tyInteger (fun _ a b _ => a &&& b) g w l s

/-- VOR. -/
def execVor (g : GroupRef) (w l : W64) (s : State) : Out := vecOp true false tyInteger (fun _ a b _ => a ||| b) g w l s

/-- VXOR. -/
def execVxor (g : GroupRef) (w l : W64) (s : State) : Out := vecOp true false tyInteger (fun _ a b _ => a ^^^ b) g w l s

/-- A shift count: its low 5 bits for 32-bit types, low 6 for 64-bit types (R93). -/
def shiftCount (ty b : Nat) : Nat := b % (if tyWide ty then 64 else 32)

/-- VSHL: shift left. R93 names the types of `VAND`, `VOR` and `VXOR` only; a shift of a floating type is ILLEGAL here too
(DESIGN CHOICE, log 181). -/
def execVshl (g : GroupRef) (w l : W64) (s : State) : Out :=
  vecOp true false tyInteger (fun ty a b _ => a * 2 ^ shiftCount ty b) g w l s

/-- VSHR: logical for U types, arithmetic for S types; of a floating type ILLEGAL (DESIGN CHOICE, log 181). -/
def execVshr (g : GroupRef) (w l : W64) (s : State) : Out :=
  vecOp true false tyInteger (fun ty a b _ => wrapInt (tyWidth ty) (tyInt ty a / (2 ^ shiftCount ty b : Nat))) g w l s

/-- Every g field of a conversion from or to a 64-bit type is even (R91). -/
def cvtEven (i : Insn) : Bool :=
  !(tyWide i.ty || tyWide (i.fn % 16)) || ((bitOf i.sk 0 || i.ra % 2 = 0) && i.rd % 2 = 0)

/-- VCVT from TY to FN[3:0] (R121). An FP8 result fills the low 8 bits of gD and the bits above read 0, as R90 says of
16-bit types (DESIGN CHOICE, log 181). -/
def execVcvt (g : GroupRef) (w l : W64) (s : State) : Out :=
  s.issueSlot g w l
    (fun i sl => i.ty ≤ 8 && i.fn % 16 ≤ 8 && i.fn < 128 && vecSrcLegal i sl false false (tyWide i.ty)
      && cvtEven i && dstLegal sl (tyWide (i.fn % 16)) i.rd)
    (fun i sl => vecUse false false (tyWide i.ty) (tyWide (i.fn % 16)) i sl)
    (fun i sl nx =>
      .ok (nx.writeThreads (tyWide (i.fn % 16)) i.rd (sl.active i)
        (fun t => vcvtValue i.ty (i.fn % 16) (bitOf i.fn 4) (Rnd.ofCode (bitsOf i.fn 5 2)) (sl.opA i (tyWide i.ty) t))))

/-- VCMP: bit t of pRD ← a FN b for active threads; other bits unchanged (R93, R120). -/
def execVcmp (g : GroupRef) (w l : W64) (s : State) : Out :=
  s.issueSlot g w l
    (fun i sl => i.ty ≤ 6 && i.fn ≤ 7 && (i.fn ≤ 5 || !tyInteger i.ty) && vecSrcLegal i sl true false (tyWide i.ty) && i.rd ≤ 15)
    (fun i sl => { vecUse true false (tyWide i.ty) false i sl with writes := [], part := false })
    (fun i sl nx =>
      let wide := tyWide i.ty
      let m := sl.active i
      let bit := fun (v : BitVec 128) (t : Nat) =>
        if inMask m t then
          (let one : BitVec 128 := BitVec.ofNat 128 (2 ^ t)
           if vCompare i.fn i.ty (sl.opA i wide t) (sl.opB i wide t) then v ||| one else v &&& ~~~one)
        else v
      nx.writeMask i.rd ((List.range sl.width).foldl bit (sl.mask i.rd)))

/-- VSEL: gD ← a where pRC is set, else b; it moves bits (R93, R118). -/
def execVsel (g : GroupRef) (w l : W64) (s : State) : Out :=
  s.issueSlot g w l
    (fun i sl => i.ty ≤ 6 && i.fn = 0 && i.rc ≤ 15 && !bitOf i.sk 2
      && vecSrcLegal { i with w := putBits i.w 40 8 0 } sl true false (tyWide i.ty) && dstLegal sl (tyWide i.ty) i.rd)
    (fun i sl => vecUse true false (tyWide i.ty) (tyWide i.ty) i sl)
    (fun i sl nx =>
      let wide := tyWide i.ty
      .ok (nx.writeThreads wide i.rd (sl.active i)
        (fun t => holdBits i.ty (if inMask (sl.mask i.rc) t then sl.opA i wide t else sl.opB i wide t))))

/-- VMOV: it moves bits (R93, R118). -/
def execVmov (g : GroupRef) (w l : W64) (s : State) : Out :=
  vecOp false false (fun t => t ≤ 6) (fun _ a _ _ => a) g w l s

/-- VSHFL: gD[t] ← a[b[t] mod W]; the source is read whatever its thread's mask (R93). -/
def execVshfl (g : GroupRef) (w l : W64) (s : State) : Out :=
  s.issueSlot g w l
    (fun i sl => i.ty ≤ 6 && i.fn = 0 && vecSrcLegal i sl true false (tyWide i.ty) && dstLegal sl (tyWide i.ty) i.rd)
    (fun i sl => vecUse true false (tyWide i.ty) (tyWide i.ty) i sl)
    (fun i sl nx =>
      let wide := tyWide i.ty
      .ok (nx.writeThreads wide i.rd (sl.active i)
        (fun t => holdBits i.ty (sl.opA i wide (sl.opB i wide t % sl.width)))))

/-- VSFU: FP32 only; FN 0 to 4 (R93, R122). -/
def execVsfu (g : GroupRef) (w l : W64) (s : State) : Out :=
  s.issueSlot g w l
    (fun i sl => i.ty = 2 && i.fn ≤ 4 && vecSrcLegal i sl false false false && dstLegal sl false i.rd)
    (fun i sl => vecUse false false false false i sl)
    (fun i sl nx => .ok (nx.writeThreads false i.rd (sl.active i) (fun t => vsfuValue i.fn (sl.opA i false t))))

/-! ## Mask instructions (0x58 to 0x5F) -/

/-- A mask instruction executes on the vector engine. -/
def useMask (reads writes : Insn → List Place) (i : Insn) (_ : Slot) : Use :=
  { engine := .vector, reads := reads i, writes := writes i, part := false }

/-- Operand B of a mask instruction: pRB, or L, whose 64 bits are bits 0 to 63 of the mask (R92, log 181). -/
def Slot.maskB (sl : Slot) (i : Insn) : BitVec 128 := if i.x then BitVec.ofNat 128 (i.l % 2 ^ 64) else sl.mask i.rb

/-- pRD ← f(pRA, pRB). -/
def maskOp (rbMax : Nat) (f : BitVec 128 → BitVec 128 → BitVec 128) (g : GroupRef) (w l : W64) (s : State) : Out :=
  s.issueSlot g w l (fun i _ => i.okR 15 15 rbMax 0) (useMask (fun _ => []) (fun _ => []))
    (fun i sl nx => nx.writeMask i.rd (f (sl.mask i.ra) (sl.maskB i)))

/-- PAND. -/
def execPand (g : GroupRef) (w l : W64) (s : State) : Out := maskOp 15 (fun a b => a &&& b) g w l s

/-- POR. -/
def execPor (g : GroupRef) (w l : W64) (s : State) : Out := maskOp 15 (fun a b => a ||| b) g w l s

/-- PXOR. -/
def execPxor (g : GroupRef) (w l : W64) (s : State) : Out := maskOp 15 (fun a b => a ^^^ b) g w l s

/-- PANDN: pRA ∧ ¬pRB. -/
def execPandn (g : GroupRef) (w l : W64) (s : State) : Out := maskOp 15 (fun a b => a &&& ~~~b) g w l s

/-- PNOT: ¬pRA, bits 0 to W − 1. -/
def execPnot (g : GroupRef) (w l : W64) (s : State) : Out := maskOp 0 (fun a _ => ~~~a) g w l s

/-- PFROMS: pRD[63:0] ← sRA; pRD[127:64] ← sRB (or L). -/
def execPfroms (g : GroupRef) (w l : W64) (s : State) : Out :=
  s.issueSlot g w l (fun i _ => i.okR 15 63 63 0)
    (useMask (fun i => pS i.ra ++ (if i.x then [] else pS i.rb)) (fun _ => []))
    (fun i sl nx => nx.writeMask i.rd (BitVec.ofNat 128 ((sl.sreg i.ra).toNat + 2 ^ 64 * (sl.scalarB i).toNat)))

/-- SFROMP: sRD ← pRA[63:0], or pRA[127:64] if FN[0] = 1. -/
def execSfromp (g : GroupRef) (w l : W64) (s : State) : Out :=
  s.issueSlot g w l (fun i _ => i.okR 63 15 0 1) (useMask (fun _ => []) (fun i => pS i.rd))
    (fun i sl nx => .ok (nx.setS i.rd (BitVec.ofNat 64 ((sl.mask i.ra).toNat / (if i.fn = 1 then 2 ^ 64 else 1)))))

/-- PCNT: sRD ← number of set bits in pRA. -/
def execPcnt (g : GroupRef) (w l : W64) (s : State) : Out :=
  s.issueSlot g w l (fun i _ => i.okR 63 15 0 0) (useMask (fun _ => []) (fun i => pS i.rd))
    (fun i sl nx => .ok (nx.setS i.rd (BitVec.ofNat 64 (((List.range 128).filter (fun t => inMask (sl.mask i.ra) t)).length))))

end Sys2Proof.Machine
end

