-- ==== Sys2Proof/Machine/Matrix.lean ====
section
/-! DEFINITION. Matrix instructions on tiles and accumulators: opcodes 0xA0 to 0xA5 (R123 to R140). -/

namespace Sys2Proof.Machine

/-- A matrix instruction is legal only inside a matrix region (R69). -/
def mxLegal (i : Insn) (sl : Slot) : Bool := i.okX && sl.inMx

/-- The MX flag of `MMA` and `MMAS`: MOD[3]. -/
def Insn.mx (i : Insn) : Bool := bitOf i.mod 3

/-- The A half of `MMA` and `MMAS`: MOD[1] (R123). -/
def Insn.half (i : Insn) : Nat := bitsOf i.mod 1 1

/-- The scale tile: MOD[7:4] (R129). -/
def Insn.scaleTile (i : Insn) : Nat := bitsOf i.mod 4 4

/-- The fields of `MMA` and `MMAS` are legal (R125 to R127): the pair is one of the table, MOD bits 0 and 2 are 0, MX
only on the classes that take it. -/
def mmaLegal (sparse : Bool) (i : Insn) (sl : Slot) : Bool :=
  mxLegal i sl && i.dt < sl.naccs && i.xsa < sl.ntiles && i.ss = 0 && !bitOf i.mod 0 && !bitOf i.mod 2
    && (match mmaClass i.fa i.fb with
        | none => false
        | some c => (!i.mx || c ≤ 4) && (!sparse || c ≤ 3))
    && (if i.mx then i.scaleTile < sl.ntiles else i.scaleTile = 0)
    && (if sparse then i.xsb % 2 = 0 && i.xsb + 1 < sl.ntiles && i.xsm < sl.ntiles else i.xsb < sl.ntiles && i.xsm = 0)

/-- The scale byte of block b of A row i (R129). -/
def Slot.scaleA (sl : Slot) (t i b : Nat) : Byte := sl.row t i b

/-- The scale byte of block b of B column j (R129). -/
def Slot.scaleB (sl : Slot) (t j b : Nat) : Byte := sl.row t (32 + j / 8) (8 * (j % 8) + b)

/-- One product of element (i, j) at logical k: A's value, B's value, scaled when MX = 1 (R117, R129). -/
def Slot.product (sl : Slot) (n : Insn) (i j k : Nat) (a b : FV) : FV :=
  if n.mx then
    FV.mul (scaleBy (sl.scaleA n.scaleTile i (k / 32)) a) (scaleBy (sl.scaleB n.scaleTile j (k / 32)) b)
  else FV.mul a b

/-- The products of element (i, j) of an `MMA` (R123). -/
def Slot.denseProducts (sl : Slot) (n : Insn) (i j : Nat) : List FV :=
  let k := mmaK ((mmaClass n.fa n.fb).getD 0)
  (List.range k).map (fun q =>
    sl.product n i j q (packedElem n.fa n.mx (sl.row n.xsa (32 * n.half + i)) q)
      (packedElem n.fb n.mx (sl.row n.xsb j) q))

/-- The 2-bit index of kept value v (0 or 1) of group q of A row i (R128). -/
def Slot.sparseIndex (sl : Slot) (n : Insn) (i q v : Nat) : Nat :=
  let byte := (sl.row n.xsm (32 * n.half + i) (q / 2)).toNat
  bitsOf byte (4 * (q % 2) + 2 * v) 2

/-- The products of element (i, j) of an `MMAS` (R128): each kept value multiplies the B element at its own index. -/
def Slot.sparseProducts (sl : Slot) (n : Insn) (i j : Nat) : List FV :=
  let k := mmaK ((mmaClass n.fa n.fb).getD 0)
  (List.range k).map (fun p =>
    let lk := 4 * (p / 2) + sl.sparseIndex n i (p / 2) (p % 2)
    let b := if lk < k then packedElem n.fb n.mx (sl.row n.xsb j) lk
      else packedElem n.fb n.mx (sl.row (n.xsb + 1) j) (lk - k)
    sl.product n i j lk (packedElem n.fa n.mx (sl.row n.xsa (32 * n.half + i)) p) b)

/-- What adding products to one element gives: the element, INEXACT, sticky WRAP of FP32 mode (R134, R135, R138). -/
def Acc.addProducts (a : Acc) (k : Nat) (ps : List FV) : AccElem × Bool × Bool :=
  let x := Table.get AccElem.reset a.elems k
  if a.fp32 then
    let old := Sys2Proof.Machine.fp32.value (x.n.toNat % 2 ^ 32)
    let r := Sys2Proof.Machine.fp32.round .near false (ps.foldl FV.add old)
    let special := ps.any (fun p => match p with | .fin _ _ _ => false | _ => true)
    ({ x with n := BitVec.ofNat 128 r.bits }, r.inexact, r.overflow || special)
  else
    let q := x.contributeAll a.anchorInt ps
    (q.1, q.2, false)

/-- The accumulator elements, by number 64 i + j. -/
def accKeys : List Nat := List.range 2048

/-- Add products to every element of an accumulator. -/
def Acc.addAll (a : Acc) (products : Nat → Nat → List FV) : Acc :=
  let rs := accKeys.map (fun k => (k, a.addProducts k (products (k / 64) (k % 64))))
  { a with elems := rs.map (fun e => (e.1, e.2.1)), inexact := a.inexact || rs.any (fun e => e.2.2.1),
           wrap := a.wrap || rs.any (fun e => e.2.2.2) }

/-- The tile rows an `MMA` or `MMAS` reads; of a scale tile, the 40 rows that hold scales (R129). -/
def mmaUse (sparse : Bool) (i : Insn) (_ : Slot) : Use :=
  { engine := .matrix,
    reads := pRows i.xsa (32 * i.half) 32 ++ pTile i.xsb ++ (if sparse then pTile (i.xsb + 1) ++ pRows i.xsm (32 * i.half) 32 else [])
      ++ (if i.mx then pRows i.scaleTile 0 40 else []),
    writes := [], part := false }

/-- MMA: aDT ← aDT + tSA × tSB (R93, R127). -/
def execMma (g : GroupRef) (w l : W64) (s : State) : Out :=
  s.issueSlot g w l (mmaLegal false) (mmaUse false)
    (fun i sl nx => .ok (nx.setAcc i.dt ((sl.acc i.dt).addAll (sl.denseProducts i))))

/-- MMAS: as MMA with tSA 2:4-sparse under metadata tile tSM (R93, R128). -/
def execMmas (g : GroupRef) (w l : W64) (s : State) : Out :=
  s.issueSlot g w l (mmaLegal true) (mmaUse true)
    (fun i sl nx => .ok (nx.setAcc i.dt ((sl.acc i.dt).addAll (sl.sparseProducts i))))

/-- ACLR: every element, tally, OUT bit and flag of aDT to 0; anchor and mode from sSS (R133). -/
def execAclr (g : GroupRef) (w l : W64) (s : State) : Out :=
  s.issueSlot g w l
    (fun i sl => mxLegal i sl && i.dt < sl.naccs && i.xsa = 0 && i.xsb = 0 && i.xsm = 0 && i.fa = 0 && i.fb = 0 && i.mod = 0)
    (fun i _ => { engine := .matrix, reads := pS i.ss, writes := [], part := false })
    (fun i sl nx =>
      let v := (sl.sreg i.ss).toNat
      .ok (nx.setAcc i.dt { Acc.reset with anchor := BitVec.ofNat 12 v, fp32 := bitOf v 16 }))

/-- The target format of `ACVT` (R126). -/
def acvtFmt (fa : Nat) : Option Fmt :=
  if fa = 0 then some e4m3 else if fa = 1 then some e5m2 else if fa = 6 then some bf16 else if fa = 7 then some fp16
  else if fa = 8 then some fp32 else none

/-- The bits `ACVT` gives element k (R140). -/
def Acc.convert (a : Acc) (f : Fmt) (sat : Bool) (k : Nat) : Nat :=
  match a.value k with
  | none => f.canonNan false
  | some v =>
    let z : Bool := match v with | .fin _ 0 _ => true | _ => false
    if z && !a.fp32 then 0 else (f.round .near sat v).bits

/-- The bytes `ACVT` writes for element (i, j): row, first byte, number of bytes; none for the column half not
converted (R139). -/
def acvtPlace (fa c h i j : Nat) : Option (Nat × Nat × Nat) :=
  if fa ≤ 1 then some (32 * h + i, j, 1)
  else if fa ≤ 7 then some (32 * (j / 32) + i, 2 * (j % 32), 2)
  else if j / 32 = c then some (2 * i + (j % 32) / 16, 4 * (j % 16), 4)
  else none

/-- The rows of tDT that `ACVT` writes. -/
def acvtRows (i : Insn) : List Place := if i.fa ≤ 1 then pRows i.dt (32 * bitsOf i.mod 1 1) 32 else pTile i.dt

/-- ACVT: tDT ← aSA converted once to the format FA; no flag changes (R139, R140). -/
def execAcvt (g : GroupRef) (w l : W64) (s : State) : Out :=
  s.issueSlot g w l
    (fun i sl => mxLegal i sl && i.dt < sl.ntiles && i.xsa < sl.naccs && i.xsb = 0 && i.xsm = 0 && i.fb = 0 && i.ss = 0
      && (acvtFmt i.fa).isSome && i.mod < 8 && (!bitOf i.mod 0 || i.fa = 8) && (!bitOf i.mod 1 || i.fa ≤ 1))
    (fun i _ => { engine := .matrix, reads := [], writes := acvtRows i, part := false })
    (fun i sl nx =>
      let f := (acvtFmt i.fa).getD fp32
      let a := sl.acc i.xsa
      let one := fun (m : Mem) (k : Nat) =>
        match acvtPlace i.fa (bitsOf i.mod 0 1) (bitsOf i.mod 1 1) (k / 64) (k % 64) with
        | none => m
        | some (r, b, n) => m.writeN (tileKey i.dt r b) (leBytes n (a.convert f (bitOf i.mod 2) k))
      .ok { nx with tiles := accKeys.foldl one nx.tiles })

/-- AFLG: sSS ← INEXACT, WRAP, MODE and anchor of aSA; MOD[0] = 1 clears the flags (R137). -/
def execAflg (g : GroupRef) (w l : W64) (s : State) : Out :=
  s.issueSlot g w l
    (fun i sl => mxLegal i sl && i.dt = 0 && i.xsa < sl.naccs && i.xsb = 0 && i.xsm = 0 && i.fa = 0 && i.fb = 0 && i.mod ≤ 1)
    (fun i _ => { engine := .matrix, reads := [], writes := pS i.ss, part := false })
    (fun i sl nx =>
      let a := sl.acc i.xsa
      let x := nx.setS i.ss a.flagsWord
      .ok (if i.mod = 1 then x.setAcc i.xsa a.clearFlags else x))

/-- TMOV: tDT ← tSA (R93). -/
def execTmov (g : GroupRef) (w l : W64) (s : State) : Out :=
  s.issueSlot g w l
    (fun i sl => mxLegal i sl && i.dt < sl.ntiles && i.xsa < sl.ntiles && i.xsb = 0 && i.xsm = 0 && i.fa = 0 && i.fb = 0
      && i.ss = 0 && i.mod = 0)
    (fun i _ => { engine := .matrix, reads := pTile i.xsa, writes := pTile i.dt, part := false })
    (fun i sl nx =>
      let m := (nx.tiles.clear (tileKey i.dt 0 0) 4096).writeN (tileKey i.dt 0 0) (sl.tiles.readN (tileKey i.xsa 0 0) 4096)
      .ok { nx with tiles := m })

end Sys2Proof.Machine
end

