-- ==== Sys2Proof/Machine/AddrMap.lean ====
section
/-! DEFINITION. Where an address lies: the physical map (R12), bands and packages (R228), DDR5 channels (R303), homes
(R226, R480), page owners (R366, R367), region entries (R229), endpoint identities (R183), reports (R410, R415). -/

namespace Sys2Proof.Machine

/-! ## Endpoint identities and reports -/

/-- The 16-bit identity of an endpoint (R183). -/
def endpointId : Endpoint → BitVec 16
  | .core c => BitVec.ofNat 16 (128 * c.room.row.val + 8 * c.room.col.val + c.core.val)
  | .hall r => BitVec.ofNat 16 (0x1000 + 128 * r.row.val + 8 * r.col.val)
  | .dispatcher k => BitVec.ofNat 16 (0x2000 + k.val)
  | .cellar k => BitVec.ofNat 16 (0x3000 + k.val)
  | .parlour n => BitVec.ofNat 16 (0x4000 + n.val)
  | .porch n => BitVec.ofNat 16 (0x5000 + n.val)
  | .hearth => 0x6000
  | .power => 0x7000

/-- Whether a report window of R415 for this reporter, page and SUBJECT matches. -/
def SupWin.matches (x : SupWin) (src : Endpoint) (page : Nat) (subj : BitVec 16) : Bool :=
  x.reporter = endpointKey src && x.page = page && x.subject = subj

/-- Send a WRITE_DROPPED, READ_TIMEOUT or READ_REFUSED report under R415: one per pair of ADDR page (2 MiB, log 8) and
SUBJECT while the window runs; the rest are counted and sent in SUPPRESSED of the next report of the pair. -/
def State.reportHeld (s : State) (src : Endpoint) (r : RasRep) : State :=
  let page := r.addr.toNat / 2 ^ 21
  match s.hearth.suppress.find? (fun x => x.matches src page r.subject) with
  | none =>
    let w : SupWin := { reporter := endpointKey src, page := page, subject := r.subject, running := true, held := 0 }
    (s.updHearth (fun h => { h with suppress := h.suppress ++ [w] })).report src r
  | some x =>
    let put := fun (y : SupWin) => s.updHearth (fun h =>
      { h with suppress := h.suppress.map (fun z => if z.matches src page r.subject then y else z) })
    if x.running then put { x with held := x.held + 1 }
    else (put { x with running := true, held := 0 }).report src { r with suppressed := BitVec.ofNat 32 x.held }

/-! ## The physical map -/

/-- The parts of the physical address space (R12). -/
inductive Region12 where
  | lpd
  | ddr (n : Fin 2)
  | tags
  | control
  | unbacked
deriving DecidableEq, Repr

/-- The part an address lies in, by range alone. -/
def rangeOf (pa : Nat) : Region12 :=
  if pa < 0x040000000000 then .lpd
  else if pa < 0x058000000000 then .ddr 0
  else if pa < 0x070000000000 then .ddr 1
  else if 0x080000000000 ≤ pa && pa < 0x082000000000 then .tags
  else if 0xF00000000000 ≤ pa && pa < 2 ^ 48 then .control
  else .unbacked

/-- The word of a band (R228, CFAB_BAND). -/
def State.band (s : State) (b : Nat) : Nat := (Table.get 0 s.hearth.bands b).toNat

/-- The width of a band: 2^L packages. -/
def bandL (w : Nat) : Nat := bitsOf w 1 3

/-- The package and the package offset of an LPDDR6 address (R228). -/
def State.lpdPlace (s : State) (pa : Nat) : Nat × Nat :=
  let w := s.band (bitsOf pa 30 12)
  let L := bandL w
  let first := bitsOf w 4 5
  let g := bitsOf pa 12 18
  let pkg := if L = 0 then first else first + (bitsOf g 0 L ^^^ bitsOf g L L)
  (pkg % 32, bitsOf w 9 12 * 2 ^ 25 + (g / 2 ^ L) * 2 ^ 12 + pa % 4096)

/-- The included channels of a Parlour, in letter order (R303). -/
def Parlour.included (p : Parlour) : List Nat := (List.range 6).filter (fun c => p.chIn.getLsbD c)

/-- Bytes of DDR5 behind a Parlour: every included DIMM has the same capacity (R281). -/
def Parlour.ddrBytes (p : Parlour) : Nat :=
  match p.included with
  | [] => 0
  | c :: cs => (cs.length + 1) * Table.get 0 p.chCap c * 2 ^ 30

/-- The base of a Parlour's half (R12, R281). -/
def ddrBase (n : Fin 2) : Nat := if n = 0 then 0x040000000000 else 0x058000000000

/-- The controller that holds an external address. -/
def State.ctlOf (s : State) (pa : Nat) : Ctl :=
  match rangeOf pa with
  | .ddr n =>
    let inc := (s.parlour n).included
    let g := (pa - ddrBase n) / 4096
    .ddr (Fin.ofNat 12 (6 * n.val + listGet 0 inc (g % inc.length)))
  | _ => .lpd (Fin.ofNat 32 (s.lpdPlace pa).1)

/-- Whether external memory stands behind an address (R12). -/
def State.memBacked (s : State) (pa : Nat) : Bool :=
  match rangeOf pa with
  | .lpd => bitOf (s.band (bitsOf pa 30 12)) 0
  | .ddr n => decide (pa - ddrBase n < (s.parlour n).ddrBytes)
  | _ => false

/-- The blocks of the control space that claim an address (R12): the interrupt files where R276 has one for a hart, and
of the blocks whose extent no rule gives, the power block takes 64 KiB and the Hearth block 16 MiB (DESIGN CHOICE, log
148). -/
def ctrlClaimed (pa : Nat) : Bool :=
  let o := pa - 0xF00000000000
  decide (0xF00000000000 ≤ pa) && (decide (o < 0x08000000) || (decide (0x10000000 ≤ o) && decide (o < 0x10600000))
    || (decide (0x20000000 ≤ o) && decide (o < 0x22000000)) || (decide (0x28000000 ≤ o) && decide (o < 0x28080000))
    || (decide (0x2C000000 ≤ o) && decide (o < 0x2C400000))
    || (decide (0x30000000 ≤ o) && decide (o < 0x300FF000)) || (decide (0x31000000 ≤ o) && decide (o < 0x310FF000))
    || (decide (0x40000000 ≤ o) && decide (o < 0x41008000)) || (decide (0x50000000 ≤ o) && decide (o < 0x52000000))
    || (decide (0x60000000 ≤ o) && decide (o < 0x60010000)))

/-! ## Room memory (R166, R169) -/

/-- The bank of a Room offset, and the line of that bank (R166). -/
def roomBank (off : Nat) : Nat := bitsOf off 7 4 ^^^ bitsOf off 11 4

/-- The line of its bank that an offset lies in. -/
def roomLine (off : Nat) : Nat := bitsOf off 11 15

/-- The 64 B blocks that bytes [off, off + n) touch. -/
def blocksOf (off n : Nat) : List Nat :=
  if n = 0 then [] else (List.range ((off + n - 1) / 64 - off / 64 + 1)).map (fun i => off / 64 + i)

/-! ## Homes (R226, R480) -/

/-- Slices of a set in ascending order. -/
def sliceList (v : BitVec 128) : List Nat := (List.range 128).filter (fun i => v.getLsbD i)

/-- The 7-bit hash of R226. -/
def homeHash (pa : Nat) : Nat :=
  bitsOf pa 7 7 ^^^ bitsOf pa 14 7 ^^^ bitsOf pa 21 7 ^^^ bitsOf pa 28 7 ^^^ bitsOf pa 35 7 ^^^ bitsOf pa 42 6

/-- The Wing whose packages hold all of a band, if one does. -/
def bandWing (w : Nat) : Option Nat :=
  let first := bitsOf w 4 5
  if first / 4 = (first + 2 ^ bandL w - 1) / 4 then some (first / 4) else none

/-- Entry j of a map register as written. -/
def mapEntry (w : W64) (j : Nat) : Nat := bitsOf w.toNat (8 * j) 7

/-- Entry i of a Suite's HMAP (R226): its slices round-robin, unless the Hearth has written the register (R257). -/
def Suite.hmapEntry (x : Suite) (i : Nat) : Nat :=
  match Table.find x.maps (i / 8) with
  | some w => mapEntry w (i % 8)
  | none => listGet 0 (sliceList x.slices) (i % (sliceList x.slices).length)

/-- Slices of a Suite in Cellar k. -/
def Suite.cellarSlices (x : Suite) (k : Nat) : List Nat := (sliceList x.slices).filter (fun i => i / 16 = k)

/-- Entry i of a Suite's WMAPk. -/
def Suite.wmapEntry (x : Suite) (k i : Nat) : Nat :=
  match Table.find x.maps (16 + 2 * k + i / 8) with
  | some w => mapEntry w (i % 8)
  | none => listGet 0 (x.cellarSlices k) (i % (x.cellarSlices k).length)

/-- The home a Suite's own maps give an address (R226). -/
def State.ownHome (s : State) (tag : BitVec 8) (pa : Nat) : Nat :=
  let x := s.suite tag
  let h := homeHash pa
  let wing := if rangeOf pa = .lpd then bandWing (s.band (bitsOf pa 30 12)) else none
  match wing with
  | some k => if x.cellarSlices k ≠ [] then x.wmapEntry k (h % 16) else x.hmapEntry h
  | none => x.hmapEntry h

/-- The index of a page in the page-owner table (R366). -/
def pageIndex (pa : Nat) : Nat :=
  if pa < 0x040000000000 then bitsOf pa 21 21 else 2097152 + (pa - 0x040000000000) / 2 ^ 21

/-- A DDR5 page of Suite 0, as start-up gives them all (R360): under key slot 18 (R369). -/
def PageEntry.ddrZero : PageEntry := { PageEntry.reset with valid := true, keyIdx := 18, ddr5 := true }

/-- The entry of the page-owner table at an index: a DDR5 page the table does not list is Suite 0's once start-up has
given it every DDR5 page; any other is free. -/
def State.pageAt (s : State) (i : Nat) : PageEntry :=
  Table.get (if s.hearth.ddrToZero && decide (2097152 ≤ i) then PageEntry.ddrZero else PageEntry.reset) s.hearth.pages i

/-- The page-owner entry of an address. -/
def State.page (s : State) (pa : Nat) : PageEntry := s.pageAt (pageIndex pa)

/-- The home of a request: for tag 0 and a SHARED page of another Suite, the owner's (R480). -/
def State.homeOf (s : State) (tag : BitVec 8) (pa : Nat) : Nat :=
  let e := s.page pa
  if tag = 0 && e.valid && e.shared then s.ownHome e.owner pa else s.ownHome tag pa

/-- The Cellar of a slice. -/
def cellarOf (slice : Nat) : Fin 8 := Fin.ofNat 8 (slice / 16)

/-- The page-owner check of R367 for a request under a Suite tag. -/
def State.pageAllows (s : State) (tag : BitVec 8) (pa : Nat) (isRead : Bool) : Bool :=
  let e := s.page pa
  e.valid &&
    ((!e.common && e.owner = tag) || (tag = 0 && e.shared)
      || (e.common && isRead && (Table.get CommonRegion.reset s.hearth.commons e.cid.toNat).readers.getLsbD tag.toNat))

/-! ## Region entries (R229) -/

/-- The attribute of a region entry's word 2; `none` for a code not assigned. -/
def attrOf (w2 : Nat) : Option Attr :=
  match bitsOf w2 0 4 with
  | 0 => some .wbA
  | 1 => some .wbNA
  | 2 => some .wt
  | 3 => some .stream
  | 4 => some .ro
  | 5 => some .red
  | 6 => some .dev
  | _ => none

/-- A region entry as the checks use it. -/
structure RegionInfo where
  base       : Nat
  attr       : Attr
  intlv      : Bool
  hostShared : Bool
  common     : Bool
  anchor     : Int
  tbase      : Nat
deriving DecidableEq, Repr

/-- Whether a region entry is valid and holds a virtual address. -/
def regionHolds (e : RegionWords) (va : Nat) : Bool :=
  bitOf e.w2.toNat 4 && decide (e.w0.toNat ≤ va) && decide (va < e.w0.toNat + bitsOf e.w1.toNat 0 27 * 2 ^ 21)

/-- The region entry of a Suite's virtual address. -/
def State.regionOf (s : State) (suite : BitVec 8) (va : Nat) : Option RegionInfo :=
  match (s.suite suite).regions.find? (fun p => regionHolds p.2 va) with
  | none => none
  | some (_, e) =>
    let w := e.w2.toNat
    match attrOf w with
    | none => none
    | some a =>
      let an : BitVec 12 := BitVec.ofNat 12 (bitsOf w 8 12)
      some { base := e.w0.toNat, attr := a, intlv := bitOf w 5, hostShared := bitOf w 6, common := bitOf w 7,
             anchor := an.toInt, tbase := e.w3.toNat }

/-- Whether a virtual address is canonical under Sv48: bits [63:47] all equal (R100). -/
def canonical48 (va : Nat) : Bool := va / 2 ^ 47 = 0 || va / 2 ^ 47 = 2 ^ 17 - 1

/-- The permission checks of R230 on one page of an access, after translation to `pa`. -/
def State.regionAllows (s : State) (r : RegionInfo) (pa : Nat) (isStore isAtomic : Bool) : Bool :=
  let where_ := rangeOf pa
  let band := s.band (bitsOf pa 30 12)
  (where_ ≠ .lpd || (bitOf band 21 = r.intlv))
    && (r.attr ≠ .red || where_ = .lpd)
    && !(isStore && r.common)
    && (if where_ = .control then ctrlClaimed pa && !isAtomic && r.attr = .dev else s.memBacked pa)

end Sys2Proof.Machine
end

