-- ==== Sys2Proof/Machine/Stored.lean ====
section
/-! DEFINITION. External memory as it is stored: AES-256-XTS lines and CMAC tags (R290, R291, R370), page and full wipes (R307,
R308), and writes of bytes to it. -/

namespace Sys2Proof.Machine

/-! ## AES-256-XTS and CMAC (R290, R370) -/

/-- The pieces of an address range by line: line number, offset in the line, position in the range, length. -/
def linePieces (pa n : Nat) : List (Nat × Nat × Nat × Nat) :=
  let first := pa / 128
  let count := if n = 0 then 0 else (pa + n - 1) / 128 - first + 1
  (List.range count).map (fun i =>
    let line := first + i
    let lo := max pa (128 * line)
    let hi := min (pa + n) (128 * line + 128)
    (line, lo - 128 * line, lo - pa, hi - lo))

/-- Sixteen bytes of a list as a block. -/
def blockAt (d : List Byte) (j : Nat) : BitVec 128 := BitVec.ofNat 128 (leNat ((d.drop (16 * j)).take 16))

/-- The three keys of a drawing: data, tweak and tag. -/
def slotKeyPart (k part : Nat) : BitVec 256 := BitVec.ofNat 256 ((Config.slotKey k).toNat / 2 ^ (256 * part))

/-- The tweak of block j of a line: the line's number enciphered, times α to the power j. -/
def xtsTweak (k line : Nat) : Nat → BitVec 128
  | 0 => Config.aes256 (slotKeyPart k 1) (BitVec.ofNat 128 line)
  | j + 1 =>
    let t := xtsTweak k line j
    (t <<< 1) ^^^ (if t.msb then 0x87 else 0)

/-- AES-256-XTS over the eight blocks of a line, its number PA[47:7] as the tweak. -/
def xtsLine (enc : Bool) (k line : Nat) (d : List Byte) : List Byte :=
  let cipher := if enc then Config.aes256 (slotKeyPart k 0) else Config.aes256Inv (slotKeyPart k 0)
  (List.range 8).flatMap (fun j => leBytes 16 (cipher (blockAt d j ^^^ xtsTweak k line j) ^^^ xtsTweak k line j).toNat)

/-- A block with its bytes in the opposite order. -/
def flipBlock (b : BitVec 128) : BitVec 128 := BitVec.ofNat 128 (leNat (leBytes 16 b.toNat).reverse)

/-- A CMAC subkey from the one before (SP 800-38B), the first byte most significant. -/
def cmacDouble (b : BitVec 128) : BitVec 128 := (b <<< 1) ^^^ (if b.msb then 0x87 else 0)

/-- CMAC with AES-256 over bytes. -/
def cmac (key : BitVec 256) (msg : List Byte) : List Byte :=
  let k1 := cmacDouble (flipBlock (Config.aes256 key 0))
  let n := if msg = [] then 1 else (msg.length + 15) / 16
  let whole := msg ≠ [] && msg.length % 16 = 0
  let padded := if whole then msg else msg ++ [0x80] ++ List.replicate (15 - msg.length % 16) 0
  let mask := flipBlock (if whole then k1 else cmacDouble k1)
  let last := fun j => if j + 1 = n then blockAt padded j ^^^ mask else blockAt padded j
  leBytes 16 ((List.range n).foldl (fun c j => Config.aes256 key (c ^^^ last j)) 0).toNat

/-- The tag of a line of ciphertext: 4 B of the CMAC over PA[47:7] and the 128 B (R370). -/
def lineTag (k line : Nat) (cipher : List Byte) : W32 :=
  BitVec.ofNat 32 (leNat ((cmac (slotKeyPart k 2) (leBytes 8 line ++ cipher)).take 4))

/-! ## Lines -/

/-- The drawing of keys under which a line stands in memory. -/
def State.keyStored (s : State) (line : Nat) : Nat :=
  let page := 64 * pageIndex (128 * line)
  let c := ctlKey (s.ctlOf (128 * line))
  Table.get (Table.get (Table.get (Table.get 0 s.ctlKeys c) s.pageKeys (page + 63)) s.pageKeys (page + c)) s.extKeys line

/-- The drawing of keys that the controller uses for a line: that of its page's key slot, never of the request (R290). -/
def State.keyNow (s : State) (line : Nat) : Nat := Table.get 0 s.hearth.keys (s.page (128 * line)).keyIdx.toNat

/-- The bytes of a line as stored: ciphertext, or, under no keys, the bytes themselves. -/
def State.cipherLine (s : State) (line : Nat) : List Byte :=
  let d := s.ext.readN (128 * line) 128
  if s.keyStored line = 0 then d else xtsLine true (s.keyStored line) line d

/-- The copy of a line in external memory as its page's keys decipher it: what was written, where the keys are the same. -/
def State.extLine (s : State) (line : Nat) : List Byte :=
  if s.keyStored line = s.keyNow line then s.ext.readN (128 * line) 128
  else if s.keyNow line = 0 then s.cipherLine line
  else xtsLine false (s.keyNow line) line (s.cipherLine line)

/-- The tag stored for a line; a full wipe leaves zero. -/
def State.storedTag (s : State) (line : Nat) : W32 :=
  if s.keyStored line = 0 then 0 else lineTag (s.keyStored line) line (s.cipherLine line)

/-- Whether the tag read for a line, with the bits of `err` wrong, is that of its ciphertext under its page's keys. -/
def State.tagMatches (s : State) (line : Nat) (err : W32) : Bool :=
  if s.keyStored line = s.keyNow line then err = 0
  else (s.storedTag line ^^^ err) = lineTag (s.keyNow line) line (s.cipherLine line)

/-- Bytes of a sector that the code passed with a wrong correction: the residue of the error lies in the ciphertext. -/
def State.residueLine (s : State) (line : Nat) (residue : List Byte) : List Byte :=
  let c := (List.range 128).map (fun i => listGet 0 (s.cipherLine line) i ^^^ listGet 0 residue i)
  if s.keyNow line = 0 then c else xtsLine false (s.keyNow line) line c

/-! ## Writes -/

/-- Write bytes of one line to memory: the line is stored under its page's keys with a fresh tag, and what an open miss entry has
already received of it follows (R233, R299). -/
def State.putLine (s : State) (line off : Nat) (bs : List Byte) : State :=
  let k := s.keyNow line
  let same := decide (s.keyStored line = k)
  let ext0 := if same then s.ext else s.ext.writeN (128 * line) (s.extLine line)
  let ext1 := ext0.writeN (128 * line + off) bs
  let fresh := fun (q : Nat × List Byte) => (q.1, ext1.readN (128 * line + 32 * q.1) 32)
  { s with
    ext := ext1,
    extKeys := if same then s.extKeys else Table.set s.extKeys line k,
    misses := Table.mapVals (fun key m =>
      if key % 2 ^ 41 = line && !m.poison then { m with arrived := m.arrived.map fresh, filled := m.filled.map fresh } else m) s.misses }

/-- Write bytes of a range to memory. -/
def State.putExt (s : State) (pa : Nat) (bs : List Byte) : State :=
  (linePieces pa bs.length).foldl (fun t q => t.putLine q.1 q.2.1 ((bs.drop q.2.2.1).take q.2.2.2)) s

/-- The bytes of memory that pass a test read as a wipe leaves them, their poison gone. -/
def State.zeroExt (s : State) (p : Nat → Bool) : State :=
  { s with
    ext := s.ext.filter (fun c => !p c.1), extPoison := s.extPoison.filter (fun l => !p (128 * l)),
    extKeys := s.extKeys.filter (fun e => !p (128 * e.1)) }

/-- A full wipe of a controller's memory: zeros under no keys (R307). -/
def State.wipeFull (s : State) (m : Ctl) : State :=
  let t := s.zeroExt (fun a => s.ctlOf a = m)
  let c := ctlKey m
  let parts := (t.pageKeys.filter (fun e => e.1 % 64 = 63)).map (fun e => e.1 / 64 * 64 + c)
  { t with
    ctlKeys := Table.erase t.ctlKeys c,
    pageKeys := parts.foldl (fun u k => Table.set u k 0) (t.pageKeys.filter (fun e => e.1 % 64 ≠ c)) }

/-- A controller's wipe of its part of the page at number `page` (PA / 2^21): zeros under the keys of the page as they stand (R308). -/
def State.wipePart (s : State) (page : Nat) (m : Ctl) : State :=
  let t := s.zeroExt (fun a => a / 2 ^ 21 = page && s.ctlOf a = m)
  { t with pageKeys := Table.set t.pageKeys (64 * pageIndex (page * 2 ^ 21) + ctlKey m) (t.keyNow (page * 2 ^ 14)) }

/-- Every controller's part of a page is wiped at once. -/
def State.wipeAll (s : State) (page : Nat) : State :=
  let i := pageIndex (page * 2 ^ 21)
  let t := s.zeroExt (fun a => a / 2 ^ 21 = page)
  { t with pageKeys := Table.set (t.pageKeys.filter (fun e => e.1 / 64 ≠ i)) (64 * i + 63) (t.keyNow (page * 2 ^ 14)) }

/-- The bytes of a range as its pages' keys decipher them. -/
def State.extBytes (s : State) (pa n : Nat) : List Byte :=
  (linePieces pa n).flatMap (fun q => ((s.extLine q.1).drop q.2.1).take q.2.2.2)

end Sys2Proof.Machine
end

