-- ==== Sys2Proof/Machine/Lines.lean ====
section
/-! DEFINITION. Lines: what a home sees of a line, ways and victims, writes under an attribute, reduction partials and their adders,
snoops, and coherent reads and writes by agents that act in one step (R231 to R240, R244, R253 to R255, R299). -/

namespace Sys2Proof.Machine

/-! ## Bytes of a line -/

/-- Replace bytes from position `off` of a list. -/
def splice (d : List Byte) (off : Nat) (bs : List Byte) : List Byte := d.take off ++ bs ++ d.drop (off + bs.length)

/-- The sectors that bytes [off, off + n) of a line touch. -/
def sectorMask (off n : Nat) : BitVec 4 :=
  BitVec.ofNat 4 (((List.range 4).filter (fun k => off < 32 * k + 32 && 32 * k < off + n)).foldl (fun a k => a + 2 ^ k) 0)

/-- Whether the memory behind a line is lost: its package or channel failed, or the Wing of its controller is lost
(R427, R428). -/
def State.pkgLost (s : State) (line : Nat) : Bool :=
  (s.mc (s.ctlOf (128 * line))).failed
    || (match s.ctlOf (128 * line) with | .lpd p => (s.wing (Fin.ofNat 8 (p.val / 4))).lost | _ => false)

/-- A read of the line's copy in memory reports poison (R288, R427). -/
def State.extBad (s : State) (line : Nat) : Bool := s.extPoison.contains line || s.pkgLost line

/-- Count the bursts of a write at its controller (R286, R309): one for each sector touched, two for a DDR5 line. -/
def State.countBursts (s : State) (line off n : Nat) : State :=
  let m := s.ctlOf (128 * line)
  let sectors := ((List.range 4).filter (fun k => off < 32 * k + 32 && 32 * k < off + n)).length
  s.updMc m (fun c => { c with bursts := c.bursts + (match m with | .lpd _ => BitVec.ofNat 48 sectors | .ddr _ => 2) })

/-- Write bytes of a line to external memory (R244): a write of the whole line sets or clears its poison mark, any other can only set
it; a write to lost memory is dropped. -/
def State.extWrite (s : State) (line off : Nat) (bs : List Byte) (poison : Bool) : State :=
  if s.pkgLost line then s
  else
    let t := (s.putLine line off bs).countBursts line off bs.length
    { t with extPoison :=
        if poison then addOnce line t.extPoison else if bs.length = 128 then dropAll line t.extPoison else t.extPoison }

/-- Write the dirty sectors of a line back to memory; all four of them unmarked clear its mark (R244). -/
def State.writeBack (s : State) (line : Nat) (l : SLine) : State :=
  if l.dirty = 15 then s.extWrite line 0 l.data l.poison
  else
    let t := (List.range 4).foldl (fun t q =>
      if l.dirty.getLsbD q then t.extWrite line (32 * q) ((l.data.drop (32 * q)).take 32) l.poison else t) s
    if l.poison && !s.pkgLost line then { t with extPoison := addOnce line t.extPoison } else t

/-- The dirty line an eviction buffer holds, if it holds one (R236). -/
def State.evictedLine (s : State) (k : Nat) : Option SLine :=
  match Table.find s.evicted k with
  | some (.dirty l) => some l
  | _ => none

/-- What the home sees of a line (R236): a valid sector from the slice, else from its eviction buffer, else memory; and
whether a read of the sectors in `m` reports poison. -/
def State.viewLine (s : State) (slice line : Nat) (m : BitVec 4) : List Byte × Bool :=
  let k := lineKey slice line
  let sl := Table.find s.lines k
  let ev := s.evictedLine k
  let ex := s.extLine line
  let inSlice := fun b => match sl with | some x => x.valid.getLsbD (b / 32) | none => false
  let inBuf := fun b => match ev with | some x => x.valid.getLsbD (b / 32) | none => false
  let byte := fun b =>
    if inSlice b then listGet 0 ((sl.map (fun x => x.data)).getD []) b
    else if inBuf b then listGet 0 ((ev.map (fun x => x.data)).getD []) b
    else listGet 0 ex b
  let fromExt := (List.range 4).any (fun q => m.getLsbD q && !inSlice (32 * q) && !inBuf (32 * q))
  let p := (match sl with | some x => x.poison | none => false) || (match ev with | some x => x.poison | none => false)
    || (fromExt && s.extBad line)
  ((List.range 128).map byte, p)

/-- The ways a slice has in use: the lines and the partials it holds. -/
def State.sliceKeys (s : State) (slice : Nat) : List Nat :=
  (Table.keys s.lines ++ Table.keys s.partials).filter (fun k => k / 2 ^ 41 = slice)

/-- Entries of a slice's eviction buffer. -/
def State.evictCount (s : State) (slice : Nat) : Nat :=
  ((Table.keys s.evicted).filter (fun k => k / 2 ^ 41 = slice)).length

/-- Move a line out of a slice: a clean one is dropped, a dirty one goes to the eviction buffer (R236). -/
def State.evictKey (s : State) (k : Nat) : State :=
  match Table.find s.lines k with
  | none => s
  | some l =>
    let s1 := { s with lines := Table.erase s.lines k }
    if l.dirty = 0 && !l.poison then s1 else { s1 with evicted := Table.set s1.evicted k (.dirty l) }

/-- Move a way's contents out: a line, or a partial, which goes to the eviction buffer. -/
def State.leaveWay (s : State) (k : Nat) : State :=
  match Table.find s.partials k with
  | some p => { s with partials := Table.erase s.partials k, evicted := Table.set s.evicted k (.part p false) }
  | none => s.evictKey k

/-- Whether a way's contents can go without a place in the eviction buffer. -/
def State.leavesFree (s : State) (k : Nat) : Bool :=
  match Table.find s.partials k, Table.find s.lines k with
  | none, some l => l.dirty = 0 && !l.poison
  | _, _ => false

/-- Whether the 16 ways of the set that a new line falls into are all in use. The set is implementation-free (R224), so this is a
free choice (log 9) while the slice holds at least 16 lines, and so of its 98,304 at most. -/
def State.setFull (s : State) (slice : Nat) : Bool × State :=
  let n := (s.sliceKeys slice).length
  let (c, s1) := s.drawBool
  ((c && decide (16 ≤ n)) || decide (98304 ≤ n), s1)

/-- A way for a new line (R235, R236): where the set is full a victim leaves, which of its ways is a free choice; false when the
victim needs a place in the eviction buffer and its 32 are taken, so that the miss waits. -/
def State.takeWay (s : State) (slice : Nat) : Bool × State :=
  let (full, s1) := s.setFull slice
  if !full then (true, s1)
  else
    let (b, s2) := s1.drawBits
    let ways := (s2.sliceKeys slice).filter (fun k => s2.leavesFree k || (Table.find s2.evicted k).isNone)
    match listAt ways (b.toNat % ways.length) with
    | none => (false, s2)
    | some k => if s2.leavesFree k || decide (s2.evictCount slice < 32) then (true, s2.leaveWay k) else (false, s2)

/-- Put sectors of a line into a slice (R246). -/
def State.putIn (s : State) (slice line : Nat) (l : SLine) : State :=
  { s.updSlice slice (fun r => { r with cleanState := false }) with
    lines := Table.set s.lines (lineKey slice line) l }

/-- Neither the slice nor its buffer holds any of a line. -/
def State.absent (s : State) (slice line : Nat) : Bool :=
  (Table.find s.lines (lineKey slice line)).isNone && (s.evictedLine (lineKey slice line)).isNone

/-- Write the dirty sectors of a line back to memory and keep the line clean. -/
def State.cleanLine (s : State) (slice line : Nat) : State :=
  let k := lineKey slice line
  let s0 := match s.evictedLine k with
    | some l => { s.writeBack line l with evicted := Table.erase s.evicted k }
    | none => s
  match Table.find s0.lines k with
  | none => s0
  | some l => { s0.writeBack line l with lines := Table.set s0.lines k { l with dirty := 0 } }

/-- Write a line back and drop it. -/
def State.cleanDrop (s : State) (slice line : Nat) : State :=
  let s1 := s.cleanLine slice line
  { s1 with lines := Table.erase s1.lines (lineKey slice line) }

/-- Drop a line with what is dirty in it; a partial in the buffer is none of it. -/
def State.dropLine (s : State) (slice line : Nat) : State :=
  let k := lineKey slice line
  { s with
    lines := Table.erase s.lines k,
    evicted := if (s.evictedLine k).isSome then Table.erase s.evicted k else s.evicted }

/-! ## Reduction partials (R253 to R255) -/

/-- An empty element of a partial. -/
def PartElem.reset : PartElem := { tally := 0, n := 0, out := false, inexact := false }

/-- Add the integer T × 2^128 + N to a pair, modulo 2^144, by the rule of R135. -/
def PartElem.addPair (x : PartElem) (t : BitVec 16) (n : Int) : PartElem :=
  let sum := x.n.toInt + n
  let c : BitVec 16 := if 2 ^ 127 ≤ sum then 1 else if sum < -(2 ^ 127) then -1 else 0
  { x with n := BitVec.ofInt 128 sum, tally := x.tally + t + c }

/-- Merge two elements: sums modulo 2^144, OUT and INEXACT by OR. -/
def PartElem.merge (x y : PartElem) : PartElem :=
  let z := x.addPair y.tally y.n.toInt
  { z with out := x.out || y.out, inexact := x.inexact || y.inexact }

/-- An element of a partial. -/
def Partial.elem (p : Partial) (k : Nat) : PartElem := Table.get PartElem.reset p.elems k

/-- Merge two partials of one line. -/
def Partial.merge (p q : Partial) : Partial :=
  { elems := (List.range 8).map (fun k => (k, (p.elem k).merge (q.elem k))), tallyPa := p.tallyPa }

/-- One contribution (element number, u′, INEXACT, OUT) added into a partial (R252, R253). -/
def Partial.contribute (p : Partial) (e : Nat × Int × Bool × Bool) : Partial :=
  let (k, u, ix, out) := e
  let x := p.elem k
  let y := if out then x else x.addPair 0 u
  { p with elems := Table.set p.elems k { y with out := x.out || out, inexact := x.inexact || ix } }

/-- Element k of a line in memory. -/
def State.memElem (s : State) (line k : Nat) : BitVec 128 := blockAt (s.extLine line) k

/-- Add a partial into memory (R253, R255): each element's N, and a tally add for each element whose tally, OUT or
INEXACT changes. -/
def State.addPartial (s : State) (suite : BitVec 8) (line : Nat) (p : Partial) : State :=
  (List.range 8).foldl (fun t k =>
    let e := p.elem k
    let r := (PartElem.addPair { PartElem.reset with n := t.memElem line k } e.tally e.n.toInt)
    let t1 := t.putLine line (16 * k) (leBytes 16 r.n.toNat)
    if r.tally != 0 || e.out || e.inexact then
      let m : TallyMsg := { pa := p.tallyPa + 4 * k, line := line, suite := suite, t := r.tally, out := e.out, inexact := e.inexact }
      { t1 with tallies := t1.tallies ++ [m] }
    else t1) s

/-- Whether a line is in PARTIAL mode, with its partial in the slice or in the eviction buffer (R254). -/
def State.partialOf (s : State) (k : Nat) : Option Partial :=
  match Table.find s.partials k, Table.find s.evicted k with
  | some p, some (.part q _) => some (p.merge q)
  | some p, _ => some p
  | none, some (.part q _) => some q
  | none, _ => none

/-! ## The adders (R255, R299) -/

/-- The endpoint of a slice's Cellar, which reports for its homes. -/
def homeEndpoint (slice : Nat) : Endpoint := .cellar (cellarOf slice)

/-- The endpoint of a memory controller's unit: its Cellar, or its Parlour (R412). -/
def ctlEndpoint : Ctl → Endpoint
  | .lpd p => .cellar (Fin.ofNat 8 (p.val / 4))
  | .ddr c => .parlour (Fin.ofNat 2 (c.val / 6))

/-- The reason with which lost memory refuses a line (R421). -/
def State.lostReason (s : State) (line : Nat) : BitVec 2 := if (s.mc (s.ctlOf (128 * line))).failed then 2 else 1

/-- An adder has a line in flight. -/
def State.inAdder (s : State) (line : Nat) : Bool := (s.mc (s.ctlOf (128 * line))).rmws.any (fun w => w.line = line)

/-- A partial whose memory is lost is dropped and reported (R421). -/
def State.partialLost (s : State) (slice line : Nat) : State :=
  let own := (s.slice slice).suite
  let rep : RasRep :=
    { RasRep.zero with
      cause := 6, outcome := 2, suite := own, gen := s.genOf own, subject := endpointId (ctlEndpoint (s.ctlOf (128 * line))),
      addr := BitVec.ofNat 64 (128 * line), detail := BitVec.ofNat 32 (s.lostReason line).toNat }
  s.reportHeld (homeEndpoint slice) rep

/-- An adder takes a partial of a slice: a read-modify-write of the line in flight takes it in, else one starts. -/
def State.adderTake (s : State) (slice line : Nat) (p : Partial) : State :=
  let m := s.ctlOf (128 * line)
  if s.inAdder line then
    s.updMc m (fun x =>
      { x with merged := sat16 x.merged 1,
               rmws := x.rmws.map (fun w =>
                 if w.line = line then { w with part := w.part.merge p, slices := w.slices ++ [slice] } else w) })
  else s.updMc m (fun x => { x with rmws := x.rmws ++ [{ line := line, part := p, slices := [slice] }] })

/-- A read-modify-write ends: the line is written and its tally adds sent; a poisoned line takes nothing, which is counted and
recorded (R299). -/
def State.adderEnd (s : State) (w : Rmw) (bad : Bool) : State :=
  let line := w.line
  let m := s.ctlOf (128 * line)
  let own := (s.slice (listGet 0 w.slices 0)).suite
  let s1 := s.updMc m (fun x => { x with rmws := x.rmws.filter (fun y => y.line ≠ line) })
  if bad || s1.extBad line then
    let pkg := match m with | .lpd p => p.val | .ddr _ => 0
    let rep : RasRep :=
      { RasRep.zero with
        cause := 9, outcome := 2, suite := own, gen := s.genOf own, subject := endpointId (ctlEndpoint m),
        locA := BitVec.ofNat 16 pkg, addr := BitVec.ofNat 64 (128 * line) }
    let s2 := s1.updMc m (fun x => { x with poisDrop := sat16 x.poisDrop 1 })
    let s3 := if s2.pkgLost line then s2 else { s2 with extPoison := addOnce line s2.extPoison }
    s3.report (ctlEndpoint m) rep
  else (s1.updMc m (fun x => { x with applied := sat16 x.applied 1, bursts := x.bursts + 8 })).addPartial own line w.part

/-- The buffer entries of the partials that a read-modify-write carried. -/
def State.ackParts (s : State) (w : Rmw) : State :=
  w.slices.foldl (fun u i =>
    match Table.find u.evicted (lineKey i w.line) with
    | some (.part _ true) => { u with evicted := Table.erase u.evicted (lineKey i w.line) }
    | _ => u) s

/-- What the adder has of a line is applied and acknowledged at once, for an agent that acts in one step. -/
def State.settleAdder (s : State) (line : Nat) : State :=
  match (s.mc (s.ctlOf (128 * line))).rmws.find? (fun w => w.line = line) with
  | none => s
  | some w => (s.adderEnd w false).ackParts w

/-- Whatever partial a line has is sent to the adder and applied at once, for an agent that acts in one step (R254). -/
def State.settlePartial (s : State) (slice line : Nat) : State :=
  let k := lineKey slice line
  let s0 := s.settleAdder line
  match s0.partialOf k with
  | none => s0
  | some p =>
    let ev := match Table.find s0.evicted k with | some (.part _ _) => Table.erase s0.evicted k | _ => s0.evicted
    let s1 := { s0 with partials := Table.erase s0.partials k, evicted := ev }
    if s1.pkgLost line then s1.partialLost slice line else (s1.adderTake slice line p).settleAdder line

/-- Drop whatever partial a line has in the slice or its buffer; what the adder has taken is applied first (R250). -/
def State.dropPartial (s : State) (slice line : Nat) : State :=
  let k := lineKey slice line
  let s0 := s.settleAdder line
  { s0 with
    partials := Table.erase s0.partials k,
    evicted := match Table.find s0.evicted k with | some (.part _ _) => Table.erase s0.evicted k | _ => s0.evicted }

/-- A full eviction buffer gives up its first entry, for an agent that acts in one step and would wait for it (R236). -/
def State.freeBuffer (s : State) (slice : Nat) : State :=
  if s.evictCount slice < 32 then s
  else
    match s.evicted.find? (fun e => e.1 / 2 ^ 41 = slice) with
    | some (k, .dirty l) => { s.writeBack (k % 2 ^ 41) l with evicted := Table.erase s.evicted k }
    | some (k, .part _ _) => s.settlePartial slice (k % 2 ^ 41)
    | none => s

/-- A way for a line of an agent that acts in one step: it waits for the eviction buffer where it must. -/
def State.forceWay (s : State) (slice line : Nat) : State :=
  if s.absent slice line then ((s.freeBuffer slice).takeWay slice).2 else s

/-! ## Snoops carried out at once -/

/-- The key of a line in a Parlour's caches: a line tagged with a Suite (R260). -/
def l3Key (line : Nat) (tag : BitVec 8) : Nat := 256 * line + tag.toNat

/-- Copies of a line in a Parlour, under any tag. -/
def Parlour.copies (p : Parlour) (line : Nat) : List (Nat × L3Line) := p.l3.filter (fun e => e.1 / 256 = line)

/-- The dirty copy of a line in a Parlour: its data and its poison mark. -/
def Parlour.dirtyCopy (p : Parlour) (line : Nat) : Option (List Byte × Bool) :=
  ((p.copies line).find? (fun e => e.2.dirty)).map (fun e => (e.2.data, e.2.poison))

/-- A Parlour gives up a line (SNP_INV), or keeps a clean copy that it no longer holds alone (SNP_SH). -/
def Parlour.snooped (p : Parlour) (inv : Bool) (line : Nat) : Parlour :=
  if inv then { p with l3 := p.l3.filter (fun e => e.1 / 256 != line) }
  else { p with l3 := p.l3.map (fun e => if e.1 / 256 = line then (e.1, { e.2 with dirty := false, excl := false }) else e) }

/-- Reservations on a line end for the harts of a Parlour (R270). -/
def State.dropReservations (s : State) (n : Fin 2) (line : Nat) : State :=
  { s with harts := Table.mapVals (fun h x =>
      if h / 64 = n.val && x.reserve = some line then { x with reserve := none, lrHold := false } else x) s.harts }

/-- The harts of a die drop their inner copies of a line (R259). -/
def State.dropInner (s : State) (n : Fin 2) (line : Nat) : State :=
  { s with harts := Table.mapVals (fun h x =>
      if h / 64 = n.val && x.l2.any (fun k => k / 256 = line) then
        { x with l1d := x.l1d.filter (fun k => k / 256 ≠ line), l2 := x.l2.filter (fun k => k / 256 ≠ line) } else x) s.harts }

/-- Parlours that a directory state records (R239). -/
def Dir.holders : Dir → List (Fin 2)
  | .i => []
  | .s p => (List.finRange 2).filter (fun n => p.getLsbD n.val)
  | .e n => [n]

/-- The set of one Parlour. -/
def bitOfParlour (n : Fin 2) : BitVec 2 := if n = 0 then 1 else 2

/-- A directory state after a Parlour gives up its copy (R240). -/
def Dir.leave (d : Dir) (n : Fin 2) : Dir :=
  match d with
  | .i => .i
  | .s p => if p &&& ~~~(bitOfParlour n) = 0 then .i else .s (p &&& ~~~(bitOfParlour n))
  | .e m => if m = n then .i else .e m

/-- The directory state of a line at its home. -/
def State.dir (s : State) (slice line : Nat) : Dir := Table.get .i s.dirs (lineKey slice line)

/-- Set a directory state; I is the unlisted state. -/
def State.setDir (s : State) (slice line : Nat) (d : Dir) : State :=
  { s with dirs := if d = .i then Table.erase s.dirs (lineKey slice line) else Table.set s.dirs (lineKey slice line) d }

/-! ## Writes at a home -/

/-- Whether a write of an attribute to a line goes to memory at once. -/
def State.writesThrough (s : State) (slice line : Nat) (a : Attr) : Bool :=
  let k := lineKey slice line
  match a with
  | .wt => true
  | .stream => true
  | .dev => true
  | .wbA => (Table.find s.lines k).isNone && (s.evictedLine k).isNone && !(s.slice slice).enable
  | _ => (Table.find s.lines k).isNone && (s.evictedLine k).isNone

/-- Whether a write under an attribute would take a new way of its slice (R231, R246). -/
def State.needsWay (s : State) (slice line : Nat) (a : Attr) : Bool := a = .wbA && (s.slice slice).enable && s.absent slice line

/-- The sectors that bytes [off, off + n) of a line touch without covering. -/
def partSectors (off n : Nat) : BitVec 4 :=
  BitVec.ofNat 4 (((List.range 4).filter (fun k =>
    (off < 32 * k + 32 && 32 * k < off + n) && !(off ≤ 32 * k && 32 * k + 32 ≤ off + n))).foldl (fun a k => a + 2 ^ k) 0)

/-- A write of bytes of one line under an attribute (R231, R235, R236, R244), into the way that `needsWay` asked for. `mark` says the
data is poisoned. A write through brings no sector into the slice that it does not cover. -/
def State.writeLine (s : State) (slice line off : Nat) (bs : List Byte) (a : Attr) (mark : Bool) : State :=
  let k := lineKey slice line
  let (d, p) := s.viewLine slice line 15
  let d1 := splice d off bs
  let poison := mark || (p && decide (bs.length < 128))
  let m := sectorMask off bs.length
  let keepDirty : Bool := match a with | .wt => false | .stream => false | .dev => false | _ => true
  let toMem := fun (t : State) => t.extWrite line off bs mark
  if a = .dev then toMem (s.cleanDrop slice line)
  else
    match Table.find s.lines k, s.evictedLine k with
    | some l, _ =>
      let l1 : SLine :=
        { data := d1, valid := l.valid ||| (if keepDirty then m else m &&& ~~~(partSectors off bs.length)),
          dirty := if keepDirty then l.dirty ||| m else l.dirty, poison := poison }
      let s1 := { s with lines := Table.set s.lines k l1 }
      if keepDirty then s1 else toMem s1
    | none, some l =>
      let l1 : SLine := { data := d1, valid := l.valid ||| m, dirty := l.dirty ||| m, poison := poison }
      { s with evicted := Table.set s.evicted k (.dirty l1) }
    | none, none =>
      match a with
      | .wbA =>
        if (s.slice slice).enable then s.putIn slice line { data := d1, valid := m, dirty := m, poison := poison }
        else toMem s
      | _ => toMem s

/-- Dirty data a Parlour returns is written at the home as WB-A data (R231, R237, R240, R246). -/
def State.takeDirty (s : State) (slice line : Nat) (d : List Byte) (poison : Bool) : State :=
  let s1 := if (s.slice slice).enable then s.forceWay slice line else s
  s1.writeLine slice line 0 d .wbA poison

/-- One Parlour's part of a snoop. -/
def State.snoopOne (s : State) (slice line : Nat) (inv : Bool) (n : Fin 2) : State :=
  let d := (s.parlour n).dirtyCopy line
  let s1 := (if inv then s.dropInner n line else s).updParlour n (fun p => p.snooped inv line)
  let s2 := s1.dropReservations n line
  match d with
  | none => s2
  | some (bs, p) => s2.takeDirty slice line bs p

/-- A home takes the answer to a snoop (R240, R242): dirty data is written, and the directory follows what the Parlour keeps. -/
def State.snoopTaken (s : State) (x : Snoop) : State :=
  let s1 := { s with snoops := s.snoops.filter (fun y => y.id ≠ x.id) }
  let s2 := match x.data with | none => s1 | some (d, p) => s1.takeDirty x.slice x.line d p
  let d := s2.dir x.slice x.line
  let keeps := !x.inv && ((s2.parlour x.parlour).copies x.line) ≠ []
  s2.setDir x.slice x.line (if keeps then (match d with | .e m => .s (bitOfParlour m) | y => y) else d.leave x.parlour)

/-- A Parlour gives its answer to a snoop. -/
def State.snoopGiven (s : State) (x : Snoop) : State :=
  let d := (s.parlour x.parlour).dirtyCopy x.line
  let s0 := if x.inv then s.dropInner x.parlour x.line else s
  let s1 := (s0.updParlour x.parlour (fun p => p.snooped x.inv x.line)).dropReservations x.parlour x.line
  { s1 with snoops := s1.snoops.map (fun y => if y.id = x.id then { y with answered := true, data := d } else y) }

/-- The snoops of a line that are out are answered and taken at once, for an agent that acts in one step. -/
def State.settleSnoops (s : State) (slice line : Nat) : State :=
  (s.snoops.filter (fun x => x.slice = slice && x.line = line)).foldl (fun t x =>
    let t1 := if x.answered then t else t.snoopGiven x
    match t1.snoops.find? (fun y => y.id = x.id) with
    | none => t1
    | some y => t1.snoopTaken y) s

/-- The transactions of a line in flight end first, where an agent acts in one step: its snoops, then, for any request but one that
drops it, its partial (R233, R254, log 184). -/
def State.settleLine (s : State) (slice line : Nat) : State := (s.settleSnoops slice line).settlePartial slice line

/-- Snoop every Parlour holder of a line at once; a hold after an LR (R270) is waited out. -/
def State.snoopNow (s : State) (slice line : Nat) (inv : Bool) : State :=
  let t := s.settleSnoops slice line
  let d := t.dir slice line
  let s1 := d.holders.foldl (fun t n => t.snoopOne slice line inv n) t
  s1.setDir slice line (if inv then .i else match d with | .e n => .s (bitOfParlour n) | x => x)

/-! ## Reads and writes at a home -/

/-- Whether a home is lost with its Wing (R428). -/
def State.homeLost (s : State) (slice : Nat) : Bool := (s.wing (cellarOf slice)).lost

/-- The reason for which R421 drops a write of a range under a Suite tag, if it does: a lost home, or lost memory that the
write would reach at once. -/
def State.writeLost (s : State) (tag : BitVec 8) (pa n : Nat) (a : Attr) : Option (BitVec 2) :=
  (linePieces pa n).findSome? (fun q =>
    let slice := s.homeOf tag (128 * q.1)
    if s.homeLost slice then some 1
    else if s.pkgLost q.1 && s.writesThrough slice q.1 a then some (s.lostReason q.1) else none)

/-- Fill a line into an enabled slice that holds none of it, unless its data is poisoned. -/
def State.fillLine (s : State) (slice line : Nat) : State :=
  let v := s.viewLine slice line 15
  if s.absent slice line && (s.slice slice).enable && !v.2 then
    (s.forceWay slice line).putIn slice line { data := v.1, valid := 15, dirty := 0, poison := false }
  else s

/-- An input port of a slice has had its request taken: the pointer moves past it (R233). -/
def State.portTaken (s : State) (slice port : Nat) : State := s.updSlice slice (fun x => { x with portPtr := (port + 1) % 3 })

/-- A read of bytes of one line at its home, for an agent that acts in one step: data and poison. A miss of a WB-A, WB-NA, WT or RO
line allocates; a DEV access cleans and drops every copy first (R231, R232). -/
def State.readLine (s : State) (slice line off n : Nat) (a : Attr) : (List Byte × Bool) × State :=
  if s.homeLost slice then ((List.replicate n 0, true), s)
  else
    let s1 := ((s.settleLine slice line).snoopNow slice line (a = .dev)).portTaken slice 1
    let v := s1.viewLine slice line (sectorMask off n)
    let alloc : Bool := match a with | .stream => false | .dev => false | .red => false | _ => true
    (((v.1.drop off).take n, v.2), if a = .dev then s1.cleanDrop slice line else if alloc then s1.fillLine slice line else s1)

/-- A coherent read of a range under a Suite tag: bytes, and whether any was poisoned. -/
def State.sysRead (s : State) (tag : BitVec 8) (pa n : Nat) (a : Attr) : (List Byte × Bool) × State :=
  (linePieces pa n).foldl (fun acc q =>
    let (line, off, _, len) := q
    let r := acc.2.readLine (acc.2.homeOf tag (128 * line)) line off len a
    ((acc.1.1 ++ r.1.1, acc.1.2 || r.1.2), r.2)) (([], false), s)

/-- A coherent write of a range under a Suite tag: every Parlour copy is invalidated before the write (R240). -/
def State.sysWrite (s : State) (tag : BitVec 8) (pa : Nat) (bs : List Byte) (a : Attr) (mark : Bool) : State :=
  (linePieces pa bs.length).foldl (fun t q =>
    let (line, off, pos, len) := q
    let slice := t.homeOf tag (128 * line)
    if t.homeLost slice then t
    else
      let t1 := ((t.settleLine slice line).snoopNow slice line true).portTaken slice 1
      let t2 := if t1.needsWay slice line a then t1.forceWay slice line else t1
      t2.writeLine slice line off ((bs.drop pos).take len) a mark) s

/-- Whether every page of a physical range lets a tag read, or write, it (R367). -/
def State.rangeAllows (s : State) (tag : BitVec 8) (pa n : Nat) (isRead : Bool) : Bool :=
  (linePieces pa n).all (fun q => s.pageAllows tag (128 * q.1) isRead && s.memBacked (128 * q.1))

end Sys2Proof.Machine
end

