-- ==== Sys2Proof/Machine/Xlate.lean ====
section
/-! DEFINITION. Translation of a Suite's accelerator addresses (R449) and the checks of an access before issue (R100,
R101, R230, R481). -/

namespace Sys2Proof.Machine

/-! ## Sv48 (R449) -/

/-- Bytes of a leaf of a SIZE code: 4 KiB, 2 MiB, 1 GiB. -/
def xlatBytes (size : Nat) : Nat := if size = 0 then 2 ^ 12 else if size = 1 then 2 ^ 21 else 2 ^ 30

/-- A PTE is a valid Sv48 leaf for a page of the SIZE given: V, R or X set, no W without R, reserved bits and N zero,
the address aligned to the size. -/
def leafValid (size pte : Nat) : Bool :=
  bitOf pte 0 && (bitOf pte 1 || bitOf pte 3) && !(bitOf pte 2 && !bitOf pte 1) && bitsOf pte 54 7 = 0 && !bitOf pte 63
    && (bitsOf pte 10 44 * 4096) % xlatBytes size = 0

/-- Whether a leaf lets a read or a write through: R or W, A set, and D set for a write (R449). -/
def leafAllows (pte : Nat) (write : Bool) : Bool := bitOf pte 6 && (if write then bitOf pte 2 && bitOf pte 7 else bitOf pte 1)

/-- The physical address a leaf gives. -/
def leafPa (size pte va : Nat) : Nat := bitsOf pte 10 44 * 4096 + va % xlatBytes size

/-- Whether a cached entry covers an address. -/
def Xlat.covers (e : Xlat) (va : Nat) : Bool :=
  e.va.toNat / xlatBytes e.size.toNat = bitsOf va 0 48 / xlatBytes e.size.toNat

/-- One PTE of the Suite's tables; `none` where the table may not be read, or is poisoned. -/
def State.readPte (s : State) (suite : BitVec 8) (pa : Nat) : Option Nat :=
  if !s.rangeAllows suite pa 8 true then none
  else
    let r := (s.sysRead suite pa 8 .wbA).1
    if r.2 then none else some (leNat r.1)

/-- A walk of the Sv48 tables from a table at `base`, `level` counting down: the leaf found and its SIZE code. A leaf at
the top level is not one of the sizes of R449. -/
def State.walk (s : State) (suite : BitVec 8) (va : Nat) : Nat → Nat → Option (Nat × Nat)
  | 0, base =>
    match s.readPte suite (base + 8 * bitsOf va 12 9) with
    | some pte => if leafValid 0 pte then some (0, pte) else none
    | none => none
  | level + 1, base =>
    match s.readPte suite (base + 8 * bitsOf va (12 + 9 * (level + 1)) 9) with
    | none => none
    | some pte =>
      if !bitOf pte 0 then none
      else if bitOf pte 1 || bitOf pte 2 || bitOf pte 3 then
        (if level + 1 ≤ 2 && leafValid (level + 1) pte then some (level + 1, pte) else none)
      else if bitsOf pte 54 10 ≠ 0 || bitOf pte 6 || bitOf pte 7 || bitOf pte 4 then none
      else s.walk suite va level (bitsOf pte 10 44 * 4096)

/-- Translate one address of a Suite: a cached entry if one is held, else a walk in hardware mode, which fills the caches.
The caches may have lost the entry (R449): whether they have is a free choice (log 10). It answers the physical address
and the SIZE code of the page. -/
def State.translate (s : State) (suite : BitVec 8) (va : Nat) (write : Bool) : Option (Nat × Nat) × State :=
  let gs := s.gsuite suite
  let walked := fun (t : State) =>
    if gs.walkMode then (none, t)
    else
      match t.walk suite va 3 gs.root.toNat with
      | none => (none, t)
      | some (size, pte) =>
        if leafAllows pte write then
          let base := bitsOf va 0 48 / xlatBytes size * xlatBytes size
          let e : Xlat := { va := BitVec.ofNat 64 base, size := BitVec.ofNat 2 size, pte := BitVec.ofNat 64 pte }
          (some (leafPa size pte va, size), t.updGsuite suite (fun g => { g with xlats := g.xlats ++ [e] }))
        else (none, t)
  match gs.xlats.find? (fun e => e.covers va) with
  | none => walked s
  | some e =>
    let (lost, s1) := s.drawBool
    if lost then
      let kept := fun (g : GSuite) => { g with xlats := g.xlats.filter (fun x => !x.covers va) }
      walked (s1.updGsuite suite kept)
    else if leafAllows e.pte.toNat write then (some (leafPa e.size.toNat e.pte.toNat va, e.size.toNat), s1)
    else (none, s1)

/-! ## Checks of one access to space 0 -/

/-- A located access: its physical address, the SIZE code of its page, and its region. -/
structure Located where
  pa     : Nat
  size   : Nat
  region : RegionInfo
deriving DecidableEq, Repr

/-- The checks of R230 on one address of a Suite, which lies in one page: canonical, mapped, and allowed. `none` is a
TRANSLATION failure. -/
def State.locate (s : State) (suite : BitVec 8) (va : Nat) (store atomic : Bool) : Option Located × State :=
  if !canonical48 va then (none, s)
  else
    let r := s.translate suite va store
    match r.1 with
    | none => (none, r.2)
    | some (pa, size) =>
      match r.2.regionOf suite va with
      | none => (none, r.2)
      | some reg =>
        if r.2.regionAllows reg pa store atomic then (some { pa := pa, size := size, region := reg }, r.2) else (none, r.2)

/-- What kind of access an instruction makes, for the attribute rules (R71, R104 to R106, R231). -/
inductive AccKind where
  | load
  | store
  | atomic
  | contribution
deriving DecidableEq, Repr

/-- Whether a region's attribute lets an access through; a failure raises REGION. No request but a contribution goes to
a RED region (R231, log 11). -/
def attrAllows (k : AccKind) (a : Attr) : Bool :=
  match k with
  | .load => a ≠ .red
  | .store => a ≠ .red && a ≠ .ro
  | .atomic => a ≠ .red && a ≠ .ro
  | .contribution => a = .red

/-- One access of an instruction, checked in the order of R481: ALIGN, Room bound, TRANSLATION, attribute. -/
def State.checkAccess (s : State) (suite : BitVec 8) (space1 : Bool) (k : AccKind) (va size : Nat) :
    Except GroupFault (Option Located) × State :=
  let at_ : W64 := BitVec.ofNat 64 va
  if va % size ≠ 0 then (parkWith .align at_, s)
  else if space1 then
    if 48 * 2 ^ 20 ≤ va then (parkWith .region at_, s)
    else if k = .contribution then (parkWith .region at_, s)
    else (.ok none, s)
  else
    let r := s.locate suite va (k ≠ .load) (k = .atomic)
    match r.1 with
    | none => (parkWith .translation at_, r.2)
    | some l => if attrAllows k l.region.attr then (.ok (some l), r.2) else (parkWith .region at_, r.2)

/-- The tally word of an element (R252): in a valid region that is WB-A, WB-NA, WT or STREAM and not COMMON. -/
def State.checkTally (s : State) (suite : BitVec 8) (r : RegionInfo) (va : Nat) : Except GroupFault Nat × State :=
  let tva := r.tbase + (va - r.base) / 4
  let at_ : W64 := BitVec.ofNat 64 tva
  let q := s.locate suite tva true false
  match q.1 with
  | none => (parkWith .translation at_, q.2)
  | some l =>
    let ok := l.region.attr = .wbA || l.region.attr = .wbNA || l.region.attr = .wt || l.region.attr = .stream
    if ok then (.ok l.pa, q.2) else (parkWith .region at_, q.2)

end Sys2Proof.Machine
end

