-- ==== Sys2Proof/Machine/EngineMem.lean ====
section
/-! DEFINITION. The memory instructions of the engines, opcodes 0x80 to 0x92, SPAWN and DMAQ: addresses, checks, and the
requests they send (R99 to R107, R112, R141, R171 to R173, R252). -/

namespace Sys2Proof.Machine

/-! ## Requests -/

/-- A request with nothing said about it yet. -/
def Req.blank (o : Owner) (k : ReqKind) (suite : BitVec 8) (gen : BitVec 16) : Req :=
  { owner := o, kind := k, par := .none, suite := suite, gen := gen, room := none, addr := 0, va := 0, size := 0,
    attr := .wbA, data := [], atomFn := 0, contrib := [], red := [], tallyPa := 0, index := 0, lane := 0,
    seq := 0, inPort := 4, via := none, ported := false, router := none, back := false, mark := false, mmode := false, stage := .sent, answer := [], poison := false, failed := false,
    gone := false, fill := [], noFill := false }

/-- Put requests in flight, numbered in order; the number is also the place each takes in its lane or router (R168, R177). -/
def State.addReqs (s : State) (rs : List Req) : State :=
  rs.foldl (fun t r => { t with reqs := Table.set t.reqs t.nextReq { r with seq := t.nextReq }, nextReq := t.nextReq + 1 }) s

/-- Change a request. -/
def State.updReq (s : State) (k : Nat) (f : Req → Req) : State :=
  match Table.find s.reqs k with
  | none => s
  | some r => { s with reqs := Table.set s.reqs k (f r) }

/-- A request joins the lane or router where it now stands, behind what came there before (R168, R177). -/
def State.arrive (s : State) (k : Nat) (f : Req → Req) : State :=
  { s.updReq k (fun r => { f r with seq := s.nextReq }) with nextReq := s.nextReq + 1 }

/-- Drop a request. -/
def State.dropReq (s : State) (k : Nat) : State := { s with reqs := Table.erase s.reqs k }

/-- A group's operation that a request belongs to. -/
def Owner.groupOp : Owner → Option (GroupRef × Nat)
  | .group g op => some (g, op)
  | .dma g op _ => some (g, op)
  | _ => none

/-- Requests of one operation of a group, by number. -/
def State.opReqs (s : State) (g : GroupRef) (op : Nat) : List (Nat × Req) :=
  s.reqs.filter (fun e => e.2.owner.groupOp = some (g, op))

/-- A memory operation of a group, with nothing optional. -/
def MemOp.blank (id : Nat) (e : Engine) : MemOp :=
  { id := id, engine := e, load := false, acquire := false, roInval := false, dest := .none, size := 0, signed := false,
    token := none, open_ := 0, replay := [], only := none }

/-- The next operation number of a core. -/
def State.takeOp (s : State) (c : CoreId) : Nat × State :=
  ((s.core c).nextOp, s.updCore c (fun x => { x with nextOp := x.nextOp + 1 }))

/-- The lane of the Hall that a core's request takes: one of its two, a free choice (R167, log 12). -/
def State.pickLane (s : State) (c : CoreId) : Nat × State :=
  let (b, s1) := s.drawBool
  (2 * c.core.val + (if b then 1 else 0), s1)

/-! ## Addresses (R99) -/

/-- A signed 64-bit value as an integer, and back to an address of 64 bits. -/
def addr64 (v : Int) : Nat := (v % (2 ^ 64 : Nat)).toNat

/-- The address of thread t (R99), for elements of `size` bytes. -/
def Slot.threadAddr (sl : Slot) (i : Insn) (size : Nat) (atom : Bool) (t : Nat) : Nat :=
  let base := (sl.sreg i.base + i.offset atom).toNat
  let d := if i.ix then (sl.greg i.ri t).toNat * 2 ^ i.sc else t * size
  (base + d) % 2 ^ 64

/-- The address of row r of a tile instruction or `MXRED` (R99, R104). -/
def Slot.rowAddr (sl : Slot) (i : Insn) (r : Nat) : Nat :=
  let base := (sl.sreg i.base + i.offset false).toNat
  let stride : Int := if i.ix then (sl.sreg (i.ri % 64)).toInt else 64
  addr64 (base + r * stride)

/-- Active threads in ascending order. -/
def Slot.threads (sl : Slot) (i : Insn) : List Nat := (List.range sl.width).filter (fun t => inMask (sl.active i) t)

/-- Where one checked access goes: to its Room's memory at an offset, or to a physical address under an attribute. -/
structure Target where
  room   : Option RoomId
  addr   : Nat
  attr   : Attr
  region : Option RegionInfo
deriving DecidableEq, Repr

/-- The target of a checked access. -/
def targetOf (r : RoomId) (va : Nat) : Option Located → Target
  | none => { room := some r, addr := va, attr := .wbA, region := none }
  | some l => { room := none, addr := l.pa, attr := l.region.attr, region := some l.region }

/-- Check a list of accesses (index, address) of one size in order: the targets, or the first fault (R481). -/
def State.checkAll (s : State) (g : GroupRef) (sl : Slot) (space1 : Bool) (k : AccKind) (size : Nat) :
    List (Nat × Nat) → Except GroupFault (List (Nat × Nat × Target)) × State
  | [] => (.ok [], s)
  | (ix, va) :: rest =>
    let r := s.checkAccess sl.suite space1 k va size
    match r.1 with
    | .error f => (.error f, r.2)
    | .ok l =>
      let q := State.checkAll r.2 g sl space1 k size rest
      match q.1 with
      | .error f => (.error f, q.2)
      | .ok ts => (.ok ((ix, va, targetOf g.core.room va l) :: ts), q.2)

/-- A request to a target; one to the own Room takes a lane of the Hall. -/
def State.makeReq (s : State) (g : GroupRef) (sl : Slot) (op : Nat) (k : ReqKind) (e : Nat × Nat × Target) (size : Nat) :
    Req × State :=
  let (ix, va, t) := e
  let r0 := Req.blank (.group g op) k sl.suite sl.gen
  let r1 := { r0 with room := t.room, addr := t.addr, va := BitVec.ofNat 64 va, size := size, attr := t.attr, index := ix }
  match t.room with
  | none => (r1, s)
  | some _ =>
    let (lane, s1) := s.pickLane g.core
    ({ r1 with lane := lane }, s1)

/-- Requests for a list of targets, with what each carries. -/
def State.makeReqs (s : State) (g : GroupRef) (sl : Slot) (op : Nat) (k : ReqKind) (size : Nat) (fill : Req → Req) :
    List (Nat × Nat × Target) → List Req × State
  | [] => ([], s)
  | e :: es =>
    let (r, s1) := s.makeReq g sl op k e size
    let (rs, s2) := State.makeReqs s1 g sl op k size fill es
    (fill r :: rs, s2)

/-- A load of an RO line that the core's read-only cache holds is answered from it (R160, R247), unless the core has an
earlier read of the line under way, which would then return a later value than this one (R146); others wait at the home. -/
def State.serveRoc (s : State) (g : GroupRef) (r : Req) : Req :=
  let c := s.core g.core
  let under := s.reqs.any (fun e => e.2.kind = .read && e.2.stage ≠ .answered && e.2.room = none && e.2.addr / 128 = r.addr / 128
    && (match e.2.owner with | .group h _ => h.core = g.core | .dma h _ _ => h.core = g.core | _ => false))
  if c.rocEnable && r.attr = .ro && r.room = none && !under then
    match Table.find c.rocLines (r.addr / 128) with
    | some d => { r with stage := .answered, answer := (d.drop (r.addr % 128)).take r.size }
    | none => r
  else r

/-- Issue the requests of one operation: the operation joins the group's list, the requests go out. One with no active
thread and no token to signal has nothing to do. -/
def State.launchOp (s : State) (nx : Slot) (o : MemOp) (rs : List Req) : Except GroupFault Slot × State :=
  let o1 := { o with open_ := if o.load && rs.all (fun r => r.kind = .read) then 0 else rs.length, replay := rs }
  (.ok (if rs = [] && o.token = none then nx else { nx with ops := nx.ops ++ [o1] }), s.addReqs rs)

/-! ## Scalar memory instructions -/

/-- The fields of a scalar memory instruction: IX, RI and SC unused, SZ 0 to 3 (R88, R99, R101). -/
def scalarMemLegal (tk sx : Bool) (i : Insn) (_ : Slot) : Bool :=
  i.okM false tk sx false && !i.ix && i.ri = 0 && i.sc = 0 && i.sz ≤ 3 && i.rd ≤ 63

/-- The address of a scalar access (R99). -/
def Slot.scalarAddr (sl : Slot) (i : Insn) : Nat := (sl.sreg i.base + i.offset false).toNat

/-- A scalar load: SLD, ACQ, ACQ.RO. -/
def scalarLoad (acquire roInval : Bool) (g : GroupRef) (w l : W64) (s : State) : Out :=
  .next (s.issue g w l (scalarMemLegal false true)
    (fun i _ => { engine := .scalar, reads := pS i.base, writes := pS i.rd, part := false })
    (fun i sl nx st =>
      let size := 2 ^ i.sz
      let r := st.checkAll g sl (i.sp = 1) .load size [(0, sl.scalarAddr i)]
      match r.1 with
      | .error f => (.error f, r.2)
      | .ok ts =>
        let (op, s1) := r.2.takeOp g.core
        let (rs, s2) := s1.makeReqs g sl op .read size (fun x => if acquire then x else s1.serveRoc g x) ts
        let o := { MemOp.blank op .scalar with
          load := true, acquire := acquire, roInval := roInval, dest := .sreg i.rd, size := size, signed := i.sx }
        s2.launchOp nx o rs))

/-- SLD (R93). -/
def execSld (g : GroupRef) (w l : W64) (s : State) : Out := scalarLoad false false g w l s

/-- ACQ: a load-acquire (R106). -/
def execAcq (g : GroupRef) (w l : W64) (s : State) : Out := scalarLoad true false g w l s

/-- ACQ.RO: a load-acquire that also invalidates the read-only cache (R107). -/
def execAcqRo (g : GroupRef) (w l : W64) (s : State) : Out := scalarLoad true true g w l s

/-- SST: the low SZ bytes of sRD to memory (R93). -/
def execSst (g : GroupRef) (w l : W64) (s : State) : Out :=
  .next (s.issue g w l (scalarMemLegal true false)
    (fun i _ => { engine := .scalar, reads := pS i.base ++ pS i.rd, writes := [], part := false })
    (fun i sl nx st =>
      let size := 2 ^ i.sz
      let r := st.checkAll g sl (i.sp = 1) .store size [(0, sl.scalarAddr i)]
      match r.1 with
      | .error f => (.error f, r.2)
      | .ok ts =>
        let (op, s1) := r.2.takeOp g.core
        let (rs, s2) := s1.makeReqs g sl op .write size (fun x => { x with data := leBytes size (sl.sreg i.rd).toNat }) ts
        s2.launchOp nx { MemOp.blank op .scalar with size := size, token := i.token } rs))

/-- REL: the group stalls until its earlier accesses are performed; the store then becomes visible (R105). -/
def execRel (g : GroupRef) (w l : W64) (s : State) : Out :=
  .next (s.issue g w l (scalarMemLegal true false)
    (fun i _ => { engine := .scalar, reads := pS i.base ++ pS i.rd, writes := [], part := false })
    (fun i sl nx st =>
      let size := 2 ^ i.sz
      let va := sl.scalarAddr i
      let r := st.checkAccess sl.suite (i.sp = 1) .store va size
      match r.1 with
      | .error f => (.error f, r.2)
      | .ok loc =>
        let t := targetOf g.core.room va loc
        let wt : Wait := .rel t.room.isSome t.addr (BitVec.ofNat 64 va) (leBytes size (sl.sreg i.rd).toNat) t.attr i.token
        (.ok { nx with wait := wt }, r.2)))

/-! ## Vector memory instructions -/

/-- The index fields of a vector access: RI names an allocated g register when IX = 1, an even one for 8 B elements (R91),
else RI and SC are 0 (R87, R99). -/
def indexLegal (i : Insn) (sl : Slot) : Bool :=
  if i.ix then sl.hasG i.ri 1 && (i.sz ≠ 3 || i.ri % 2 = 0) else i.ri = 0 && i.sc = 0

/-- The fields of VLD and VST: SZ 0 to 3, an even pair for 8 B (R91, R101). -/
def vecMemLegal (tk sx : Bool) (i : Insn) (sl : Slot) : Bool :=
  i.okM true tk sx false && indexLegal i sl && i.sz ≤ 3 && sl.hasG i.rd (if i.sz = 3 then 2 else 1)
    && (i.sz ≠ 3 || i.rd % 2 = 0)

/-- The address registers of a vector access. -/
def indexPlaces (i : Insn) : List Place := pS i.base ++ (if i.ix then pG false i.ri else [])

/-- The accesses of the active threads. -/
def Slot.threadAccesses (sl : Slot) (i : Insn) (size : Nat) (atom : Bool) : List (Nat × Nat) :=
  (sl.threads i).map (fun t => (t, sl.threadAddr i size atom t))

/-- VLD: gRD ← memory, per active thread (R93). -/
def execVld (g : GroupRef) (w l : W64) (s : State) : Out :=
  .next (s.issue g w l (vecMemLegal false true)
    (fun i sl => { engine := .vector, reads := indexPlaces i, writes := pG (i.sz = 3) i.rd, part := sl.active i != sl.full })
    (fun i sl nx st =>
      let size := 2 ^ i.sz
      let r := st.checkAll g sl (i.sp = 1) .load size (sl.threadAccesses i size false)
      match r.1 with
      | .error f => (.error f, r.2)
      | .ok ts =>
        let (op, s1) := r.2.takeOp g.core
        let (rs, s2) := s1.makeReqs g sl op .read size (fun x => s1.serveRoc g x) ts
        let dest : Dest := if i.sz = 3 then .pair i.rd else .greg i.rd
        s2.launchOp nx { MemOp.blank op .vector with load := true, dest := dest, size := size, signed := i.sx } rs))

/-- VST: memory ← gRD, per active thread (R93). -/
def execVst (g : GroupRef) (w l : W64) (s : State) : Out :=
  .next (s.issue g w l (vecMemLegal true false)
    (fun i _ => { engine := .vector, reads := indexPlaces i ++ pG (i.sz = 3) i.rd, writes := [], part := false })
    (fun i sl nx st =>
      let size := 2 ^ i.sz
      let r := st.checkAll g sl (i.sp = 1) .store size (sl.threadAccesses i size false)
      match r.1 with
      | .error f => (.error f, r.2)
      | .ok ts =>
        let (op, s1) := r.2.takeOp g.core
        let put := fun (x : Req) => { x with data := leBytes size (sl.gval (i.sz = 3) i.rd x.index) }
        let (rs, s2) := s1.makeReqs g sl op .write size put ts
        s2.launchOp nx { MemOp.blank op .vector with size := size, token := i.token } rs))

/-- The fields of VATOM (R103). -/
def vatomLegal (i : Insn) (sl : Slot) : Bool :=
  let fn := i.fn
  let cas := decide (fn % 8 = 7)
  let n := if i.sz = 3 then (if cas then 4 else 2) else (if cas then 2 else 1)
  i.okM true true false true && i.bits 52 4 = 0 && indexLegal i sl && (i.sz = 2 || i.sz = 3) && i.rd % 2 = 0
    && fn < 32 && (!bitOf fn 3 || fn % 8 = 1 || fn % 8 = 2) && (!bitOf fn 4 || (fn % 8 = 0 && !bitOf fn 3 && i.sz = 2))
    && sl.hasG i.rd n

/-- The contribution of thread t to its word (R103). -/
def Slot.contribution (sl : Slot) (i : Insn) (t : Nat) : Contribution :=
  let wide := decide (i.sz = 3)
  let step := if wide then 2 else 1
  { thread := t, a := BitVec.ofNat 64 (sl.gval wide i.rd t),
    b := if i.fn % 8 = 7 then BitVec.ofNat 64 (sl.gval wide (i.rd + step) t) else 0 }

/-- One request per distinct word, in the order its first thread comes, with the contributions in thread order (R70). -/
def groupWords (sl : Slot) (i : Insn) : List (Nat × Nat × Target) → List ((Nat × Nat × Target) × List Contribution)
  | [] => []
  | e :: es =>
    let rest := groupWords sl i es
    match rest.find? (fun x => x.1.2.2.room = e.2.2.room && x.1.2.2.addr = e.2.2.addr) with
    | none => (e, [sl.contribution i e.1]) :: rest
    | some x => (e, sl.contribution i e.1 :: x.2) :: rest.filter (fun y => !(y.1.2.2.room = e.2.2.room && y.1.2.2.addr = e.2.2.addr))

/-- VATOM: group atomic (R70, R103). One in space 0 counts for R78 as soon as it issues. -/
def execVatom (g : GroupRef) (w l : W64) (s : State) : Out :=
  .next (s.issue g w l vatomLegal
    (fun i sl =>
      let wide := decide (i.sz = 3)
      let new := if i.fn % 8 = 7 then pG wide (i.rd + (if wide then 2 else 1)) else []
      { engine := .vector, reads := indexPlaces i ++ pG wide i.rd ++ new, writes := pG wide i.rd, part := sl.active i != sl.full })
    (fun i sl nx st =>
      let size := 2 ^ i.sz
      let r := st.checkAll g sl (i.sp = 1) .atomic size (sl.threadAccesses i size true)
      match r.1 with
      | .error f => (.error f, r.2)
      | .ok ts =>
        let (op, s1) := r.2.takeOp g.core
        let one := fun (acc : List Req × State) (x : (Nat × Nat × Target) × List Contribution) =>
          let (q, t) := acc.2.makeReq g sl op .atomic x.1 size
          (acc.1 ++ [{ q with atomFn := BitVec.ofNat 8 i.fn, contrib := x.2 }], t)
        let (rs, s2) := (groupWords sl i ts).foldl one ([], s1)
        let dest : Dest := if i.sz = 3 then .pair i.rd else .greg i.rd
        let nx1 := if i.sp = 0 then { nx with sideDone := true } else nx
        s2.launchOp nx1 { MemOp.blank op .vector with load := true, dest := dest, size := size, token := i.token } rs))

/-- A rounded contribution to element k of a line (R134, R252): number, u′, INEXACT, OUT. -/
def redEntry (anchor : Int) (k : Nat) : Option FV → Nat × Int × Bool × Bool
  | none => (k, 0, false, true)
  | some v =>
    match afRound anchor v with
    | (some u, ix) => (k, u, ix, false)
    | (none, ix) => (k, 0, ix, true)

/-- Check the contributions of VREDADD in thread order: element, then its tally word (R252, R481). -/
def State.checkRed (s : State) (g : GroupRef) (sl : Slot) (space1 : Bool) :
    List (Nat × Nat) → Except GroupFault (List (Nat × Nat × Target × Nat)) × State
  | [] => (.ok [], s)
  | (ix, va) :: rest =>
    let r := s.checkAccess sl.suite space1 .contribution va 16
    match r.1 with
    | .error f => (.error f, r.2)
    | .ok none => (parkWith .region (BitVec.ofNat 64 va), r.2)
    | .ok (some l) =>
      let ty := r.2.checkTally sl.suite l.region va
      match ty.1 with
      | .error f => (.error f, ty.2)
      | .ok tpa =>
        let q := State.checkRed ty.2 g sl space1 rest
        match q.1 with
        | .error f => (.error f, q.2)
        | .ok ts => (.ok ((ix, va, targetOf g.core.room va (some l), tpa) :: ts), q.2)

/-- The request of one contribution: its element's line, and the tally word of the line's first element. -/
def redReq (g : GroupRef) (sl : Slot) (op : Nat) (e : Nat × Nat × Target × Nat) (v : Option FV) : Req :=
  let (ix, va, t, tpa) := e
  let k := (t.addr % 128) / 16
  let an := (t.region.map (fun x => x.anchor)).getD 0
  { Req.blank (.group g op) .red sl.suite sl.gen with
    addr := t.addr, va := BitVec.ofNat 64 va, size := 16, attr := .red, index := ix, red := [redEntry an k v], tallyPa := tpa - 4 * k }

/-- The fields of VREDADD: SZ is 0 (R101). -/
def vredLegal (i : Insn) (sl : Slot) : Bool :=
  i.okM true true false false && indexLegal i sl && i.sz = 0 && sl.hasG i.rd 1

/-- VREDADD: add FP32 gRD of each active thread to an AF128 element of a RED region (R141, R252). -/
def execVredadd (g : GroupRef) (w l : W64) (s : State) : Out :=
  .next (s.issue g w l vredLegal
    (fun i _ => { engine := .vector, reads := indexPlaces i ++ pG false i.rd, writes := [], part := false })
    (fun i sl nx st =>
      let r := st.checkRed g sl (i.sp = 1) (sl.threadAccesses i 16 false)
      match r.1 with
      | .error f => (.error f, r.2)
      | .ok ts =>
        let (op, s1) := r.2.takeOp g.core
        let rs := ts.map (fun e => redReq g sl op e (some (fp32.value (sl.greg i.rd e.1).toNat)))
        s1.launchOp { nx with sideDone := true } { MemOp.blank op .vector with size := 16, token := i.token } rs))

/-! ## Tile memory instructions -/

/-- The fields of TLD and TST: inside a matrix region, IX = 1 with SC = 0 and RI an s register, or IX = 0 with RI = 0
(R69, R88, R99). SZ is unused. -/
def tileMemLegal (tk : Bool) (i : Insn) (sl : Slot) : Bool :=
  i.okM false tk false false && sl.inMx && i.sz = 0 && i.sc = 0 && (if i.ix then i.ri ≤ 63 else i.ri = 0) && i.rd < sl.ntiles

/-- A stride value that is not a multiple of `n` raises ALIGN at row 0 (R101, R481). -/
def Slot.strideOk (sl : Slot) (i : Insn) (n : Nat) : Bool := !i.ix || (sl.sreg (i.ri % 64)).toNat % n = 0

/-- The 64 rows of a tile access. -/
def Slot.tileRows (sl : Slot) (i : Insn) : List (Nat × Nat) := (List.range 64).map (fun r => (r, sl.rowAddr i r))

/-- What a tile access reads for its address. -/
def tileAddrPlaces (i : Insn) : List Place := pS i.base ++ (if i.ix then pS (i.ri % 64) else [])

/-- TLD: tRD ← 64 rows of 64 B (R104). -/
def execTld (g : GroupRef) (w l : W64) (s : State) : Out :=
  .next (s.issue g w l (tileMemLegal false)
    (fun i _ => { engine := .matrix, reads := tileAddrPlaces i, writes := pTile i.rd, part := false })
    (fun i sl nx st =>
      if !sl.strideOk i 64 then (parkWith .align (BitVec.ofNat 64 (sl.rowAddr i 0)), st)
      else
        let r := st.checkAll g sl (i.sp = 1) .load 64 (sl.tileRows i)
        match r.1 with
        | .error f => (.error f, r.2)
        | .ok ts =>
          let (op, s1) := r.2.takeOp g.core
          let (rs, s2) := s1.makeReqs g sl op .read 64 (fun x => s1.serveRoc g x) ts
          s2.launchOp nx { MemOp.blank op .matrix with load := true, dest := .tile i.rd, size := 64 } rs))

/-- TST: 64 rows of 64 B ← tRD (R104). -/
def execTst (g : GroupRef) (w l : W64) (s : State) : Out :=
  .next (s.issue g w l (tileMemLegal true)
    (fun i _ => { engine := .matrix, reads := tileAddrPlaces i ++ pTile i.rd, writes := [], part := false })
    (fun i sl nx st =>
      if !sl.strideOk i 64 then (parkWith .align (BitVec.ofNat 64 (sl.rowAddr i 0)), st)
      else
        let r := st.checkAll g sl (i.sp = 1) .store 64 (sl.tileRows i)
        match r.1 with
        | .error f => (.error f, r.2)
        | .ok ts =>
          let (op, s1) := r.2.takeOp g.core
          let put := fun (x : Req) => { x with data := sl.tiles.readN (tileKey i.rd x.index 0) 64 }
          let (rs, s2) := s1.makeReqs g sl op .write 64 put ts
          s2.launchOp nx { MemOp.blank op .matrix with size := 64, token := i.token } rs))

/-- The pages of a 1 KiB row in ascending order, each by its first byte in the row. -/
def rowPages (va : Nat) : List Nat :=
  if va / 4096 = (va + 1023) / 4096 then [va] else [va, (va + 1023) / 4096 * 4096]

/-- Check one 1 KiB row of MXRED (R481): its pages, the attribute, then the tally word of each element; the target and
tally address of each of its 64 elements. -/
def State.checkRedRow (s : State) (sl : Slot) (space1 : Bool) (va : Nat) :
    Except GroupFault (List (Nat × Target × Nat)) × State :=
  let at_ := fun (v : Nat) => (BitVec.ofNat 64 v : W64)
  if va % 16 ≠ 0 then (parkWith .align (at_ va), s)
  else if space1 then (parkWith .region (at_ va), s)
  else
    let locs := (rowPages va).foldl (fun (acc : Except GroupFault (List (Nat × Located)) × State) p =>
      match acc.1 with
      | .error f => (.error f, acc.2)
      | .ok ls =>
        let q := acc.2.locate sl.suite p true false
        match q.1 with
        | none => (parkWith .translation (at_ p), q.2)
        | some l => (.ok (ls ++ [(p, l)]), q.2)) (.ok [], s)
    match locs.1 with
    | .error f => (.error f, locs.2)
    | .ok ls =>
      match ls.find? (fun e => e.2.region.attr != .red) with
      | some e => (parkWith .region (at_ e.1), locs.2)
      | none =>
        (List.range 64).foldl (fun (acc : Except GroupFault (List (Nat × Target × Nat)) × State) j =>
          match acc.1 with
          | .error f => (.error f, acc.2)
          | .ok es =>
            let v := va + 16 * j
            match (ls.filter (fun e => e.1 ≤ v)).getLast? with
            | none => (.ok es, acc.2)
            | some (p, l) =>
              let q := acc.2.checkTally sl.suite l.region v
              match q.1 with
              | .error f => (.error f, q.2)
              | .ok tpa =>
                let t : Target := { room := none, addr := l.pa + (v - p), attr := .red, region := some l.region }
                (.ok (es ++ [(v, t, tpa)]), q.2)) (.ok [], locs.2)

/-- The fields of MXRED: IX = 1 and SC = 0, RI an s register, RD an accumulator (R99, R104). -/
def mxredLegal (i : Insn) (sl : Slot) : Bool :=
  i.okM false true false false && sl.inMx && i.sz = 0 && i.sc = 0 && i.ix && i.ri ≤ 63 && i.rd < sl.naccs

/-- MXRED: add accumulator aRD into AF128 elements of a RED region (R141, R252). -/
def execMxred (g : GroupRef) (w l : W64) (s : State) : Out :=
  .next (s.issue g w l mxredLegal
    (fun i _ => { engine := .matrix, reads := tileAddrPlaces i, writes := [], part := false })
    (fun i sl nx st =>
      if !sl.strideOk i 1024 then (parkWith .align (BitVec.ofNat 64 (sl.rowAddr i 0)), st)
      else
        let rows := (List.range 32).foldl (fun (acc : Except GroupFault (List (Nat × Nat × Target × Nat)) × State) r =>
          match acc.1 with
          | .error f => (.error f, acc.2)
          | .ok es =>
            let q := acc.2.checkRedRow sl (i.sp = 1) (sl.rowAddr i r)
            match q.1 with
            | .error f => (.error f, q.2)
            | .ok row =>
              let numbered := (List.range row.length).zipWith (fun j e => (64 * r + j, e)) row
              (.ok (es ++ numbered), q.2)) (.ok [], st)
        match rows.1 with
        | .error f => (.error f, rows.2)
        | .ok es =>
          let a := sl.acc i.rd
          let (op, s1) := rows.2.takeOp g.core
          let rs := es.map (fun e => redReq g sl op e (a.value e.1))
          s1.launchOp { nx with sideDone := true } { MemOp.blank op .matrix with size := 16, token := i.token } rs))

/-! ## SPAWN (R112) -/

/-- SPAWN: the core checks the descriptor's address as for a load of 64 B; the group then waits for the answer. -/
def execSpawn (g : GroupRef) (w l : W64) (s : State) : Out :=
  .next (s.issue g w l (fun i _ => i.okR 63 63 0 1)
    (fun i _ => { engine := .scalar, reads := pS i.ra, writes := pS i.rd, part := false })
    (fun i sl nx st =>
      let va := (sl.sreg i.ra).toNat
      let r := st.checkAccess sl.suite (i.fn = 1) .load va 64
      match r.1 with
      | .error f => (.error f, r.2)
      | .ok _ => (.ok { nx with wait := .spawn (i.fn = 1) (sl.sreg i.ra) i.rd, spawns := nx.spawns + 1 }, r.2)))

end Sys2Proof.Machine
end

