-- ==== Sys2Proof/Machine/DmaRun.lean ====
section
/-! DEFINITION. A Room DMA transfer under way: which transfers wait for which (R159, R173), the lanes, routes and requests
of its blocks (R167, R177), and how its reads and writes are sent. -/

namespace Sys2Proof.Machine

/-- Two blocks share a byte. -/
def DmaBlock.meets (a b : DmaBlock) : Bool :=
  a.room = b.room && decide (a.addr < b.addr + b.len) && decide (b.addr < a.addr + a.len)

/-- A transfer touches a DEV region. -/
def DmaDesc.dev (d : DmaDesc) : Bool := d.srcs.any (fun b => b.attr = .dev) || d.dsts.any (fun b => b.attr = .dev)

/-- The source blocks of a transfer that have not returned. -/
def DmaDesc.openSrcs (d : DmaDesc) : List DmaBlock :=
  ((List.range d.srcs.length).filter (fun n => !d.got.any (fun e => e.1 = n))).filterMap (listAt d.srcs)

/-- The destination blocks of a transfer that are neither acknowledged nor dropped. -/
def DmaDesc.openDsts (d : DmaDesc) : List DmaBlock :=
  ((List.range d.dsts.length).filter (fun n => !d.ended.contains n)).filterMap (listAt d.dsts)

/-- Whether a transfer must wait for the earlier transfer `e` of its group: it reads or writes bytes of a write of `e` that
has not ended, or writes bytes of a read of `e` that has not returned (R173); or both touch DEV regions, whose accesses
keep program order (R159). -/
def DmaDesc.waitsFor (d e : DmaDesc) : Bool :=
  d.srcs.any (fun a => e.openDsts.any a.meets) || d.dsts.any (fun a => e.openDsts.any a.meets)
    || d.dsts.any (fun a => e.openSrcs.any a.meets) || (d.dev && e.dev)

/-- The lane of a Hall that a block's request takes (R167): one of the core's two within the Room and between Rooms from
the own side, 12 or 13 for a Room reached by the mesh, 14 or 15 where the other side is external memory; which of the two
is a free choice. -/
def State.dmaLane (s : State) (g : GroupRef) (room : RoomId) (otherExternal : Bool) : Nat × State :=
  let (b, s1) := s.drawBool
  let one := if b then 1 else 0
  (if otherExternal then 14 + one else if room = g.core.room then 2 * g.core.core.val + one else 12 + one, s1)

/-- The Room other than the own one that one side of a transfer names while the other side is external memory: its Hall
moves the data by its Stair port (R177). -/
def DmaDesc.remoteHall (d : DmaDesc) : Option RoomId :=
  let far := fun (l : List DmaBlock) => (l.findSome? (fun b => b.room)).filter (fun r => r ≠ d.g.core.room)
  if d.srcs.any (fun b => b.room.isNone) then far d.dsts
  else if d.dsts.any (fun b => b.room.isNone) then far d.srcs
  else none

/-- The request of one block. A read for another Room's Hall starts at the own Room's router, and so does a write to
another Room; the data of a transfer by a remote Hall is already there (R177). -/
def State.dmaReq (s : State) (d : DmaDesc) (sl : Slot) (n : Nat) (k : ReqKind) (b : DmaBlock) (data : List Byte) (mark : Bool) :
    State :=
  let own := d.g.core.room
  let ext := d.srcs.any (fun x => x.room.isNone) || d.dsts.any (fun x => x.room.isNone)
  let via := d.remoteHall
  let first := k = .read || d.srcs = []
  let router := match via with
    | some _ => if first then some own else none
    | none => match b.room with | some r => if r = own then none else some own | none => none
  let r0 : Req :=
    { Req.blank (.dma d.g d.id n) k sl.suite sl.gen with
      room := b.room, addr := b.addr, va := b.va, size := b.len, attr := b.attr, data := data, index := n, mark := mark,
      via := via, router := router }
  match b.room with
  | none => s.addReqs [r0]
  | some r =>
    let (lane, s1) := s.dmaLane d.g r ext
    s1.addReqs [{ r0 with lane := lane }]

/-- The bytes of positions [pos, pos + len) among the source blocks returned, and whether one of them is poisoned;
`none` while some are missing. -/
def DmaDesc.gather (d : DmaDesc) (pos len : Nat) : Option (List Byte × Bool) :=
  let need := (List.range d.srcs.length).filter (fun n => match listAt d.srcs n with
    | some b => decide (b.pos < pos + len) && decide (pos < b.pos + b.len)
    | none => false)
  let have_ := need.map (fun n => d.got.find? (fun e => e.1 = n))
  if have_.any (fun o => o.isNone) then none
  else
    let byte := fun (p : Nat) =>
      ((need.find? (fun n => match listAt d.srcs n with | some b => decide (b.pos ≤ p) && decide (p < b.pos + b.len) | none => false)).bind
        (fun n => (listAt d.srcs n).bind (fun b => (d.got.find? (fun e => e.1 = n)).map (fun e => listGet 0 e.2.1 (p - b.pos))))).getD 0
    some ((List.range len).map (fun i => byte (pos + i)), have_.any (fun o => match o with | some e => e.2.2 | none => false))

/-- A Room DMA descriptor of a core. -/
def State.desc (s : State) (c : CoreId) (op : Nat) : Option DmaDesc := (s.core c).dma.find? (fun d => d.id = op)

/-- Change a Room DMA descriptor of a core. -/
def State.updDesc (s : State) (c : CoreId) (op : Nat) (f : DmaDesc → DmaDesc) : State :=
  s.updCore c (fun x => { x with dma := x.dma.map (fun d => if d.id = op then f d else d) })

/-- The blocks of one side in the order they are sent: those in DEV regions by ascending address (R159), the others as they
come. -/
def sendOrder (bs : List DmaBlock) : List Nat :=
  let at_ := fun (n : Nat) => (listAt bs n)
  let dev := fun (n : Nat) => (at_ n).any (fun b => b.attr = .dev)
  let va := fun (n : Nat) => ((at_ n).map (fun b => b.va.toNat)).getD 0
  let ns := List.range bs.length
  ns.filter (fun n => !dev n) ++ sortBy (fun a b => decide (va a < va b)) (ns.filter dev)

/-- Send every destination block whose source bytes have all come; a DEV block waits for those before it (R159). -/
def State.sendReady (s : State) (g : GroupRef) (op : Nat) : State :=
  match s.desc g.core op with
  | none => s
  | some d =>
    let sl := s.slot g
    let one := fun (acc : (List Nat × Bool) × State) (n : Nat) =>
      match listAt d.dsts n with
      | none => acc
      | some b =>
        if acc.1.1.contains n then acc
        else
          match d.gather b.pos b.len with
          | none => ((acc.1.1, acc.1.2 && b.attr ≠ .dev), acc.2)
          | some (bs, p) =>
            if b.attr = .dev && !acc.1.2 then acc
            else ((acc.1.1 ++ [n], acc.1.2), acc.2.dmaReq d sl n .write b bs p)
    let r := (sendOrder d.dsts).foldl one ((d.sent, true), s)
    r.2.updDesc g.core op (fun e => { e with sent := r.1.1 })

/-- A transfer begins: its reads go out, or, for a fill, its writes. -/
def State.beginDma (s : State) (d : DmaDesc) : State :=
  let s1 := s.updDesc d.g.core d.id (fun e => { e with began := true })
  if d.srcs = [] then s1.sendReady d.g d.id
  else
    let sl := s.slot d.g
    (sendOrder d.srcs).foldl (fun t n => match listAt d.srcs n with
      | none => t
      | some b => t.dmaReq d sl n .read b [] false) s1

/-- Begin every transfer of a core that waits for no earlier one of its group (R159, R173). -/
def State.startDma (s : State) (c : CoreId) : State :=
  let one := fun (acc : List DmaDesc × State) (d : DmaDesc) =>
    let free := !acc.1.any (fun e => e.g = d.g && d.waitsFor e)
    (acc.1 ++ [d], if !d.began && free then acc.2.beginDma d else acc.2)
  ((s.core c).dma.foldl one ([], s)).2

end Sys2Proof.Machine
end

