-- ==== Sys2Proof/Machine/Requests.lean ====
section
/-! DEFINITION. What happens to requests in flight: the orders they keep (R146, R159, R168, R173), atomic words (R71),
completion, refusal and drops (R73, R109, R151, R419, R421), and the return of load data (R73, R160, R107). -/

namespace Sys2Proof.Machine

/-! ## Order -/

/-- The engine of a group that a request belongs to. -/
def State.reqEngine (s : State) (r : Req) : Option (GroupRef × Engine) :=
  match r.owner with
  | .group g op => ((s.slot g).ops.find? (fun o => o.id = op)).map (fun o => (g, o.engine))
  | .dma g _ _ => some (g, .dma)
  | _ => none

/-- Two requests touch a common byte of one space. -/
def Req.overlaps (a b : Req) : Bool :=
  a.room = b.room && decide (a.addr < b.addr + b.size) && decide (b.addr < a.addr + a.size)

/-- A request has not been taken by its bank, home or target. -/
def Req.waiting (r : Req) : Bool := r.stage = .sent && !r.gone && !r.back

/-- The core of the group or DMA engine that made a request. -/
def Owner.core : Owner → Option CoreId
  | .group g _ => some g.core
  | .dma g _ _ => some g.core
  | .hart _ => none
  | .window _ _ => none

/-- Whether request k may be served now: nothing that its Hall lane received before it is still to be served; no earlier
request of the same engine of the same group to common bytes (the blocks of a Room DMA transfer have no such order, and
transfers that conflict wait whole, R173); no earlier write to common bytes that a CORE fence of its core has seen enter
the port; for DEV regions no earlier request of the engine at all (R108, R146, R150, R159, R168). A hart's access to I/O
memory waits for its earlier ones (R269), and a Window write for the earlier writes of its port (R333). -/
def State.mayServe (s : State) (k : Nat) (r : Req) : Bool :=
  let eng := s.reqEngine r
  let earlier := s.reqs.filter (fun e => e.1 < k)
  let laneFree := r.room = none || !s.reqs.any (fun e =>
    e.2.waiting && e.2.room = r.room && e.2.lane = r.lane && e.2.router = none && decide (e.2.seq < r.seq))
  let whole := match r.owner with | .group _ _ => false | _ => true
  let sameFree := whole || !earlier.any (fun e => e.2.waiting && s.reqEngine e.2 = eng && e.2.overlaps r)
  let coreFree := r.owner.core = none ||
    !earlier.any (fun e => e.2.waiting && e.2.ported && e.2.owner.core = r.owner.core && e.2.overlaps r)
  let devFree := r.attr ≠ .dev || eng = none ||
    !earlier.any (fun e => e.2.attr = .dev && !e.2.gone && (e.2.stage = .sent || (e.2.kind = .write && e.2.stage ≠ .sent))
      && s.reqEngine e.2 = eng)
  let hostFree := match r.owner with
    | .hart h => r.attr ≠ .dev || !earlier.any (fun e => e.2.attr = .dev && e.2.stage = .sent && !e.2.gone && e.2.owner = .hart h)
    | .window p _ =>
      r.kind ≠ .write || !earlier.any (fun e => e.2.kind = .write && (match e.2.owner with | .window q _ => q = p | _ => false))
    | _ => true
  laneFree && sameFree && coreFree && devFree && hostFree

/-! ## Lanes of a Hall (R167, R168) -/

/-- The request at the head of a Hall lane: of those the lane holds, the first it received (R168). -/
def State.laneHead (s : State) (r : RoomId) (lane : Nat) : Option (Nat × Req) :=
  let held := s.reqs.filter (fun e => e.2.room = some r && e.2.waiting && e.2.router = none && e.2.lane = lane)
  held.find? (fun e => held.all (fun f => decide (e.2.seq ≤ f.2.seq)))

/-- A bank grants a lane: its pointer moves past the lane (R167). -/
def State.grantLane (s : State) (r : RoomId) (bank lane : Nat) : State :=
  s.updRoom r (fun x => { x with bankPtr := Table.set x.bankPtr bank ((lane + 1) % 16) })

/-- A lane of the Stair port, 14 or 15, that holds no request, for a stream fill or a context spill (R211): a free choice where
both are free; none while both hold one or the Hall wipes. -/
def State.stairLane (s : State) (r : RoomId) : Option Nat × State :=
  let (b, s1) := s.drawBool
  let (x, y) : Nat × Nat := if b then (15, 14) else (14, 15)
  (if (s.room r).wiping then none else if (s.laneHead r x).isNone then some x else if (s.laneHead r y).isNone then some y else none, s1)

/-- Grants to a lane at every bank that bytes [off, off + n) lie in. -/
def State.grantRange (s : State) (r : RoomId) (lane off n : Nat) : State :=
  (linePieces off n).foldl (fun t p => t.grantLane r (roomBank (128 * p.1)) lane) s

/-! ## Atomic words (R70, R71, R103) -/

/-- The value one contribution leaves in a word of `size` bytes. -/
def atomApply (fn : Nat) (size old : Nat) (c : Contribution) : Nat :=
  let w := 8 * size
  let a := c.a.toNat % 2 ^ w
  let sg := fun (v : Nat) => if decide (2 ^ (w - 1) ≤ v) then (v : Int) - 2 ^ w else (v : Int)
  let less := fun (x y : Nat) => if bitOf fn 3 then decide (sg x < sg y) else decide (x < y)
  match fn % 8 with
  | 0 => if bitOf fn 4 then fp32.near ((fp32.value old).add (fp32.value a)) else (old + a) % 2 ^ w
  | 1 => if less a old then a else old
  | 2 => if less old a then a else old
  | 3 => old &&& a
  | 4 => old ||| a
  | 5 => old ^^^ a
  | 6 => a
  | _ => if old = a then c.b.toNat % 2 ^ w else old

/-- Apply contributions in order: the value each thread receives, and the final value (R71). -/
def atomRun (fn size : Nat) : Nat → List Contribution → List (Nat × Nat) × Nat
  | old, [] => ([], old)
  | old, c :: cs =>
    let r := atomRun fn size (atomApply fn size old c) cs
    ((c.thread, old) :: r.1, r.2)

/-- The old values of an atomic, 8 bytes for each contribution in order. -/
def packOlds (olds : List (Nat × Nat)) : List Byte := olds.flatMap (fun e => leBytes 8 e.2)

/-- The old value of contribution n. -/
def unpackOld (bs : List Byte) (n : Nat) : Nat := leNat ((bs.drop (8 * n)).take 8)

/-! ## Completion -/

/-- Operations that have nothing left to do: not a load, every request performed, no token owed. -/
def Slot.reap (sl : Slot) : Slot := { sl with ops := sl.ops.filter (fun o => o.load || o.open_ != 0 || o.token.isSome) }

/-- One request of an operation has been performed (R150, R151). -/
def Slot.onePerformed (sl : Slot) (op : Nat) : Slot :=
  { sl with ops := sl.ops.map (fun o => if o.id = op then { o with open_ := o.open_ - 1 } else o) }

/-- A write or contribution of a group has been performed: it leaves the table. -/
def State.performed (s : State) (k : Nat) (g : GroupRef) (op : Nat) : State :=
  (s.dropReq k).updSlot g (fun x => (x.onePerformed op).reap)

/-- Set FENCE_ERR of a group (R109). -/
def State.fenceErr (s : State) (g : GroupRef) : State := s.updSlot g (fun x => { x with fenceErr := true })

/-- The endpoint that reports a failed access: the requester's (log 13). -/
def Owner.endpoint : Owner → Endpoint
  | .group g _ => .core g.core
  | .dma g _ _ => .core g.core
  | .hart h => .parlour (Fin.ofNat 2 (h.val / 64))
  | .window port _ => .porch (Fin.ofNat 2 (port.val / 2))

/-- A WRITE_DROPPED, READ_TIMEOUT or READ_REFUSED report for a request (R412, R413). -/
def State.reportReq (s : State) (r : Req) (cause outcome : BitVec 8) (subject : BitVec 16) (reason : BitVec 2) : State :=
  let rep : RasRep :=
    { RasRep.zero with
      cause := cause, outcome := BitVec.ofNat 4 outcome.toNat, suite := r.suite, gen := r.gen, subject := subject,
      addr := if r.room.isSome then 0 else BitVec.ofNat 64 r.addr, detail := BitVec.ofNat 32 reason.toNat }
  s.reportHeld r.owner.endpoint rep

/-- A DMA write, the one of block n, has been acknowledged or dropped (R174); with the last one the descriptor is
complete, and transfers that waited for the write may begin. -/
def State.dmaWriteEnded (s : State) (g : GroupRef) (op n : Nat) : State :=
  let ends := fun (d : DmaDesc) => if d.id = op then { d with ended := addOnce n d.ended } else d
  let s1 := s.updCore g.core (fun c =>
    { c with dma := (c.dma.map ends).filter (fun d => !d.began || decide (d.ended.length < d.dsts.length)) })
  (s1.updSlot g (fun x => (x.onePerformed op).reap)).startDma g.core

/-- The answer to a Window read, WIN_RDATA (R333): 0 OK, 1 REFUSED, 2 POISON, 3 TIMEOUT, zeros but for OK; the last three are
counted. After the port has gone DOWN it is not sent (R316). -/
def State.winAnswer (s : State) (k : Nat) (r : Req) (status : Nat) (data : List Byte) : State :=
  match r.owner with
  | .window port tag =>
    let m : SentMsg :=
      { type := 0x12, suite := r.suite, gen := r.gen, session := 0, status := BitVec.ofNat 8 status, tag := tag, addr := 0, arg := 0,
        data := if status = 0 then data else List.replicate r.size 0 }
    (s.dropReq k).updByPort port (fun p =>
      { p with
        sent := if p.hostTags.contains tag then p.sent ++ [m] else p.sent,
        hostTags := p.hostTags.filter (fun t => t ≠ tag),
        winRef := if status = 1 then sat16 p.winRef 1 else p.winRef,
        winPois := if status = 2 then sat16 p.winPois 1 else p.winPois,
        winTime := if status = 3 then sat16 p.winTime 1 else p.winTime })
  | _ => s

/-- A store, DMA write, atomic or contribution is dropped (R109, R151, R419, R421): it counts as performed, its group
gets FENCE_ERR, the threads of an atomic get poisoned destinations, a hart gets sxerr; a Window write is counted, REFUSED where
its home or target refuses it, else TIMEOUT. -/
def State.dropWrite (s : State) (k : Nat) (reason : BitVec 2) (subject : BitVec 16) : State :=
  match Table.find s.reqs k with
  | none => s
  | some r =>
    let s0 := s.reportReq r 6 2 subject reason
    match r.owner with
    | .group g op =>
      let s1 := s0.fenceErr g
      if r.kind = .atomic then
        (s1.updReq k (fun x => { x with stage := .answered, failed := true, poison := true })).updSlot g
          (fun x => x.onePerformed op)
      else s1.performed k g op
    | .dma g op n => ((s0.fenceErr g).dropReq k).dmaWriteEnded g op n
    | .hart h =>
      (s0.dropReq k).updHart h (fun x =>
        { x with sxerr := if x.virt then x.sxerr else true, vsxerr := if x.virt then true else x.vsxerr,
                 devStores := dropAll k x.devStores })
    | .window port _ =>
      (s0.dropReq k).updByPort port (fun p =>
        if reason = 3 then { p with winRef := sat16 p.winRef 1 } else { p with winTime := sat16 p.winTime 1 })

/-- A read fails after issue (R73, R174): its data counts as poisoned, and a READ_REFUSED or READ_TIMEOUT report goes. -/
def State.failRead (s : State) (k : Nat) (timeout : Bool) (reason : BitVec 2) (subject : BitVec 16) : State :=
  match Table.find s.reqs k with
  | none => s
  | some r =>
    let s0 := if timeout then s.reportReq r 7 0 subject 0 else s.reportReq r 14 1 subject reason
    match r.owner with
    | .window _ _ => s0.winAnswer k r (if timeout then 3 else if reason = 3 then 1 else 2) []
    | _ =>
      s0.updReq k (fun x =>
        { x with stage := .answered, failed := true, poison := true, gone := false, back := false, router := none,
                 answer := List.replicate x.size 0 })

/-- A request is refused or lost: a read fails, a write is dropped. -/
def State.refuse (s : State) (k : Nat) (reason : BitVec 2) (subject : BitVec 16) : State :=
  match Table.find s.reqs k with
  | none => s
  | some r => if r.kind = .read then s.failRead k false reason subject else s.dropWrite k reason subject

/-! ## LOAD_DATA_RETURN (R73, R106, R107, R160, R247) -/

/-- The value a load gives its register: SZ bytes, zero- or sign-extended to 64 bits (R93, R101). -/
def loadValue (size : Nat) (signed : Bool) (bs : List Byte) : Nat :=
  let v := leNat (bs.take size)
  if signed && bitOf v (8 * size - 1) then v + (2 ^ 64 - 2 ^ (8 * size)) else v

/-- Whether a re-executed load or atomic may write a place (R75). -/
def MemOp.writes (o : MemOp) (p : Place) : Bool := match o.only with | none => true | some ps => ps.contains p

/-- Deliver one request's data to the destination of its operation. -/
def Slot.deliver (sl : Slot) (o : MemOp) (r : Req) : Slot :=
  let v := loadValue o.size o.signed r.answer
  match o.dest with
  | .none => sl
  | .sreg d => if o.writes (.sreg d) then sl.setS d (BitVec.ofNat 64 v) else sl
  | .tile t => if o.writes (.row t r.index) then { sl with tiles := sl.tiles.writeN (tileKey t r.index 0) r.answer } else sl
  | .greg d =>
    if r.kind = .atomic then
      (List.range r.contrib.length).foldl (fun x n =>
        match listAt r.contrib n with
        | none => x
        | some c => if r.failed || r.poison || !o.writes (.greg d) then x else x.setG false d c.thread (unpackOld r.answer n)) sl
    else if o.writes (.greg d) then sl.setG false d r.index v else sl
  | .pair d =>
    let put := fun (x : Slot) (t u : Nat) =>
      let x1 := if o.writes (.greg d) then x.setG false d t u else x
      if o.writes (.greg (d + 1)) then x1.setG false (d + 1) t (u / 2 ^ 32) else x1
    if r.kind = .atomic then
      (List.range r.contrib.length).foldl (fun x n =>
        match listAt r.contrib n with
        | none => x
        | some c => if r.failed || r.poison then x else put x c.thread (unpackOld r.answer n)) sl
    else put sl r.index v

/-- The places that a poisoned answer marks (R73). -/
def MemOp.markedBy (o : MemOp) (r : Req) : List Place :=
  let ps : List Place := match o.dest with
    | .none => []
    | .sreg d => pS d
    | .greg d => pG false d
    | .pair d => pG true d
    | .tile t => [.row t r.index]
  ps.filter (fun p => o.writes p)

/-- Mark the places of poisoned answers; a place keeps its first mark, that of the lowest access (log 14). -/
def Slot.markAll (sl : Slot) (o : MemOp) (rs : List Req) : Slot :=
  rs.foldl (fun x r =>
    if r.poison || r.failed then
      (o.markedBy r).foldl (fun y p =>
        if y.marks.any (fun m => m.place = p) then y
        else { y with marks := y.marks ++ [{ place := p, addr := r.va, op := o.id }] }) x
    else x) sl

/-- Fill the core's read-only cache with the lines of a load's clean answers, unless it was made before an invalidation
(R107, R160, R247). 512 lines fit; which line is replaced is a free choice. -/
def State.fillRoc (s : State) (c : CoreId) (r : Req) : State :=
  let x := s.core c
  if x.rocEnable && r.attr = .ro && r.room = none && !r.noFill && !r.poison && !r.failed && r.fill ≠ [] then
    let line := r.addr / 128
    let s1 := if x.rocLines.length < 512 || (Table.find x.rocLines line).isSome then s
      else
        let (b, s2) := s.drawBits
        match listAt (Table.keys x.rocLines) (b.toNat % 512) with
        | none => s2
        | some k => s2.updCore c (fun y => { y with rocLines := Table.erase y.rocLines k })
    s1.updCore c (fun y => { y with rocLines := Table.set y.rocLines line r.fill, rocClean := false })
  else s

/-- The core has read bytes of an external line at its home: it never returns to an older value from its read-only cache
(R146, R160). A held line with other bytes there goes, and answers still on their way with other bytes do not fill. -/
def State.coreRead (s : State) (r : Req) (bytes : List Byte) : State :=
  match r.owner.core with
  | none => s
  | some c =>
    let line := r.addr / 128
    let older := fun (d : List Byte) => decide ((d.drop (r.addr % 128)).take bytes.length ≠ bytes)
    let drop := fun (x : Core) => match Table.find x.rocLines line with
      | some d => if older d then { x with rocLines := Table.erase x.rocLines line } else x
      | none => x
    { s.updCore c drop with
      reqs := Table.mapVals (fun _ q =>
        if q.owner.core = some c && q.room = none && q.addr / 128 = line && older q.fill then { q with noFill := true } else q)
        s.reqs }

/-- Invalidate a core's read-only cache for `ACQ.RO` (R107, R247): every line goes; outstanding loads will not fill. -/
def State.dropRoc (s : State) (c : CoreId) : State :=
  { s.updCore c (fun y => { y with rocLines := [] }) with
    reqs := Table.mapVals (fun _ r =>
      match r.owner with
      | .group g _ => if g.core = c then { r with noFill := true } else r
      | _ => r) s.reqs }

/-- The requests that R75 would send again for a completed operation: for an atomic, those not applied. -/
def resendOf (o : MemOp) (rs : List Req) : List Req :=
  if rs.any (fun r => r.kind = .atomic) then
    (rs.filter (fun r => r.failed || r.poison)).map (fun r =>
      { r with stage := .sent, failed := false, poison := false, answer := [] })
  else o.replay

/-- The group after all data of an operation has come: registers written, poisoned places marked, the operation kept for
R75 while a mark names it, and no longer a load. -/
def Slot.loadReturned (sl : Slot) (o : MemOp) (rs : List Req) : Slot :=
  let y := (rs.foldl (fun z r => z.deliver o r) sl).markAll o rs
  let kept := if y.marks.any (fun m => m.op = o.id) then y.kept ++ [{ o with replay := resendOf o rs }] else y.kept
  let done := fun (p : MemOp) => if p.id = o.id then { p with load := false, acquire := false, open_ := 0 } else p
  { y with kept := kept, ops := y.ops.map done }.reap

/-- The loads and atomics that R75 has sent again. -/
def Slot.resent (sl : Slot) : Bool := sl.ops.any (fun o => o.load && o.only.isSome)

/-- With the last of what R75 sent again returned, the group resumes; where a place is marked again it parks again at the
same instruction. -/
def Slot.replayed (sl : Slot) : Slot :=
  if sl.wait ≠ .replay || sl.resent then sl
  else
    let x := { sl with wait := .none }
    match sl.marks with
    | [] => x
    | m :: _ => x.park .poison m.addr

/-- LOAD_DATA_RETURN: all data of a load or atomic of a group has arrived and goes to its destination; poisoned or failed
parts mark it (R73). An `ACQ` lets the group issue on; an `ACQ.RO` invalidates the read-only cache (R106, R107); the last
of a replay lets the group resume (R75). -/
def execLoadDataReturn (g : GroupRef) (op : Nat) (s : State) : Out :=
  let sl := s.slot g
  match sl.ops.find? (fun o => o.id = op) with
  | none => .next s
  | some o =>
    let rs := (s.opReqs g op).map (fun e => e.2)
    if !o.load || rs.any (fun r => r.stage ≠ .answered) then .next s
    else
      let s1 := rs.foldl (fun t r => t.fillRoc g.core r) s
      let s2 := { s1 with reqs := s1.reqs.filter (fun e => e.2.owner.groupOp != some (g, op)) }
      let s3 := if o.roInval then s2.dropRoc g.core else s2
      .next (s3.updSlot g (fun x => (x.loadReturned o rs).replayed))

/-- TOKEN_SIGNAL: every access of a signalling operation has been performed, and the named counter advances (R102,
R152); for a Room DMA descriptor, when every write is acknowledged or dropped (R174). -/
def execTokenSignal (g : GroupRef) (op : Nat) (s : State) : Out :=
  let sl := s.slot g
  match sl.ops.find? (fun o => o.id = op) with
  | none => .next s
  | some o =>
    if o.open_ ≠ 0 || o.token = none then .next s
    else
      .next (s.updSlot g (fun x =>
        let y := x.signalOpt o.token
        { y with ops := y.ops.map (fun (p : MemOp) => if p.id = op then { p with token := none } else p) }.reap))

/-- DEVICE_REGION_LOAD_TIMEOUT: a DEV load that its target does not answer within 2^22 requester-fabric cycles fails
(R33, R73). -/
def execDeviceRegionLoadTimeout (g : GroupRef) (req : Nat) (s : State) : Out :=
  match Table.find s.reqs req with
  | none => .next s
  | some r =>
    if r.attr = .dev && r.kind = .read && r.stage ≠ .answered && (r.owner.groupOp.map (fun p => p.1)) = some g then
      .next (s.failRead req true 0 0)
    else .next s

end Sys2Proof.Machine
end

