-- ==== Sys2Proof/Machine/Graph.lean ====
section
/-! DEFINITION. The dispatchers: accesses made on a Suite's behalf (R479), records and the event sink (R221, R222), tasks
and edges, when an entry can fire (R198), firing and launching (R199, R200), spills (R216), completion (R201). -/

namespace Sys2Proof.Machine

/-! ## Accesses of the graph engine (R479) -/

/-- The pieces of a virtual range by 4 KiB page: address and length. -/
def pagePieces (va n : Nat) : List (Nat × Nat) :=
  let first := va / 4096
  let count := if n = 0 then 0 else (va + n - 1) / 4096 - first + 1
  (List.range count).map (fun i =>
    let lo := max va (4096 * (first + i))
    let hi := min (va + n) (4096 * (first + i) + 4096)
    (lo, hi - lo))

/-- Whether a region lets the graph engine read, or write, on a Suite's behalf (R479). -/
def graphAllows (write : Bool) (r : RegionInfo) : Bool :=
  match r.attr with
  | .wbA => !(write && r.common)
  | .wbNA => !(write && r.common)
  | .wt => !(write && r.common)
  | .stream => !(write && r.common)
  | .ro => !write
  | .red => false
  | .dev => false

/-- Locate every page of a virtual range of a Suite, under a test on its region; `none` where one page fails R230, R367
or the test. -/
def State.locateAll (s : State) (suite : BitVec 8) (write : Bool) (ok : RegionInfo → Bool) :
    List (Nat × Nat) → Option (List (Located × Nat)) × State
  | [] => (some [], s)
  | (va, n) :: rest =>
    let r := s.locate suite va write false
    match r.1 with
    | none => (none, r.2)
    | some l =>
      if ok l.region && r.2.rangeAllows suite l.pa n (!write) then
        let q := State.locateAll r.2 suite write ok rest
        (q.1.map (fun ls => (l, n) :: ls), q.2)
      else (none, r.2)

/-- Read a virtual range of a Suite; `none` where a check fails or the data is poisoned. -/
def State.gReadIf (s : State) (suite : BitVec 8) (va n : Nat) (ok : RegionInfo → Bool) : Option (List Byte) × State :=
  let r := s.locateAll suite false ok (pagePieces va n)
  match r.1 with
  | none => (none, r.2)
  | some ls =>
    let q := ls.foldl (fun (acc : (List Byte × Bool) × State) l =>
      let x := acc.2.sysRead suite l.1.pa l.2 l.1.region.attr
      ((acc.1.1 ++ x.1.1, acc.1.2 || x.1.2), x.2)) (([], false), r.2)
    (if q.1.2 then none else some q.1.1, q.2)

/-- Read a virtual range of a Suite under the region rules of R479. -/
def State.gRead (s : State) (suite : BitVec 8) (va n : Nat) : Option (List Byte) × State :=
  s.gReadIf suite va n (graphAllows false)

/-- Write bytes, marked poisoned or not, to a virtual range of a Suite under R479; nothing is written where a check fails
(reason 3) or R421 drops the write, and the reason is answered. -/
def State.gWriteWhy (s : State) (suite : BitVec 8) (va : Nat) (bs : List Byte) (mark : Bool) : Option (BitVec 2) × State :=
  let r := s.locateAll suite true (graphAllows true) (pagePieces va bs.length)
  match r.1 with
  | none => (some 3, r.2)
  | some ls =>
    match ls.findSome? (fun l => r.2.writeLost suite l.1.pa l.2 l.1.region.attr) with
    | some why => (some why, r.2)
    | none =>
      let q := ls.foldl (fun (acc : Nat × State) l =>
        (acc.1 + l.2, acc.2.sysWrite suite l.1.pa ((bs.drop acc.1).take l.2) l.1.region.attr mark)) (0, r.2)
      (none, q.2)

/-- Write bytes to a virtual range of a Suite under R479: whether they were written. -/
def State.gWrite (s : State) (suite : BitVec 8) (va : Nat) (bs : List Byte) : Bool × State :=
  let r := s.gWriteWhy suite va bs false
  (r.1.isNone, r.2)

/-- The 64-bit words of a byte list. -/
def wordsOf (bs : List Byte) : List W64 :=
  (List.range (bs.length / 8)).map (fun i => BitVec.ofNat 64 (leNat ((bs.drop (8 * i)).take 8)))

/-- Word i of a list as a number. -/
def wordAt (ws : List W64) (i : Nat) : Nat := (listGet 0 ws i).toNat

/-! ## Records and the event sink (R221, R222) -/

/-- The bytes of a record. -/
def Record.bytes (r : Record) : List Byte :=
  leBytes 8 r.w0.toNat ++ leBytes 8 r.w1.toNat ++ leBytes 8 r.w2.toNat ++ leBytes 8 r.w3.toNat

/-- The number of entries of a ring, 0 for a size outside 6 to 20. -/
def ringSize (reg : W64) : Nat :=
  let n := bitsOf reg.toNat 0 5
  if 6 ≤ n && n ≤ 20 then 2 ^ n else 0

/-- Whether the Suite's ring has room for a record. -/
def GSuite.sinkRoom (g : GSuite) : Bool :=
  let n := ringSize g.sink
  n != 0 && (g.wr - g.rd).toNat != n

/-- Write a record into the ring and advance WR; a record that cannot be written is dropped and counted (R479). -/
def State.sinkPut (s : State) (suite : BitVec 8) (r : Record) : State :=
  let g := s.gsuite suite
  let at_ := bitsOf g.sink.toNat 12 52 * 4096 + 32 * (g.wr.toNat % ringSize g.sink)
  let w := s.gWrite suite at_ r.bytes
  if w.1 then w.2.updGsuite suite (fun x => { x with wr := x.wr + 1 })
  else w.2.updGsuite suite (fun x => { x with sinkLost := sat16 x.sinkLost 1 })

/-- A dispatcher takes a record for a Suite: it is written if the ring has room and no record waits before it, else it
waits in the Wing's queue of 256, else it is dropped and counted (R221). -/
def State.sinkRecord (s : State) (wing : Nat) (suite : BitVec 8) (r : Record) : State :=
  let g := s.gsuite suite
  let q := Table.get [] g.sinkQueue wing
  if q = [] && g.sinkRoom then s.sinkPut suite r
  else if q.length < 256 then s.updGsuite suite (fun x => { x with sinkQueue := Table.set x.sinkQueue wing (q ++ [r]) })
  else s.updGsuite suite (fun x => { x with sinkLost := sat16 x.sinkLost 1 })

/-- A graph record (R222), or a Hearth report (R384), with its fields. -/
def graphRecord (code wing : Nat) (suite : BitVec 8) (gen : BitVec 16) (graph idx status firing : Nat) (detail stamp : W64) :
    Record :=
  { w0 := BitVec.ofNat 64 (code + wing % 8 * 2 ^ 8 + suite.toNat * 2 ^ 24 + gen.toNat * 2 ^ 32 + graph % 2 ^ 16 * 2 ^ 48)
    w1 := BitVec.ofNat 64 (idx % 2 ^ 16 + status % 2 ^ 8 * 2 ^ 16 + firing % 2 ^ 32 * 2 ^ 32)
    w2 := detail
    w3 := stamp }

/-- A dispatcher makes a record: its stamp advances, the record carries it (R43) and goes to the Suite's sink. -/
def State.note (s : State) (k : Fin 8) (suite : BitVec 8) (code graph idx status firing detail : Nat) : State :=
  let s1 := s.stepStamp (.dispatcher k)
  let r := graphRecord code k.val suite (s1.genOf suite) graph idx status firing (BitVec.ofNat 64 detail) (s1.stamp (.dispatcher k))
  s1.sinkRecord k.val suite r

/-! ## Tasks and edges -/

/-- The dispatcher of a handle's Wing, and its entry. -/
def edgeWing (h : Nat) : Fin 8 := Fin.ofNat 8 (h / 2 ^ 17)

/-- An edge by its handle. -/
def State.edge (s : State) (h : Nat) : Option Edge := Table.find (s.disp (edgeWing h)).edges (h % 2 ^ 17)

/-- Change an edge. -/
def State.updEdge (s : State) (h : Nat) (f : Edge → Edge) : State :=
  match s.edge h with
  | none => s
  | some e => s.updDisp (edgeWing h) (fun d => { d with edges := Table.set d.edges (h % 2 ^ 17) (f e) })

/-- A task entry. -/
def State.task (s : State) (k : Fin 8) (i : Nat) : Option Task := Table.find (s.disp k).tasks i

/-- Change a task entry. -/
def State.updTask (s : State) (k : Fin 8) (i : Nat) (f : Task → Task) : State :=
  match s.task k i with
  | none => s
  | some t => s.updDisp k (fun d => { d with tasks := Table.set d.tasks i (f t) })

/-- The Room of word 1 of a task descriptor, where ROW is a grid row. -/
def roomOfWord1 (w1 : Nat) : Option RoomId :=
  let r := bitsOf w1 0 3
  if h : r < 6 then some ⟨⟨r, h⟩, Fin.ofNat 16 (bitsOf w1 4 4)⟩ else none

/-- The Room of a task. -/
def Task.room (t : Task) : RoomId := (roomOfWord1 t.word1.toNat).getD ⟨0, 0⟩

/-- CORE of a task. -/
def Task.coreField (t : Task) : Nat := bitsOf t.word1.toNat 8 3

/-- REPEAT of a task; a spawned task fires once (R206). -/
def Task.repeat_ (t : Task) : Nat := if t.graph = 0 then 1 else bitsOf t.word1.toNat 16 16

/-- Whether a firing of the entry is in flight. -/
def Task.inFlight (t : Task) : Bool := t.state = .waiting || t.state = .launching || t.state = .running

/-- Graph n of a Suite has been ended (R204). -/
def State.graphEnded (s : State) (suite : BitVec 8) (h : Nat) : Bool :=
  match Table.find (s.gsuite suite).graphs h with
  | some g => g.ended
  | none => false

/-! ## Sequence lists and contexts (R213, R215, R216) -/

/-- The bytes a Suite's task descriptor or list lies in: Room memory for a spawned task's descriptor, else the Suite's
address space. -/
def State.readList (s : State) (suite : BitVec 8) (va : Nat) : Option (Nat × List Nat) × State :=
  let h := s.gRead suite va 8
  match h.1 with
  | none => (none, h.2)
  | some hb =>
    let w := leNat hb
    let n := bitsOf w 0 7
    if n = 0 || 64 < n || bitOf w 7 || w / 2 ^ 16 ≠ 0 || va % 64 ≠ 0 then (none, h.2)
    else
      let b := h.2.gRead suite (va + 8) (2 * n)
      match b.1 with
      | none => (none, b.2)
      | some bs => (some (bitsOf w 8 8, (List.range n).map (fun i => leNat ((bs.drop (2 * i)).take 2))), b.2)

/-- The sequence list of a task: ADVANCE and the resident contexts it names; `some (0, [])` with SEQ = 0. ADVANCE may not pass
the SPILL_TOKENS of any of them (R215). -/
def State.taskList (s : State) (t : Task) : Option (Nat × List Nat) × State :=
  if bitOf t.word1.toNat 11 then
    let r := s.readList t.suite t.seqList.toNat
    let ctx := fun (i : Nat) => Table.find (s.gsuite t.suite).ctxs i
    (r.1.bind (fun x =>
      let l := x.2.filter (fun i => (ctx i).isSome)
      if l.all (fun i => decide (x.1 ≤ ((ctx i).map (fun c => c.spillTok)).getD x.1)) then some (x.1, l) else none), r.2)
  else (some (0, []), s)

/-- Change a context. -/
def State.updCtx (s : State) (suite : BitVec 8) (i : Nat) (f : Ctx → Ctx) : State :=
  match Table.find (s.gsuite suite).ctxs i with
  | none => s
  | some c => s.updGsuite suite (fun g => { g with ctxs := Table.set g.ctxs i (f c) })

/-- The words 1, 2 and 5 that the module writes of a context (R213). -/
def Ctx.moduleWords (c : Ctx) (state : Nat) : Nat × Nat × Nat :=
  (c.pos + c.kvLimit * 2 ^ 32,
   c.spilled + c.hotCap * 2 ^ 32 + c.spillTok * 2 ^ 40 + (c.segs - 1) * 2 ^ 48,
   c.segUnits + state * 2 ^ 16 + (if c.spillBusy then 2 ^ 18 else 0))

/-- A context becomes LOST and the lead dispatcher writes CTX_LOST (R219, R479). -/
def State.ctxLost (s : State) (suite : BitVec 8) (i detail : Nat) : State :=
  let s1 := s.updCtx suite i (fun c => { c with state := 3 })
  s1.note (s.gsuite suite).leadWing suite 0x2E 0 i 0 0 detail

/-- Write words 1, 2 and 5 of a context into the table; a dropped write is reported and loses the context (R216, R479). -/
def State.publishCtx (s : State) (suite : BitVec 8) (i : Nat) (asFree : Bool) : State :=
  match Table.find (s.gsuite suite).ctxs i with
  | none => s
  | some c =>
    let g := s.gsuite suite
    let at_ := bitsOf g.ctxReg.toNat 12 52 * 4096 + 64 * i
    let (w1, w2, w5) := c.moduleWords (if asFree then 0 else c.state.toNat)
    let a := s.gWriteWhy suite (at_ + 8) (leBytes 8 w1 ++ leBytes 8 w2) false
    let b := a.2.gWriteWhy suite (at_ + 40) (leBytes 8 w5) false
    match a.1, b.1 with
    | none, none => b.2
    | w, v =>
      let why := (w.or v).getD 3
      let rep : RasRep :=
        { RasRep.zero with
          cause := 6, outcome := 2, suite := suite, gen := s.genOf suite, detail := BitVec.ofNat 32 why.toNat }
      let s1 := b.2.reportHeld (.dispatcher g.leadWing) rep
      if c.state = 3 then s1 else s1.ctxLost suite i (2 ^ 64 - 1)

/-- The parts of a context that are VALID: part number, Room, offset of its ring. -/
def Ctx.validParts (c : Ctx) : List (Nat × RoomId × Nat) :=
  (List.range 4).filterMap (fun p =>
    let w := (listGet 0 c.parts p).toNat
    if bitOf w 7 then (roomOfWord1 (bitsOf w 0 3 + bitsOf w 3 4 * 16)).map (fun r => (p, r, bitsOf w 8 19 * 128)) else none)

/-- Bytes of a segment. -/
def Ctx.segBytes (c : Ctx) : Nat := 64 * c.segUnits

/-- The bytes of a Room's memory from an offset, and whether a 64 B block among them is poisoned. -/
def State.roomRead (s : State) (r : RoomId) (off n : Nat) : List Byte × Bool :=
  let x := s.room r
  (x.mem.readN off n, x.poison.any (fun b => decide (64 * b < off + n) && decide (off < 64 * b + 64)))

/-- Start a spill of a context whose hot ring is over its limit, or make it FULL (R216). The Halls copy the tokens; the
row SPILL_COMPLETE ends the spill. -/
def State.spillStart (s : State) (suite : BitVec 8) (i : Nat) : State :=
  match Table.find (s.gsuite suite).ctxs i with
  | none => s
  | some c =>
    if c.spillBusy || c.state ≠ 1 || c.pos ≤ c.spilled + (c.hotCap - c.spillTok) then s
    else if c.kvLimit < c.spilled + c.spillTok then
      (s.updCtx suite i (fun x => { x with state := 2 })).note (s.gsuite suite).leadWing suite 0x2D 0 i 0 0 0
    else s.updCtx suite i (fun x => { x with spillBusy := true })

/-! ## Order lists (R217) -/

/-- GRAPH_MODE.ORDER_MODE of a Suite. -/
def GSuite.hostOrder (g : GSuite) : Bool := bitOf g.mode.toNat 0

/-- Whether a value at the head of an order list is skipped: its entry is DONE, LOST or FAILED, or gone. -/
def State.skipped (s : State) (k : Fin 8) (i : Nat) : Bool :=
  match s.task k i with
  | none => true
  | some t => t.state = .finished || t.state = .lost || t.state = .failed

/-- An order list without the values skipped at its head. -/
def State.trimOrder (s : State) (k : Fin 8) : List Nat → List Nat
  | [] => []
  | i :: rest => if s.skipped k i then s.trimOrder k rest else i :: rest

/-- The order list of a Suite on a Wing. -/
def State.orderList (s : State) (suite : BitVec 8) (k : Fin 8) : List Nat :=
  s.trimOrder k (Table.get [] (s.gsuite suite).orders k.val)

/-! ## When an entry can fire (R198) -/

/-- Every input edge holds the tokens a firing takes. -/
def State.inputsReady (s : State) (t : Task) : Bool :=
  t.ins.all (fun h => match s.edge h with
    | none => false
    | some e => decide ((if e.isCount then e.threshold else 1) ≤ e.tokens))

/-- Every DATA output edge has a free credit. -/
def State.creditsReady (s : State) (t : Task) : Bool :=
  t.outs.all (fun h => match s.edge h with
    | none => true
    | some e => e.isCount || decide (1 ≤ e.credits))

/-- No context named by the entry's list has a spill in flight. -/
def State.spillsDone (s : State) (t : Task) : Bool :=
  match (s.taskList t).1 with
  | none => true
  | some l => !l.2.any (fun i => match Table.find (s.gsuite t.suite).ctxs i with | some c => c.spillBusy | none => false)

/-- An input edge of the entry lost its buffers and has not been rebound: the entry is LOST_INPUT (R219, R220). -/
def State.inputLost (s : State) (t : Task) : Bool :=
  t.ins.any (fun h => match s.edge h with | none => false | some e => e.lostBuf)

/-- Whether entry i of a dispatcher can fire (R198, R220). -/
def State.canFire (s : State) (k : Fin 8) (i : Nat) (t : Task) : Bool :=
  (t.state = .idle || t.state = .lostInput) && !s.inputLost t && !s.graphEnded t.suite t.graph
    && (decide (0 < t.refire) || t.repeat_ = 0 || decide (t.count < t.repeat_))
    && (decide (0 < t.refire) || s.inputsReady t) && s.creditsReady t && s.spillsDone t
    && (!(s.gsuite t.suite).hostOrder || (s.orderList t.suite k).head? = some i)

/-- Values of a dispatcher's order lists that reach the head DONE, LOST or FAILED leave them (R217). -/
def State.trimOrders (s : State) (k : Fin 8) : State :=
  { s with gsuites := Table.mapVals (fun _ g =>
      match Table.find g.orders k.val with
      | none => g
      | some l => { g with orders := Table.set g.orders k.val (s.trimOrder k l) }) s.gsuites }

/-- Bring a dispatcher's order lists and its queue of able entries up to date: those still able keep their place, those that
became able together join in ascending TASK_IDX (R199, R217). -/
def State.settle (s0 : State) (k : Fin 8) : State :=
  let s := s0.trimOrders k
  let d := s.disp k
  let able := (d.tasks.filter (fun e => s.canFire k e.1 e.2)).map (fun e => e.1)
  let kept := d.able.filter (fun i => able.contains i)
  let new := able.filter (fun i => !kept.contains i)
  if d.able = kept ++ new then s else s.updDisp k (fun x => { x with able := kept ++ new })

/-- Bring every dispatcher's queue up to date. -/
def State.settleAll (s : State) : State := (List.finRange 8).foldl (fun t k => t.settle k) s

/-! ## Launching (R200) -/

/-- The Room of a task is being given up, or its Suite's slices change and the whole of it quiesces, so launches there have stopped
(R227, R364; DEDUCED, log 186). -/
def State.roomLeaving (s : State) (suite : BitVec 8) (r : RoomId) : Bool :=
  match (s.suite suite).change with
  | none => false
  | some c => c.dropped.contains r || c.slices ≠ (s.suite suite).slices

/-- The cores a launch of this entry may use, in the order they are tried (R200, R424). -/
def State.coresToTry (s : State) (k : Fin 8) (t : Task) : List Nat :=
  let r := t.room
  let ok := fun (c : Nat) => !(s.core ⟨r, Fin.ofNat 6 c⟩).fenced
  let last := Table.get 5 (s.disp k).accepted (roomKey r)
  let ring := (List.range 6).map (fun i => (last + 1 + i) % 6)
  let one := t.coreField
  let order := if one ≤ 5 && ok one then [one] else ring.filter ok
  match t.avoid with
  | none => order
  | some a => if order.length ≤ 1 then order else order.filter (fun c => c != a) ++ order.filter (fun c => c = a)

/-- Offer the firing of an entry to the next core it may use, or let it wait with its tokens and credits held (R200). -/
def State.launchOn (s : State) (k : Fin 8) (i : Nat) : State :=
  match s.task k i with
  | none => s
  | some t =>
    let next := if s.roomLeaving t.suite t.room then none else (s.coresToTry k t).find? (fun c => !t.tried.contains c)
    match next with
    | none => s.updTask k i (fun x => { x with state := .waiting })
    | some c =>
      let s1 := s.updTask k i (fun x => { x with state := .launching, core := c })
      s1.send (.dispatcher k) (.core ⟨t.room, Fin.ofNat 6 c⟩) t.suite t.gen (.launch i t.firing t.kernel t.desc)

/-- Take what a firing takes (R199): its tokens, unless it is a replay firing, and its credits. -/
def State.takeInputs (s : State) (t : Task) (replay : Bool) : State :=
  let s1 := if replay then s
    else t.ins.foldl (fun x h => x.updEdge h (fun e =>
      let n := if e.isCount then e.threshold else 1
      { e with tokens := e.tokens - n, held := n })) s
  t.outs.foldl (fun x h => x.updEdge h (fun e => if e.isCount then e else { e with credits := e.credits - 1 })) s1

/-- An entry fails: its graph stops there until END (R201); a spawned entry is freed without a signal (log 21). -/
def State.taskFailed (s : State) (k : Fin 8) (i cause : Nat) : State :=
  match s.task k i with
  | none => s
  | some t =>
    let s1 := s.updTask k i (fun x => { x with state := .failed, ctxs := [] })
    let s2 := t.ctxs.foldl (fun x c => x.updCtx t.suite c (fun y => { y with users := y.users - 1 })) s1
    let s3 := s2.note k t.suite 0x21 t.graph i 0 t.firing cause
    if t.graph = 0 then s3.updDisp k (fun d => { d with tasks := Table.erase d.tasks i }) else s3

/-- Fire entry i (R199, R215, R216): tokens and credits in one step, the order list's head, the contexts' words
published, and the launch. A sequence list that cannot be read or is malformed fails the entry (log 20). -/
def State.fire (s : State) (k : Fin 8) (i : Nat) : State :=
  match s.task k i with
  | none => s
  | some t =>
    let replay := decide (0 < t.refire)
    let s1 := s.takeInputs t replay
    let drop := fun (g : GSuite) =>
      if g.hostOrder then { g with orders := Table.set g.orders k.val ((s.orderList t.suite k).drop 1) } else g
    let s2 := s1.updGsuite t.suite (fun g => { drop g with stalled := false })
    let l := s2.taskList t
    let start := fun (x : Task) =>
      { x with firing := x.count + 1, replaying := replay, refire := x.refire - (if replay then 1 else 0), tried := [],
               restarted := false, avoid := none }
    let s3 := l.2.updTask k i start
    match l.1 with
    | none => s3.taskFailed k i 9
    | some (adv, ctxs) =>
      let s4 := s3.updTask k i (fun x => { x with ctxs := ctxs, advance := adv })
      let s5 := ctxs.foldl (fun x c =>
        (x.publishCtx t.suite c false).updCtx t.suite c (fun y => { y with users := y.users + 1 })) s4
      s5.launchOn k i

/-! ## Tokens and credits on their way (R205, R207) -/

/-- Tokens reach an edge at its consumer's dispatcher; a COUNT edge stops at 65,535 and COUNT_OVF is written (R207). -/
def State.addTokens (s : State) (h n : Nat) : State :=
  match s.edge h with
  | none => s
  | some e =>
    if e.isCount && 65535 < e.tokens + n then
      let idx := match e.consumer with | some c => c.2 | none => 0
      (s.updEdge h (fun x => { x with tokens := 65535 })).note (edgeWing h) e.suite 0x2F e.graph idx 0 0 h
    else s.updEdge h (fun x => { x with tokens := x.tokens + n })

/-- Credits return to an edge's producer; they never pass CAPACITY. -/
def State.addCredits (s : State) (h n : Nat) : State :=
  s.updEdge h (fun x => { x with credits := min x.capacity (x.credits + n) })

/-- Send tokens of an edge from a dispatcher: an OUT_TOKEN record for an external consumer, at once to an edge held
here, else by a TOKEN message. -/
def State.sendTokens (s : State) (k : Fin 8) (i firing h n : Nat) : State :=
  match s.edge h with
  | none => s
  | some e =>
    if e.consumer = none then s.note k e.suite 0x28 e.graph i 0 firing (h + n * 2 ^ 32)
    else if edgeWing h = k then s.addTokens h n
    else s.send (.dispatcher k) (.dispatcher (edgeWing h)) e.suite e.gen (.tokenAdd h n)

/-- Return credits of an edge to its producer: a CREDIT_RET record for an external producer, at once to one held here,
else by a CREDIT message. -/
def State.sendCredits (s : State) (k : Fin 8) (i firing h n : Nat) : State :=
  match s.edge h with
  | none => s
  | some e =>
    match e.producer with
    | none => (s.addCredits h n).note k e.suite 0x29 e.graph i 0 firing (h + n * 2 ^ 32)
    | some p =>
      let w : Fin 8 := Fin.ofNat 8 p.1
      if w = k then s.addCredits h n else s.send (.dispatcher k) (.dispatcher w) e.suite e.gen (.creditRet h n)

/-! ## The end of graphs and firings (R201, R204) -/

/-- Drop every entry, edge and stream of a graph, and free its handle. -/
def State.freeGraph (s : State) (suite : BitVec 8) (h : Nat) : State :=
  let one := fun (x : State) (k : Fin 8) => x.updDisp k (fun d =>
    { d with tasks := d.tasks.filter (fun e => !(e.2.suite = suite && e.2.graph = h)),
             edges := d.edges.filter (fun e => !(e.2.suite = suite && e.2.graph = h)),
             streams := d.streams.filter (fun e => !(e.2.suite = suite && e.2.graph = h)) })
  ((List.finRange 8).foldl one s).updGsuite suite (fun g => { g with graphs := Table.erase g.graphs h })

/-- The entries of a graph. -/
def State.graphTasks (s : State) (suite : BitVec 8) (h : Nat) : List Task :=
  (List.finRange 8).flatMap (fun k =>
    ((s.disp k).tasks.filter (fun e => e.2.suite = suite && e.2.graph = h)).map (fun e => e.2))

/-- A graph all of whose entries are DONE, or an ended graph whose last firing has drained, writes GRAPH_END and its
entries are freed (R201, R204). -/
def State.graphCheck (s : State) (suite : BitVec 8) (h : Nat) : State :=
  match Table.find (s.gsuite suite).graphs h with
  | none => s
  | some g =>
    let ts := s.graphTasks suite h
    let busy := (List.finRange 8).any (fun k => (s.disp k).streams.any (fun e =>
      e.2.suite = suite && e.2.graph = h && e.2.busy != []))
    let over_ := if g.ended then !ts.any (fun t => t.inFlight) && !busy else ts.all (fun t => t.state = .finished)
    if over_ then (s.freeGraph suite h).note (s.gsuite suite).leadWing suite 0x27 h 0 0 0 0 else s

/-- Forget the SPAWN keys of a task whose firing is over (R113). -/
def State.dropSpawns (s : State) (suite : BitVec 8) (k : Fin 8) (i : Nat) : State :=
  s.updGsuite suite (fun g => { g with spawned := g.spawned.filter (fun e => e.1.1 != 65536 * k.val + i) })

/-- The contexts of a firing are no longer named by it. -/
def State.releaseCtxs (s : State) (t : Task) : State :=
  t.ctxs.foldl (fun x c => x.updCtx t.suite c (fun y => { y with users := y.users - 1 })) s

/-- A firing completes (R201): tokens, credits, ADVANCE, TASK_DONE; a spawned entry signals SPAWN_EDGE and is freed
(R206); a replay firing takes no part in REPEAT and returns no input credits (R220). In an ended graph it sends no tokens and
returns no credits (R204). -/
def State.firingDone (s : State) (k : Fin 8) (i : Nat) : State :=
  match s.task k i with
  | none => s
  | some t =>
    let ended := s.graphEnded t.suite t.graph
    let s0 := (s.releaseCtxs t).dropSpawns t.suite k i
    let fin := fun (x : Task) =>
      let n := x.count + (if x.replaying then 0 else 1)
      { x with count := n, ctxs := [], state := if x.repeat_ ≠ 0 && x.repeat_ ≤ n && x.refire = 0 then .finished else .idle }
    let s1 := s0.updTask k i fin
    let s2 := if ended then s1 else t.outs.foldl (fun x h => x.sendTokens k i t.firing h 1) s1
    let s3 := if t.replaying then s2
      else t.ins.foldl (fun x h => match x.edge h with
        | none => x
        | some e =>
          let y := x.updEdge h (fun z => { z with held := 0 })
          if e.isCount || ended then y else y.sendCredits k i t.firing h 1) s2
    let s4 := t.ctxs.foldl (fun x c =>
      (x.updCtx t.suite c (fun y => { y with pos := y.pos + t.advance })).spillStart t.suite c) s3
    let s5 := if bitOf t.word1.toNat 12 then s4.note k t.suite 0x20 t.graph i 0 t.firing 0 else s4
    let s6 := if t.graph = 0 then
        let y := if bitOf t.word1.toNat 52 then s5.sendTokens k i t.firing (bitsOf t.word1.toNat 32 20) 1 else s5
        y.updDisp k (fun d => { d with tasks := Table.erase d.tasks i })
      else s5.graphCheck t.suite t.graph
    s6.updGsuite t.suite (fun g => { g with stalled := false })

/-- A firing is lost (R78, R218): the entry is LOST and TASK_LOST is written. -/
def State.taskLost (s : State) (k : Fin 8) (i : Nat) : State :=
  match s.task k i with
  | none => s
  | some t =>
    let s1 := ((s.releaseCtxs t).dropSpawns t.suite k i).updTask k i (fun x => { x with state := .lost, ctxs := [] })
    let s2 := s1.note k t.suite 0x22 t.graph i 0 t.firing 0xFFFFF
    if t.graph = 0 then s2.updDisp k (fun d => { d with tasks := Table.erase d.tasks i }) else s2.graphCheck t.suite t.graph

end Sys2Proof.Machine
end

