-- ==== Sys2Proof/Machine/Life.lean ====
section
/-! DEFINITION. The life of groups on a core: launch (R52 to R58), parking (R72, R81), replay and discard (R75, R76, R79,
R80), the end of a group (R59, R79), register errors (R77, R78) and fences (R423, R424). -/

namespace Sys2Proof.Machine

/-! ## Records and messages of a core -/

/-- The code of a park cause (R74). -/
def causeCode : Cause → Nat
  | .illegal => 1
  | .divergence => 2
  | .stackOverflow => 3
  | .translation => 4
  | .poison => 5
  | .align => 6
  | .region => 7
  | .trap => 8
  | .resource => 9
  | .ecc => 10

/-- FAULT_ADDR of a park record: 0 for the causes that give none (R81). -/
def causeAddr (c : Cause) (a : W64) : W64 :=
  match c with
  | .translation => a
  | .poison => a
  | .align => a
  | .region => a
  | .trap => a
  | .illegal => 0
  | .divergence => 0
  | .stackOverflow => 0
  | .resource => 0
  | .ecc => 0

/-- A park record of a core (R81); `slot` is 0 for a refused launch. -/
def parkRecord (c : CoreId) (slot : Nat) (sl : Slot) (cause : Cause) (addr stamp : W64) : Record :=
  { w0 := BitVec.ofNat 64 (causeCode cause + slot * 2 ^ 8 + c.core.val * 2 ^ 13 + c.room.row.val * 2 ^ 16
      + c.room.col.val * 2 ^ 20 + sl.suite.toNat * 2 ^ 24 + sl.gen.toNat * 2 ^ 32 + sl.parkSeq.toNat * 2 ^ 48)
    w1 := BitVec.ofNat 64 (sl.taskIdx % 2 ^ 16 + sl.wing.val * 2 ^ 16 + (if sl.inMx then 2 ^ 19 else 0) + sl.groupIdx * 2 ^ 20
      + min sl.replays 15 * 2 ^ 28 + sl.pc.toNat * 2 ^ 32)
    w2 := causeAddr cause addr
    w3 := stamp }

/-- A core makes a park record and sends it to the task's dispatcher (R76, R205). -/
def State.sendPark (s : State) (c : CoreId) (slot : Nat) (sl : Slot) (cause : Cause) (addr : W64) : State :=
  let s1 := s.stepStamp (.core c)
  let r := parkRecord c slot sl cause addr (s1.stamp (.core c))
  s1.send (.core c) (.dispatcher sl.wing) sl.suite sl.gen (.record r)

/-- The Suite that owns a Room, with its generation, where ROOM_RECT.VALID is set (R185). -/
def Room.ownerSuite (r : Room) : Option (BitVec 8 × BitVec 16) :=
  if bitOf r.rect.toNat 40 then some (BitVec.ofNat 8 (bitsOf r.rect.toNat 16 8), BitVec.ofNat 16 (bitsOf r.rect.toNat 24 16)) else none

/-- Whether an agent may write a register of a Room's core: the owning Suite or the Hearth (R82). -/
def State.roomWriter (s : State) (a : Agent) (r : RoomId) : Bool :=
  match a with
  | .hearth => true
  | .suite n => (s.room r).ownerSuite.map (fun p => p.1) = some n
  | .mmode _ => false
  | .bmc => false

/-! ## Resources (R55 to R57) -/

/-- Half-rows a group takes. -/
def Slot.halfRows (sl : Slot) : Nat := sl.gregs * sl.width / 16

/-- Slots of a core that are not FREE. -/
def Core.resident (c : Core) : List (Nat × Slot) := c.slots.filter (fun e => e.2.state ≠ .free)

/-- Total of a figure over the resident groups. -/
def Core.total (c : Core) (f : Slot → Nat) : Nat := c.resident.foldl (fun n e => n + f e.2) 0

/-- A kernel header (R52). -/
structure Header where
  width  : Nat
  gregs  : Nat
  tiles  : Nat
  accs   : Nat
  groups : Nat
  side   : Bool
  entry  : Nat
  len    : Nat
deriving DecidableEq, Repr

/-- The fields of the two header words. -/
def headerOf (w0 w1 : Nat) : Header :=
  { width := 16 * 2 ^ bitsOf w0 0 2, gregs := 8 * (bitsOf w0 8 5 + 1), tiles := bitsOf w0 16 5, accs := bitsOf w0 21 3,
    groups := bitsOf w0 24 6, side := bitOf w0 30, entry := bitsOf w0 32 32, len := bitsOf w1 0 32 }

/-- A header that no core could satisfy (R57). -/
def Header.impossible (h : Header) : Bool :=
  decide (16 < h.tiles) || decide (4 < h.accs) || h.groups = 0 || decide (h.entry < 2) || decide (32 < h.groups)
    || decide (4096 < h.groups * h.gregs * h.width / 16) || decide (16 < h.groups * h.tiles) || decide (4 < h.groups * h.accs)

/-- The free resources of a core hold the whole task (R55, R56). -/
def Core.fits (c : Core) (h : Header) : Bool :=
  decide (c.resident.length + h.groups ≤ 32) && decide (c.total Slot.halfRows + h.groups * h.gregs * h.width / 16 ≤ 4096)
    && decide (c.total (fun x => x.ntiles) + h.groups * h.tiles ≤ 16) && decide (c.total (fun x => x.naccs) + h.groups * h.accs ≤ 4)

/-- The identity word s3 of a group (R58). -/
def coreIdentity (c : CoreId) (suite : BitVec 8) (gen : BitVec 16) : W64 :=
  BitVec.ofNat 64 (c.core.val + c.room.col.val * 2 ^ 8 + c.room.row.val * 2 ^ 16 + suite.toNat * 2 ^ 24 + gen.toNat * 2 ^ 32)

/-- What a launch message names. -/
structure LaunchReq where
  suite  : BitVec 8
  gen    : BitVec 16
  wing   : Fin 8
  task   : Nat
  firing : Nat
  kernel : W64
  desc   : W64
deriving DecidableEq, Repr

/-- GROUP_START: a newly launched group (R58), in a slot whose PARK_SEQ goes on. -/
def newGroup (c : CoreId) (q : LaunchReq) (h : Header) (old : Slot) (age i : Nat) : Slot :=
  { Slot.reset with
    state := .active, parkSeq := old.parkSeq, age := age, suite := q.suite, gen := q.gen, wing := q.wing, taskIdx := q.task,
    firing := q.firing, groupIdx := i, kernel := q.kernel, width := h.width, gregs := h.gregs, ntiles := h.tiles,
    naccs := h.accs, ngroups := h.groups, entry := h.entry, codeLen := h.len, sideFx := h.side, pc := BitVec.ofNat 32 h.entry,
    s := [(0, q.desc), (1, BitVec.ofNat 64 i), (2, BitVec.ofNat 64 h.groups), (3, coreIdentity c q.suite q.gen)],
    p := [(0, BitVec.ofNat 128 (2 ^ h.width - 1))],
    g := (List.range h.width).map (fun t => (gKey 0 t, BitVec.ofNat 32 t)) }

/-- Start every group of a task (R55, R58), in the lowest FREE slots: the spec names no slots (DESIGN CHOICE, log 182). -/
def Core.start (x : Core) (c : CoreId) (q : LaunchReq) (h : Header) : Core :=
  let free := (List.range 32).filter (fun i => (Table.get Slot.reset x.slots i).state = .free)
  let put := fun (y : Core) (p : Nat × Nat) =>
    { y with slots := Table.set y.slots p.2 (newGroup c q h (Table.get Slot.reset y.slots p.2) (x.ages + p.1) p.1) }
  let z := ((List.range h.groups).zip free).foldl put x
  { z with ages := x.ages + h.groups }

/-- The first launch message waiting at a core. -/
def State.takeLaunch (s : State) (c : CoreId) : Option (BwMsg × List BwMsg) :=
  takeFirst (fun m => m.dst = .core c && (match m.payload with | .launch _ _ _ _ => true | _ => false)) s.delivered

/-- The Wing whose dispatcher sent a message. -/
def srcWing : Endpoint → Fin 8
  | .dispatcher k => k
  | .core _ => 0
  | .hall _ => 0
  | .cellar _ => 0
  | .parlour _ => 0
  | .porch _ => 0
  | .hearth => 0
  | .power => 0

/-- Read a kernel header in an RO region (R52, R479). -/
def State.readHeader (s : State) (suite : BitVec 8) (va : Nat) : Option Header × State :=
  if va % 64 ≠ 0 then (none, s)
  else
    let r := s.gReadIf suite va 16 (fun x => x.attr = .ro)
    (r.1.map (fun bs => headerOf (leNat (bs.take 8)) (leNat (bs.drop 8))), r.2)

/-- Refuse a launch for want of a usable header: RESOURCE to the dispatcher, and a park record with SLOT 0 (R57, R74). No
group exists, so PARK_SEQ, GROUP, PC and IN_MX of the record are 0 (DESIGN CHOICE, log 182). -/
def State.refuseHeader (s : State) (c : CoreId) (q : LaunchReq) : State :=
  let none_ : Slot := { Slot.reset with suite := q.suite, gen := q.gen, wing := q.wing, taskIdx := q.task, firing := q.firing }
  let s1 := s.sendPark c 0 none_ .resource 0
  s1.send (.core c) (.dispatcher q.wing) q.suite q.gen (.refuse q.task true)

/-- LAUNCH: a core takes a launch. A power-gated core lets it wait (R405); a header no core could satisfy, or that cannot
be read, is refused with RESOURCE (R52, R57); one that does not fit now, or that meets a fenced core, is refused (R55);
else every group of the task starts (R58). -/
def execLaunch (c : CoreId) (s : State) : Out :=
  match s.takeLaunch c with
  | none => .next s
  | some (m, rest) =>
    match m.payload with
    | .launch task firing kernel desc =>
      let x := s.core c
      if !x.powered && !x.fenced then .next (s.updCore c (fun y => { y with powerWait := true }))
      else
        let s1 := { s with delivered := rest }
        let q : LaunchReq :=
          { suite := m.suite, gen := m.gen, wing := srcWing m.src, task := task, firing := firing, kernel := kernel, desc := desc }
        let no := fun (t : State) => t.send (.core c) (.dispatcher q.wing) q.suite q.gen (.refuse task false)
        if x.fenced then .next (no s1)
        else
          let r := s1.readHeader q.suite kernel.toNat
          match r.1 with
          | none => .next (r.2.refuseHeader c q)
          | some h =>
            if h.impossible then .next (r.2.refuseHeader c q)
            else if !(r.2.core c).fits h then .next (no r.2)
            else
              let s2 := r.2.updCore c (fun y => y.start c q h)
              let s3 := s2.updTask q.wing task (fun t =>
                if t.state = .launching && t.firing = firing then { t with state := .running } else t)
              .next (s3.updDisp q.wing (fun d => { d with accepted := Table.set d.accepted (roomKey c.room) c.core.val }))
    | _ => .next s

/-! ## Parking (R72) -/

/-- Requests in flight of a group. -/
def State.groupReqs (s : State) (g : GroupRef) : List (Nat × Req) :=
  s.reqs.filter (fun e => (e.2.owner.groupOp.map (fun p => p.1)) = some g)

/-- GROUP_PARK: a group with a fault parks once every earlier instruction has completed; PARK_SEQ advances and the park
record goes to the Suite's sink (R72, R79, R81). -/
def execGroupPark (g : GroupRef) (s : State) : Out :=
  let sl := s.slot g
  match sl.fault with
  | none => .next s
  | some f =>
    if sl.state ≠ .active || sl.ops ≠ [] then .next s
    else
      let x : Slot := { sl with state := .parked, parkSeq := sl.parkSeq + 1 }
      .next ((s.updSlot g (fun _ => x)).sendPark g.core g.slot.val x f.cause f.addr)

/-! ## Replay (R75, R76) -/

/-- Put a kept operation among others in program order: operation numbers rise in program order. -/
def insertOp (o : MemOp) : List MemOp → List MemOp
  | [] => [o]
  | p :: ps => if o.id < p.id then o :: p :: ps else p :: insertOp o ps

/-- The operations that R75 carries out again: those with a marked destination, each limited to its marked places. -/
def Slot.toReplay (sl : Slot) : List MemOp :=
  let live := sl.kept.filter (fun o => sl.marks.any (fun m => m.op = o.id))
  let one := fun (o : MemOp) =>
    { o with load := true, acquire := false, token := none,
             only := some ((sl.marks.filter (fun m => m.op = o.id)).map (fun m => m.place)),
             open_ := if o.atomic then o.replay.length else 0 }
  (live.map one).foldl (fun l o => insertOp o l) []

/-- A parked group resumes at its faulting instruction (R75): its marked loads and unapplied atomics are sent again, to the
addresses their first issue found (DESIGN CHOICE, log 182), and the group waits for all of them. -/
def State.resume (s : State) (g : GroupRef) : State :=
  let sl := s.slot g
  let ops := sl.toReplay
  let again := ops.flatMap (fun o => o.replay.map (fun r => { r with stage := .sent, answer := [], poison := false, failed := false,
                                                                     gone := false, back := false, router := none }))
  let s1 := s.updSlot g (fun x =>
    { x with state := .active, fault := none, replays := min 15 (x.replays + 1), marks := [], kept := [], ops := ops,
             wait := if ops = [] then .none else .replay })
  s1.addReqs again

/-- The fields of a CORE_GROUP_CMD write: slot, command, PARK_SEQ. -/
def cmdFields (v : W64) : Fin 32 × Nat × BitVec 16 :=
  (Fin.ofNat 32 (bitsOf v.toNat 0 5), bitsOf v.toNat 5 3, BitVec.ofNat 16 (bitsOf v.toNat 16 16))

/-- A command that finds its slot not PARKED, or another PARK_SEQ, is ignored and counted (R80). -/
def State.staleCmd (s : State) (c : CoreId) : State := s.updCore c (fun x => { x with staleCmds := sat16 x.staleCmds 1 })

/-- A refused access to a control register: NOT_OWNER or a form error, with no effect (R8). -/
def State.refusedAccess (s : State) : State := { s with lastOk := false, lastRead := 0 }

/-- An accepted write. -/
def State.acceptedAccess (s : State) : State := { s with lastOk := true }

/-- A command that accesses a control register: nothing while the module is OFF; an effect where the access is
permitted, a refused access otherwise (R8). -/
def State.regCommand (s : State) (agent : Agent) (target : Endpoint) (may : Bool) (effect : State → State) : Out :=
  if !s.on then .next s
  else
    .next (s.ctlExchange (agentEndpoint agent) target (fun t => if may then effect t.acceptedAccess else t.refusedAccess))

/-- A CORE_GROUP_CMD of CMD 1: the parked group that it names resumes; one that names no such group is stale (R75, R80). -/
def State.replayCmd (s : State) (c : CoreId) (value : W64) : State :=
  let (slot, cmd, seq) := cmdFields value
  let g : GroupRef := ⟨c, slot⟩
  let sl := s.slot g
  if cmd ≠ 1 then s
  else if sl.state ≠ .parked || sl.parkSeq ≠ seq then s.staleCmd c
  else s.resume g

/-- REPLAY: a write of CORE_GROUP_CMD with CMD 1 (R75, R80, R82). -/
def execReplay (agent : Agent) (c : CoreId) (value : W64) (s : State) : Out :=
  s.regCommand agent (.core c) (s.roomWriter agent c.room) (fun t => t.replayCmd c value)

/-- Two groups belong to one task of a core. -/
def Slot.sameTask (a b : Slot) : Bool :=
  a.state ≠ .free && b.state ≠ .free && a.suite = b.suite && a.wing = b.wing && a.taskIdx = b.taskIdx && a.firing = b.firing

/-- Change every resident group of a task. -/
def State.updTaskSlots (s : State) (c : CoreId) (of : Slot) (f : Slot → Slot) : State :=
  s.updCore c (fun x => { x with slots := Table.mapVals (fun _ y => if y.sameTask of then f y else y) x.slots })

/-- Mark how a task ends: the first reason found stands. -/
def Slot.endWith (sl : Slot) (o : BitVec 8) : Slot := if sl.outcome = 0 then { sl with outcome := o } else sl

/-- A CORE_GROUP_CMD of CMD 2: the parked group that it names moves to DRAINING and its task is reported failed; the task's
other groups run on (R79, R80, log 22). -/
def State.discardCmd (s : State) (c : CoreId) (value : W64) : State :=
  let (slot, cmd, seq) := cmdFields value
  let g : GroupRef := ⟨c, slot⟩
  let sl := s.slot g
  if cmd ≠ 2 then s
  else if sl.state ≠ .parked || sl.parkSeq ≠ seq then s.staleCmd c
  else
    let code := (sl.fault.map (fun f => causeCode f.cause)).getD 0
    let s1 := s.updTaskSlots c sl (fun x => x.endWith (BitVec.ofNat 8 (1 + 16 * code)))
    s1.updSlot g (fun x => { x with state := .draining, fault := none, marks := [], kept := [] })

/-- DISCARD: a write of CORE_GROUP_CMD with CMD 2 (R79, R82). -/
def execDiscard (agent : Agent) (c : CoreId) (value : W64) (s : State) : Out :=
  s.regCommand agent (.core c) (s.roomWriter agent c.room) (fun t => t.discardCmd c value)

/-- Whether the page reported reinstalled holds what parked a group: its poisoned line in external memory, or a Room block
that a stream has since delivered clean (R76, R212, log 23). -/
def State.repairedBy (s : State) (g : GroupRef) (page : Nat) : Bool :=
  let sl := s.slot g
  match sl.fault with
  | none => false
  | some f =>
    f.cause = .poison && sl.kept.any (fun o => o.replay.any (fun r =>
      r.va = f.addr && (match r.room with
        | none => r.addr / 4096 = page
        | some room => !(s.room room).poison.any (fun b => decide (64 * b < r.addr + r.size) && decide (r.addr < 64 * b + 64)))))

/-- AUTOMATIC_REPLAY: in hardware mode a group parked for POISON resumes once when its page is reported reinstalled, and
not again at the same program counter (R76). -/
def execAutomaticReplay (c : CoreId) (s : State) : Out :=
  let x := s.core c
  let one := fun (t : State) (i : Fin 32) =>
    let g : GroupRef := ⟨c, i⟩
    let sl := t.slot g
    if !x.replayMode && sl.state = .parked && sl.autoPc ≠ some sl.pc && x.reinstalled.any (fun p => t.repairedBy g p) then
      (t.resume g).updSlot g (fun y => { y with autoPc := some sl.pc })
    else t
  let s1 := (List.finRange 32).foldl one s
  if !s.on then .next s else .next (s1.updCore c (fun y => { y with reinstalled := [] }))

/-! ## The end of a group (R59, R79) -/

/-- Kill a group: it issues nothing more, what it has in flight is acknowledged or times out, and its task ends as
said (R79, R80). -/
def Slot.kill (sl : Slot) (o : BitVec 8) : Slot :=
  if sl.state = .active || sl.state = .parked then
    { sl.endWith o with state := .draining, fault := none, wait := .none, marks := [], kept := [], fences := [] }
  else if sl.state = .draining then sl.endWith o
  else sl

/-- Whether R78 lets a task on a core restart: no SIDE_EFFECTS, or no group of it has issued one. -/
def State.restartable (s : State) (c : CoreId) (of : Slot) : Bool :=
  !of.sideFx || !(s.core c).slots.any (fun e => e.2.sameTask of && e.2.sideDone)

/-- Whether everything a draining group had in flight is acknowledged or timed out. -/
def State.drained (s : State) (g : GroupRef) : Bool :=
  (s.slot g).ops.all (fun o => o.open_ = 0) && (s.groupReqs g).all (fun e => e.2.stage = .answered)
    && !(s.core g.core).dma.any (fun d => d.g = g)

/-- GROUP_FREE: a drained group becomes FREE, its registers, tiles and accumulators gone (R59); the core reports freed
resources, and, with the last group of the task, DONE with the task's outcome (R79, R201, R205). -/
def execGroupFree (g : GroupRef) (s : State) : Out :=
  let sl := s.slot g
  if sl.state ≠ .draining || !s.drained g then .next s
  else
    let s0 : State := { s with reqs := s.reqs.filter (fun e => (e.2.owner.groupOp.map (fun p => p.1)) != some g) }
    let s1 := s0.updSlot g (fun x => { Slot.reset with parkSeq := x.parkSeq })
    let s2 := s1.updTaskSlots g.core sl (fun x => { x.endWith sl.outcome with sideDone := x.sideDone || sl.sideDone })
    let last := !(s2.core g.core).slots.any (fun e => e.2.sameTask sl)
    let home : Fin 8 := wingOfRoom g.core.room
    let s3 := s2.send (.core g.core) (.dispatcher home) sl.suite sl.gen .freed
    let s4 := if home = sl.wing then s3 else s3.send (.core g.core) (.dispatcher sl.wing) sl.suite sl.gen .freed
    .next (if last then s4.send (.core g.core) (.dispatcher sl.wing) sl.suite sl.gen (.done sl.taskIdx sl.firing sl.outcome) else s4)

/-! ## Fences (R180, R423, R424) -/

/-- The fault-control mode of a core's Wing: host-assisted fencing (R432). -/
def State.hostFence (s : State) (r : RoomId) : Bool := (s.wing (wingOfRoom r)).fenceMode

/-- A UNIT_FENCED report for a core. -/
def State.reportFence (s : State) (c : CoreId) (trigger outcome : Nat) : State :=
  let own := (s.room c.room).ownerSuite
  s.report (.hall c.room)
    { RasRep.zero with
      cause := 0x0B, outcome := BitVec.ofNat 4 outcome, suite := (own.map (fun p => p.1)).getD 0,
      gen := (own.map (fun p => p.2)).getD 0, subject := endpointId (.core c), detail := BitVec.ofNat 32 trigger }

/-- Detach a core's Hall lanes: what waits in them is discarded (R180). -/
def State.detachLanes (s : State) (c : CoreId) : State :=
  let mine := s.reqs.filter (fun e =>
    e.2.owner.core = some c && e.2.room = some c.room && e.2.waiting && e.2.router = none && e.2.lane / 2 = c.core.val)
  mine.foldl (fun t e =>
    match e.2.owner with
    | .group g op => (t.dropReq e.1).updSlot g (fun x => x.onePerformed op)
    | .dma g op n => (t.dropReq e.1).dmaWriteEnded g op n
    | _ => t) s

/-- The groups of a core are killed; its Room DMA sends nothing more. -/
def Core.killAll (x : Core) (o : Slot → BitVec 8) : Core :=
  let kill := fun (_ : Nat) (y : Slot) =>
    let z := y.kill (o y)
    { z with ops := z.ops.filter (fun p => p.engine ≠ .dma) }
  { x with slots := Table.mapVals kill x.slots, dma := [] }

/-- CORE_FENCE (R424): idle-fill completes, the core is detached, its groups are killed and their tasks restart elsewhere
where R78 allows; the lead dispatcher writes CORE_FENCED (R218). What its Room DMA has in flight beyond the core's own
lanes is carried out, and the answers are discarded (R180). -/
def State.fenceCore (s : State) (c : CoreId) (trigger : Nat) : State :=
  if (s.core c).fenced then s
  else
    let s1 := (s.reportFence c trigger 3).updCore c (fun x => { x with fenced := true, gustFill := 0 })
    let s2 := s1.updWing (wingOfRoom c.room) (fun w => { w with fencedN := w.fencedN + 1 })
    let s3 := s2.detachLanes c
    let s4 := s3.updCore c (fun x => x.killAll (fun y => if s3.restartable c y then 5 else 6))
    match (s4.room c.room).ownerSuite with
    | none => s4
    | some (n, _) =>
      s4.note (s4.gsuite n).leadWing n 0x25 0 0 0 0 (endpointId (.core c)).toNat

/-- The fence test after a REG_UE (R423): the second within a window fences the core, or only advises. -/
def State.fenceTest (s : State) (c : CoreId) : State :=
  if (s.core c).regUeCount < 2 || (s.core c).fenced then s
  else if s.hostFence c.room then s.reportFence c 1 6
  else s.fenceCore c 1

/-- REGISTER_FILE_UE: an uncorrectable register, tile or accumulator error, or one in the MAC array during idle-fill,
which affects no group (R393). The groups of the task end; the task restarts once where R78 allows, else is lost; the
dispatcher fails it with ECC the second time (R77). The core's error count may fence it (R423). -/
def execRegisterFileUe (g : GroupRef) (idleFill : Bool) (s : State) : Out :=
  let sl := s.slot g
  let own := (s.room g.core.room).ownerSuite
  let s1 := s.updCore g.core (fun x => { x with uncorr := sat16 x.uncorr 1, regUeCount := x.regUeCount + 1 })
  let rep : RasRep :=
    { RasRep.zero with
      cause := 4, suite := (own.map (fun p => p.1)).getD 0, gen := (own.map (fun p => p.2)).getD 0,
      subject := endpointId (.core g.core), detail := if idleFill then 1 else 0 }
  let s2 := s1.report (.core g.core) rep
  let s3 := if idleFill || sl.state = .free then s2
    else
      let o : BitVec 8 := if s2.restartable g.core sl then 3 else 4
      s2.updTaskSlots g.core sl (fun x => x.kill o)
  if !s.on then .next s else .next (s3.fenceTest g.core)

/-- ERROR_COUNT_WINDOW: an error-count window of 2^26 cycles ends, of a core's REG_UE or of one bank of its Room (R423,
R425). -/
def execErrorCountWindow (c : CoreId) (bank : Option (Fin 16)) (s : State) : Out :=
  if !s.on then .next s
  else match bank with
  | none => .next (s.updCore c (fun x => { x with regUeCount := 0 }))
  | some b => .next (s.updRoom c.room (fun x => { x with bankPoison := Table.set x.bankPoison b.val 0 }))

/-- HALL_LANE_FAILURE: both Hall lanes of a core fail lastingly; the core is fenced in either mode (R423). -/
def execHallLaneFailure (c : CoreId) (s : State) : Out :=
  if !s.on then .next s else .next (s.fenceCore c 2).settleAll

end Sys2Proof.Machine
end

