-- ==== Sys2Proof/Machine/Firing.lean ====
section
/-! DEFINITION. What a dispatcher does with its messages (R205): firing, refusals, freed cores, completions, tokens and
credits, spills, stalls, records, SPAWN, and the graph effects of a lost Room (R198 to R221). -/

namespace Sys2Proof.Machine

/-- Take the first delivered message for an endpoint whose payload passes a test. -/
def State.takeFor (s : State) (e : Endpoint) (p : Payload → Bool) : Option (BwMsg × State) :=
  match takeFirst (fun m => m.dst = e && p m.payload) s.delivered with
  | none => none
  | some (m, rest) => some (m, { s with delivered := rest })

/-- FIRING: the entry that has been able to fire longest fires (R198, R199). -/
def execFiring (wing : Fin 8) (s : State) : Out :=
  let s1 := s.settle wing
  match (s1.disp wing).able with
  | [] => .next s1
  | i :: rest => .next ((s1.updDisp wing (fun d => { d with able := rest })).fire wing i).settleAll

/-- LAUNCH_REFUSE: a launch refused for its header makes the entry FAILED; one refused for room goes to the next core, or
waits (R200). -/
def execLaunchRefuse (wing : Fin 8) (s : State) : Out :=
  match s.takeFor (.dispatcher wing) (fun p => match p with | .refuse _ _ => true | _ => false) with
  | none => .next s
  | some (m, s1) =>
    match m.payload with
    | .refuse i bad =>
      match s1.task wing i with
      | none => .next s1
      | some t =>
        if t.state ≠ .launching || t.suite ≠ m.suite then .next s1
        else if bad then .next ((s1.taskFailed wing i 9).graphCheck t.suite t.graph).settleAll
        else .next ((s1.updTask wing i (fun x => { x with tried := x.tried ++ [x.core] })).launchOn wing i)
    | _ => .next s1

/-- FREED: a core reports freed resources, and the firings that wait on its Room are offered again, in ascending
TASK_IDX (R200). -/
def execFreed (wing : Fin 8) (s : State) : Out :=
  match s.takeFor (.dispatcher wing) (fun p => p = .freed) with
  | none => .next s
  | some (m, s1) =>
    let here := fun (t : Task) => t.state = .waiting && (match m.src with | .core c => t.room = c.room | _ => false)
    let waiting := ((s1.disp wing).tasks.filter (fun e => here e.2)).map (fun e => e.1)
    .next (waiting.foldl (fun t i => (t.updTask wing i (fun x => { x with tried := [] })).launchOn wing i) s1)

/-- The end of a firing, by its outcome: completed, failed with a cause, lost, or ended by a register error or a fence,
with or without the restart of R78 (R77, R201, R218, R424). An uncorrectable error is reported as the failed task's cause ECC and
writes no park record, since it parks no group (R77; DESIGN CHOICE, log 182). -/
def State.firingEnds (s : State) (k : Fin 8) (i : Nat) (outcome : BitVec 8) (from_ : Nat) : State :=
  match s.task k i with
  | none => s
  | some t =>
    let relaunch := fun (ue : Bool) =>
      (s.updTask k i (fun x => { x with restarted := x.restarted || ue, avoid := some from_, tried := [] })).launchOn k i
    match outcome.toNat % 16 with
    | 0 => s.firingDone k i
    | 1 => ((s.dropSpawns t.suite k i).taskFailed k i (outcome.toNat / 16)).graphCheck t.suite t.graph
    | 3 => if t.restarted then ((s.dropSpawns t.suite k i).taskFailed k i 10).graphCheck t.suite t.graph else relaunch true
    | 4 => if t.restarted then ((s.dropSpawns t.suite k i).taskFailed k i 10).graphCheck t.suite t.graph else s.taskLost k i
    | 5 => relaunch false
    | _ => s.taskLost k i

/-- DONE: every group of a task has reached FREE, and its firing ends (R201). The contexts it named are published again
(R216). -/
def execDone (wing : Fin 8) (s : State) : Out :=
  match s.takeFor (.dispatcher wing) (fun p => match p with | .done _ _ _ => true | _ => false) with
  | none => .next s
  | some (m, s1) =>
    match m.payload with
    | .done i firing outcome =>
      match s1.task wing i with
      | none => .next s1
      | some t =>
        if t.suite ≠ m.suite || t.firing ≠ firing || t.state ≠ .running then .next s1
        else
          let c := match m.src with | .core c => c.core.val | _ => 0
          let s2 := s1.firingEnds wing i outcome c
          .next (t.ctxs.foldl (fun x n => x.publishCtx t.suite n false) s2).settleAll
    | _ => .next s1

/-- TOKEN_ADD: a dispatcher receives tokens for an edge (R205, R207). -/
def execTokenAdd (wing : Fin 8) (s : State) : Out :=
  match s.takeFor (.dispatcher wing) (fun p => match p with | .tokenAdd _ _ => true | _ => false) with
  | none => .next s
  | some (m, s1) =>
    match m.payload with
    | .tokenAdd h n =>
      match s1.edge h with
      | none => .next s1
      | some e => if e.suite = m.suite then .next (s1.addTokens h n).settleAll else .next s1
    | _ => .next s1

/-- CREDIT_RETURN: a dispatcher receives returned credits for an edge (R205). -/
def execCreditReturn (wing : Fin 8) (s : State) : Out :=
  match s.takeFor (.dispatcher wing) (fun p => match p with | .creditRet _ _ => true | _ => false) with
  | none => .next s
  | some (m, s1) =>
    match m.payload with
    | .creditRet h n =>
      match s1.edge h with
      | none => .next s1
      | some e => if e.suite = m.suite then .next (s1.addCredits h n).settleAll else .next s1
    | _ => .next s1

/-- GRAPH_STALL: entries remain installed, none has fired or completed for 2^24 cycles, none is in flight, waits for a
launch or can fire: the lead dispatcher writes one STALL record (R203). -/
def execGraphStall (suite : BitVec 8) (s : State) : Out :=
  let mine := (List.finRange 8).flatMap (fun k => (s.disp k).tasks.filter (fun e => e.2.suite = suite) |>.map (fun e => (k, e)))
  let idle := mine.all (fun e => !e.2.2.inFlight && !s.canFire e.1 e.2.1 e.2.2)
  if mine = [] || !idle || (s.gsuite suite).stalled then .next s
  else
    let s1 := s.updGsuite suite (fun g => { g with stalled := true })
    .next (s1.note (s.gsuite suite).leadWing suite 0x2B 0 0 0 0 0)

/-- EVENT_RECORD: a record for a Suite reaches a dispatcher and goes to the event sink (R221); one of a generation that is no
longer the Suite's is discarded and counted (R81, R361). -/
def execEventRecord (wing : Fin 8) (s : State) : Out :=
  match s.takeFor (.dispatcher wing) (fun p => match p with | .record _ => true | _ => false) with
  | none => .next s
  | some (m, s1) =>
    match m.payload with
    | .record r =>
      if m.gen ≠ s.genOf m.suite || (s.suite m.suite).staleAll then
        .next (s1.updWing wing (fun w => { w with staleGen := sat16 w.staleGen 1 }))
      else .next (s1.sinkRecord wing.val m.suite r)
    | _ => .next s1

/-- SINK_QUEUE_DRAIN: records waiting in a Wing's queue are written while the ring has room (R221). -/
def execSinkQueueDrain (wing : Fin 8) (suite : BitVec 8) (s : State) : Out :=
  let q := Table.get [] (s.gsuite suite).sinkQueue wing.val
  .next (q.foldl (fun t r =>
    let g := t.gsuite suite
    let now := Table.get [] g.sinkQueue wing.val
    if g.sinkRoom then
      (t.updGsuite suite (fun x => { x with sinkQueue := Table.set x.sinkQueue wing.val (now.drop 1) })).sinkPut suite r
    else t) s)

/-- Whether an agent may write a graph block: the Suite or the Hearth (R223). -/
def graphWriter (a : Agent) (suite : BitVec 8) : Bool :=
  match a with
  | .hearth => true
  | .suite n => n = suite
  | .mmode _ => false
  | .bmc => false

/-- GRAPH_MODE takes a value; order lists go with mode 0 (R217). -/
def State.setGraphMode (s : State) (suite : BitVec 8) (on : Bool) : State :=
  (s.updGsuite suite (fun g => { g with mode := if on then 1 else 0, orders := if on then g.orders else [] })).settleAll

/-- GRAPH_MODE_WRITE: ORDER_MODE takes effect at the next firing decision; order lists are cleared when it returns to 0
(R217, R223). -/
def execGraphModeWrite (agent : Agent) (suite : BitVec 8) (value : W64) (s : State) : Out :=
  s.regCommand agent (.dispatcher (s.gsuite suite).leadWing) (graphWriter agent suite) (fun t => t.setGraphMode suite (bitOf value.toNat 0))

/-! ## The graph effects of a lost Room (R219) -/

/-- A DATA edge whose buffers lay in a lost Room: it drops its tokens and regains full credits; its producer gets
TASK_LOST with the tokens dropped, its consumer becomes LOST_INPUT (R219 step 2). -/
def State.edgeLost (s : State) (h : Nat) : State :=
  match s.edge h with
  | none => s
  | some e =>
    let s1 := s.updEdge h (fun x => { x with tokens := 0, held := 0, credits := x.capacity, lostBuf := true })
    let end_ := fun (p : Option (Nat × Nat)) (q : Option (Nat × Nat)) =>
      match p, q with | some a, _ => a | none, some b => b | none, none => (0, 0)
    let p := end_ e.producer e.consumer
    let pk : Fin 8 := Fin.ofNat 8 p.1
    let pf := ((s1.task pk p.2).map (fun t => t.firing)).getD 0
    let s2 := s1.note pk e.suite 0x22 e.graph p.2 0 pf (h + (e.tokens + e.held) * 2 ^ 32)
    match e.consumer with
    | none => s2
    | some (w, i) =>
      let ck : Fin 8 := Fin.ofNat 8 w
      match s2.task ck i with
      | none => s2
      | some t =>
        if t.state = .lost then s2
        else (s2.updTask ck i (fun x => { x with state := if x.state = .idle then .lostInput else x.state })).note ck e.suite 0x23
              e.graph i 0 t.firing h

/-- The graph effects of losing a Room, in the order of R219: ROOM_LOST, its entries LOST, its edges, its contexts. -/
def State.roomLostGraph (s : State) (r : RoomId) : State :=
  match (s.room r).ownerSuite with
  | none => s
  | some (n, _) =>
    let lead := (s.gsuite n).leadWing
    let rc := r.row.val + r.col.val * 8
    let s1 := s.note lead n 0x24 0 0 0 0 rc
    let lose := fun (t : State) (k : Fin 8) =>
      ((t.disp k).tasks.filter (fun e => e.2.suite = n && e.2.room = r && e.2.state != .lost)).foldl
        (fun y e => y.taskLost k e.1) t
    let s2 := (List.finRange 8).foldl lose s1
    let edges := fun (t : State) (k : Fin 8) =>
      ((t.disp k).edges.filter (fun e => e.2.suite = n && !e.2.isCount && bitOf e.2.bufRoom.toNat 7
          && bitsOf e.2.bufRoom.toNat 0 3 = r.row.val && bitsOf e.2.bufRoom.toNat 3 4 = r.col.val)).foldl
        (fun y e => y.edgeLost (k.val * 2 ^ 17 + e.1)) t
    let s3 := (List.finRange 8).foldl edges s2
    let ctxs := ((s3.gsuite n).ctxs.filter (fun e => e.2.state != 3 && e.2.validParts.any (fun p => p.2.1 = r))).map (fun e => e.1)
    ctxs.foldl (fun y i => y.ctxLost n i rc) s3

/-! ## Losing a Room (R425, R426) -/

/-- A UNIT_LOST report (R412, R478), by a reporter, for a unit. -/
def State.reportLost (s : State) (src : Endpoint) (kind number trigger : Nat) (subject : BitVec 16)
    (own : Option (BitVec 8 × BitVec 16)) : State :=
  s.report src
    { RasRep.zero with
      cause := 0x0C, outcome := 4, suite := (own.map (fun p => p.1)).getD 0, gen := (own.map (fun p => p.2)).getD 0,
      subject := subject, locA := BitVec.ofNat 16 kind, locB := BitVec.ofNat 32 number, detail := BitVec.ofNat 32 trigger }

/-- The endpoint that reports for a Room's Wing: its Cellar, since a lost Hall may not speak. -/
def roomReporter (r : RoomId) : Endpoint := .cellar (wingOfRoom r)

/-- Every access in flight to a Room's memory is refused by its Hall (R174, R425). -/
def State.refuseRoom (s : State) (r : RoomId) : State :=
  let there := s.reqs.filter (fun e => e.2.room = some r && e.2.stage = .sent && !e.2.back && !e.2.gone)
  there.foldl (fun t e => t.refuse e.1 1 (endpointId (.hall r))) s

/-- ROOM_LOSS (R425): LOST is set and the memory is gone, every group of its cores is killed without restart, the graph
effects of R219 follow, and the Hall refuses what it holds. Its barriers never release again. Trigger 0 is a router
failure, whose own record says it (R426). -/
def State.loseRoom (s : State) (r : RoomId) (trigger : Nat) : State :=
  if (s.room r).lost then s
  else
    let own := (s.room r).ownerSuite
    let s1 := if trigger = 0 then s else s.reportLost (roomReporter r) 0 (roomKey r) trigger (endpointId (.hall r)) own
    let s2 := s1.updRoom r (fun x => { x with lost := true, mem := [], poison := [], wiping := false })
    let s3 := s2.updWing (wingOfRoom r) (fun w => { w with roomsLost := w.roomsLost + 1 })
    let s4 := (List.finRange 6).foldl (fun (t : State) (c : Fin 6) =>
      t.updCore ⟨r, c⟩ (fun x => { x with slots := Table.mapVals (fun _ y => y.kill 2) x.slots })) s3
    ((s4.roomLostGraph r).refuseRoom r).settleAll

/-! ## Checks of Room memory (R169, R407) -/

/-- A block found lastingly bad is marked, counted and reported; the 64th of a bank within a window loses the Room, or
only advises in host-assisted mode (R169, R407, R425). -/
def State.poisonBlock (s : State) (r : RoomId) (b : Nat) : State :=
  let room := s.room r
  let own := room.ownerSuite
  let bank := roomBank (64 * b)
  let fresh := !room.poison.contains b
  let n := Table.get 0 room.bankPoison bank + (if fresh then 1 else 0)
  let s1 := s.updRoom r (fun x =>
    { x with poison := addOnce b x.poison, poisoned := if fresh then sat16 x.poisoned 1 else x.poisoned, bankPoison := Table.set x.bankPoison bank n })
  let rep : RasRep :=
    { RasRep.zero with
      cause := 3, outcome := 1, suite := (own.map (fun p => p.1)).getD 0, gen := (own.map (fun p => p.2)).getD 0,
      subject := endpointId (.hall r), locA := BitVec.ofNat 16 bank, locB := BitVec.ofNat 32 (roomLine (64 * b)) }
  let s2 := s1.report (.hall r) rep
  if n = 64 && fresh then
    if s2.hostFence r then
      s2.report (.hall r)
        { RasRep.zero with
          cause := 0x0C, outcome := 6, suite := (own.map (fun p => p.1)).getD 0, gen := (own.map (fun p => p.2)).getD 0,
          subject := endpointId (.hall r), locA := 0, locB := BitVec.ofNat 32 (roomKey r), detail := 6 }
    else s2.loseRoom r 6
  else s2

/-- The outcome of the code check of one access (R169): counted, or its blocks poisoned. -/
def State.roomEcc (s : State) (r : RoomId) (off n : Nat) (ecc : Ecc) : State :=
  match ecc with
  | .clean => s
  | .corrected => s.updRoom r (fun x => { x with corrected := sat16 x.corrected 1 })
  | .transient => s.updRoom r (fun x => { x with transient := sat16 x.transient 1 })
  | .lasting => (blocksOf off n).foldl (fun t b => t.poisonBlock r b) s

/-! ## Spills (R216) -/

/-- A Hall reads bytes of its Room's memory by a lane of its Stair port; the code check of the access has an outcome (R169,
R211). -/
def State.hallRead (s : State) (r : RoomId) (lane off n : Nat) (ecc : Ecc) : (List Byte × Bool) × State :=
  let s1 := (s.grantRange r lane off n).roomEcc r off n ecc
  (s1.roomRead r off n, s1)

/-- Copy the tokens of a spill from the rings to LPDDR: each segment of each token, as the Halls read their banks and write
the Suite's memory; `eccs` are the outcomes of the reads in order. The reason of a dropped write, if there was one. -/
def State.spillCopy (s : State) (suite : BitVec 8) (c : Ctx) (lanes : Nat → Nat) (eccs : List Ecc) : Option (BitVec 2) × State :=
  let sb := c.segBytes
  let units := c.validParts.flatMap (fun p =>
    (List.range c.segs).flatMap (fun i => (List.range c.spillTok).map (fun j => (p, i, c.spilled + j))))
  (units.foldl (fun (acc : (Option (BitVec 2) × List Ecc) × State) u =>
    let ((pn, room, hot), i, t) := u
    let src := hot + (t % c.hotCap) * (c.segs * sb) + i * sb
    let dst := c.kvBase.toNat + ((pn * c.segs + i) * c.kvLimit + t) * sb
    let d := acc.2.hallRead room (lanes pn) src sb (listGet .clean acc.1.2 0)
    let w := d.2.gWriteWhy suite dst d.1.1 d.1.2
    ((acc.1.1.or w.1, acc.1.2.drop 1), w.2)) ((none, eccs), s)) |> fun r => (r.1.1, r.2)

/-- A lane of the Stair port at each of a list of numbered Halls; `none` while one of them has none free (R211). -/
def State.stairLanes (s : State) (halls : List (Nat × RoomId)) : Option (Table Nat) × State :=
  halls.foldl (fun (acc : Option (Table Nat) × State) p =>
    let r := acc.2.stairLane p.2
    ((acc.1.bind (fun t => r.1.map (fun l => Table.set t p.1 l))), r.2)) (some [], s)

/-- SPILL_COMPLETE: the Halls copy the tokens of a context's spill by lanes 14 and 15, every write is acknowledged and SPILLED
advances; a dropped write loses the context instead (R211, R216, R479). A ring still over its limit spills again. -/
def execSpillComplete (suite : BitVec 8) (x : SpillRead) (s : State) : Out :=
  let ctx := x.ctx
  match Table.find (s.gsuite suite).ctxs ctx with
  | none => .next s
  | some c =>
    if !c.spillBusy then .next s
    else
      let q := s.stairLanes (c.validParts.map (fun p => (p.1, p.2.1)))
      match q.1 with
      | none => .next q.2
      | some lanes =>
        let r := q.2.spillCopy suite c (Table.get 14 lanes) x.eccs
        match r.1 with
        | some why =>
          let rep : RasRep :=
            { RasRep.zero with
              cause := 6, outcome := 2, suite := suite, gen := s.genOf suite, detail := BitVec.ofNat 32 why.toNat }
          let s1 := (r.2.updCtx suite ctx (fun x => { x with spillBusy := false })).ctxLost suite ctx (2 ^ 64 - 1)
          let hall := match c.validParts with | (_, h, _) :: _ => Endpoint.hall h | [] => .dispatcher (s.gsuite suite).leadWing
          .next (s1.reportHeld hall rep).settleAll
        | none =>
          let s1 := r.2.updCtx suite ctx (fun x => { x with spillBusy := false, spilled := x.spilled + x.spillTok })
          .next ((s1.spillStart suite ctx).publishCtx suite ctx false).settleAll

/-! ## SPAWN (R112, R113, R206) -/

/-- The lowest number from a bound that a table does not list. -/
def Table.freeFrom {α : Type} : Nat → Table α → Nat
  | b, [] => b
  | b, (k, _) :: t => if k = b then Table.freeFrom (b + 1) t else b

/-- Whether a Room lies in the rectangle of a Suite and can hold a task: not lost (R178, R180, log 24). -/
def State.inRect (s : State) (suite : BitVec 8) (r : RoomId) : Bool :=
  match (s.suite suite).rect with
  | none => false
  | some q =>
    decide (q.rowLo ≤ r.row.val) && decide (r.row.val ≤ q.rowHi) && decide (q.colLo ≤ r.col.val) && decide (r.col.val ≤ q.colHi)

/-- Word 1 of a task descriptor has no reserved bit set and CORE is assigned (R195). -/
def word1Ok (w1 : Nat) : Bool := !bitOf w1 3 && bitsOf w1 13 3 = 0 && bitsOf w1 53 11 = 0 && bitsOf w1 8 3 ≠ 6

/-- A new task entry. -/
def newTask (suite : BitVec 8) (gen : BitVec 16) (graph index : Nat) (desc : W64) (inRoom : Bool) (ws : List W64) : Task :=
  { suite := suite, gen := gen, graph := graph, index := index, desc := desc, descRoom := inRoom, kernel := listGet 0 ws 0,
    word1 := listGet 0 ws 1, seqList := listGet 0 ws 7, ins := [], outs := [], state := .idle, count := 0, firing := 0,
    core := 0, tried := [], restarted := false, avoid := none, refire := 0, replaying := false, able := false, ctxs := [],
    advance := 0 }

/-- SPAWN_EDGE of a spawned task names a COUNT edge of its Suite and generation, where SE_VALID is set (R206). -/
def State.spawnEdgeOk (s : State) (suite : BitVec 8) (gen : BitVec 16) (w1 : Nat) : Bool :=
  !bitOf w1 52 || (match s.edge (bitsOf w1 32 20) with
    | none => false
    | some e => e.isCount && e.suite = suite && e.gen = gen)

/-- The dispatcher's answer to a SPAWN: STATUS, TASK_IDX and WING (R112). -/
def spawnAnswer (status idx wing : Nat) : W64 := BitVec.ofNat 64 (status + idx * 2 ^ 16 + wing * 2 ^ 32)

/-- Read a spawn descriptor: from the Suite's memory under R479, or from the core's Room memory by a lane of the core, where
the code check has an outcome (R112, R169). -/
def State.readSpawn (s : State) (g : GroupRef) (suite : BitVec 8) (room : Bool) (addr : Nat) (ecc : Ecc) :
    Option (List W64) × State :=
  let own := g.core.room
  if room then
    let (lane, s0) := s.pickLane g.core
    let d := s0.hallRead own lane addr 64 ecc
    (if d.1.2 || (d.2.room own).lost then none else some (wordsOf d.1.1), d.2)
  else
    let r := s.gRead suite addr 64
    (r.1.map wordsOf, r.2)

/-- Install a spawned task (R206), and its answer. -/
def State.installSpawn (s : State) (g : GroupRef) (sl : Slot) (room : Bool) (addr : W64) (ecc : Ecc) :
    W64 × State :=
  let r := s.readSpawn g sl.suite room addr.toNat ecc
  match r.1 with
  | none => (spawnAnswer 2 0 0, r.2)
  | some ws =>
    let w1 := wordAt ws 1
    match roomOfWord1 w1 with
    | none => (spawnAnswer 2 0 0, r.2)
    | some target =>
      let bad := !word1Ok w1 || wordAt ws 0 % 64 ≠ 0 || !r.2.inRect sl.suite target || (r.2.room target).lost
        || (room && target ≠ g.core.room) || !r.2.spawnEdgeOk sl.suite sl.gen w1
      if bad then (spawnAnswer 2 0 0, r.2)
      else
        let k := wingOfRoom target
        let i := Table.freeFrom 0 (r.2.disp k).tasks
        if 65536 ≤ i then (spawnAnswer 1 0 0, r.2)
        else
          let t := newTask sl.suite sl.gen 0 0 addr room ws
          (spawnAnswer 0 i k.val, r.2.updDisp k (fun d => { d with tasks := Table.set d.tasks i t }))

/-- SPAWN_ANSWER: once every earlier access of the group is performed, the dispatcher reads the descriptor and answers; a
restarted task's accepted SPAWN gets its first answer again (R112, R113). -/
def execSpawnAnswer (c : SpawnRead) (s : State) : Out :=
  let g := c.group
  let sl := s.slot g
  match sl.wait with
  | .spawn room addr rd =>
    if sl.outstanding false 15 ≠ [] || (s.core g.core).dma.any (fun d => d.g = g) || (room && (s.room g.core.room).wiping) then .next s
    else
      let key := (65536 * sl.wing.val + sl.taskIdx, sl.groupIdx, sl.spawns)
      let old := ((s.gsuite sl.suite).spawned.find? (fun e => e.1 = key)).map (fun e => e.2)
      let r := match old with
        | some v => (v, s)
        | none =>
          let q := s.installSpawn g sl room addr c.ecc
          if q.1.toNat % 256 = 0 then (q.1, q.2.updGsuite sl.suite (fun x => { x with spawned := x.spawned ++ [(key, q.1)] })) else q
      .next (r.2.updSlot g (fun x => { x.setS rd r.1 with wait := .none })).settleAll
  | _ => .next s

end Sys2Proof.Machine
end

