-- ==== Sys2Proof/Machine/Streams.lean ====
section
/-! DEFINITION. Weight streams (R208 to R212), and writes of Room memory, where a Hall sees a slot word's DONE (R209). -/

namespace Sys2Proof.Machine

/-! ## The fields of a stream descriptor (R208) -/

/-- A word of a stream descriptor. -/
def Stream.w (x : Stream) (i : Nat) : Nat := wordAt x.words i
/-- Virtual address of chunk 0. -/
def Stream.srcBase (x : Stream) : Nat := x.w 0
/-- Bytes per chunk. -/
def Stream.chunkLen (x : Stream) : Nat := bitsOf (x.w 1) 0 32
/-- Chunks per pass. -/
def Stream.chunks (x : Stream) : Nat := bitsOf (x.w 1) 32 32
/-- Signed distance between chunks. -/
def Stream.stride (x : Stream) : Int := (listGet 0 x.words 2).toInt
/-- Room offset of buffer 0. -/
def Stream.dstOff (x : Stream) : Nat := bitsOf (x.w 3) 0 26
/-- Room offset of the slot words. -/
def Stream.hdrOff (x : Stream) : Nat := bitsOf (x.w 3) 32 26
/-- Number of buffers. -/
def Stream.nbuf (x : Stream) : Nat := bitsOf (x.w 3) 58 4 + 1
/-- Number of members. -/
def Stream.nmemb (x : Stream) : Nat := bitsOf (x.w 6) 0 5
/-- Passes before the stream ends; 0 is unbounded. -/
def Stream.passes (x : Stream) : Nat := bitsOf (x.w 6) 8 32
/-- The byte of member m. -/
def Stream.memberByte (x : Stream) (m : Nat) : Nat := bitsOf (x.w (4 + m / 8)) (8 * (m % 8)) 8
/-- The Room of member m. -/
def Stream.member (x : Stream) (m : Nat) : Option RoomId :=
  roomOfWord1 (bitsOf (x.memberByte m) 0 3 + bitsOf (x.memberByte m) 3 4 * 16)
/-- Members by number with their Rooms. -/
def Stream.members (x : Stream) : List (Nat × RoomId) :=
  (List.range x.nmemb).filterMap (fun m => (x.member m).map (fun r => (m, r)))
/-- Virtual address that chunk g reads. -/
def Stream.chunkVa (x : Stream) (g : Nat) : Nat := addr64 (x.srcBase + (g % x.chunks : Nat) * x.stride)
/-- Room offset of the buffer of chunk g. -/
def Stream.bufOff (x : Stream) (g : Nat) : Nat := x.dstOff + (g % x.nbuf) * x.chunkLen

/-! ## Room memory (R166, R169) -/

/-- The blocks wholly inside [off, off + n). -/
def wholeBlocks (off n : Nat) : List Nat := (blocksOf off n).filter (fun b => decide (off ≤ 64 * b) && decide (64 * b + 64 ≤ off + n))

/-- Write bytes of a Room's memory: a poison mark goes only when its whole block is written (R169); with `mark` the
blocks written become poisoned (R174). -/
def Room.put (r : Room) (off : Nat) (bs : List Byte) (mark : Bool) : Room :=
  let whole := wholeBlocks off bs.length
  let touched := blocksOf off bs.length
  let kept := r.poison.filter (fun b => !whole.contains b)
  { r with mem := r.mem.writeN off bs, poison := if mark then touched.foldl (fun l b => addOnce b l) kept else kept }

/-- SLOT_DONE credits that a write to a Room's memory sends: for each stream of the Room's Suite with the Room as a member,
a buffer whose DONE word the write touches, where the value is that of a chunk of the buffer (R209). -/
def State.sawDone (s : State) (r : RoomId) (off n : Nat) : State :=
  let one := fun (t : State) (k : Fin 8) (si : Nat) (x : Stream) =>
    x.members.foldl (fun t1 m =>
      if m.2 ≠ r then t1
      else (List.range x.nbuf).foldl (fun t2 b =>
        let at_ := x.hdrOff + 64 * b + 8
        if decide (off < at_ + 8) && decide (at_ < off + n) then
          let v := leNat ((t2.room r).mem.readN at_ 8)
          if v ≠ 0 && (v - 1) % x.nbuf = b then
            t2.send (.hall r) (.dispatcher k) x.suite x.gen (.slotDone si m.1 (v - 1))
          else t2
        else t2) t1) t
  (List.finRange 8).foldl (fun t k => (s.disp k).streams.foldl (fun t1 e => one t1 k e.1 e.2) t) s

/-- Write a Room's memory at its bank; a lost Room keeps nothing (R174, R425). -/
def State.roomWrite (s : State) (r : RoomId) (off : Nat) (bs : List Byte) (mark : Bool) : State :=
  if (s.room r).lost then s else (s.updRoom r (fun x => x.put off bs mark)).sawDone r off bs.length

/-! ## Chunks (R209, R210, R212) -/

/-- A stream of a dispatcher. -/
def State.stream (s : State) (k : Fin 8) (i : Nat) : Option Stream := Table.find (s.disp k).streams i

/-- Change a stream. -/
def State.updStream (s : State) (k : Fin 8) (i : Nat) (f : Stream → Stream) : State :=
  match s.stream k i with
  | none => s
  | some x => s.updDisp k (fun d => { d with streams := Table.set d.streams i (f x) })

/-- Whether chunk g may be issued: every member's DONE of its buffer is that of the chunk before (R209), the passes are
not over, the stream has not stopped and its graph has not ended (R204). -/
def State.chunkReady (s : State) (x : Stream) : Bool :=
  let g := x.next
  !x.stopped && !s.graphEnded x.suite x.graph && (x.passes = 0 || decide (g < x.passes * x.chunks))
    && (decide (g < x.nbuf) || x.members.all (fun m => Table.get 0 x.dones (16 * (g % x.nbuf) + m.1) = g - x.nbuf + 1))

/-- Read one 128 B line of a chunk for the members: its bytes and whether it is poisoned; `none` where its page fails. -/
def State.chunkLine (s : State) (suite : BitVec 8) (va : Nat) : Option (List Byte × Bool) × State :=
  let r := s.locateAll suite false (graphAllows false) [(va, 128)]
  match r.1 with
  | some [(l, _)] =>
    let q := r.2.sysRead suite l.pa 128 l.region.attr
    (some q.1, q.2)
  | _ => (none, r.2)

/-- Deliver one line of a chunk to every member's buffer by a lane of its Stair port (R211); a poisoned line marks both its
64 B blocks (R212). -/
def State.deliverLine (s : State) (x : Stream) (lanes : Nat → Nat) (g pos : Nat) (d : List Byte) (poison : Bool) : State :=
  x.members.foldl (fun t m =>
    let off := x.bufOff g + pos
    (t.grantRange m.2 (lanes m.1) off d.length).roomWrite m.2 off d poison) s

/-- The pages of a chunk, translated before anything is read; the first address that fails. -/
def State.chunkFault (s : State) (suite : BitVec 8) : List (Nat × Nat) → Option Nat × State
  | [] => (none, s)
  | p :: ps =>
    let r := s.locateAll suite false (graphAllows false) [p]
    match r.1 with
    | none => (some p.1, r.2)
    | some _ => State.chunkFault r.2 suite ps

/-- STREAM_CHUNK_ISSUE: the next chunk is read once and sent to every member, once each member's buffer is free and a lane of
its Stair port; a page that fails stops the stream with STREAM_FAULT (R209, R210, R211). -/
def execStreamChunkIssue (wing : Fin 8) (stream : Nat) (s : State) : Out :=
  match s.stream wing stream with
  | none => .next s
  | some x =>
    if !s.chunkReady x then .next s
    else
      let g := x.next
      let va := x.chunkVa g
      let f := s.chunkFault x.suite (pagePieces va x.chunkLen)
      match f.1 with
      | some bad =>
        .next ((f.2.updStream wing stream (fun y => { y with stopped := true })).note wing x.suite 0x2C x.graph stream 0 0 bad)
      | none =>
        let q := f.2.stairLanes x.members
        match q.1 with
        | none => .next q.2
        | some lanes =>
          let s1 := (List.range (x.chunkLen / 128)).foldl (fun (acc : Bool × State) i =>
            let r := acc.2.chunkLine x.suite (va + 128 * i)
            match r.1 with
            | none => (acc.1, r.2)
            | some (d, p) => (acc.1 || p, r.2.deliverLine x (Table.get 14 lanes) g (128 * i) d p)) (false, q.2)
          let marks := if s1.1 then x.members.map (fun m => (m.1, g % x.nbuf)) else []
          .next (s1.2.updStream wing stream (fun y =>
            { y with next := g + 1, busy := y.busy ++ [(g, y.members.map (fun m => m.1))],
                     marked := y.marked.filter (fun q => q.2 != g % x.nbuf) ++ marks }))

/-- STREAM_CHUNK_DELIVERED: all bytes of the oldest chunk due to a member are performed, and its Hall writes READY (R209). -/
def execStreamChunkDelivered (wing : Fin 8) (stream : Nat) (member : Nat) (s : State) : Out :=
  match s.stream wing stream with
  | none => .next s
  | some x =>
    match x.busy.find? (fun c => c.2.contains member), x.member member with
    | some (g, ms), some r =>
      let s1 := s.roomWrite r (x.hdrOff + 64 * (g % x.nbuf)) (leBytes 8 (g + 1)) false
      let left := dropAll member ms
      let busy := if left = [] then x.busy.filter (fun c => c.1 != g) else x.busy.map (fun c => if c.1 = g then (g, left) else c)
      let s2 := s1.updStream wing stream (fun y => { y with busy := busy })
      .next (if s2.graphEnded x.suite x.graph then s2.graphCheck x.suite x.graph else s2)
    | _, _ => .next s

/-- SLOT_DONE: the stream receives the credit of a chunk that a member has used (R209). -/
def execSlotDone (wing : Fin 8) (s : State) : Out :=
  match s.takeFor (.dispatcher wing) (fun p => match p with | .slotDone _ _ _ => true | _ => false) with
  | none => .next s
  | some (m, s1) =>
    match m.payload with
    | .slotDone si member chunk =>
      match s1.stream wing si with
      | none => .next s1
      | some x =>
        if x.suite ≠ m.suite then .next s1
        else .next (s1.updStream wing si (fun y =>
          { y with dones := Table.set y.dones (16 * (chunk % y.nbuf) + member) (chunk + 1) }))
    | _ => .next s1

/-- The last chunk issued into a buffer. -/
def Stream.inBuffer (x : Stream) (b : Nat) : Option Nat :=
  let g := ((List.range x.nbuf).map (fun i => x.next - 1 - i)).find? (fun g => decide (g < x.next) && g % x.nbuf = b)
  g

/-- A Hall rereads the marked blocks of one buffer whose DONE word does not release it (R212), by a lane of its Stair port. -/
def State.rereadBuffer (s : State) (lane : Nat) (k : Fin 8) (si : Nat) (x : Stream) (m : Nat) (r : RoomId) (b : Nat) : State :=
  match x.inBuffer b with
  | none => s
  | some g =>
    if leNat ((s.room r).mem.readN (x.hdrOff + 64 * b + 8) 8) = g + 1 then s
    else
      let off := x.bufOff g
      let bad := (List.range (x.chunkLen / 128)).filter (fun i =>
        (s.room r).poison.any (fun q => q = (off + 128 * i) / 64 || q = (off + 128 * i) / 64 + 1))
      let s1 := bad.foldl (fun t i =>
        let q := t.chunkLine x.suite (x.chunkVa g + 128 * i)
        match q.1 with
        | none => q.2
        | some (d, p) => if p then q.2 else (q.2.grantRange r lane (off + 128 * i) 128).roomWrite r (off + 128 * i) d false) s
      let clean := !bad.any (fun i => (s1.room r).poison.any (fun q => q = (off + 128 * i) / 64 || q = (off + 128 * i) / 64 + 1))
      if clean then s1.updStream k si (fun y => { y with marked := y.marked.filter (fun q => q != (m, b)) }) else s1

/-- PAGE_REINSTALLED_REPORT: a Hall rereads every marked block of a stream buffer not yet released, and only then passes
the report to its cores (R212, R76). It waits for a lane of its Stair port. -/
def execPageReinstalledReport (r : RoomId) (s : State) : Out :=
  match s.takeFor (.hall r) (fun p => match p with | .reinstalled _ _ => true | _ => false) with
  | none => .next s
  | some (m, s0) =>
    match m.payload with
    | .reinstalled page _ =>
      let q := s0.stairLane r
      match q.1 with
      | none => .next s
      | some lane =>
        let reread := fun (t : State) (k : Fin 8) =>
          (s0.disp k).streams.foldl (fun t1 e =>
            e.2.members.foldl (fun t2 mb =>
              if mb.2 ≠ r then t2
              else (e.2.marked.filter (fun p => p.1 = mb.1)).foldl (fun t3 p => t3.rereadBuffer lane k e.1 e.2 mb.1 r p.2) t2) t1) t
        let s2 := (List.finRange 8).foldl reread q.2
        .next ((List.finRange 6).foldl (fun (t : State) (c : Fin 6) =>
          t.updCore ⟨r, c⟩ (fun x => { x with reinstalled := addOnce page x.reinstalled })) s2)
    | _ => .next s0

end Sys2Proof.Machine
end

