-- ==== Sys2Proof/Machine/Mail.lean ====
section
/-! DEFINITION. Mail slots (R187 to R193) and the mail commands: SUBMIT, TOKEN, CREDIT, ADMIT, RETIRE, END, RESUBMIT and
ORDER (R192 to R220). -/

namespace Sys2Proof.Machine

/-! ## Outcomes (R193) -/

/-- Done. -/
def stOk : Nat := 0
/-- A field breaks the chapter's rules. -/
def stMalformed : Nat := 1
/-- A task, edge or stream table lacks room. -/
def stTableFull : Nat := 2
/-- A Room outside the rectangle, or a region that does not allow it. -/
def stResource : Nat := 3
/-- No such handle, index or graph. -/
def stUnknown : Nat := 4
/-- Beyond CAPACITY. -/
def stCap : Nat := 5
/-- Beyond the context quota. -/
def stQuota : Nat := 6
/-- The target is in the wrong state. -/
def stState : Nat := 7

/-- The record of an outcome: for every failure, and for every command sent with ACK (R193). -/
def State.ackMail (s : State) (suite : BitVec 8) (m : MailMsg) (st : Nat) : State :=
  if st = 0 && !m.ack then s else s.note (s.gsuite suite).leadWing suite 0x2A 0 0 st 0 m.seqno.toNat

/-! ## The slot (R188, R189, R191) -/

/-- Change the registration of a sender. -/
def GSuite.updSender (g : GSuite) (x : Sender) (f : SenderReg → SenderReg) : GSuite :=
  { g with senders := g.senders.map (fun r => if r.sender = x then f r else r) }

/-- An entry of a sender frees: its credit returns, at once to a hart, by MAIL_CREDIT to a session (R188, R323). -/
def GSuite.freeEntry (g : GSuite) (x : Sender) : GSuite :=
  g.updSender x (fun r =>
    { r with inUse := r.inUse - 1, owed := match x with | .session _ => r.owed + 1 | .hart _ => r.owed })

/-- The commands of R192 that are assigned. -/
def mailAssigned (cmd : BitVec 8) : Bool := decide (1 ≤ cmd.toNat) && decide (cmd.toNat ≤ 8)

/-- Take the message at the head of the slot off it, and free its entry. -/
def State.popMail (s : State) (suite : BitVec 8) : State :=
  match (s.gsuite suite).mail with
  | [] => s
  | (x, _) :: rest => s.updGsuite suite (fun g => { g.freeEntry x with mail := rest })

/-- Messages with a command code not listed give MALFORMED when they reach the head of the slot (R192). -/
def State.skipUnassigned (s : State) (suite : BitVec 8) : State :=
  ((s.gsuite suite).mail.takeWhile (fun e => !mailAssigned e.2.cmd)).foldl (fun t e =>
    (t.ackMail suite e.2 stMalformed).popMail suite) s

/-- Whether the slot discards a message (R191): another Suite or generation, a tag that fails, AUTH = 0 from a session, or
a SEQNO not above the last accepted. -/
def State.mailDiscards (s : State) (slot : BitVec 8) (r : SenderReg) (m : MailMsg) (tagOk : Bool) : Bool :=
  m.suite != slot || m.gen != s.genOf slot || (s.suite slot).staleAll || (m.auth && !tagOk)
    || (match r.sender with | .session _ => !m.auth | .hart _ => false) || decide (m.seqno.toNat ≤ r.lastSeq)

/-- A message offered to a Suite's slot (R188, R189): 0 accepted, 1 no credit, 2 not registered; and the state after. A
message that the slot discards has been accepted and its entry frees at once (R191). While the slot moves there is no
credit (R364). -/
def State.offerMail (s : State) (slot : BitVec 8) (x : Sender) (m : MailMsg) (tagOk : Bool) : Nat × State :=
  let g := s.gsuite slot
  match g.senders.find? (fun r => r.sender = x) with
  | none => (2, s)
  | some r =>
    if g.moving || decide (r.limit ≤ r.inUse) || decide (32 ≤ g.mail.length) then (1, s)
    else
      let s1 := s.updGsuite slot (fun y => y.updSender x (fun z => { z with inUse := z.inUse + 1 }))
      if s.mailDiscards slot r m tagOk then
        (0, s1.updGsuite slot (fun y => { y.freeEntry x with discarded := sat16 y.discarded 1 }))
      else
        let put := fun (y : GSuite) =>
          { y.updSender x (fun z => { z with lastSeq := m.seqno.toNat }) with mail := y.mail ++ [(x, m)], accepted := sat16 y.accepted 1 }
        (0, (s1.updGsuite slot put).skipUnassigned slot)

/-- MAIL_CREDIT: entries of a session have freed, and the module sends the number by the port the session's mail came in
(R323). -/
def execMailCredit (suite : BitVec 8) (session : BitVec 12) (s : State) : Out :=
  let g := s.gsuite suite
  match g.senders.find? (fun r => r.sender = .session session) with
  | none => .next s
  | some r =>
    if r.owed = 0 then .next s
    else
      let m : SentMsg :=
        { type := 0x03, suite := suite, gen := s.genOf suite, session := session, status := 0, tag := 0, addr := 0,
          arg := BitVec.ofNat 64 (min r.owed 63), data := [] }
      let s1 := s.updGsuite suite (fun y => y.updSender (.session session) (fun z => { z with owed := z.owed - min z.owed 63 }))
      .next (s1.updByPort (Fin.ofNat 4 r.port) (fun p => { p with sent := p.sent ++ [m] }))

/-- Carry out the command at the head of a slot: its outcome, then the entry frees and the next command can be taken
(R189, R193). -/
def State.mailCommand (s : State) (suite : BitVec 8) (cmd : Nat) (run : MailMsg → State → Nat × State) : State :=
  match (s.gsuite suite).mail with
  | [] => s
  | (_, m) :: _ =>
    if m.cmd.toNat ≠ cmd then s
    else
      let r := run m s
      ((((r.2.ackMail suite m r.1).popMail suite).skipUnassigned suite)).settleAll

/-- No reserved bit is set, TAG is 0 unless AUTH is set, LEN is what the payload holds, and the operands that a command gives
no use are 0 (R190, R192). -/
def mailPlain (m : MailMsg) (b c d : Bool) (payload : Bool) : Bool :=
  !m.rsvd && (m.auth || m.tag = 0) && (b || m.opb = 0) && (c || m.opc = 0) && (d || m.opd = 0) && (payload || m.len = 0) && m.payload.length = 64 * m.len.toNat

/-! ## SUBMIT (R194 to R197, R210) -/

/-- A graph read from memory: its header words, and the words of its tasks, edges and streams. -/
structure GraphText where
  hdr     : List W64
  tasks   : List (List W64)
  edges   : List (List W64)
  streams : List (List W64)
deriving DecidableEq, Repr

/-- Cut bytes into n descriptors of `size` bytes. -/
def cutWords (bs : List Byte) (size n : Nat) : List (List W64) :=
  (List.range n).map (fun i => wordsOf ((bs.drop (size * i)).take size))

/-- The form checks of a graph header (R194). -/
def headerFormOk (h : List W64) : Bool :=
  let w3 := wordAt h 3
  wordAt h 0 % 64 = 0 && wordAt h 1 % 16 = 0 && wordAt h 2 % 64 = 0 && bitsOf w3 52 12 = 0 && wordAt h 6 = 0 && wordAt h 7 = 0
    && decide (1 ≤ bitsOf w3 0 20) && decide (bitsOf w3 0 20 ≤ 524288) && decide (bitsOf w3 20 20 ≤ 1048575)
    && decide (bitsOf w3 40 12 ≤ 2048)

/-- Read a whole graph; `none` where a read fails, `some none` where the header's form is wrong. -/
def State.readGraph (s : State) (suite : BitVec 8) (va : Nat) : Option (Option GraphText) × State :=
  let h := s.gRead suite va 64
  match h.1 with
  | none => (none, h.2)
  | some hb =>
    let hw := wordsOf hb
    if !headerFormOk hw then (some none, h.2)
    else
      let nt := bitsOf (wordAt hw 3) 0 20
      let ne := bitsOf (wordAt hw 3) 20 20
      let ns := bitsOf (wordAt hw 3) 40 12
      let a := h.2.gRead suite (wordAt hw 0) (64 * nt)
      let b := a.2.gRead suite (wordAt hw 1) (16 * ne)
      let c := b.2.gRead suite (wordAt hw 2) (64 * ns)
      match a.1, b.1, c.1 with
      | some x, some y, some z =>
        (some (some { hdr := hw, tasks := cutWords x 64 nt, edges := cutWords y 16 ne, streams := cutWords z 64 ns }), c.2)
      | _, _, _ => (none, c.2)

/-- The form checks of a task descriptor (R195); SPAWN_EDGE and SE_VALID belong to spawned tasks only. -/
def taskFormOk (t : List W64) : Bool :=
  let w1 := wordAt t 1
  wordAt t 0 % 64 = 0 && word1Ok w1 && bitsOf w1 32 21 = 0

/-- The external end of an edge. -/
def externalEnd : Nat := 0xFFFFF

/-- The form checks of an edge descriptor (R196). -/
def edgeFormOk (ntasks : Nat) (e : List W64) : Bool :=
  let w0 := wordAt e 0
  let w1 := wordAt e 1
  let prod := bitsOf w0 0 20
  let cons := bitsOf w0 20 20
  let kind := bitsOf w0 40 2
  let cap := bitsOf w1 0 16
  let init := bitsOf w1 16 16
  let thr := bitsOf w1 32 16
  (prod < ntasks || prod = externalEnd) && (cons < ntasks || cons = externalEnd) && !(prod = externalEnd && cons = externalEnd)
    && bitsOf w0 42 22 = 0 && bitsOf w1 56 8 = 0
    && (if kind = 0 then decide (1 ≤ cap) && decide (init ≤ cap) && thr = 1
        else kind = 1 && cap = 0 && decide (1 ≤ thr) && cons ≠ externalEnd)

/-- A stream as a descriptor gives it. -/
def newStream (suite : BitVec 8) (gen : BitVec 16) (graph : Nat) (ws : List W64) : Stream :=
  { suite := suite, gen := gen, graph := graph, words := ws, next := 0, busy := [], dones := [], marked := [], stopped := false }

/-- Two ranges of Room offsets meet. -/
def rangesMeet (a n b m : Nat) : Bool := decide (a < b + m) && decide (b < a + n)

/-- The form checks of a stream descriptor (R208, R210). -/
def streamFormOk (x : Stream) : Bool :=
  let w3 := x.w 3
  let w6 := x.w 6
  let bufs := x.nbuf * x.chunkLen
  let hdr := 64 * x.nbuf
  x.srcBase % 2048 = 0 && x.chunkLen % 2048 = 0 && decide (2048 ≤ x.chunkLen) && decide (x.chunkLen ≤ 2 ^ 24) && decide (1 ≤ x.chunks)
    && x.stride % 2048 = 0 && x.dstOff % 128 = 0 && x.hdrOff % 64 = 0 && bitsOf w3 26 6 = 0 && bitsOf w3 62 2 = 0
    && decide (2 ≤ x.nbuf) && decide (1 ≤ x.nmemb) && decide (x.nmemb ≤ 16) && bitsOf w6 5 3 = 0 && bitsOf w6 40 24 = 0 && x.w 7 = 0
    && (List.range x.nmemb).all (fun m => !bitOf (x.memberByte m) 7)
    && decide (x.dstOff + bufs ≤ 48 * 2 ^ 20) && decide (x.hdrOff + hdr ≤ 48 * 2 ^ 20) && !rangesMeet x.dstOff bufs x.hdrOff hdr

/-- Whether a Room of a graph lies in the Suite's rectangle and is not lost. -/
def State.roomUsable (s : State) (suite : BitVec 8) (r : Option RoomId) : Bool :=
  match r with
  | none => false
  | some x => s.inRect suite x && !(s.room x).lost

/-- No source page of a stream lies in a RED or DEV region (R210). -/
def State.streamSourceOk (s : State) (x : Stream) : Bool :=
  (List.range x.chunks).all (fun g =>
    (pagePieces (x.chunkVa g) x.chunkLen).all (fun p => match s.regionOf x.suite p.1 with
      | some r => r.attr != .red && r.attr != .dev
      | none => true))

/-- The checks of R194 to R196 and R210 on a graph that was read: MALFORMED before RESOURCE (log 25). -/
def State.graphStatus (s : State) (suite : BitVec 8) (gen : BitVec 16) (g : GraphText) : Nat :=
  let n := g.tasks.length
  let streams := g.streams.map (newStream suite gen 0)
  if !g.tasks.all taskFormOk || !g.edges.all (edgeFormOk n) || !streams.all streamFormOk then stMalformed
  else
    let rooms := g.tasks.all (fun t => s.roomUsable suite (roomOfWord1 (wordAt t 1)))
    let bufs := g.edges.all (fun e =>
      let b := bitsOf (wordAt e 1) 48 8
      !bitOf b 7 || s.roomUsable suite (roomOfWord1 (bitsOf b 0 3 + bitsOf b 3 4 * 16)))
    let mem := streams.all (fun x => (List.range x.nmemb).all (fun m => s.roomUsable suite (x.member m)) && s.streamSourceOk x)
    if rooms && bufs && mem then stOk else stResource

/-- Place the tasks of a graph at the lowest free entries of their Rooms' dispatchers, in order; the places given. -/
def State.placeTasks (s : State) (suite : BitVec 8) (gen : BitVec 16) (graph base : Nat) :
    Nat → List (List W64) → Option (List (Nat × Nat)) × State
  | _, [] => (some [], s)
  | n, t :: ts =>
    let r := (roomOfWord1 (wordAt t 1)).getD ⟨0, 0⟩
    let k := wingOfRoom r
    let i := Table.freeFrom 0 (s.disp k).tasks
    if 65536 ≤ i then (none, s)
    else
      let task := newTask suite gen graph n (BitVec.ofNat 64 (base + 64 * n)) false t
      let s1 := s.updDisp k (fun d => { d with tasks := Table.set d.tasks i task })
      let q := State.placeTasks s1 suite gen graph base (n + 1) ts
      (q.1.map (fun l => (k.val, i) :: l), q.2)

/-- Place the edges of a graph: each at its consumer's dispatcher, or its producer's when the consumer is external; the
handles given (R196). -/
def State.placeEdges (s : State) (suite : BitVec 8) (gen : BitVec 16) (graph : Nat) (places : List (Nat × Nat)) :
    Nat → List (List W64) → Option (List Nat) × State
  | _, [] => (some [], s)
  | n, e :: es =>
    let w0 := wordAt e 0
    let w1 := wordAt e 1
    let prod := listAt places (bitsOf w0 0 20)
    let cons := listAt places (bitsOf w0 20 20)
    let wing := match cons, prod with | some c, _ => c.1 | none, some p => p.1 | none, none => 0
    let k : Fin 8 := Fin.ofNat 8 wing
    let i := Table.freeFrom 0 (s.disp k).edges
    if 131072 ≤ i then (none, s)
    else
      let cap := bitsOf w1 0 16
      let init := bitsOf w1 16 16
      let x : Edge :=
        { suite := suite, gen := gen, graph := graph, index := n, producer := prod, consumer := cons,
          isCount := bitsOf w0 40 2 = 1, capacity := cap, threshold := bitsOf w1 32 16, tokens := init, held := 0,
          credits := cap - init, bufRoom := BitVec.ofNat 8 (bitsOf w1 48 8), lostBuf := false }
      let h := wing * 2 ^ 17 + i
      let s1 := s.updDisp k (fun d => { d with edges := Table.set d.edges i x })
      let s2 := match cons with
        | some c => s1.updTask (Fin.ofNat 8 c.1) c.2 (fun t => { t with ins := t.ins ++ [h] })
        | none => s1
      let s3 := match prod with
        | some p => s2.updTask (Fin.ofNat 8 p.1) p.2 (fun t => { t with outs := t.outs ++ [h] })
        | none => s2
      let q := State.placeEdges s3 suite gen graph places (n + 1) es
      (q.1.map (fun l => h :: l), q.2)

/-- Place the streams of a graph at the dispatchers of their first members, and zero their slot words (R208, R209). -/
def State.placeStreams (s : State) (suite : BitVec 8) (gen : BitVec 16) (graph : Nat) :
    List (List W64) → Option (List (Nat × Nat)) × State
  | [] => (some [], s)
  | w :: ws =>
    let x := newStream suite gen graph w
    let k := wingOfRoom ((x.member 0).getD ⟨0, 0⟩)
    let i := Table.freeFrom 0 (s.disp k).streams
    if 256 ≤ i then (none, s)
    else
      let s1 := s.updDisp k (fun d => { d with streams := Table.set d.streams i x })
      let s2 := x.members.foldl (fun t m => t.updRoom m.2 (fun r => r.put x.hdrOff (List.replicate (64 * x.nbuf) 0) false)) s1
      let q := State.placeStreams s2 suite gen graph ws
      (q.1.map (fun l => (k.val, i) :: l), q.2)

/-- The lowest free graph handle of a Suite, from 1. -/
def GSuite.freeHandle (g : GSuite) : Nat := Table.freeFrom 1 g.graphs

/-- SUBMIT carried out: the whole graph is installed or nothing is (R197, R479). -/
def State.runSubmit (suite : BitVec 8) (m : MailMsg) (s : State) : Nat × State :=
  if !mailPlain m false false false false then (stMalformed, s)
  else
    let gen := s.genOf suite
    let r := s.readGraph suite m.opa.toNat
    match r.1 with
    | none => (stResource, r.2)
    | some none => (stMalformed, r.2)
    | some (some g) =>
      let st := r.2.graphStatus suite gen g
      let h := (r.2.gsuite suite).freeHandle
      if st ≠ 0 then (st, r.2)
      else if 65535 < h then (stTableFull, r.2)
      else
        let a := r.2.placeTasks suite gen h (wordAt g.hdr 0) 0 g.tasks
        match a.1 with
        | none => (stTableFull, r.2)
        | some ps =>
          let b := a.2.placeEdges suite gen h ps 0 g.edges
          match b.1 with
          | none => (stTableFull, r.2)
          | some es =>
            let c := b.2.placeStreams suite gen h g.streams
            match c.1 with
            | none => (stTableFull, r.2)
            | some ss =>
              let t1 := c.2.gWrite suite (wordAt g.hdr 4) (ps.flatMap (fun p => leBytes 4 (p.2 + p.1 * 2 ^ 16)))
              let t2 := t1.2.gWrite suite (wordAt g.hdr 5) (es.flatMap (fun e => leBytes 4 e))
              if !(t1.1 && t2.1) then (stResource, r.2)
              else
                let s1 := t2.2.updGsuite suite (fun x =>
                  { x with graphs := Table.set x.graphs h { tasks := ps, edges := es, streams := ss, ended := false },
                           stalled := false })
                (stOk, s1.note (s1.gsuite suite).leadWing suite 0x26 h 0 0 0 0)

/-- SUBMIT (R192, R197). -/
def execSubmit (suite : BitVec 8) (s : State) : Out := .next (s.mailCommand suite 1 (State.runSubmit suite))

/-! ## TOKEN and CREDIT (R192) -/

/-- The Room of an edge's buffers. -/
def Edge.buffers (e : Edge) : Option RoomId :=
  if bitOf e.bufRoom.toNat 7 then roomOfWord1 (bitsOf e.bufRoom.toNat 0 3 + bitsOf e.bufRoom.toNat 3 4 * 16) else none

/-- An edge of a Suite by its handle. -/
def State.suiteEdge (s : State) (suite : BitVec 8) (h : Nat) : Option Edge :=
  match s.edge h with
  | none => none
  | some e => if e.suite = suite && e.gen = s.genOf suite then some e else none

/-- TOKEN carried out: the payload is written and performed before the tokens are added (R192). -/
def State.runToken (suite : BitVec 8) (m : MailMsg) (s : State) : Nat × State :=
  let h := m.opa.toNat
  let n := m.opb.toNat
  let bytes := 64 * m.len.toNat
  let off := m.opc.toNat
  if !mailPlain m true true false true || 2 ^ 20 ≤ h || n = 0 || 65535 < n || off % 64 ≠ 0 || 48 * 2 ^ 20 < off + bytes then (stMalformed, s)
  else
    match s.suiteEdge suite h with
    | none => (stUnknown, s)
    | some e =>
      if e.producer ≠ none || (bytes ≠ 0 && e.buffers = none) then (stMalformed, s)
      else if s.graphEnded suite e.graph || e.lostBuf then (stState, s)
      else if !e.isCount && e.capacity < e.tokens + e.held + n then (stCap, s)
      else
        let s1 := match e.buffers with
          | some r => if bytes = 0 then s else s.roomWrite r off m.payload false
          | none => s
        let s2 := s1.addTokens h n
        (stOk, if e.isCount then s2 else s2.updEdge h (fun x => { x with credits := x.credits - n }))

/-- TOKEN. -/
def execToken (suite : BitVec 8) (s : State) : Out := .next (s.mailCommand suite 2 (State.runToken suite))

/-- CREDIT carried out: credits return on an edge whose consumer is external (R192); beyond CAPACITY is refused. -/
def State.runCredit (suite : BitVec 8) (m : MailMsg) (s : State) : Nat × State :=
  let h := m.opa.toNat
  let n := m.opb.toNat
  if !mailPlain m true false false false || 2 ^ 20 ≤ h || n = 0 || 65535 < n then (stMalformed, s)
  else
    match s.suiteEdge suite h with
    | none => (stUnknown, s)
    | some e =>
      if e.consumer ≠ none then (stMalformed, s)
      else if s.graphEnded suite e.graph then (stState, s)
      else if e.capacity < e.credits + n then (stCap, s)
      else (stOk, s.addCredits h n)

/-- CREDIT. -/
def execCredit (suite : BitVec 8) (s : State) : Out := .next (s.mailCommand suite 3 (State.runCredit suite))

/-! ## Sequence contexts (R213, R214) -/

/-- A context from the eight words of its table entry. -/
def ctxOf (ws : List W64) : Ctx :=
  let w := wordAt ws
  { kvBase := listGet 0 ws 0, pos := bitsOf (w 1) 0 32, kvLimit := bitsOf (w 1) 32 32, spilled := bitsOf (w 2) 0 32,
    hotCap := bitsOf (w 2) 32 8, spillTok := bitsOf (w 2) 40 8, segs := bitsOf (w 2) 48 8 + 1,
    parts := [BitVec.ofNat 32 (w 3), BitVec.ofNat 32 (w 3 / 2 ^ 32), BitVec.ofNat 32 (w 4), BitVec.ofNat 32 (w 4 / 2 ^ 32)],
    segUnits := bitsOf (w 5) 0 10, state := 1, spillBusy := false, users := 0, retiring := false }

/-- The form checks of ADMIT on an entry (R213, R214). -/
def ctxFormOk (ws : List W64) (c : Ctx) : Bool :=
  c.kvBase.toNat % 2 ^ 21 = 0 && decide (2 ≤ c.hotCap) && decide (1 ≤ c.spillTok) && decide (c.spillTok ≤ c.hotCap)
    && bitsOf (wordAt ws 2) 56 8 = 0 && decide (1 ≤ c.segUnits) && bitsOf (wordAt ws 5) 10 6 = 0 && bitsOf (wordAt ws 5) 19 45 = 0
    && (c.spillTok * c.segBytes) % 2048 = 0 && decide (c.spilled ≤ c.pos) && decide (c.pos - c.spilled ≤ c.hotCap)
    && c.parts.all (fun p => bitsOf p.toNat 27 5 = 0)

/-- The numbers of the 2 MiB pages that n bytes from an address touch. -/
def pageSpan (a n : Nat) : List Nat :=
  if n = 0 then [] else (List.range ((a + n - 1) / 2 ^ 21 - a / 2 ^ 21 + 1)).map (fun i => a / 2 ^ 21 + i)

/-- The resource checks of ADMIT on an entry: its parts' Rooms and rings, and the region of its cache (R214, R479). -/
def State.ctxResourceOk (s : State) (suite : BitVec 8) (c : Ctx) : Bool :=
  let ringBytes := c.hotCap * c.segs * c.segBytes
  let parts := (List.range 4).all (fun p =>
    let w := (listGet 0 c.parts p).toNat
    !bitOf w 7 || (s.roomUsable suite (roomOfWord1 (bitsOf w 0 3 + bitsOf w 3 4 * 16))
      && decide (bitsOf w 8 19 * 128 + ringBytes ≤ 48 * 2 ^ 20)))
  let part := c.segs * c.kvLimit * c.segBytes
  let kv := (List.range 4).all (fun p => !bitOf (listGet 0 c.parts p).toNat 7
    || (pageSpan (c.kvBase.toNat + p * part) part).all (fun i =>
      match s.regionOf suite (i * 2 ^ 21) with
      | some r => graphAllows true r
      | none => false))
  parts && kv

/-- Read the entries of ADMIT in order: each context, or the first failing status. -/
def State.readCtxs (s : State) (suite : BitVec 8) : List Nat → (Nat ⊕ List (Nat × Ctx)) × State
  | [] => (.inr [], s)
  | i :: is_ =>
    let g := s.gsuite suite
    if bitsOf g.ctxReg.toNat 0 11 ≤ i then (.inl stQuota, s)
    else
      let r := s.gRead suite (bitsOf g.ctxReg.toNat 12 52 * 4096 + 64 * i) 64
      match r.1 with
      | none => (.inl stResource, r.2)
      | some bs =>
        let ws := wordsOf bs
        let c := ctxOf ws
        if (Table.find g.ctxs i).isSome || bitsOf (wordAt ws 5) 16 2 ≠ 0 then (.inl stState, r.2)
        else if !ctxFormOk ws c then (.inl stMalformed, r.2)
        else if !r.2.ctxResourceOk suite c then (.inl stResource, r.2)
        else
          let q := State.readCtxs r.2 suite is_
          match q.1 with
          | .inl st => (.inl st, q.2)
          | .inr l => (.inr ((i, c) :: l), q.2)

/-- The indices a command names. -/
def mailIndices (m : MailMsg) : List Nat := (List.range m.opb.toNat).map (fun i => m.opa.toNat + i)

/-- The operands of ADMIT and RETIRE are in range. -/
def mailIndicesOk (m : MailMsg) : Bool :=
  mailPlain m true false false false && decide (1 ≤ m.opb.toNat) && decide (m.opb.toNat ≤ 1024)

/-- ADMIT carried out: the entries become ACTIVE, all or none (R214). -/
def State.runAdmit (suite : BitVec 8) (m : MailMsg) (s : State) : Nat × State :=
  if !mailIndicesOk m then (stMalformed, s)
  else
    let r := s.readCtxs suite (mailIndices m)
    match r.1 with
    | .inl st => (st, r.2)
    | .inr l =>
      let s1 := r.2.updGsuite suite (fun g => { g with ctxs := l.foldl (fun t e => Table.set t e.1 e.2) g.ctxs })
      (stOk, l.foldl (fun t e => t.publishCtx suite e.1 false) s1)

/-- ADMIT. -/
def execAdmitCtxs (suite : BitVec 8) (s : State) : Out := .next (s.mailCommand suite 4 (State.runAdmit suite))

/-- No firing names the contexts and no spill of theirs runs. -/
def GSuite.ctxsQuiet (g : GSuite) (is_ : List Nat) : Bool :=
  is_.all (fun i => match Table.find g.ctxs i with
    | some c => c.users = 0 && !c.spillBusy
    | none => true)

/-- Write the final words of contexts with STATE FREE and drop them (R214). -/
def State.finishRetire (s : State) (suite : BitVec 8) (is_ : List Nat) : State :=
  is_.foldl (fun t i => (t.publishCtx suite i true).updGsuite suite (fun g => { g with ctxs := Table.erase g.ctxs i })) s

/-- The status of a RETIRE before it waits (R214): an index that is not resident is in the wrong state. -/
def State.retireStatus (s : State) (suite : BitVec 8) (m : MailMsg) : Nat :=
  let g := s.gsuite suite
  if !mailIndicesOk m then stMalformed
  else if (mailIndices m).any (fun i => bitsOf g.ctxReg.toNat 0 11 ≤ i) then stQuota
  else if (mailIndices m).any (fun i => (Table.find g.ctxs i).isNone) then stState
  else stOk

/-- RETIRE: the contexts are retired once nothing runs on them; until then the command stays at the head of the slot
(R189, R214). -/
def execRetire (suite : BitVec 8) (s : State) : Out :=
  match (s.gsuite suite).mail with
  | [] => .next s
  | (_, m) :: _ =>
    let st := s.retireStatus suite m
    if m.cmd.toNat = 5 && st = 0 && !(s.gsuite suite).ctxsQuiet (mailIndices m) then
      .next ((mailIndices m).foldl (fun t i => t.updCtx suite i (fun c => { c with retiring := true })) s)
    else .next (s.mailCommand suite 5 (fun _ t => (st, if st = 0 then t.finishRetire suite (mailIndices m) else t)))

/-- RETIRE_COMPLETE: firings and spills of the contexts of a waiting RETIRE have ended; their final words are written with
STATE FREE (R214). -/
def execRetireComplete (suite : BitVec 8) (s : State) : Out :=
  match (s.gsuite suite).mail with
  | [] => .next s
  | (_, m) :: _ =>
    let waiting := m.cmd.toNat = 5 && (mailIndices m).all (fun i => match Table.find (s.gsuite suite).ctxs i with
      | some c => c.retiring
      | none => false)
    if waiting && (s.gsuite suite).ctxsQuiet (mailIndices m) then
      .next (s.mailCommand suite 5 (fun _ t => (stOk, t.finishRetire suite (mailIndices m))))
    else .next s

/-! ## END, RESUBMIT, ORDER (R204, R217, R220) -/

/-- END carried out: no new firing starts; with none in flight the graph is over at once (R204). -/
def State.runEnd (suite : BitVec 8) (m : MailMsg) (s : State) : Nat × State :=
  let h := m.opa.toNat
  if !mailPlain m false false false false then (stMalformed, s)
  else
    match Table.find (s.gsuite suite).graphs h with
    | none => (stUnknown, s)
    | some g =>
      if g.ended then (stState, s)
      else
        let s1 := s.updGsuite suite (fun x => { x with graphs := Table.set x.graphs h { g with ended := true } })
        (stOk, s1.graphCheck suite h)

/-- END. -/
def execEndGraph (suite : BitVec 8) (s : State) : Out := .next (s.mailCommand suite 6 (State.runEnd suite))

/-- Rebind an edge of a resubmitted task whose buffers were in a lost Room to the new Room (R220). -/
def State.rebind (s : State) (h : Nat) (r : RoomId) : State :=
  s.updEdge h (fun e =>
    let old := e.buffers
    if (match old with | some x => (s.room x).lost | none => false) then
      { e with bufRoom := BitVec.ofNat 8 (r.row.val + r.col.val * 8 + 128), lostBuf := false }
    else e)

/-- RESUBMIT carried out (R220). -/
def State.runResubmit (suite : BitVec 8) (m : MailMsg) (s : State) : Nat × State :=
  let w1 := m.opc.toNat
  if !mailPlain m true true true false || 2 ^ 32 ≤ m.opd.toNat || !word1Ok w1 || bitsOf w1 32 21 ≠ 0 then (stMalformed, s)
  else
    match Table.find (s.gsuite suite).graphs m.opa.toNat with
    | none => (stUnknown, s)
    | some g =>
      match listAt g.tasks m.opb.toNat with
      | none => (stUnknown, s)
      | some (w, i) =>
        let k : Fin 8 := Fin.ofNat 8 w
        match s.task k i with
        | none => (stUnknown, s)
        | some t =>
          if t.state ≠ .lost || g.ended then (stState, s)
          else
            match roomOfWord1 w1 with
            | none => (stResource, s)
            | some r =>
              if !s.roomUsable suite (some r) then (stResource, s)
              else
                let s1 := s.updTask k i (fun x =>
                  { x with word1 := m.opc, state := .idle, refire := m.opd.toNat, tried := [], restarted := false, avoid := none })
                (stOk, (t.ins ++ t.outs).foldl (fun y h => y.rebind h r) s1)

/-- RESUBMIT. -/
def execResubmit (suite : BitVec 8) (s : State) : Out := .next (s.mailCommand suite 7 (State.runResubmit suite))

/-- ORDER carried out: values are appended to the Wing's order list, all or none (R217). -/
def State.runOrder (suite : BitVec 8) (m : MailMsg) (s : State) : Nat × State :=
  let w := m.opa.toNat
  let n := m.opc.toNat
  if !mailPlain m true true false false || 8 ≤ w || n = 0 || 65536 < n then (stMalformed, s)
  else if !(s.gsuite suite).hostOrder then (stState, s)
  else if !s.hearth.wingIn.getLsbD w then (stResource, s)
  else
    let k : Fin 8 := Fin.ofNat 8 w
    let r := s.gRead suite m.opb.toNat (2 * n)
    match r.1 with
    | none => (stResource, r.2)
    | some bs =>
      let vs := (List.range n).map (fun i => leNat ((bs.drop (2 * i)).take 2))
      let mine := fun (i : Nat) => match s.task k i with | some t => t.suite = suite | none => false
      let now := r.2.orderList suite k
      if !vs.all mine then (stUnknown, r.2)
      else if 65536 < now.length + n then (stTableFull, r.2)
      else (stOk, r.2.updGsuite suite (fun g => { g with orders := Table.set g.orders w (now ++ vs) }))

/-- ORDER. -/
def execOrder (suite : BitVec 8) (s : State) : Out := .next (s.mailCommand suite 8 (State.runOrder suite))

end Sys2Proof.Machine
end

