-- ==== Sys2Proof/Machine/RoomDma.lean ====
section
/-! DEFINITION. Room DMA (R171 to R175): the descriptor, its checks, its blocks, reads and writes, their ends; and the
store of a `REL` (R105). -/

namespace Sys2Proof.Machine

/-! ## The descriptor (R171) -/

/-- The four words of a Room DMA descriptor. -/
structure DmaText where
  src  : Nat
  dst  : Nat
  w2   : Nat
  w3   : Nat
deriving DecidableEq, Repr

/-- Bytes per row. -/
def DmaText.rowLen (d : DmaText) : Nat := bitsOf d.w2 0 26
/-- Rows. -/
def DmaText.rows (d : DmaText) : Nat := bitsOf d.w2 26 16 + 1
/-- SRC_SP. -/
def DmaText.srcSp (d : DmaText) : Nat := bitsOf d.w2 42 2
/-- DST_SP. -/
def DmaText.dstSp (d : DmaText) : Nat := bitsOf d.w2 44 2
/-- SRC_RROW and SRC_RCOL. -/
def DmaText.srcRoom (d : DmaText) : Nat × Nat := (bitsOf d.w2 46 3, bitsOf d.w2 49 4)
/-- DST_RROW and DST_RCOL. -/
def DmaText.dstRoom (d : DmaText) : Nat × Nat := (bitsOf d.w2 53 3, bitsOf d.w2 56 4)
/-- FILL. -/
def DmaText.fill (d : DmaText) : Bool := bitOf d.w2 60
/-- A signed 32-bit stride. -/
def strideOf (v : Nat) : Int := (BitVec.ofNat 32 v).toInt
/-- SRC_STRIDE. -/
def DmaText.srcStride (d : DmaText) : Int := strideOf (bitsOf d.w3 0 32)
/-- DST_STRIDE. -/
def DmaText.dstStride (d : DmaText) : Int := strideOf (bitsOf d.w3 32 32)

/-- The ILLEGAL checks of R172. -/
def DmaText.legal (d : DmaText) : Bool :=
  bitsOf d.w2 61 3 = 0 && d.srcSp ≠ 3 && d.dstSp ≠ 3 && (d.srcSp = 2 || d.srcRoom = (0, 0)) && (d.dstSp = 2 || d.dstRoom = (0, 0))
    && d.rowLen ≠ 0 && decide (d.rowLen * d.rows ≤ 2 ^ 26)
    && (!d.fill || (d.src = 0 && d.srcSp = 0 && d.srcRoom = (0, 0) && d.srcStride = 0))

/-- A Room of the grid. -/
def roomAt (p : Nat × Nat) : Option RoomId := if h : p.1 < 6 then some ⟨⟨p.1, h⟩, Fin.ofNat 16 p.2⟩ else none

/-- The Room whose memory a side lies in, for spaces 1 and 2. -/
def sideRoom (own : RoomId) (sp : Nat) (p : Nat × Nat) : Option RoomId := if sp = 1 then some own else if sp = 2 then roomAt p else none

/-- The pieces of a row by naturally aligned 64 B block (R145): offset in the row and length. -/
def blockPieces (a n : Nat) : List (Nat × Nat) :=
  (blocksOf a n).map (fun b =>
    let lo := max a (64 * b)
    (lo - a, min (a + n) (64 * b + 64) - lo))

/-- The blocks of one row of a Room-memory side. -/
def roomBlocks (r : RoomId) (a n pos : Nat) : List DmaBlock :=
  (blockPieces a n).map (fun p =>
    { room := some r, addr := a + p.1, va := BitVec.ofNat 64 (a + p.1), pos := pos + p.1, len := p.2, attr := .wbA })

/-- The blocks of one row of an external side, from its located pages (address, length, place). -/
def extBlocks (a pos : Nat) (ls : List (Nat × Nat × Located)) : List DmaBlock :=
  ls.flatMap (fun l => (blockPieces l.1 l.2.1).map (fun p =>
    { room := none, addr := l.2.2.pa + p.1, va := BitVec.ofNat 64 (l.1 + p.1), pos := pos + (l.1 + p.1 - a), len := p.2,
      attr := l.2.2.region.attr }))

/-- Translate the pages of a row in ascending order (R172 check 3): the pages, or TRANSLATION at the first that fails. -/
def State.dmaPages (s : State) (suite : BitVec 8) (store : Bool) :
    List (Nat × Nat) → Except GroupFault (List (Nat × Nat × Located)) × State
  | [] => (.ok [], s)
  | (va, n) :: rest =>
    let r := s.locate suite va store false
    match r.1 with
    | none => (parkWith .translation (BitVec.ofNat 64 va), r.2)
    | some l =>
      let q := State.dmaPages r.2 suite store rest
      match q.1 with
      | .error f => (.error f, q.2)
      | .ok ls => (.ok ((va, n, l) :: ls), q.2)

/-- Whether a region's kind stops a side of a transfer (R172): RED on either side, RO for a destination. -/
def dmaAttrBad (store : Bool) (a : Attr) : Bool := a = .red || (store && a = .ro)

/-- The page that a located address lies in: its first address and its SIZE code. -/
def pageOf (va : Nat) (l : Located) : Nat × Nat := (bitsOf va 0 48 / xlatBytes l.size * xlatBytes l.size, l.size)

/-- The checks of one side of one row, its blocks and the pages they pin (R172). -/
def State.dmaSide (s : State) (suite : BitVec 8) (room : Option RoomId) (store : Bool) (a n pos : Nat) :
    Except GroupFault (List DmaBlock × List (Nat × Nat)) × State :=
  match room with
  | some r =>
    if 48 * 2 ^ 20 < a + n then (parkWith .region (BitVec.ofNat 64 (max a (48 * 2 ^ 20))), s) else (.ok (roomBlocks r a n pos, []), s)
  | none =>
    let q := s.dmaPages suite store (pagePieces a n)
    match q.1 with
    | .error f => (.error f, q.2)
    | .ok ls =>
      match ls.find? (fun l => dmaAttrBad store l.2.2.region.attr) with
      | some l => (parkWith .region (BitVec.ofNat 64 l.1), q.2)
      | none => (.ok (extBlocks a pos ls, ls.map (fun l => pageOf l.1 l.2.2)), q.2)

/-- Sources, destinations and pages of a transfer, or the first failing check in row order. -/
abbrev DmaPlan := Except GroupFault (List DmaBlock × List DmaBlock × List (Nat × Nat))

/-- The rows of a transfer checked in ascending order, source before destination (R172). -/
def State.dmaRows (s : State) (suite : BitVec 8) (own : RoomId) (d : DmaText) : DmaPlan × State :=
  (List.range d.rows).foldl (fun (acc : DmaPlan × State) (i : Nat) =>
    match acc.1 with
    | .error f => (.error f, acc.2)
    | .ok (ss, ds, ps) =>
      let sa := addr64 (d.src + i * d.srcStride)
      let da := addr64 (d.dst + i * d.dstStride)
      let a := if d.fill then (.ok ([], []), acc.2)
        else acc.2.dmaSide suite (sideRoom own d.srcSp d.srcRoom) false sa d.rowLen (i * d.rowLen)
      match a.1 with
      | .error f => (.error f, a.2)
      | .ok (sb, sp) =>
        let b := a.2.dmaSide suite (sideRoom own d.dstSp d.dstRoom) true da d.rowLen (i * d.rowLen)
        match b.1 with
        | .error f => (.error f, b.2)
        | .ok (db, dp) => (.ok (ss ++ sb, ds ++ db, ps ++ sp ++ dp), b.2)) (.ok ([], [], []), s)

/-- Whether a Room named by SRC_SP or DST_SP = 2 lies in the Suite's rectangle. -/
def State.dmaRoomOk (s : State) (suite : BitVec 8) (sp : Nat) (p : Nat × Nat) : Bool :=
  sp ≠ 2 || (match roomAt p with | none => false | some r => s.inRect suite r)

/-- Every check of R172 in its order. -/
def State.dmaPlan (s : State) (suite : BitVec 8) (own : RoomId) (d : DmaText) : DmaPlan × State :=
  if !d.legal then (parkWith .illegal 0, s)
  else if !s.dmaRoomOk suite d.srcSp d.srcRoom then (parkWith .region (BitVec.ofNat 64 d.src), s)
  else if !s.dmaRoomOk suite d.dstSp d.dstRoom then (parkWith .region (BitVec.ofNat 64 d.dst), s)
  else s.dmaRows suite own d

/-! ## DMAQ -/

/-- DMAQ: the descriptor in sRA to sRA + 3 is checked whole before anything is transferred (R93, R172); with 16
descriptors outstanding it is not ready. -/
def execDmaq (g : GroupRef) (w l : W64) (s : State) : Out :=
  let i : Insn := ⟨w.toNat, l.toNat⟩
  let legal := fun (i : Insn) => i.okR 0 60 0 15 && i.ra % 4 = 0 && (bitOf i.fn 3 || i.fn = 0)
  let full := decide (16 ≤ (s.core g.core).dma.length)
  if full && (s.slot g).fetchOk i.units.toNat && assignedOpcode (i.bits 0 8) && legal i then .next s
  else
    .next (s.issue g w l (fun i _ => legal i)
      (fun i _ => { engine := .dma, reads := (List.range 4).map (fun n => .sreg (i.ra + n)), writes := [], part := false })
      (fun i sl nx st =>
        let d : DmaText :=
          { src := (sl.sreg i.ra).toNat, dst := (sl.sreg (i.ra + 1)).toNat, w2 := (sl.sreg (i.ra + 2)).toNat,
            w3 := (sl.sreg (i.ra + 3)).toNat }
        let p := st.dmaPlan sl.suite g.core.room d
        match p.1 with
        | .error f => (.error f, p.2)
        | .ok (srcs, dsts, pages) =>
          let (op, s1) := p.2.takeOp g.core
          let desc : DmaDesc :=
            { id := op, g := g, pages := pages, srcs := srcs, dsts := dsts, got := [], sent := [], ended := [], began := false }
          let s2 := s1.updCore g.core (fun c => { c with dma := c.dma ++ [desc] })
          let tok : Option (Fin 8) := if bitOf i.fn 3 then some (Fin.ofNat 8 i.fn) else none
          let o := { MemOp.blank op .dma with open_ := dsts.length, token := tok }
          (.ok { nx with ops := nx.ops ++ [o] }, s2.startDma g.core)))

/-! ## Ends of DMA requests (R174) -/

/-- The requests of one core's DMA engine. -/
def dmaOwner (c : CoreId) : Owner → Option (GroupRef × Nat × Nat)
  | .dma g op n => if g.core = c then some (g, op, n) else none
  | .group _ _ => none
  | .hart _ => none
  | .window _ _ => none

/-- DMA_READ_RETURN: data of a source block has come back; every destination block now complete is sent, marked poisoned
where a source block was poisoned or failed (R174). -/
def execDmaReadReturn (c : CoreId) (req : Nat) (s : State) : Out :=
  match Table.find s.reqs req with
  | none => .next s
  | some r =>
    match dmaOwner c r.owner with
    | none => .next s
    | some (g, op, n) =>
      if r.kind ≠ .read || r.stage ≠ .answered || r.back || r.gone then .next s
      else
        let s1 := (s.dropReq req).updDesc c op (fun d => { d with got := d.got ++ [(n, r.answer, r.poison || r.failed)] })
        .next ((s1.sendReady g op).startDma c)

/-- DMA_WRITE_ACK: a destination write is acknowledged; with the last one the descriptor is complete and its token can be
signalled (R174, R102). -/
def execDmaWriteAck (c : CoreId) (req : Nat) (s : State) : Out :=
  match Table.find s.reqs req with
  | none => .next s
  | some r =>
    match dmaOwner c r.owner with
    | none => .next s
    | some (g, op, n) =>
      if r.kind ≠ .write || r.stage ≠ .answered || r.back || r.gone then .next s
      else .next ((s.dropReq req).dmaWriteEnded g op n)

/-- A DMA write that its bank or home has taken: it is performed (R150), and losing its acknowledgement drops nothing, unless
the answer is discarded under R179 (log 183). -/
def Req.applied (r : Req) : Bool := r.kind = .write && r.stage = .answered && !r.gone

/-- DMA_REQUEST_TIMEOUT: a read or write that crosses to another Room, or goes to a DEV region, unanswered for 2^22
requester-fabric cycles, fails: a poisoned source block, or a dropped write (R33, R174, R421). -/
def execDmaRequestTimeout (c : CoreId) (req : Nat) (s : State) : Out :=
  match Table.find s.reqs req with
  | none => .next s
  | some r =>
    match dmaOwner c r.owner with
    | none => .next s
    | some (g, op, n) =>
      let timed := r.attr = .dev || r.via.isSome || (match r.room with | some x => x != c.room | none => false)
      let answered := r.stage = .answered && !r.back && !r.gone
      let subject := match r.room with | some x => endpointId (.hall x) | none => 0
      if !timed || answered then .next s
      else if r.kind = .read then .next (s.failRead req true 0 subject)
      else if r.applied then .next ((s.dropReq req).dmaWriteEnded g op n)
      else .next (s.dropWrite req 0 subject)

/-! ## REL (R105) -/

/-- REL_STORE_ISSUE: every earlier access of the group has been performed, and the store goes out as one access (R105). -/
def execRelStoreIssue (g : GroupRef) (s : State) : Out :=
  let sl := s.slot g
  match sl.wait with
  | .rel space1 addr va data attr token =>
    if sl.outstanding false 15 ≠ [] then .next s
    else
      let (op, s1) := s.takeOp g.core
      let t : Target := { room := if space1 then some g.core.room else none, addr := addr, attr := attr, region := none }
      let (rs, s2) := s1.makeReqs g sl op .write data.length (fun x => { x with data := data }) [(0, va.toNat, t)]
      let o := { MemOp.blank op .scalar with size := data.length, token := token, open_ := rs.length }
      let s3 := s2.updSlot g (fun x => { x with wait := .none, ops := x.ops ++ [o] })
      .next (s3.addReqs rs)
  | _ => .next s

end Sys2Proof.Machine
end

