-- ==== Sys2Proof/Machine/RoomMem.lean ====
section
/-! DEFINITION. The Hall and its banks (R166 to R170), the Room mesh (R176 to R180), rectangles and wipes (R170, R178,
R185), and the losses of Rooms and routers (R425, R426). -/

namespace Sys2Proof.Machine

/-- The packet's Suite and generation are those of a Room's ROOM_RECT (R179). -/
def Room.accepts (x : Room) (q : Req) : Bool := x.ownerSuite = some (q.suite, q.gen)

/-- Count a packet discarded under R179; only its timeout ends it. -/
def State.discardPacket (s : State) (r : RoomId) (req : Nat) : State :=
  (s.updRoom r (fun x => { x with discard := sat16 x.discard 1 })).updReq req (fun q => { q with gone := true })

/-- An answered request goes home: at once within the Room, over the mesh to another Room's requester (R177). What a remote
Hall has read for a transfer with external memory stays there until it is written. -/
def State.answerReq (s : State) (req : Nat) (r : RoomId) (f : Req → Req) : State :=
  s.arrive req (fun q =>
    let far := (match q.owner with | .dma g _ _ => g.core.room != r | _ => false) && (q.via.isNone || q.kind = .write)
    { f q with stage := .answered, back := far, router := if far then some r else none, inPort := 4 })

/-- A read granted by a bank. -/
def State.roomReadGrant (s : State) (r : RoomId) (req : Nat) (q : Req) : State :=
  let d := s.roomRead r q.addr q.size
  s.answerReq req r (fun x => { x with answer := d.1, poison := d.2 })

/-- A write granted by a bank: performed at its serialising point (R150); a Room DMA write still has its acknowledgement
to come. -/
def State.roomWriteGrant (s : State) (r : RoomId) (req : Nat) (q : Req) : State :=
  let s1 := s.roomWrite r q.addr q.data q.mark
  match q.owner with
  | .group g op => s1.performed req g op
  | _ => s1.answerReq req r (fun x => x)

/-- An atomic granted by a bank: its contributions in one step (R71); a poisoned word is not updated (R419). -/
def State.roomAtomGrant (s : State) (r : RoomId) (req : Nat) (q : Req) : State :=
  let d := s.roomRead r q.addr q.size
  let s1 := if d.2 then s.updReq req (fun x => { x with stage := .answered, poison := true })
    else
      let a := atomRun q.atomFn.toNat q.size (leNat d.1) q.contrib
      (s.roomWrite r q.addr (leBytes q.size a.2) false).updReq req (fun x => { x with stage := .answered, answer := packOlds a.1 })
  match q.owner with
  | .group g op => s1.updSlot g (fun x => x.onePerformed op)
  | _ => s1

/-- Whether it is a lane's turn at a bank (R167): among the lanes that hold a request for the bank, it is the first from the
bank's pointer on. -/
def State.bankTurn (s : State) (r : RoomId) (bank lane : Nat) : Bool :=
  let far := fun (l : Nat) => (l + 16 - Table.get 0 (s.room r).bankPtr bank) % 16
  (List.range 16).all (fun l => decide (far lane ≤ far l)
    || (match s.laneHead r l with | some (k, q) => roomBank q.addr ≠ bank || !s.mayServe k q | none => true))

/-- A bank grants a request of its lane: the pointer moves past the lane, the code is checked (R167, R169), and the access is
carried out; nothing more where the errors found have lost the Room. -/
def State.bankGrant (s : State) (r : RoomId) (req : Nat) (q : Req) (ecc : Ecc) : State :=
  let s1 := (s.grantLane r (roomBank q.addr) q.lane).roomEcc r q.addr q.size ecc
  if (s1.room r).lost then s1
  else
    match q.kind with
    | .read => s1.roomReadGrant r req q
    | .write => s1.roomWriteGrant r req q
    | .atomic => s1.roomAtomGrant r req q
    | .red => s1

/-- ROOM_MEMORY_ACCESS: a bank of the Hall grants a request (R167, R168). Nothing is granted during a wipe (R170); a
lost Room's Hall refuses (R174); a packet of another Suite or generation is discarded (R179); a code error is corrected,
retried or poisons its block (R169). -/
def execRoomMemoryAccess (r : RoomId) (req : Nat) (ecc : Ecc) (s : State) : Out :=
  match Table.find s.reqs req with
  | none => .next s
  | some q =>
    if q.room ≠ some r || !q.waiting || q.router ≠ none then .next s
    else
      let room := s.room r
      let far := match q.owner with | .dma g _ _ => g.core.room != r | _ => false
      if room.lost then .next (s.refuse req 1 (endpointId (.hall r)))
      else if room.wiping || !s.mayServe req q || !s.bankTurn r (roomBank q.addr) q.lane then .next s
      else if far && !room.accepts q then .next (s.discardPacket r req)
      else .next (s.bankGrant r req q ecc)

/-! ## The mesh (R176 to R179) -/

/-- The next Room of a packet, row first (R177), and the port it leaves by (0 row − 1, 1 column + 1, 2 row + 1, 3
column − 1). -/
def nextHop (at_ dst : RoomId) : RoomId × Nat :=
  if at_.col.val < dst.col.val then (⟨at_.row, Fin.ofNat 16 (at_.col.val + 1)⟩, 1)
  else if dst.col.val < at_.col.val then (⟨at_.row, Fin.ofNat 16 (at_.col.val - 1)⟩, 3)
  else if at_.row.val < dst.row.val then (⟨Fin.ofNat 6 (at_.row.val + 1), at_.col⟩, 2)
  else (⟨Fin.ofNat 6 (at_.row.val - 1), at_.col⟩, 0)

/-- Where a packet is bound: the Room whose Hall is to serve it, or, on its way back, its requester's. -/
def Req.bound (q : Req) : Option RoomId :=
  if q.back then (match q.owner with | .dma g _ _ => some g.core.room | _ => none)
  else match q.via with | some v => some v | none => q.room

/-- Whether the link from a Room by a port is in service. -/
def Room.portUp (x : Room) (port : Nat) : Bool := x.portsUp.getLsbD port

/-- The Room next to a Room in a direction, if there is one. -/
def neighbour (r : RoomId) (dir : Nat) : Option RoomId :=
  match dir with
  | 0 => if r.row.val = 0 then none else some ⟨Fin.ofNat 6 (r.row.val - 1), r.col⟩
  | 1 => if r.col.val = 15 then none else some ⟨r.row, Fin.ofNat 16 (r.col.val + 1)⟩
  | 2 => if r.row.val = 5 then none else some ⟨Fin.ofNat 6 (r.row.val + 1), r.col⟩
  | _ => if r.col.val = 0 then none else some ⟨r.row, Fin.ofNat 16 (r.col.val - 1)⟩

/-- Whether a router has a port open: its link is in service and leads to another Room of the rectangle (R178). -/
def State.portOpen (s : State) (r : RoomId) (dir : Nat) : Bool :=
  match neighbour r dir with
  | none => false
  | some m => (s.room r).portUp dir && bitOf (s.room r).rect.toNat 40 && (s.room m).rect = (s.room r).rect

/-- The output that a packet for a Room takes at a router: 0 to 3 as PORTS_UP, 4 the Hall. -/
def meshOutput (r dst : RoomId) : Nat := if r = dst then 4 else (nextHop r dst).2

/-- Whether a packet is next at its output: no packet of its channel came in before it by the same input, and no other input
that holds a packet for the output is before its own, in round-robin order from the output's pointer (R176, R177). -/
def State.meshTurn (s : State) (r dst : RoomId) (q : Req) : Bool :=
  let out := meshOutput r dst
  let far := fun (i : Nat) => (i + 5 - Table.get 0 (s.room r).outPtr out) % 5
  !s.reqs.any (fun e => e.2.router = some r && !e.2.gone
    && (match e.2.bound with | some d => meshOutput r d = out | none => false)
    && (if e.2.inPort = q.inPort then e.2.back = q.back && decide (e.2.seq < q.seq) else decide (far e.2.inPort < far q.inPort)))

/-- MESH_PACKET_FORWARD: a router takes a packet; one that does not match ROOM_RECT is discarded and counted (R179), else
it leaves the mesh at its Room or goes one hop, row first, by an open port (R177, R178). Packets of one channel keep their
order, and an output serves its inputs in turn (R176). A packet stays where its router has failed or its port is closed. -/
def execMeshPacketForward (req : Nat) (s : State) : Out :=
  match Table.find s.reqs req with
  | none => .next s
  | some q =>
    match q.router, q.bound with
    | some r, some dst =>
      let room := s.room r
      let out := meshOutput r dst
      if q.gone then .next s
      else if !room.accepts q then .next (s.discardPacket r req)
      else if !room.routerOk || !s.meshTurn r dst q || (r ≠ dst && !s.portOpen r out) then .next s
      else
        let s1 := s.updRoom r (fun x => { x with outPtr := Table.set x.outPtr out ((q.inPort + 1) % 5) })
        if r = dst then .next (s1.arrive req (fun x => { x with router := none, back := false }))
        else .next (s1.arrive req (fun x => { x with router := some (nextHop r dst).1, inPort := (out + 2) % 4 }))
    | _, _ => .next s

/-- The number of the Room-lane group that a Room's link in a direction uses (R16, R23). -/
def laneGroup (r : RoomId) (dir : Nat) : Nat :=
  if dir = 1 || dir = 3 then (if r.row.val < 3 then r.row.val else 5 - r.row.val) else r.col.val % 4

/-- Take a port of a Room in or out of service. -/
def Room.setPort (x : Room) (dir : Nat) (up : Bool) : Room :=
  { x with portsUp := if up then x.portsUp ||| BitVec.ofNat 4 (2 ^ dir) else x.portsUp &&& ~~~(BitVec.ofNat 4 (2 ^ dir)) }

/-- ROOM_LANE_BEAT: a beat arrives over a Room-lane group; a CRC failure is resent once and counted, a second takes the
group out of service at both ends, with a LINK_LASTING report (R176, R407). -/
def execRoomLaneBeat (r : RoomId) (dir : Fin 4) (crc : Crc) (s : State) : Out :=
  match neighbour r dir.val with
  | none => .next s
  | some n =>
    let a := wingOfRoom r
    let b := wingOfRoom n
    if a = b || !(s.room r).portUp dir.val then .next s
    else
      match crc with
      | .ok => .next s
      | .resent => .next (s.updRoom r (fun x => { x with laneRetry := sat16 x.laneRetry 1 }))
      | .failed =>
        let s1 := s.updRoom r (fun x => { x.setPort dir.val false with laneRetry := sat16 x.laneRetry 1 })
        let s2 := s1.updRoom n (fun x => x.setPort ((dir.val + 2) % 4) false)
        let lo := min a.val b.val
        let hi := max a.val b.val
        .next (s2.report (.hall r)
          { RasRep.zero with
            cause := 8, outcome := 5, subject := endpointId (.hall r), locA := 3,
            locB := BitVec.ofNat 32 (lo + 8 * hi + 64 * laneGroup r dir.val) })

/-- The Rooms a packet still has to pass, from where it stands. -/
def routeFrom (at_ dst : RoomId) : Nat → List RoomId
  | 0 => [at_]
  | n + 1 => if at_ = dst then [at_] else at_ :: routeFrom (nextHop at_ dst).1 dst n

/-- Room DMA whose route crosses a router is dropped with reason 1 (R426); a write already taken at its bank or home stays
performed (R150, log 183). -/
def State.dropCrossing (s : State) (r : RoomId) : State :=
  let crossing := s.reqs.filter (fun e => match e.2.router, e.2.bound with
    | some x, some d => (routeFrom x d 21).contains r
    | _, _ => false)
  crossing.foldl (fun t e => match e.2.owner with
    | .dma g op n => if e.2.applied then (t.dropReq e.1).dmaWriteEnded g op n else t.refuse e.1 1 (endpointId (.hall r))
    | _ => t.refuse e.1 1 (endpointId (.hall r))) s

/-- ROUTER_FAILURE: a router fails, breaks its links and takes its Room with it; the record of the router goes to the
Hearth, and Room DMA across it is dropped (R180, R425, R426). -/
def execRouterFailure (r : RoomId) (s : State) : Out :=
  if !s.on || !(s.room r).routerOk then .next s
  else
    let own := (s.room r).ownerSuite
    let s1 := s.updRoom r (fun x => { x with routerOk := false, portsUp := 0 })
    let cut := fun (t : State) (d : Nat) => match neighbour r d with
      | none => t
      | some n => t.updRoom n (fun x => x.setPort ((d + 2) % 4) false)
    let s2 := [0, 1, 2, 3].foldl cut s1
    let s3 := s2.reportLost (roomReporter r) 1 (roomKey r) 1 (endpointId (.hall r)) own
    .next ((s3.dropCrossing r).loseRoom r 0)

/-- HALL_FAILURE: a Stair lane, the Hall's internal check or the Room island's clock fails lastingly, and the Room is lost
(R14, R425, R478). -/
def execHallFailure (r : RoomId) (trigger : BitVec 8) (s : State) : Out :=
  if s.on && (trigger = 1 || trigger = 2 || trigger = 3) then .next (s.loseRoom r trigger.toNat) else .next s

/-! ## Rectangles and wipes (R170, R185) -/

/-- The bits of ROOM_RECT that hold something. -/
def roomRectMask : Nat := 0x1FFFFFFFF77

/-- A core that passes to or from a Suite: RW fields return to reset, counters clear, the read-only cache is empty (R82,
R160); it is powered exactly when its Room is owned (R405). -/
def Core.passed (x : Core) (owned : Bool) : Core :=
  { x with staleCmds := 0, corrected := 0, uncorr := 0, replayMode := false, rocEnable := false, rocClean := false,
           rocRefused := false, rocLines := [], reinstalled := [], powered := owned, powerWait := false }

/-- The wipe of R170 starts: barriers return to phase 0 (R111), and no request is granted until it ends. -/
def State.startWipe (s : State) (r : RoomId) : State :=
  s.updRoom r (fun x => { x with wiping := !x.lost, barriers := [] })

/-- The requests that a Hall holds, in the order it received them. -/
def State.hallHeld (s : State) (r : RoomId) : List Nat :=
  let held := s.reqs.filter (fun e => e.2.room = some r && e.2.waiting && e.2.router = none)
  (sortBy (fun a b => decide (a.2.seq < b.2.seq)) held).map (fun e => e.1)

/-- The Hall drains every request it holds: they are granted before the wipe (R170). -/
def State.drainHall (s : State) (r : RoomId) : State :=
  (s.hallHeld r).foldl (fun t k => match Table.find t.reqs k with
    | none => t
    | some q => if (t.room r).lost then t.refuse k 1 (endpointId (.hall r)) else t.bankGrant r k q .clean) s

/-- Write ROOM_RECT: the Hall drains what it holds, the Room and its cores start afresh, and the wipe starts (R170, R185). -/
def State.setRect (s : State) (r : RoomId) (value : W64) : State :=
  let owned := bitOf value.toNat 40
  let s1 := (s.drainHall r).updRoom r (fun x =>
    { x with rect := BitVec.ofNat 64 (value.toNat &&& roomRectMask), corrected := 0, transient := 0, poisoned := 0, discard := 0,
             laneRetry := 0, pwr := 32, bankPoison := [] })
  let s2 := (List.finRange 6).foldl (fun (t : State) (c : Fin 6) => t.updCore ⟨r, c⟩ (fun x => x.passed owned)) s1
  s2.startWipe r

/-- ROOM_RECT_WRITE: only the Hearth writes ROOM_RECT, of a quiesced Room: one none of whose cores holds a group (R185). -/
def execRoomRectWrite (agent : Agent) (r : RoomId) (value : W64) (s : State) : Out :=
  let quiet := (List.finRange 6).all (fun c => (s.core ⟨r, c⟩).resident == [])
  s.regCommand agent (.hall r) (agent = .hearth) (fun t => if quiet then t.setRect r value else t)

/-- ROOM_WIPE_COMPLETE: all 48 MiB read zero, every poison mark is gone, the bank pointers stand at lane 0, and requests
are granted again (R167, R170). -/
def execRoomWipeComplete (r : RoomId) (s : State) : Out :=
  if (s.room r).wiping then
    .next (s.updRoom r (fun x => { x with wiping := false, mem := [], poison := [], bankPtr := [] }))
  else .next s

/-! ## Fence commands (R433) -/

/-- Whether an agent may write the fault registers: Suite 0 and the Hearth (R433). -/
def suite0OrHearth (a : Agent) : Bool :=
  match a with
  | .hearth => true
  | .suite n => n = 0
  | .mmode _ => false
  | .bmc => false

/-- The Room and core of an endpoint identity of kind 0 (R183). -/
def coreOfId (v : Nat) : Option CoreId :=
  if bitsOf v 12 4 ≠ 0 || bitsOf v 10 2 ≠ 0 then none
  else
    match roomAt (bitsOf v 7 3, bitsOf v 3 4) with
    | none => none
    | some r => if h : bitsOf v 0 3 < 6 then some ⟨r, ⟨bitsOf v 0 3, h⟩⟩ else none

/-- The Room of an endpoint identity of kind 1 (R183). -/
def hallOfId (v : Nat) : Option RoomId :=
  if bitsOf v 12 4 ≠ 1 || bitsOf v 10 2 ≠ 0 || bitsOf v 0 3 ≠ 0 then none else roomAt (bitsOf v 7 3, bitsOf v 3 4)

/-- A WING_FENCE_CMD that is ignored and counted (R433). -/
def State.fenceIgnored (s : State) (wing : Fin 8) : State :=
  s.updWing wing (fun w => { w with ignored := BitVec.ofNat 8 (satAdd 8 w.ignored.toNat 1) })

/-- Carry out a WING_FENCE_CMD of kind 0 or 1 (R423, R425, R433). -/
def State.fenceCmd (s : State) (wing : Fin 8) (value : W64) : State :=
  let v := bitsOf value.toNat 0 16
  match coreOfId v, hallOfId v with
  | some c, _ => if wingOfRoom c.room ≠ wing || (s.core c).fenced then s.fenceIgnored wing else (s.fenceCore c 4).settleAll
  | none, some r => if wingOfRoom r ≠ wing || (s.room r).lost then s.fenceIgnored wing else s.loseRoom r 5
  | none, none => s.fenceIgnored wing

/-- WING_FENCE_CMD_CORE: a WING_FENCE_CMD naming a core (R423, R433). -/
def execWingFenceCmdCore (agent : Agent) (wing : Fin 8) (value : W64) (s : State) : Out :=
  s.regCommand agent (.cellar wing) (suite0OrHearth agent) (fun t => t.fenceCmd wing value)

/-- WING_FENCE_CMD_ROOM: a WING_FENCE_CMD naming a Hall (R425, R433). -/
def execWingFenceCmdRoom (agent : Agent) (wing : Fin 8) (value : W64) (s : State) : Out :=
  s.regCommand agent (.cellar wing) (suite0OrHearth agent) (fun t => t.fenceCmd wing value)

end Sys2Proof.Machine
end

