-- ==== Sys2Proof/Machine/Hart.lean ====
section
/-! DEFINITION. What a Parlour hart's access needs and does (R258 to R274): types of memory, exceptions, the die's caches,
and the completion of loads, stores, LR and AMOs. -/

namespace Sys2Proof.Machine

/-! ## Hart registers -/

/-- An integer register; x0 reads zero. -/
def Hart.reg (x : Hart) (n : Nat) : W64 := if n = 0 then 0 else Table.get 0 x.x n

/-- Write an integer register; x0 discards. -/
def Hart.setReg (x : Hart) (n : Nat) (v : W64) : Hart := if n = 0 then x else { x with x := Table.set x.x n v }

/-- The Suite tag of a hart's requests (R274). -/
def Hart.tag (x : Hart) : BitVec 8 := x.mxsuite.setWidth 8

/-- The generation of a hart's requests. -/
def Hart.gen (x : Hart) : BitVec 16 := (x.mxsuite >>> 8).setWidth 16

/-- The hart executes instructions. -/
def Hart.running (x : Hart) : Bool := x.started && !x.inReset

/-- The bytes of the register that a store names, from its lowest. -/
def Hart.storeBytes (x : Hart) (r : HartReg) (size : Nat) : List Byte :=
  match r with
  | .x n => leBytes size (x.reg n.val).toNat
  | .f n => leBytes size (Table.get 0 x.f n.val).toNat
  | .v n => leBytes size (Table.get 0 x.v n.val).toNat

/-- A load's register takes its value: an integer register by its sign, a floating-point one boxed in ones. -/
def Hart.loadBytes (x : Hart) (r : HartReg) (size : Nat) (signed : Bool) (bs : List Byte) : Hart :=
  match r with
  | .x n => x.setReg n.val (BitVec.ofNat 64 (loadValue size signed bs))
  | .f n => { x with f := Table.set x.f n.val (BitVec.ofNat 64 (2 ^ 64 - 2 ^ (8 * size) + leNat (bs.take size))) }
  | .v n => { x with v := Table.set x.v n.val (BitVec.ofNat 256 (leNat bs)) }

/-- The sizes of a register's loads and stores. A whole vector register moves as one access of 32 B (DESIGN CHOICE, log 190). -/
def hartSizeOk (r : HartReg) (n : Nat) : Bool :=
  match r with
  | .x _ => n = 1 || n = 2 || n = 4 || n = 8
  | .f _ => n = 2 || n = 4 || n = 8
  | .v _ => n = 32

/-- Vector instructions are off: mstatus.VS, or vsstatus.VS while V = 1 (R277). -/
def Hart.vsOff (x : Hart) : Bool :=
  x.mstatusVs = 0 || (x.virt && decide (bitsOf (Table.get 0 x.vscsr 0x200).toNat 9 2 = 0))

/-- An instruction that names integer register `n` waits while an MSEND has still to write it. -/
def Hart.owed (x : Hart) (n : Nat) : Bool :=
  match x.mail with
  | none => false
  | some m => n ≠ 0 && m.rd = n

/-- As `Hart.owed`, of any register. -/
def Hart.owedReg (x : Hart) (r : HartReg) : Bool :=
  match r with
  | .x n => x.owed n.val
  | _ => false

/-- Take an exception: the code and xtval are kept, and the reservation clears (R270). While an MSEND waits for its answer the trap
waits too (R278). -/
def State.hartTrap (s : State) (h : Fin 128) (code : Nat) (tval : W64) : State :=
  s.updHart h (fun x =>
    if x.mail.isSome then { x with lateTrap := some (code, tval), wait := .none }
    else { x with exc := some (code, tval), reserve := none, lrHold := false, wait := .none })

/-! ## CSRs (R47, R262, R272, R274, R279)

The numbers are those of the RISC-V specifications that R261 names (PRESUMED, log 191), but for mxsuite, sxerr and vsxerr, which R273
gives. -/

/-- The `time` CSR: the die's mtime, and a guest's with its htimedelta (R47). -/
def State.hartTime (s : State) (h : Fin 128) : W64 :=
  (s.parlour (parlourOf h)).mtime + (if (s.hart h).virt then (s.hart h).htimedelta else 0)

/-- Whether a privilege level (0 U, 1 S, 3 M; V apart) reaches a CSR: bits 9:8 of its number give the lowest level that does; a
hypervisor CSR (2) is one of S without V. -/
def csrReached (level : Nat) (virt : Bool) (num : Nat) : Bool :=
  match bitsOf num 8 2 with
  | 2 => level = 3 || (level = 1 && !virt)
  | l => decide (l ≤ level)

/-- Read a CSR; none where the access is illegal. -/
def State.csrRead (s : State) (h : Fin 128) (level num : Nat) : Option W64 :=
  let x := s.hart h
  if !csrReached level x.virt num then none
  else if num = 0x7C0 then some x.mxsuite
  else if num = 0x5C0 then some (if x.virt then x.vsxerr else x.sxerr).toNat
  else if num = 0x6C0 then some x.vsxerr.toNat
  else if num = 0xC01 then some (s.hartTime h)
  else if num = 0x605 then some x.htimedelta
  else if num = 0xF11 then some 0
  else if num = 0xF12 then some 0x8000000000000008
  else if num = 0xF13 then some ((Config.plrRev (parlourOf h).val).setWidth 64)
  else if num = 0xF14 then some (BitVec.ofNat 64 h.val)
  else if num = 0x301 then some (Table.get 0 x.csr num &&& 0x3FFFFFFFFFFFFFFF ||| 0x8000000000000000)
  else if bitsOf num 8 4 = 2 then some (Table.get 0 x.vscsr num)
  else some (Table.get 0 x.csr num)

/-- The value a CSR of R262 takes when one is written: satp and hgatp keep theirs where the MODE is not supported, with ASIDLEN 16 and
VMIDLEN 14; the low bits of a PMP address that lie under 4 KiB read as zero; MXL does not change. -/
def csrLegal (num : Nat) (old new : W64) : W64 :=
  let mode := bitsOf new.toNat 60 4
  let ok := mode = 0 || mode = 8 || mode = 9 || mode = 10
  if num = 0x180 || num = 0x280 then (if ok then new else old)
  else if num = 0x680 then (if ok then new &&& ~~~0x0C00000000000000 else old)
  else if 0x3B0 ≤ num && num < 0x3F0 then new &&& ~~~0x3FF
  else new

/-- Write a CSR; none where the access is illegal. A write of mxsuite ends a reservation (R270); sxerr reaches vsxerr while V = 1. -/
def State.csrWrite (s : State) (h : Fin 128) (level num : Nat) (v : W64) : Option State :=
  let x := s.hart h
  if !csrReached level x.virt num || bitsOf num 10 2 = 3 then none
  else
    some (s.updHart h (fun y =>
      if num = 0x7C0 then { y with mxsuite := BitVec.ofNat 64 (bitsOf v.toNat 0 24), reserve := none, lrHold := false }
      else if num = 0x6C0 || (num = 0x5C0 && y.virt) then { y with vsxerr := v.getLsbD 0 }
      else if num = 0x5C0 then { y with sxerr := v.getLsbD 0 }
      else if num = 0x605 then { y with htimedelta := v }
      else if bitsOf num 8 4 = 2 then { y with vscsr := Table.set y.vscsr num (csrLegal num (Table.get 0 y.vscsr num) v) }
      else { y with csr := Table.set y.csr num (csrLegal num (Table.get 0 y.csr num) v) }))

/-- A hart left to HS-mode by the monitor: every integer, floating-point and vector register and every VS CSR zero, its tag 0, its guest
file free (R274, R276). -/
def Hart.cleared (y : Hart) (file : Nat) : Hart :=
  { y with
    x := [], f := [], v := [], vscsr := [], vsxerr := false, virt := false, vhart := none, mxsuite := 0, reserve := none, lrHold := false,
    guestUsed := dropAll file y.guestUsed }

/-! ## Checks of an access (R262, R265, R266, R268) -/

/-- The pieces of an access by page: offset from its first byte, physical address, PBMT, length. -/
def hartAccPieces (a : HartAcc) : List (Nat × Nat × BitVec 2 × Nat) :=
  let n := a.size.val
  let first := min n (4096 - a.pa.toNat % 4096)
  if first = n then [(0, a.pa.toNat, a.pbmt, n)]
  else [(0, a.pa.toNat, a.pbmt, first), (first, a.pa2.toNat, a.pbmt2, n - first)]

/-- A page of I/O memory: in the control space, or PBMT IO. -/
def hartIo (pa : Nat) (pbmt : BitVec 2) : Bool := rangeOf pa = .control || pbmt = 2

/-- A page of main memory that the Parlour caches may hold. -/
def hartCached (pa : Nat) (pbmt : BitVec 2) : Bool := rangeOf pa ≠ .control && pbmt = 0

/-- Whether an address is backed for a hart (R12, R265). -/
def State.hartBacked (s : State) (pa : Nat) : Bool :=
  match rangeOf pa with
  | .control => ctrlClaimed pa
  | _ => s.memBacked pa

/-- The kind of a hart's access: its exceptions differ. -/
inductive HartKind where
  | load
  | store
  | lr
  | sc
  | amo
deriving DecidableEq, Repr

/-- The access-fault code of a kind. -/
def HartKind.accessFault : HartKind → Nat
  | .load => 5
  | .lr => 5
  | _ => 7

/-- The exception of one page of an access, if it has one. -/
def State.hartPage (s : State) (k : HartKind) (pa : Nat) (pbmt : BitVec 2) (crooked : Bool) : Option Nat :=
  if pbmt = 3 then some (if k.accessFault = 5 then 13 else 15)
  else if !s.hartBacked pa then some k.accessFault
  else if crooked && hartIo pa pbmt then some k.accessFault
  else
    match k with
    | .load => none
    | .store => none
    | .amo => if rangeOf pa = .control then some 7 else none
    | _ => if hartCached pa pbmt then none else some k.accessFault

/-- The exception an access raises before anything is performed: code and xtval, the address of the first byte that
fails (R266, R268, R271). -/
def State.hartCheck (s : State) (k : HartKind) (a : HartAcc) : Option (Nat × W64) :=
  let crooked := a.va.toNat % a.size.val ≠ 0
  if crooked && !(k = .load || k = .store) then some (if k = .lr then 4 else 6, a.va)
  else
    (hartAccPieces a).findSome? (fun p =>
      (s.hartPage k p.2.1 p.2.2.1 crooked).map (fun c => (c, a.va + BitVec.ofNat 64 p.1)))

/-! ## The die's caches (R259, R260) -/

/-- A line held under a tag. -/
def Parlour.line (p : Parlour) (line : Nat) (tag : BitVec 8) : Option L3Line := Table.find p.l3 (l3Key line tag)

/-- One copy leaves the die: dirty data to its home, and the directory no longer records it (R237). -/
def State.victim (s : State) (n : Fin 2) (line : Nat) (tag : BitVec 8) : State :=
  match (s.parlour n).line line tag with
  | none => s
  | some l =>
    let slice := s.homeOf tag (128 * line)
    let s1 := (s.dropInner n line).updParlour n (fun p => { p with l3 := Table.erase p.l3 (l3Key line tag) })
    let s2 := if l.dirty then s1.takeDirty slice line l.data l.poison else s1
    (s2.dropReservations n line).setDir slice line ((s2.dir slice line).leave n)

/-- Lines that the L3 of a Parlour holds: 96 MiB (R258). -/
def l3Lines : Nat := 786432

/-- A full L3 gives up a line before it takes one. Which of a set's lines leaves no rule says: the model draws one (DESIGN CHOICE, log
68); before that, WB_D and OFFER_C say what leaves. -/
def State.l3Room (s : State) (n : Fin 2) : State :=
  let l3 := (s.parlour n).l3
  if l3.length < l3Lines then s
  else
    let (b, t) := s.drawBits
    match listAt l3 (b.toNat % l3.length) with
    | none => t
    | some e => t.victim n (e.1 / 256) (BitVec.ofNat 8 (e.1 % 256))

/-- The lines of an access go to the front of a core's L1D and L2, which hold 64 KiB and 2 MiB (R258). Which line leaves a full cache
no rule says: the model takes the one used longest ago (DESIGN CHOICE, log 68). -/
def Hart.touch (x : Hart) (keys : List Nat) : Hart :=
  keys.foldl (fun y k =>
    let l2 := (k :: dropAll k y.l2).take 16384
    { y with l2 := l2, l1d := ((k :: dropAll k y.l1d).take 512).filter (fun e => l2.contains e) }) x

/-- Before a die asks for a line under one tag it gives up its copies under others (R260). -/
def State.dropOtherTags (s : State) (n : Fin 2) (line : Nat) (tag : BitVec 8) : State :=
  ((s.parlour n).copies line).foldl (fun t e => if e.1 % 256 = tag.toNat then t else t.victim n line (BitVec.ofNat 8 (e.1 % 256))) s

/-- The cached line pieces of an access: line, offset in the line, position in the access, length. -/
def hartLines (a : HartAcc) : List (Nat × Nat × Nat × Nat) :=
  (hartAccPieces a).flatMap (fun p =>
    if hartCached p.2.1 p.2.2.1 then (linePieces p.2.1 p.2.2.2).map (fun q => (q.1, q.2.1, p.1 + q.2.2.1, q.2.2.2)) else [])

/-- The pieces that the caches do not hold and that are not I/O: PBMT NC (R266). -/
def hartNc (a : HartAcc) : List (Nat × Nat × Nat) :=
  (hartAccPieces a).flatMap (fun p =>
    if hartCached p.2.1 p.2.2.1 || hartIo p.2.1 p.2.2.1 then [] else [(p.1, p.2.1, p.2.2.2)])

/-- Whether the die holds a line as an access needs it. -/
def State.hartHas (s : State) (h : Fin 128) (line : Nat) (excl : Bool) : Bool :=
  match (s.parlour (parlourOf h)).line line (s.hart h).tag with
  | none => false
  | some l => l.excl || !excl

/-- The coherence request a hart makes for a line; `va` is the first byte of its access there (R268). -/
def State.hartReq (s : State) (h : Fin 128) (line : Nat) (excl : Bool) (va : W64) : State :=
  let x := s.hart h
  let n := parlourOf h
  let s1 := s.dropOtherTags n line x.tag
  let p : ParReq := if ((s.parlour n).line line x.tag).isSome then .upg else if excl then .rdX else .rdS
  s1.addReqs [{ Req.blank (.hart h) .read x.tag x.gen with par := p, addr := 128 * line, size := 128, va := va }]

/-! ## Completion -/

/-- What a waiting access needs: the access, and whether its lines must be held exclusively. -/
def HartWait.needs : HartWait → Option (HartAcc × Bool)
  | .load a _ _ => some (a, false)
  | .lr a _ => some (a, true)
  | .store a _ => some (a, true)
  | .amo a _ _ _ => some (a, true)
  | _ => Option.none

/-- Bytes of the cached pieces of an access, by position, and whether any line of them is poisoned. -/
def State.hartCachedBytes (s : State) (h : Fin 128) (a : HartAcc) : List (Nat × List Byte) × Bool :=
  (hartLines a).foldl (fun acc q =>
    match (s.parlour (parlourOf h)).line q.1 (s.hart h).tag with
    | none => acc
    | some l => (acc.1 ++ [(q.2.2.1, (l.data.drop q.2.1).take q.2.2.2)], acc.2 || l.poison)) ([], false)

/-- Read an access whose lines the die holds: bytes and poison; NC pieces come from their homes. -/
def State.hartRead (s : State) (h : Fin 128) (a : HartAcc) : (List Byte × Bool) × State :=
  let tag := (s.hart h).tag
  let c := s.hartCachedBytes h a
  let r := (hartNc a).foldl (fun (acc : (List (Nat × List Byte) × Bool) × State) q =>
    let d := acc.2.sysRead tag q.2.1 q.2.2 .stream
    ((acc.1.1 ++ [(q.1, d.1.1)], acc.1.2 || d.1.2), d.2)) (c, s)
  ((r.1.1.foldl (fun bs p => splice bs p.1 p.2) (List.replicate a.size.val 0), r.1.2), r.2)

/-- Write an access whose lines the die holds exclusively; NC pieces go to their homes (R266, R268). -/
def State.hartWrite (s : State) (h : Fin 128) (a : HartAcc) (bs : List Byte) : State :=
  let tag := (s.hart h).tag
  let n := parlourOf h
  let s1 := (hartLines a).foldl (fun (t : State) q =>
    t.updParlour n (fun p =>
      match p.line q.1 tag with
      | none => p
      | some l =>
        let l1 := { l with data := splice l.data q.2.1 ((bs.drop q.2.2.1).take q.2.2.2), dirty := true }
        { p with l3 := Table.set p.l3 (l3Key q.1 tag) l1 })) s
  (hartNc a).foldl (fun (t : State) q => t.sysWrite tag q.2.1 ((bs.drop q.1).take q.2.2) .wbNA false) s1

/-- Other harts of the die lose a reservation on the lines a hart has written, and their inner copies (R259). -/
def State.breakOthers (s : State) (h : Fin 128) (a : HartAcc) : State :=
  let wrote := fun (line : Nat) => (hartLines a).any (fun q => q.1 = line)
  { s with harts := Table.mapVals (fun k x =>
      if k = h.val || k / 64 ≠ h.val / 64 then x
      else
        let y := { x with l1d := x.l1d.filter (fun e => !wrote (e / 256)), l2 := x.l2.filter (fun e => !wrote (e / 256)) }
        if x.reserve.any wrote then { y with reserve := none, lrHold := false } else y) s.harts }

/-- The atomic function code of R103 that an AMO performs: swap, add, xor, and, or, min, max, minu, maxu. -/
def amoFn (op : Nat) : Nat := listGet 0 [6, 0, 5, 3, 4, 9, 10, 1, 2] op

/-- Perform a waiting access whose lines are held (R268, R270, R271, R273). A misaligned one is performed in one step: its pieces may
become visible in any order, and in this model do so together (DESIGN CHOICE, log 66). -/
def State.hartFinish (s : State) (h : Fin 128) (w : HartWait) : State :=
  let tag := (s.hart h).tag
  let done := fun (t : State) (a : HartAcc) (f : Hart → Hart) =>
    t.updHart h (fun x => f (({ x with wait := .none } : Hart).touch ((hartLines a).map (fun q => l3Key q.1 tag))))
  match w with
  | .load a rd sg =>
    let r := s.hartRead h a
    if r.1.2 then r.2.hartTrap h 19 a.va else done r.2 a (fun x => x.loadBytes rd a.size.val sg r.1.1)
  | .lr a rd =>
    let r := s.hartRead h a
    if r.1.2 then r.2.hartTrap h 19 a.va
    else
      done r.2 a (fun x => { x.setReg rd (BitVec.ofNat 64 (loadValue a.size.val true r.1.1)) with
        reserve := some (a.pa.toNat / 128), lrHold := true })
  | .store a rs2 => done ((s.hartWrite h a ((s.hart h).storeBytes rs2 a.size.val)).breakOthers h a) a (fun x => x)
  | .amo a op rd rs2 =>
    let r := s.hartRead h a
    if r.1.2 then r.2.hartTrap h 19 a.va
    else
      let n := a.size.val
      let new := atomApply (amoFn op) n (leNat r.1.1) { thread := 0, a := (s.hart h).reg rs2, b := 0 }
      done ((r.2.hartWrite h a (leBytes n new)).breakOthers h a) a
        (fun x => x.setReg rd (BitVec.ofNat 64 (loadValue n true r.1.1)))
  | _ => s

/-- Whether a hart still waits for a line it has asked for. -/
def State.hartAsking (s : State) (h : Fin 128) : Bool :=
  s.reqs.any (fun e => e.2.owner = .hart h && e.2.par ≠ .none)

/-- Perform an access, or ask for the lines that the die does not hold as it needs them. -/
def State.hartGo (s : State) (h : Fin 128) (w : HartWait) : State :=
  match w.needs with
  | none => s
  | some (a, excl) =>
    let missing := (hartLines a).filter (fun q => !s.hartHas h q.1 excl)
    if missing = [] then s.hartFinish h w
    else missing.foldl (fun t q => t.hartReq h q.1 excl (a.va + BitVec.ofNat 64 q.2.2.1)) (s.updHart h (fun x => { x with wait := w }))

/-- A line has come: the waiting access goes on once nothing it asked for is outstanding. -/
def State.hartRetry (s : State) (h : Fin 128) : State :=
  if s.hartAsking h then s else s.hartGo h (s.hart h).wait

/-- The home has answered a coherence request: the line is held under the tag it was asked for. A copy that another hart of the die has
had meanwhile stays, with what was written to it (R259). A line that the tag may only read the die does not write, whatever the home records: a store asks the home, which refuses it
(R275). -/
def State.parAnswer (s : State) (k : Nat) (data : Option (List Byte × Bool)) (excl : Bool) : State :=
  match Table.find s.reqs k with
  | none => s
  | some r =>
    match r.owner with
    | .hart h =>
      let line := r.addr / 128
      let n := parlourOf h
      let e := excl && s.rangeAllows r.suite r.addr 128 false
      let put := fun (t : State) (l : L3Line) => t.updParlour n (fun p => { p with l3 := Table.set p.l3 (l3Key line r.suite) l })
      let s1 := match (s.parlour n).line line r.suite, data with
        | some l, _ => put s { l with excl := l.excl || e }
        | none, some (d, poison) => put (s.l3Room n) { tag := r.suite, data := d, dirty := false, poison := poison, excl := e }
        | none, none => s
      (s1.dropReq k).hartRetry h
    | _ => s

/-- A hart's request fails at the home or its target: an access fault at the first byte that fails, and nothing is read or written
(R268, R275, R282). One of a device store that the hart no longer waits for leaves a later access waiting. -/
def State.hartRefused (s : State) (k : Nat) : State :=
  match Table.find s.reqs k with
  | none => s
  | some r =>
    match r.owner with
    | .hart h =>
      let w := (s.hart h).wait
      let loads := match w with | .load _ _ _ => true | .lr _ _ => true | .devLoad _ _ _ _ => true | _ => false
      let code := if loads then 5 else 7
      let t := (s.dropReq k).updHart h (fun x => { x with devStores := dropAll k x.devStores })
      if r.par ≠ .none then
        if w.needs.any (fun p => (hartLines p.1).any (fun q => q.1 = r.addr / 128)) then t.hartTrap h code r.va else t
      else if r.kind = .write then (t.hartTrap h 7 r.va).updHart h (fun x => { x with wait := w })
      else t.hartTrap h code r.va
    | _ => s

/-- A load or atomic that a hart sent to a home or a target is answered (R271, R272). -/
def State.hartAnswer (s : State) (k : Nat) (bs : List Byte) (poison : Bool) : State :=
  match Table.find s.reqs k with
  | none => s
  | some r =>
    match r.owner with
    | .hart h =>
      let s1 := s.dropReq k
      let put := fun (rd : HartReg) (size : Nat) (sg : Bool) (va : W64) =>
        if poison then s1.hartTrap h 19 va
        else s1.updHart h (fun x => ({ x with wait := .none } : Hart).loadBytes rd size sg bs)
      match (s.hart h).wait with
      | .devLoad q a rd sg => if q = k then put rd a.size.val sg a.va else s1
      | .homeAmo q a rd => if q = k then put (.x (Fin.ofNat 32 rd)) a.size.val true a.va else s1
      | _ => s1.updHart h (fun x => { x with devStores := dropAll k x.devStores })
    | _ => s

end Sys2Proof.Machine
end

