-- ==== Sys2Proof/Machine/Codes.lean ====
section
/-! DEFINITION. The line codes of external memory: GF(2^8), RS(68,64) over an LPDDR6 sector (R287, R288) and the 160
symbols of a DDR5 burst (R305, R306), and what a read of stored symbols with errors gives. -/

namespace Sys2Proof.Machine

/-! ## GF(2^8) with x^8 + x^4 + x^3 + x^2 + 1 (R287) -/

/-- Multiply by x. -/
def gfDouble (a : Nat) : Nat := if 128 ≤ a then (2 * a) ^^^ 0x11D else 2 * a

/-- Product of two field elements, by the bits of the second. -/
def gfMul (a b : Nat) : Nat :=
  ((List.range 8).foldl (fun (acc : Nat × Nat) i =>
    ((if bitOf b i then acc.1 ^^^ acc.2 else acc.1), gfDouble acc.2)) (0, a)).1

/-- α^n, with α = x. -/
def gfPow : Nat → Nat
  | 0 => 1
  | n + 1 => gfDouble (gfPow n)

/-- The inverse of a non-zero element: a^254. -/
def gfInv (a : Nat) : Nat :=
  let a2 := gfMul a a
  let a4 := gfMul a2 a2
  let a8 := gfMul a4 a4
  let a16 := gfMul a8 a8
  let a32 := gfMul a16 a16
  let a64 := gfMul a32 a32
  let a128 := gfMul a64 a64
  gfMul a2 (gfMul a4 (gfMul a8 (gfMul a16 (gfMul a32 (gfMul a64 a128)))))

/-- The value of a word at α^j: Horner over its symbols, first symbol the highest power. -/
def gfEval (j : Nat) (word : List Nat) : Nat :=
  word.foldl (fun acc v => gfMul acc (gfPow j) ^^^ v) 0

/-- Exclusive-or of two words; the first keeps its length. -/
def xorWord : List Nat → List Nat → List Nat
  | [], _ => []
  | xs, [] => xs
  | x :: xs, y :: ys => (x ^^^ y) :: xorWord xs ys

/-! ## Two-symbol correction -/

/-- What a read of a codeword gives. -/
inductive CodeRead where
  | good
  | fixed (errors : List (Nat × Nat))   -- position and value of each symbol corrected
  | poisoned
  | bad
deriving DecidableEq, Repr

/-- The pattern of at most two erroneous symbols with the syndromes given, if there is one: `pos` lists the positions
that travel with their powers; `f` is the first power; `ok` says which error values can occur. -/
def correctTwo (f : Nat) (ok : Nat → Bool) (pos : List (Nat × Nat)) (syn : List Nat) : Option (List (Nat × Nat)) :=
  let s0 := listGet 0 syn 0
  let s1 := listGet 0 syn 1
  let s2 := listGet 0 syn 2
  let s3 := listGet 0 syn 3
  let raw := fun (v x : Nat) => (List.range f).foldl (fun a _ => gfMul a (gfInv x)) v
  let one := pos.findSome? (fun p =>
    let x := gfPow p.2
    if s0 ≠ 0 && gfMul s0 x = s1 && gfMul s1 x = s2 && gfMul s2 x = s3 && ok (raw s0 x) then some [(p.1, raw s0 x)] else none)
  match one with
  | some e => some e
  | none =>
    pos.findSome? (fun p =>
      let x := gfPow p.2
      pos.findSome? (fun q =>
        if q.1 ≤ p.1 then none
        else
          let y := gfPow q.2
          let v := gfMul (s1 ^^^ gfMul s0 y) (gfInv (x ^^^ y))
          let w := s0 ^^^ v
          let at_ := fun (k a b : Nat) => (List.range k).foldl (fun z _ => gfMul z b) a
          if v ≠ 0 && w ≠ 0 && (at_ 2 v x ^^^ at_ 2 w y) = s2 && (at_ 3 v x ^^^ at_ 3 w y) = s3 && ok (raw v x) && ok (raw w y)
          then some [(p.1, raw v x), (q.1, raw w y)] else none))

/-! ## LPDDR6 sectors (R287, R288) -/

/-- The check bytes of 64 data bytes: the remainder that makes c(α^j) = 0 for j = 0 to 3. -/
def rsCheck (data : List Byte) : List Byte :=
  -- generator (x + 1)(x + α)(x + α²)(x + α³) = x⁴ + 15 x³ + 54 x² + 120 x + 64
  let g := [15, 54, 120, 64]
  let r := data.foldl (fun (reg : List Nat) b =>
    let fb := listGet 0 reg 0 ^^^ b.toNat
    (List.range 4).map (fun i => listGet 0 reg (i + 1) ^^^ gfMul fb (listGet 0 g i))) [0, 0, 0, 0]
  r.map (fun v => BitVec.ofNat 8 v)

/-- The pattern added to the check bytes of a poisoned sector. -/
def poisonPattern : List Nat := [0x96, 0x5A, 0x3C, 0xE7]

/-- The 68 symbols of a sector: 32 data bytes, 32 zeros that are not stored, four check bytes. -/
def sectorWord (data : List Byte) (poison : Bool) : List Nat :=
  let d := data ++ List.replicate 32 (0 : Byte)
  let c := (rsCheck d).map (fun b => b.toNat)
  d.map (fun b => b.toNat) ++ (if poison then xorWord c poisonPattern else c)

/-- Spread the 36 stored symbols of a burst over the codeword. -/
def burstWord (e : List Byte) : List Nat :=
  let v := e.map (fun b => b.toNat)
  (List.range 68).map (fun k => if k < 32 then listGet 0 v k else if k < 64 then 0 else listGet 0 v (k - 32))

/-- Syndromes of a sector's received word. -/
def sectorSyndromes (word : List Nat) : List Nat := (List.range 4).map (fun j => gfEval j word)

/-- The syndromes of a poisoned sector without error. -/
def poisonSyndromes : List Nat := sectorSyndromes (List.replicate 64 0 ++ poisonPattern)

/-- Positions of a sector's stored symbols with their powers. -/
def sectorPositions : List (Nat × Nat) :=
  ((List.range 68).filter (fun k => k < 32 || 64 ≤ k)).map (fun k => (k, 67 - k))

/-- A sector's read: the code's judgement of its 32 data bytes with the errors of the burst. -/
def readSector (data : List Byte) (poison : Bool) (errors : List Byte) : CodeRead × List Byte :=
  let word := xorWord (sectorWord data poison) (burstWord errors)
  let syn := sectorSyndromes word
  let bytes := fun (w : List Nat) => (w.take 32).map (fun v => BitVec.ofNat 8 v)
  if syn = [0, 0, 0, 0] then (.good, bytes word)
  else if syn = poisonSyndromes then (.poisoned, bytes word)
  else
    match correctTwo 0 (fun _ => true) sectorPositions syn with
    | none => (.bad, bytes word)
    | some es => (.fixed es, bytes (es.foldl (fun w e => listSet w e.1 (listGet 0 w e.1 ^^^ e.2)) word))

/-! ## DDR5 halves (R305, R306) -/

/-- The element of GF(2^4) that a 4-bit symbol stands for: v0 + v1 β + v2 β² + v3 β³ with β = α^17. -/
def nibbleField (v : Nat) : Nat :=
  (List.range 4).foldl (fun a i => if bitOf v i then a ^^^ gfPow (17 * i) else a) 0

/-- The symbol of a field element, if it lies in GF(2^4). -/
def fieldNibble (x : Nat) : Option Nat := (List.range 16).find? (fun v => nibbleField v = x)

/-- Syndromes of a half's 160 symbols: c(α^j) for j = 1 to 4. -/
def halfSyndromes (symbols : List Nat) : List Nat :=
  (List.range 4).map (fun j => gfEval (j + 1) (symbols.map nibbleField))

/-- The check symbols 152 to 159 of a poisoned half are changed by 0x6C3AF195, bits [3:0] in symbol 152. -/
def halfPoison : List Nat := List.replicate 152 0 ++ (List.range 8).map (fun i => bitsOf 0x6C3AF195 (4 * i) 4)

/-- A half's read: a stored half is a codeword, so its syndromes are those of the errors alone, with the poison change. -/
def readHalf (poison : Bool) (errors : List Byte) : CodeRead :=
  let e := (List.range 160).map (fun k => bitsOf (listGet 0 errors k).toNat 0 4)
  let syn := halfSyndromes (if poison then xorWord e halfPoison else e)
  if syn = [0, 0, 0, 0] then .good
  else if syn = halfSyndromes halfPoison then .poisoned
  else
    match correctTwo 1 (fun v => (fieldNibble v).isSome) ((List.range 160).map (fun k => (k, 159 - k))) syn with
    | none => .bad
    | some es => .fixed (es.map (fun p => (p.1, (fieldNibble p.2).getD 0)))

/-- The 64 data bytes of a half after its errors and what the code corrects: byte b is symbols 2b and 2b + 1. -/
def halfData (data : List Byte) (errors : List Byte) (c : CodeRead) : List Byte :=
  let fixedAt := fun k => match c with | .fixed es => ((es.find? (fun p => p.1 = k)).map (fun p => p.2)).getD 0 | _ => 0
  (List.range 64).map (fun b =>
    let e := fun k => bitsOf (listGet 0 errors k).toNat 0 4 ^^^ fixedAt k
    BitVec.ofNat 8 ((listGet 0 data b).toNat ^^^ (e (2 * b) + 16 * e (2 * b + 1))))

end Sys2Proof.Machine
end

