-- ==== Sys2Proof/Machine/Routes.lean ====
section
/-! DEFINITION. Routes over the Cellar fabric: X then Y, the route table of a degraded configuration, and what is cut off (R17,
R18, R428). -/

namespace Sys2Proof.Machine

/-- The number of a Corridor between two Wings, lower first (R478). -/
def corridorNo (a b : Nat) : Nat := min a b + 8 * max a b

/-- The number of the link between a Cellar and a Parlour (0) or Porch (1) of a number (R478). -/
def dieLinkNo (cellar die kind : Nat) : Nat := cellar + 8 * die + 16 * kind + 64

/-- The Corridors of the X-then-Y route between two Wings, in order. -/
def wingRoute (a b : Nat) : List Nat :=
  let col := fun (w : Nat) => w % 4
  let row := 4 * (a / 4)
  let right := (List.range (col b - col a)).map (fun i => corridorNo (row + col a + i) (row + col a + i + 1))
  let left := (List.range (col a - col b)).map (fun i => corridorNo (row + col a - i) (row + col a - i - 1))
  right ++ left ++ (if a / 4 = b / 4 then [] else [corridorNo (col b) (4 + col b)])

/-- The neighbours of a Wing, those of its row first. -/
def wingNeighbours (a : Nat) : List Nat :=
  (if a % 4 < 3 then [a + 1] else []) ++ (if 0 < a % 4 then [a - 1] else []) ++ [(a + 4) % 8]

/-- A route of at most `n` Corridors between two Wings over the steps that `ok` lets through. -/
def routeWithin (ok : Nat → Nat → Bool) : Nat → Nat → Nat → Option (List Nat)
  | 0, a, b => if a = b then some [] else none
  | n + 1, a, b =>
    if a = b then some []
    else
      (wingNeighbours a).findSome? (fun c =>
        if ok a c then (routeWithin ok n c b).map (fun r => corridorNo a c :: r) else none)

/-- The route table that avoids every Wing outside `wings` and every Corridor of `out` (R18). Which of the routes left it takes no rule
says: the model takes a shortest one (DESIGN CHOICE, log 84). A pair that no route joins has no entry. -/
def routeTableFor (wings : BitVec 8) (out : List Nat) : Table (List Nat) :=
  let ok := fun a c => wings.getLsbD a && wings.getLsbD c && !out.contains (corridorNo a c)
  (List.range 64).filterMap (fun i =>
    ((List.range 8).findSome? (fun n => routeWithin ok n (i / 8) (i % 8))).map (fun r => (i, r)))

/-- The route between two Wings: X then Y in the full configuration, else as the route table has it. -/
def State.routeOf (s : State) (a b : Nat) : Option (List Nat) :=
  match s.hearth.routeTable with
  | none => some (wingRoute a b)
  | some t => Table.find t (8 * a + b)

/-- Links lost since the last module reset: those listed as failed that the configuration does not yet leave out. -/
def State.lostLinks (s : State) : List Nat :=
  (((s.hearth.faultList ++ s.hearth.faultWait).filter (fun e => e.1 = 4)).map (fun e => e.2)).filter
    (fun n => !s.hearth.routes.contains n)

/-- A link is out of service: lost since the last module reset, or left out of the configuration by it. -/
def State.linkOut (s : State) (n : Nat) : Bool := s.lostLinks.contains n || s.hearth.routes.contains n

/-- A Corridor of a route is lost, or one of the Wings it joins. -/
def State.corridorLost (s : State) (n : Nat) : Bool :=
  s.lostLinks.contains n || (s.wing (Fin.ofNat 8 (n % 8))).lost || (s.wing (Fin.ofNat 8 (n / 8))).lost

/-- Whether one Wing cannot reach another: no route joins them, or theirs crosses what is lost. -/
def State.routeLost (s : State) (a b : Nat) : Bool :=
  match s.routeOf a b with
  | none => a ≠ b
  | some r => r.any s.corridorLost

/-- The Cellar by which a Parlour (kind 0) or Porch (kind 1) reaches a Wing: the link of the Wing's row, or the other when
that one is out of service (R17). -/
def State.dieCellar (s : State) (die kind wing : Nat) : Nat :=
  let top := if die = 0 then 0 else 3
  let want := if wing < 4 then top else top + 4
  let other := if wing < 4 then top + 4 else top
  if s.linkOut (dieLinkNo want die kind) then other else want

/-- Whether a die cannot reach a Wing. -/
def State.dieCutOff (s : State) (die kind wing : Nat) : Bool :=
  let c := s.dieCellar die kind wing
  s.linkOut (dieLinkNo c die kind) || s.routeLost c wing

/-- The input of a Wing's Cellar router at which a packet from Wing `a` arrives, in the pointer's order: east, west, north–south; 4
from its own controllers and adders (R233). -/
def State.routerInput (s : State) (a b : Nat) : Nat :=
  match s.routeOf a b with
  | none => 4
  | some r =>
    match r.getLast? with
    | none => 4
    | some n =>
      let o := if n % 8 = b then n / 8 else n % 8
      if o / 4 ≠ b / 4 then 2 else if o % 4 = b % 4 + 1 then 0 else 1

end Sys2Proof.Machine
end

