-- ==== Sys2Proof/Machine/Home.lean ====
section
/-! DEFINITION. The home slice at work: requests and their queue, snoops, misses, Parlour requests, victims, fills and
timeouts (R233 to R246), reductions in place and the adders (R252 to R255, R299). -/

namespace Sys2Proof.Machine

/-! ## Reaching a home (R428, R480) -/

/-- Whether a request cannot reach a slice. -/
def State.cutFrom (s : State) (r : Req) (slice : Nat) : Bool :=
  let w := (cellarOf slice).val
  match r.owner with
  | .group g _ => s.routeLost (wingOfRoom g.core.room).val w
  | .dma g _ _ => s.routeLost (wingOfRoom (r.via.getD g.core.room)).val w
  | .hart h => s.dieCutOff (h.val / 64) 0 w
  | .window p _ => s.dieCutOff (p.val / 2) 1 w

/-- Whether a request to a page that another Suite shares with tag 0 cannot pass by its own home among Suite 0's slices, which
forwards it (R480). -/
def State.forwardLost (s : State) (r : Req) (slice line : Nat) : Bool :=
  let own := s.ownHome r.suite (128 * line)
  own ≠ slice && (s.homeLost own || s.cutFrom r own || s.routeLost (cellarOf own).val (cellarOf slice).val)

/-- Whether a request cannot reach its home, or the home the memory behind the line. -/
def State.unreachable (s : State) (r : Req) (slice line : Nat) : Bool :=
  let w := (cellarOf slice).val
  s.forwardLost r slice line || (s.ownHome r.suite (128 * line) = slice && s.cutFrom r slice)
  || (match s.ctlOf (128 * line) with
    | .lpd p => s.routeLost w (p.val / 4)
    | .ddr c => s.dieCutOff (c.val / 6) 0 w)

/-! ## A line's queue -/

/-- The home slice of a request. -/
def State.reqHome (s : State) (r : Req) : Nat := s.homeOf r.suite (128 * (r.addr / 128))

/-- The die of the hart that made a coherence request. -/
def Req.die (r : Req) : Fin 2 := match r.owner with | .hart h => parlourOf h | _ => 0

/-- A snoop of a line is out, or its partial waits for the adder while a request waits. -/
def State.lineBusy (s : State) (slice line : Nat) : Bool :=
  s.snoops.any (fun x => x.slice = slice && x.line = line)

/-- The requests that wait for a line. -/
def State.lineQueue (s : State) (slice line : Nat) : List Nat := Table.get [] s.busyLines (lineKey slice line)

/-- Set the queue of a line; an empty one is not listed. -/
def State.setQueue (s : State) (slice line : Nat) (q : List Nat) : State :=
  { s with busyLines := if q = [] then Table.erase s.busyLines (lineKey slice line) else Table.set s.busyLines (lineKey slice line) q }

/-! ## Snoops (R240) -/

/-- The snoops a request needs before it can be served: each holder, and whether it must drop its copy. -/
def Req.snoopsOf (r : Req) (d : Dir) : List (Fin 2 × Bool) :=
  match r.par with
  | .rdS => match d with | .e m => if m = r.die then [] else [(m, false)] | _ => []
  | .rdX => (d.holders.filter (fun n => n ≠ r.die)).map (fun n => (n, true))
  | .upg => (d.holders.filter (fun n => n ≠ r.die)).map (fun n => (n, true))
  | .none =>
    if r.kind = .read && r.attr ≠ .dev then
      match d with | .e m => [(m, false)] | _ => []
    else d.holders.map (fun n => (n, true))

/-- Send snoops for a line. -/
def State.sendSnoops (s : State) (slice line : Nat) (ns : List (Fin 2 × Bool)) : State :=
  ns.foldl (fun t n =>
    let x : Snoop := { id := t.nextSnoop, slice := slice, line := line, parlour := n.1, inv := n.2, answered := false, data := none }
    { t with snoops := t.snoops ++ [x], nextSnoop := t.nextSnoop + 1 }) s

/-! ## Directory entries (R239, R241) -/

/-- Groups of four lines that a slice's part of the directory records. -/
def State.dirGroups (s : State) (slice : Nat) : List Nat :=
  (((Table.keys s.dirs).filter (fun k => k / 2 ^ 41 = slice)).map (fun k => (k % 2 ^ 41) / 4)).dedup

/-- Recall every holder of a group's four lines; each recall is counted. -/
def State.recallGroup (s : State) (slice grp : Nat) : State :=
  (List.range 4).foldl (fun t i =>
    let line := 4 * grp + i
    let n := (t.dir slice line).holders.length
    (t.snoopNow slice line true).updSlice slice (fun x => { x with dirRecalls := sat16 x.dirRecalls n })) s

/-- A new directory entry pushes an old one out where its set of 16 ways is full: the set is implementation-free, so this is a free
choice (log 9) while the part holds at least 16 entries, and so of its 16,384 at most (R241). -/
def State.dirMakeRoom (s : State) (slice line : Nat) : State :=
  let gs := s.dirGroups slice
  if gs.contains (line / 4) then s
  else
    let (c, s1) := s.drawBool
    let (b, s2) := s1.drawBits
    if (c && decide (16 ≤ gs.length)) || decide (16384 ≤ gs.length) then
      match listAt gs (b.toNat % gs.length) with
      | none => s2
      | some g => s2.recallGroup slice g
    else s2

/-! ## Answers -/

/-- A read is answered: a Parlour gets its line, a hart its data, an engine its bytes. -/
def State.answerRead (s : State) (k : Nat) (r : Req) (slice : Nat) (line : List Byte) (poison : Bool) : State :=
  let bs := (line.drop (r.addr % 128)).take r.size
  let l := r.addr / 128
  match r.par with
  | .none =>
    match r.owner with
    | .hart _ => s.hartAnswer k bs poison
    | .window _ _ => s.winAnswer k r (if poison then 2 else 0) bs
    | _ => (if poison then s else s.coreRead r bs).updReq k (fun x =>
        { x with stage := .answered, answer := bs, poison := poison,
                 fill := if r.attr = .ro && !poison then line else [] })
  | .rdS =>
    let d := s.dir slice l
    let s1 := if d = .i then s.dirMakeRoom slice l else s
    let d1 : Dir := match d with | .i => .e r.die | .s p => .s (p ||| bitOfParlour r.die) | .e m => .e m
    (s1.setDir slice l d1).parAnswer k (some (line, poison)) (match d1 with | .e m => m = r.die | _ => false)
  | _ =>
    let s1 := if s.dir slice l = .i then s.dirMakeRoom slice l else s
    (s1.setDir slice l (.e r.die)).parAnswer k (some (line, poison)) true

/-- A write has been applied: it is performed for its requester (R150); the completion of a transfer through another Room's Stair port
returns over the mesh (R177). -/
def State.wroteReq (s : State) (k : Nat) (r : Req) : State :=
  match r.owner with
  | .group g op => s.performed k g op
  | .hart h => (s.dropReq k).updHart h (fun x => { x with devStores := dropAll k x.devStores })
  | .window _ _ => s.dropReq k
  | .dma _ _ _ =>
    match r.via with
    | none => s.updReq k (fun x => { x with stage := .answered })
    | some v => s.arrive k (fun x => { x with stage := .answered, back := true, router := some v, inPort := 4 })

/-- A poisoned line: marked in the slice or its buffer, else in memory (R244). -/
def State.poisonLine (s : State) (slice line : Nat) : State :=
  let k := lineKey slice line
  let s1 := s.updSlice slice (fun x => { x with poisoned := sat16 x.poisoned 1 })
  match Table.find s1.lines k, s1.evictedLine k with
  | some l, _ => { s1 with lines := Table.set s1.lines k { l with poison := true } }
  | none, some l => { s1 with evicted := Table.set s1.evicted k (.dirty { l with poison := true }) }
  | none, none => { s1 with extPoison := addOnce line s1.extPoison }

/-! ## Serving (R231 to R238, R245) -/

/-- Whether a request changes what its page holds, for the check of R367. -/
def Req.onlyReads (r : Req) : Bool := r.kind = .read && (r.par = .none || r.par = .rdS)

/-- A request is refused at its home, or its line is lost: a hart's takes its access fault, or poison; others fail after
issue (R275, R367, R421, R427, R428). -/
def State.homeRefuse (s : State) (k : Nat) (r : Req) (reason : BitVec 2) (slice : Nat) : State :=
  let subject := endpointId (if reason = 3 || s.homeLost slice then homeEndpoint slice else ctlEndpoint (s.ctlOf r.addr))
  match r.owner with
  | .hart _ =>
    if reason = 3 then s.hartRefused k
    else if r.par ≠ .none then s.parAnswer k (some (List.replicate 128 0, true)) (r.par ≠ .rdS)
    else if r.kind = .write then s.dropWrite k reason subject
    else s.hartAnswer k (List.replicate r.size 0) true
  | _ => s.refuse k reason subject

/-- The slice's code check on a hit, over the sectors that a request needs (R238, R407): counted; or lasting, when the clean ones go,
to be read again from memory, and a dirty one poisons the line. -/
def State.sliceEcc (s : State) (slice line : Nat) (need : BitVec 4) (ecc : Ecc) : State :=
  let k := lineKey slice line
  match Table.find s.lines k, ecc with
  | some _, .corrected => s.updSlice slice (fun x => { x with corrected := sat16 x.corrected 1 })
  | some _, .transient => s.updSlice slice (fun x => { x with transient := sat16 x.transient 1 })
  | some l, .lasting =>
    let keep := l.valid &&& (l.dirty ||| ~~~need)
    let lines := if keep = 0 then Table.erase s.lines k else Table.set s.lines k { l with valid := keep }
    let s1 := { s with lines := lines }
    if l.valid &&& l.dirty &&& need = 0 then s1
    else
      let rep : RasRep :=
        { RasRep.zero with
          cause := 3, outcome := 1, suite := (s.slice slice).suite, gen := s.genOf (s.slice slice).suite,
          subject := endpointId (homeEndpoint slice), locA := BitVec.ofNat 16 slice, addr := BitVec.ofNat 64 (128 * line) }
      (s1.poisonLine slice line).report (homeEndpoint slice) rep
  | _, _ => s

/-- The sectors of a line that the slice or its buffer holds. -/
def State.heldSectors (s : State) (slice line : Nat) : BitVec 4 :=
  let k := lineKey slice line
  ((Table.find s.lines k).map (fun l => l.valid)).getD 0 ||| ((s.evictedLine k).map (fun l => l.valid)).getD 0

/-- The sectors a read needs: all four for a Parlour. -/
def Req.sectors (r : Req) : BitVec 4 := if r.par = .none then sectorMask (r.addr % 128) r.size else 15

/-- Sectors in ascending order from one, wrapping round, without those held (R234). -/
def sectorOrder (from_ : Nat) (held : BitVec 4) : List Nat :=
  ((List.range 4).map (fun i => (from_ + i) % 4)).filter (fun q => !held.getLsbD q)

/-- Whether fills of an attribute are installed (R231, R246). -/
def Attr.allocates (a : Attr) : Bool := a = .wbA || a = .wbNA || a = .wt || a = .ro

/-- A miss entry for a line, joined by the requests of `ks`, asking first for sector `first` (R234). -/
def State.openMiss (s : State) (r : Req) (slice line first : Nat) (ks : List Nat) : State :=
  let m : Miss :=
    { attr := r.attr, suite := r.suite, joined := ks, want := sectorOrder first (s.heldSectors slice line), asked := [],
      arrived := [], filled := [], poison := false }
  { s with misses := Table.set s.misses (lineKey slice line) m }

/-- A read joins the miss entry of its line; the entry's fills are installed once a requester that allocates has joined it (R231,
R232, R234). -/
def State.joinMiss (s : State) (k : Nat) (r : Req) (slice line : Nat) (m : Miss) : State :=
  let m1 := { m with joined := m.joined ++ [k], attr := if r.attr.allocates then r.attr else m.attr }
  { s with misses := Table.set s.misses (lineKey slice line) m1 }.updReq k (fun x => { x with stage := .missed })

/-- The number of a slice's miss entries in use, of 128 (R234). -/
def State.missCount (s : State) (slice : Nat) : Nat :=
  ((Table.keys s.misses).filter (fun k => k / 2 ^ 41 = slice)).length

/-- Serve a read at its home: from the slice or its buffer, else by a miss entry; false when it must wait, an upgrade and a DEV read
for an entry open for their line too. -/
def State.serveRead (s : State) (k : Nat) (r : Req) (slice line : Nat) (ecc : Ecc) : State × Bool :=
  let upgrade := r.par = .upg && (s.parlour r.die).line line r.suite ≠ none && (s.dir slice line).holders.contains r.die
  match Table.find s.misses (lineKey slice line) with
  | some m =>
    if r.attr = .dev || upgrade || decide (16 ≤ m.joined.length) then (s, false) else (s.joinMiss k r slice line m, true)
  | none =>
    if r.attr = .dev then
      let s1 := s.cleanDrop slice line
      if s1.pkgLost line then (s1.homeRefuse k r (s1.lostReason line) slice, true)
      else
        let v := s1.viewLine slice line r.sectors
        (s1.answerRead k r slice v.1 v.2, true)
    else if upgrade then (((s.setDir slice line (.e r.die)).parAnswer k none true), true)
    else
      let e := s.sliceEcc slice line r.sectors ecc
      let need := r.sectors
      if e.heldSectors slice line &&& need = need then
        let v := e.viewLine slice line need
        (e.answerRead k r slice v.1 v.2, true)
      else if 128 ≤ e.missCount slice then (e, false)
      else
        let first := if r.par = .none then (r.addr % 128) / 32 else 0
        ((e.openMiss r slice line first [k]).updReq k (fun x => { x with stage := .missed }), true)

/-- Serve an atomic word request: its contributions in one step, the result written under the line's attribute (R245); a
poisoned line is not updated (R419). -/
def State.serveAtomic (s : State) (k : Nat) (r : Req) (slice line : Nat) : State :=
  let off := r.addr % 128
  let v := s.viewLine slice line (sectorMask off r.size)
  let ends := fun (t : State) (bs : List Byte) (p : Bool) =>
    match r.owner with
    | .hart _ => t.hartAnswer k (bs.take r.size) p
    | .group g op => (t.updReq k (fun x => { x with stage := .answered, answer := bs, poison := p })).updSlot g (fun x => x.onePerformed op)
    | _ => t.updReq k (fun x => { x with stage := .answered, answer := bs, poison := p })
  if v.2 then ends s [] true
  else
    let a := atomRun r.atomFn.toNat r.size (leNat ((v.1.drop off).take r.size)) r.contrib
    ends (s.writeLine slice line off (leBytes r.size a.2) r.attr false) (packOlds a.1) false

/-- A contribution at its home (R254): the line's copies are gone; the partial it is added to lies in the slice, in the
buffer, or, where both have left, with the adder; which of these a NORMAL line gets is free while the slice is enabled. False when it
must wait for the eviction buffer (R236). -/
def State.serveRed (s : State) (k : Nat) (r : Req) (slice line : Nat) : State × Bool :=
  let key := lineKey slice line
  let s0 := s.cleanDrop slice line
  let one := fun (p : Partial) => r.red.foldl Partial.contribute p
  let zero : Partial := { elems := [], tallyPa := r.tallyPa }
  match Table.find s0.partials key, Table.find s0.evicted key with
  | some p, _ => ({ s0 with partials := Table.set s0.partials key (one p) }.wroteReq k r, true)
  | none, some (.part p false) => ({ s0 with evicted := Table.set s0.evicted key (.part (one p) false) }.wroteReq k r, true)
  | none, e =>
    let (c, s2) := s0.drawBool
    if (c || e.isSome) && (s2.slice slice).enable then
      let w := s2.takeWay slice
      if !w.1 then (w.2, false)
      else
        let s3 := w.2.updSlice slice (fun x => { x with cleanState := false })
        ({ s3 with partials := Table.set s3.partials key (one zero) }.wroteReq k r, true)
    else if e.isSome || decide (32 ≤ s2.evictCount slice) then (s2, false)
    else ({ s2 with evicted := Table.set s2.evicted key (.part (one zero) false) }.wroteReq k r, true)

/-- A write of part of a sector that neither the slice nor its buffer holds reads the sector first, where the line takes the write
(R235); a poisoned line stays so whatever is read. -/
def State.readsFirst (s : State) (r : Req) (slice line : Nat) : Bool :=
  let dirties : Bool := match r.attr with | .wt => false | .stream => false | .dev => false | _ => true
  dirties && r.kind = .write && !s.writesThrough slice line r.attr && !s.extBad line
    && (partSectors (r.addr % 128) r.data.length &&& ~~~(s.heldSectors slice line)) ≠ 0

/-- Serve a write or an atomic at its home; false when it must wait, for the sector it reads first or for a way (R235, R236). -/
def State.serveWrite (s : State) (k : Nat) (r : Req) (slice line : Nat) (ecc : Ecc) : State × Bool :=
  let e := s.sliceEcc slice line (sectorMask (r.addr % 128) (if r.kind = .atomic then r.size else r.data.length)) ecc
  if e.pkgLost line && e.writesThrough slice line r.attr then (e.homeRefuse k r (e.lostReason line) slice, true)
  else if e.readsFirst r slice line then
    (if 128 ≤ e.missCount slice then e else e.openMiss r slice line ((r.addr % 128) / 32) [], false)
  else
    let w := if e.needsWay slice line r.attr then e.takeWay slice else (true, e)
    if !w.1 then (w.2, false)
    else if r.kind = .atomic then (w.2.serveAtomic k r slice line, true)
    else ((w.2.writeLine slice line (r.addr % 128) r.data r.attr r.mark).wroteReq k r, true)

/-- Serve one request at its line's serialising point; false when it must still wait, for snoops, for a partial on its way
to the adder, or for a miss entry (R233, R240, R254). -/
def State.homeServe (s : State) (k : Nat) (slice line : Nat) (ecc : Ecc) : State × Bool :=
  match Table.find s.reqs k with
  | none => (s, true)
  | some r =>
    if r.stage ≠ .sent then (s, true)
    else if s.homeLost slice || s.unreachable r slice line then (s.homeRefuse k r 1 slice, true)
    else if !s.memBacked (128 * line) || !s.pageAllows r.suite (128 * line) r.onlyReads then (s.homeRefuse k r 3 slice, true)
    else
      let need := r.snoopsOf (s.dir slice line)
      let key := lineKey slice line
      if need ≠ [] then (s.sendSnoops slice line need, false)
      else if r.kind ≠ .red && (s.partialOf key).isSome then
        match Table.find s.partials key, Table.find s.evicted key with
        | some p, none => ({ s with partials := Table.erase s.partials key, evicted := Table.set s.evicted key (.part p false) }, false)
        | some p, some (.part q false) =>
          ({ s with partials := Table.erase s.partials key, evicted := Table.set s.evicted key (.part (q.merge p) false) }, false)
        | _, _ => (s, false)
      else if r.kind = .read then s.serveRead k r slice line ecc
      else if (Table.find s.misses key).isSome then (s, false)
      else if r.kind = .red then
        (if s.pkgLost line then (s.homeRefuse k r (s.lostReason line) slice, true) else s.serveRed k r slice line)
      else s.serveWrite k r slice line ecc

/-- Serve the requests that wait for a line, in the order they were taken, until one must wait again. -/
def State.drainLine (s : State) (slice line : Nat) : Nat → State
  | 0 => s
  | n + 1 =>
    match s.lineQueue slice line with
    | [] => s
    | k :: rest =>
      if s.lineBusy slice line then s
      else
        let r := s.homeServe k slice line .clean
        if r.2 then State.drainLine (r.1.setQueue slice line rest) slice line n else r.1

/-- The queue of a line moves on. -/
def State.lineFree (s : State) (slice line : Nat) : State := s.drainLine slice line ((s.lineQueue slice line).length + 1)

/-- The input port of a slice at which a request arrives, and the input of the Cellar router that brought it to port 1: 3 the Parlour
or Porch link (R233). -/
def State.reqPort (s : State) (r : Req) (slice : Nat) : Nat × Option Nat :=
  let w := cellarOf slice
  let from_ := fun (v : Nat) => if v = w.val then (1, some 3) else (1, some (s.routerInput v w.val))
  let room := fun (x : RoomId) => if wingOfRoom x = w then (0, none) else (1, some (s.routerInput (wingOfRoom x).val w.val))
  match r.owner with
  | .group g _ => room g.core.room
  | .dma g _ _ => room (r.via.getD g.core.room)
  | .hart h => from_ (s.dieCellar (h.val / 64) 0 w.val)
  | .window p _ => from_ (s.dieCellar (p.val / 2) 1 w.val)

/-- The pointers that a request taken at a slice moves: the slice's past its port, the Cellar router's past its input (R233). Which
requests have arrived when one is taken is timing (log 184). -/
def State.arrivedAt (s : State) (r : Req) (slice : Nat) : State :=
  let p := s.reqPort r slice
  let s1 := s.portTaken slice p.1
  match p.2 with
  | none => s1
  | some i => s1.updWing (cellarOf slice) (fun w => { w with cfabPtr := (i + 1) % 5 })

/-- A home takes a request (R233): it is served, or waits in its line's queue in the order taken. One that waits there already is
looked at again in its turn, since what it waits for may have gone: a miss entry, or a place in the eviction buffer (R234, R236). -/
def State.homeTake (s : State) (k : Nat) (r : Req) (ecc : Ecc) : State :=
  let line := r.addr / 128
  let slice := s.reqHome r
  let q := s.lineQueue slice line
  if q.contains k then s.lineFree slice line
  else
    let s1 := s.arrivedAt r slice
    if q ≠ [] || s1.lineBusy slice line then s1.setQueue slice line (q ++ [k])
    else
      let t := s1.homeServe k slice line ecc
      if t.2 then t.1 else t.1.setQueue slice line [k]

/-! ## Parlour requests (R240) -/

/-- A Parlour's coherence request of one kind reaches its home. -/
def parlourRequest (p : ParReq) (req : Nat) (ecc : Ecc) (s : State) : Out :=
  match Table.find s.reqs req with
  | none => .next s
  | some r => if r.par = p && r.stage = .sent && !r.gone then .next (s.homeTake req r ecc) else .next s

/-- RD_S: a shared read. -/
def execRdS (req : Nat) (ecc : Ecc) (s : State) : Out := parlourRequest .rdS req ecc s

/-- RD_X: an exclusive read. -/
def execRdX (req : Nat) (ecc : Ecc) (s : State) : Out := parlourRequest .rdX req ecc s

/-- UPG: an upgrade; from a Parlour not recorded as holding the line it is carried out as RD_X. -/
def execUpg (req : Nat) (ecc : Ecc) (s : State) : Out := parlourRequest .upg req ecc s

/-- WB_D: a dirty L3 victim is always accepted (R237). -/
def execWbD (parlour : Fin 2) (tag : BitVec 8) (line : Nat) (s : State) : Out :=
  match (s.parlour parlour).line line tag with
  | none => .next s
  | some l => if l.dirty then .next (s.victim parlour line tag) else .next s

/-- OFFER_C: a clean L3 victim (R237). The home takes it into an invalid way or over a colder clean one, and declines it where its set
has neither, which is counted; which ways are in use and which are colder are free choices (log 9). Either way the directory records
the line no longer. A disabled slice installs nothing and has no set to decline from (log 184). -/
def execOfferC (parlour : Fin 2) (tag : BitVec 8) (line : Nat) (s : State) : Out :=
  match (s.parlour parlour).line line tag with
  | none => .next s
  | some l =>
    if l.dirty then .next s
    else
      let slice := s.homeOf tag (128 * line)
      let s1 := s.victim parlour line tag
      let put := fun (t : State) => t.putIn slice line { data := l.data, valid := 15, dirty := 0, poison := false }
      if !(s1.slice slice).enable || s1.heldSectors slice line ≠ 0 || l.poison || (s1.partialOf (lineKey slice line)).isSome then .next s1
      else
        let full := s1.setFull slice
        if !full.1 then .next (put full.2)
        else
          let (colder, s2) := full.2.drawBool
          let (b, s3) := s2.drawBits
          let ways := (s3.sliceKeys slice).filter s3.leavesFree
          match listAt ways (b.toNat % ways.length) with
          | some k =>
            if colder then .next (put (s3.leaveWay k))
            else .next (s3.updSlice slice (fun x => { x with offerDecl := sat16 x.offerDecl 1 }))
          | none => .next (s3.updSlice slice (fun x => { x with offerDecl := sat16 x.offerDecl 1 }))

/-- A die takes a snoop and answers it (R242, R259, R270): a hart within the hold after its LR keeps it waiting. -/
def takeSnoop (inv : Bool) (id : Nat) (s : State) : Out :=
  match s.snoops.find? (fun x => x.id = id) with
  | none => .next s
  | some x =>
    let held := s.harts.any (fun e => e.1 / 64 = x.parlour.val && e.2.lrHold && e.2.reserve = some x.line)
    if x.inv ≠ inv || x.answered || held then .next s else .next (s.snoopGiven x)

/-- SNP_SH: keep a clean copy and return any dirty data. -/
def execSnpSh (snoop : Nat) (s : State) : Out := takeSnoop false snoop s

/-- SNP_INV: drop the copy and return any dirty data. -/
def execSnpInv (snoop : Nat) (s : State) : Out := takeSnoop true snoop s

/-- A HOME_TIMEOUT report (R243): the unresponsive agent, and whether it was a snoop. -/
def State.homeTimeout (s : State) (slice line : Nat) (subject : BitVec 16) (detail : Nat) : State :=
  let own := (s.slice slice).suite
  let rep : RasRep :=
    { RasRep.zero with
      cause := 5, outcome := 1, suite := own, gen := s.genOf own, subject := subject, locA := BitVec.ofNat 16 slice,
      addr := BitVec.ofNat 64 (128 * line), detail := BitVec.ofNat 32 detail }
  ((s.poisonLine slice line).updSlice slice (fun x => { x with timeouts := sat16 x.timeouts 1 })).report (homeEndpoint slice) rep

/-- An unanswered snoop (R243): the line is poisoned, the holder is recorded as holding nothing. -/
def State.snoopLost (s : State) (x : Snoop) : State :=
  let s1 := { s with snoops := s.snoops.filter (fun y => y.id ≠ x.id) }
  let s2 := s1.setDir x.slice x.line ((s1.dir x.slice x.line).leave x.parlour)
  (s2.homeTimeout x.slice x.line (endpointId (.parlour x.parlour)) 0).lineFree x.slice x.line

/-- SNOOP_ANSWER: the home takes an answer, writes dirty data, updates the directory, and the waiting transaction goes on
(R240, R242). An answer with an uncorrectable error is asked for once more, then counts as none (R407). -/
def execSnoopAnswer (snoop : Nat) (ecc : Ecc) (s : State) : Out :=
  match s.snoops.find? (fun x => x.id = snoop) with
  | none => .next s
  | some x =>
    if !x.answered then .next s
    else if ecc = .lasting then .next (s.snoopLost x)
    else
      let s0 := if ecc = .transient then s.updWing (cellarOf x.slice) (fun w => { w with snpRetry := sat16 w.snpRetry 1 }) else s
      .next ((s0.snoopTaken x).lineFree x.slice x.line)

/-! ## Misses (R234) -/

/-- The line as a miss entry has it: what the slice or its buffer holds, else what has been filled. -/
def State.missView (s : State) (slice line : Nat) (m : Miss) : List Byte × BitVec 4 :=
  let held := s.heldSectors slice line
  let v := (s.viewLine slice line held).1
  let d := m.filled.foldl (fun bs q => if held.getLsbD q.1 then bs else splice bs (32 * q.1) q.2) v
  (d, m.filled.foldl (fun h q => h ||| BitVec.ofNat 4 (2 ^ q.1)) held)

/-- Answer every joined request whose sectors are there. -/
def State.answerJoined (s : State) (slice line : Nat) (all : Bool) : State :=
  match Table.find s.misses (lineKey slice line) with
  | none => s
  | some m =>
    let v := s.missView slice line m
    let ready := fun (k : Nat) => match Table.find s.reqs k with
      | none => true
      | some r => all || (v.2 &&& r.sectors) = r.sectors
    let go := m.joined.filter ready
    let s1 := { s with misses := Table.set s.misses (lineKey slice line) { m with joined := m.joined.filter (fun k => !ready k) } }
    go.foldl (fun t k => match Table.find t.reqs k with
      | none => t
      | some r =>
        let whole := r.attr ≠ .ro || v.2 = 15
        let r1 := if whole then r else { r with attr := .wbA }
        t.answerRead k r1 slice v.1 m.poison) s1

/-- A miss entry with nothing left to come closes, and the line's queue moves on. -/
def State.closeMiss (s : State) (slice line : Nat) : State :=
  match Table.find s.misses (lineKey slice line) with
  | none => s
  | some m =>
    if m.want = [] && m.asked = [] && m.arrived = [] then
      let s1 := s.answerJoined slice line true
      { s1 with misses := Table.erase s1.misses (lineKey slice line) }.lineFree slice line
    else s

/-- Install what a miss entry has filled and the slice does not hold, its way being there (R231, R234). -/
def State.installFilled (s : State) (slice line : Nat) (m : Miss) : State :=
  let l0 : SLine := (Table.find s.lines (lineKey slice line)).getD
    { data := List.replicate 128 0, valid := 0, dirty := 0, poison := false }
  s.putIn slice line (m.filled.foldl (fun l q =>
    if l.valid.getLsbD q.1 then l
    else { l with data := splice l.data (32 * q.1) q.2, valid := l.valid ||| BitVec.ofNat 4 (2 ^ q.1) }) l0)

/-- MEMORY_FILL: a sector arrives at its miss entry, is installed where the attribute allocates, and every joined
requester that it completes restarts (R234). Where it needs a way and the eviction buffer is full, it waits (R236). -/
def execMemoryFill (slice : Fin 128) (line : Nat) (sector : Fin 4) (s : State) : Out :=
  let key := lineKey slice.val line
  match Table.find s.misses key with
  | none => .next s
  | some m =>
    match m.arrived.find? (fun a => a.1 = sector.val) with
    | none => .next s
    | some (q, d) =>
      let m1 : Miss := { m with arrived := m.arrived.filter (fun a => a.1 ≠ q), filled := m.filled ++ [(q, d)] }
      let s1 := { s with misses := Table.set s.misses key m1 }
      let fill := (s1.slice slice.val).enable && m.attr.allocates && !m.poison && (s1.evictedLine key).isNone
        && (s1.partialOf key).isNone
      let w := if fill && s1.absent slice.val line then s1.takeWay slice.val else (true, s1)
      if !w.1 then .next { s with freeCtr := w.2.freeCtr }
      else
        let s2 := if fill then w.2.installFilled slice.val line m1 else w.2
        .next ((s2.answerJoined slice.val line false).closeMiss slice.val line)

/-! ## Evictions and timeouts (R236, R243) -/

/-- Whether a tally add of a partial's line is still on its way. -/
def State.tallyOpen (s : State) (p : Partial) : Bool :=
  s.tallies.any (fun m => decide (p.tallyPa ≤ m.pa) && decide (m.pa < p.tallyPa + 32))

/-- EVICTION_ACK: the controller has written a dirty victim, or the adder has applied a partial and its tally add has been
accepted; the entry frees (R236, R255). -/
def execEvictionAck (slice : Fin 128) (line : Nat) (s : State) : Out :=
  let key := lineKey slice.val line
  match Table.find s.evicted key with
  | none => .next s
  | some (.dirty l) =>
    .next ({ s.writeBack line l with evicted := Table.erase s.evicted key }.lineFree slice.val line)
  | some (.part p sent) =>
    if !sent || s.inAdder line || s.tallyOpen p then .next s
    else .next ({ s with evicted := Table.erase s.evicted key }.lineFree slice.val line)

/-- HOME_RESPONSE_TIMEOUT: a snoop, a controller request or an adder request unanswered for 2^20 home-island cycles: the
line is poisoned and recorded, and what waits for it goes on (R243). -/
def execHomeResponseTimeout (slice : Fin 128) (line : Nat) (s : State) : Out :=
  let key := lineKey slice.val line
  let ctl := endpointId (ctlEndpoint (s.ctlOf (128 * line)))
  match s.snoops.find? (fun x => x.slice = slice.val && x.line = line) with
  | some x => .next (s.snoopLost x)
  | none =>
    match Table.find s.misses key, Table.find s.evicted key with
    | some m, _ =>
      if m.asked = [] then .next s
      else
        let m1 : Miss := { m with want := [], asked := [], arrived := [], poison := true }
        let s1 := (s.homeTimeout slice.val line ctl 1)
        let s2 := s1.updMc (s1.ctlOf (128 * line)) (fun c =>
          { c with reqs := c.reqs.filter (fun r => !(r.slice = slice.val && r.line = line)) })
        .next ({ s2 with misses := Table.set s2.misses key m1 }.closeMiss slice.val line)
    | none, some (.part _ true) =>
      let s1 := s.homeTimeout slice.val line ctl 1
      let s2 := s1.updMc (s1.ctlOf (128 * line)) (fun c => { c with rmws := c.rmws.filter (fun w => w.line ≠ line) })
      .next ({ s2 with evicted := Table.erase s2.evicted key, extPoison := addOnce line s2.extPoison }.lineFree slice.val line)
    | none, some (.dirty _) =>
      let s1 := s.homeTimeout slice.val line ctl 1
      .next ({ s1 with evicted := Table.erase s1.evicted key, extPoison := addOnce line s1.extPoison }.lineFree slice.val line)
    | _, _ => .next s

/-! ## Reductions in place (R254, R255, R299) -/

/-- RED_CONTRIBUTION: a contribution reaches its home (R254). -/
def execRedContribution (req : Nat) (s : State) : Out :=
  match Table.find s.reqs req with
  | none => .next s
  | some r => if r.kind = .red && r.stage = .sent && !r.gone then .next (s.homeTake req r .clean) else .next s

/-- ADDER_PARTIAL: the adder takes a partial from the buffer; a line in flight takes it in, else one of its 32
read-modify-writes starts (R255, R299). A partial kept in the slice may leave for the buffer at any time (R254). -/
def execAdderPartial (slice : Fin 128) (line : Nat) (s : State) : Out :=
  let key := lineKey slice.val line
  let s0 : State := match Table.find s.partials key, Table.find s.evicted key with
    | some p, none =>
      if s.evictCount slice.val < 32 then
        { s with partials := Table.erase s.partials key, evicted := Table.set s.evicted key (.part p false) }
      else s
    | _, _ => s
  match Table.find s0.evicted key with
  | some (.part p false) =>
    let m := s0.ctlOf (128 * line)
    let c := s0.mc m
    if s0.pkgLost line then
      let s1 := s0.partialLost slice.val line
      .next ({ s1 with evicted := Table.erase s1.evicted key }.lineFree slice.val line)
    else if !s0.inAdder line && (decide (32 ≤ c.rmws.length) || c.wiping) then .next s0
    else .next ({ s0 with evicted := Table.set s0.evicted key (.part p true) }.adderTake slice.val line p)
  | _ => .next s0

/-- ADDER_RMW_COMPLETE: the element line is written and its tally adds sent; each partial it carried is acknowledged once
they are accepted. A poisoned line takes nothing: the partial is dropped, recorded and acknowledged (R299). -/
def execAdderRmwComplete (pkg : Fin 32) (line : Nat) (ecc : Ecc) (s : State) : Out :=
  let m : Ctl := .lpd pkg
  match (s.mc m).rmws.find? (fun w => w.line = line) with
  | none => .next s
  | some w =>
    let s1 := match ecc with
      | .corrected => s.updMc m (fun x => { x with corrected := sat16 x.corrected 1 })
      | .transient => s.updMc m (fun x => { x with transient := sat16 x.transient 1 })
      | _ => s
    let s2 := s1.adderEnd w (ecc = .lasting)
    .next (w.slices.foldl (fun u i =>
      match Table.find u.evicted (lineKey i line) with
      | some (.part p true) =>
        if u.tallyOpen p then u else { u with evicted := Table.erase u.evicted (lineKey i line) }.lineFree i line
      | _ => u) s2)

/-- A tally word after a tally add: TALLY plus t modulo 2^16, OUT and INEXACT by OR (R255). -/
def tallyWord (w : Nat) (m : TallyMsg) : Nat :=
  let t := (bitsOf w 0 16 + m.t.toNat) % 2 ^ 16
  t + (if bitOf w 16 || m.out then 2 ^ 16 else 0) + (if bitOf w 17 || m.inexact then 2 ^ 17 else 0)

/-- TALLY_ADD: a tally add is applied at its word's home in one step and written as a WB-A line (R245, R255); a poisoned
line takes nothing (R419), and a page that is not the Suite's refuses it (R367). -/
def execTallyAdd (index : Nat) (s : State) : Out :=
  match listAt s.tallies index with
  | none => .next s
  | some m =>
    let s0 := { s with tallies := listDrop s.tallies index }
    let line := m.pa / 128
    let off := m.pa % 128
    let slice := s0.homeOf m.suite (128 * line)
    if s0.homeLost slice || !s0.rangeAllows m.suite m.pa 4 false then .next s0
    else
      let s1 := ((s0.settleLine slice line).snoopNow slice line true).portTaken slice 1
      let v := s1.viewLine slice line (sectorMask off 4)
      if v.2 then .next s1
      else
        let s2 := if s1.needsWay slice line .wbA then s1.forceWay slice line else s1
        .next (s2.writeLine slice line off (leBytes 4 (tallyWord (leNat ((v.1.drop off).take 4)) m)) .wbA false)

end Sys2Proof.Machine
end

