-- ==== Sys2Proof/Machine/Controllers.lean ====
section
/-! DEFINITION. The memory controllers (R283 to R310): entries, bursts with their codes and tags, retry, refresh,
calibration, slot maps, wipes and failure; and MSIs to the harts' interrupt files (R276). -/

namespace Sys2Proof.Machine

/-! ## MSIs (R276) -/

/-- The interrupt file a control-space address names: the hart, and none for the machine-level file or the number of the
supervisor-level (0) or guest (1 to 7) file. -/
def imsicFile (pa : Nat) : Option (Fin 128 × Option Nat) :=
  let o := pa - 0xF00028000000
  if pa < 0xF00028000000 then none
  else if o < 0x80000 then some (Fin.ofNat 128 (o / 0x1000), none)
  else if 0x4000000 ≤ o && o < 0x4400000 then
    some (Fin.ofNat 128 ((o - 0x4000000) / 0x8000), some ((o - 0x4000000) % 0x8000 / 0x1000))
  else none

/-- An MSI write under a Suite tag: accepted only from the Suite that owns the hart, or from tag 0 for a file that no
confidential VM uses; identities are 1 to 255. Any other is discarded. -/
def State.msiTo (s : State) (tag : BitVec 8) (addr : Nat) (data : W32) : State :=
  match imsicFile addr with
  | none => s
  | some (h, file) =>
    let x := s.hart h
    let used := match file with | none => false | some g => x.guestUsed.contains g
    let ok := tag = x.owner || (tag = 0 && !used)
    let id := data.toNat
    if !ok || id = 0 || 256 ≤ id || addr % 4096 ≠ 0 then s
    else
      let bit : BitVec 256 := BitVec.ofNat 256 (2 ^ id)
      let s1 := s.updHart h (fun y =>
        match file with
        | none => { y with imsicM := y.imsicM ||| bit }
        | some 0 => { y with imsicS := y.imsicS ||| bit }
        | some g => { y with imsicG := Table.set y.imsicG g (Table.get 0 y.imsicG g ||| bit) })
      { s1 with msis := (BitVec.ofNat 64 addr, data) :: s1.msis }

/-- MSI_WRITE (R276). -/
def execMsiWrite (tag : BitVec 8) (addr : PA) (data : W32) (s : State) : Out :=
  .next (if s.on then s.msiTo tag addr.toNat data else s)

/-- The MSI that an MSI register asks for: [0] enable, [47:12] address, [55:48] identity, sent with tag 0. -/
def State.msiFrom (s : State) (reg : W64) : State :=
  if bitOf reg.toNat 0 then s.msiTo 0 (bitsOf reg.toNat 12 36 * 4096) (BitVec.ofNat 32 (bitsOf reg.toNat 48 8)) else s

/-! ## Request entries (R294, R296) -/

/-- The entries of a controller, and those held for its own work. -/
def ctlEntries : Ctl → Nat × Nat
  | .lpd _ => (512, 32)
  | .ddr _ => (128, 16)

/-- Reserved entries of a Suite (LPD_CRED_MAP). -/
def Mc.res (c : Mc) (suite : Nat) : Nat := bitsOf (Table.get 0 c.credMap (suite / 8)).toNat (8 * (suite % 8)) 8

/-- All reserved entries. -/
def Mc.resSum (c : Mc) : Nat := ((List.range 256).map c.res).foldl (fun a b => a + b) 0

/-- The entry a request of a Suite takes: a reserved one (true), a pool one (false), or none. -/
def Mc.entryFor (c : Mc) (m : Ctl) (suite : BitVec 8) : Option Bool :=
  let mine := (c.reqs.filter (fun r => r.reserved && r.suite = suite)).length
  let pool := (c.reqs.filter (fun r => !r.reserved)).length
  let size := (ctlEntries m).1 - (ctlEntries m).2 - c.resSum
  if mine < c.res suite.toNat then some true
  else if !c.strict && pool < size then some false
  else none

/-- The channel of a package that holds a line (R284); a DDR5 channel is one. -/
def State.channelOf (s : State) (line : Nat) : Nat :=
  match s.ctlOf (128 * line) with
  | .lpd _ => bitsOf (s.lpdPlace (128 * line)).2 11 2
  | .ddr _ => 0

/-- A line lies in DDR5. -/
def isDdr : Ctl → Bool
  | .lpd _ => false
  | .ddr _ => true

/-- CONTROLLER_READ_REQUEST: the controller takes the next sector a miss entry asks for, into a reserved or a pool entry;
with neither free it waits (R294). A DDR5 line is asked for whole (R304), and so is a STREAM miss, as one run request (R285). Nothing is taken during a full wipe (R307). -/
def execControllerReadRequest (slice : Fin 128) (line : Nat) (sector : Fin 4) (s : State) : Out :=
  let key := lineKey slice.val line
  match Table.find s.misses key with
  | none => .next s
  | some m =>
    let ctl := s.ctlOf (128 * line)
    let c := s.mc ctl
    if m.want.head? ≠ some sector.val || c.wiping then .next s
    else
      match c.entryFor ctl m.suite with
      | none => .next s
      | some own =>
        let run := !isDdr ctl && m.attr = .stream
        let take := if isDdr ctl || run then m.want else [sector.val]
        let q : CtlReq := { slice := slice.val, line := line, sector := sector.val, suite := m.suite, reserved := own, run := run }
        let (tagMiss, s1) := s.drawBool
        let n := if isDdr ctl then 2 else take.length + (if tagMiss && m.asked = [] && m.filled = [] then 1 else 0)
        let s2 := s1.updMc ctl (fun x => { x with reqs := x.reqs ++ [q], bursts := x.bursts + BitVec.ofNat 48 n })
        .next { s2 with misses := Table.set s2.misses key
                          { m with want := m.want.filter (fun x => !take.contains x), asked := m.asked ++ take } }

/-! ## Bursts (R289, R292, R293) -/

/-- A truth value as a number. -/
def natOfBool (b : Bool) : Nat := if b then 1 else 0

/-- The place of a line's sector for a record: package and [1:0] channel, [2] sub-channel, [6:3] bank, [26:7] row; or the
DDR5 channel (R412). -/
def State.burstPlace (s : State) (line sector : Nat) : BitVec 16 × W32 :=
  match s.ctlOf (128 * line) with
  | .lpd p =>
    let o := (s.lpdPlace (128 * line)).2 + 32 * sector
    let bank := bitsOf o 13 4 ^^^ bitsOf o 17 4
    (BitVec.ofNat 16 p.val, BitVec.ofNat 32 (bitsOf o 11 2 + 4 * natOfBool (bitOf o 5) + 8 * bank + 128 * bitsOf o 17 20))
  | .ddr c => (BitVec.ofNat 16 (0x8000 + c.val), BitVec.ofNat 32 (4 * (sector / 2)))

/-- A lasting error of a line (R244, R292, R293): its copy in memory becomes poisoned, and with it what slices hold of it; it is
counted and recorded. -/
def State.lastingError (s : State) (suite : BitVec 8) (line sector : Nat) (integrity : Bool) : State :=
  let ctl := s.ctlOf (128 * line)
  let pl := s.burstPlace line sector
  let rep : RasRep :=
    { RasRep.zero with
      cause := if integrity then 2 else 1, outcome := 1, suite := suite, gen := s.genOf suite,
      subject := endpointId (ctlEndpoint ctl), locA := pl.1, locB := pl.2, addr := BitVec.ofNat 64 (128 * line + 32 * sector) }
  let s1 := s.updMc ctl (fun x =>
    { x with poisoned := sat16 x.poisoned 1, integrity := if integrity then sat16 x.integrity 1 else x.integrity })
  { s1 with
    extPoison := addOnce line s1.extPoison,
    lines := Table.mapVals (fun k l => if k % 2 ^ 41 = line then { l with poison := true } else l) s1.lines,
    evicted := Table.mapVals (fun k e => match e with
      | .dirty l => if k % 2 ^ 41 = line then .dirty { l with poison := true } else e
      | _ => e) s1.evicted }.report (ctlEndpoint ctl) rep

/-- What one attempt gives of a sector: judged, with its 32 bytes. On DDR5 the sector lies in a half and both are judged. The check
symbols stand over the ciphertext (R290); both codes are linear, so the verdict and what the code leaves wrong are those of any
codeword, and what it leaves wrong is deciphered with the line. -/
def State.readAttempt (s : State) (line sector : Nat) (b : Burst) : CodeRead × List Byte :=
  let d := s.extLine line
  let poison := s.extPoison.contains line
  let err := fun i => listGet [] b.sectors i
  let out := fun (whole : List Byte) =>
    let back := if whole = d then d else s.residueLine line ((List.range 128).map (fun i => listGet 0 whole i ^^^ listGet 0 d i))
    (back.drop (32 * sector)).take 32
  if isDdr (s.ctlOf (128 * line)) then
    let j := fun h => readHalf poison (err h)
    let worst : CodeRead := match j 0, j 1 with
      | .bad, _ => .bad
      | _, .bad => .bad
      | .poisoned, _ => .poisoned
      | _, .poisoned => .poisoned
      | .fixed es, _ => .fixed es
      | _, x => x
    (worst, out (halfData (d.take 64) (err 0) (j 0) ++ halfData (d.drop 64) (err 1) (j 1)))
  else
    let r := readSector ((d.drop (32 * sector)).take 32) poison (err sector)
    (r.1, out (splice d (32 * sector) r.2))

/-- Whether the tag of a line agrees with what was read of it: bytes by sector, and the wrong bits of the tag read (R292, R370). -/
def State.tagOk (s : State) (line : Nat) (sectors : List (Nat × List Byte)) (err : W32) : Bool :=
  let whole := sectors.foldl (fun d q => splice d (32 * q.1) q.2) (s.extLine line)
  if whole = s.extLine line then s.tagMatches line err
  else (s.storedTag line ^^^ err) = lineTag (s.keyNow line) line (xtsLine true (s.keyNow line) line whole)

/-- The sectors one request brings: one of LPDDR6, all that were asked of DDR5. -/
def Miss.brings (m : Miss) (ddr : Bool) (sector : Nat) : List Nat := if ddr then m.asked else [sector]

/-- The miss entry after sectors have come, with their bytes, clean or poisoned. -/
def State.sectorsCome (s : State) (key : Nat) (m : Miss) (ss : List Nat) (bytes : Nat → List Byte) (poison : Bool) : State :=
  { s with misses := Table.set s.misses key
             { m with asked := m.asked.filter (fun q => !ss.contains q), arrived := m.arrived ++ ss.map (fun q => (q, bytes q)),
                      poison := m.poison || poison } }

/-- SECTOR_BURST_RETURN: a burst returns and is checked. A correctable one is corrected and counted; an uncorrectable one
is read once more at once; one that fails again is lasting (R289, R293). With the fourth sector of a line, on DDR5
with every burst, the tag is checked and retried the same way (R292, R306). Poison is not retried, nor is anything of a failed package (R293, R427). -/
def execSectorBurstReturn (slice : Fin 128) (line : Nat) (sector : Fin 4) (first retry : Burst) (s : State) : Out :=
  let key := lineKey slice.val line
  let ctl := s.ctlOf (128 * line)
  let here := fun (r : CtlReq) => r.slice = slice.val && r.line = line && (r.run || r.sector = sector.val)
  match Table.find s.misses key with
  | none => .next s
  | some m =>
    let c := s.mc ctl
    if !c.reqs.any here || !m.asked.contains sector.val || c.paused.getLsbD (s.channelOf line) then .next s
    else
      let s0 := s.updMc ctl (fun x => { x with reqs := x.reqs.filter (fun r => !here r || (r.run && m.asked ≠ [sector.val])) })
      let ss := m.brings (isDdr ctl) sector.val
      let zero := fun (_ : Nat) => List.replicate 32 (0 : Byte)
      if s.pkgLost line then .next (s0.sectorsCome key m ss zero true)
      else
        let a := s0.readAttempt line sector.val first
        let last := isDdr ctl || decide ((m.filled.length + m.arrived.length + ss.length) = 4)
        let tagBad := fun (b : Burst) =>
          last && !s0.tagOk line (m.filled ++ m.arrived ++ ss.map (fun q => (q, (s0.readAttempt line q b).2))) b.tagErr
        let count := fun (t : State) (f : Mc → Mc) => t.updMc ctl f
        match a.1 with
        | .poisoned => .next (s0.sectorsCome key m ss (fun q => (s0.readAttempt line q first).2) true)
        | .bad =>
          let b := s0.readAttempt line sector.val retry
          let again := match b.1 with | .bad => true | .poisoned => false | _ => tagBad retry
          if again then .next ((s0.lastingError m.suite line sector.val false).sectorsCome key m ss zero true)
          else
            .next ((count s0 (fun x => { x with transient := sat16 x.transient 1 })).sectorsCome key m ss
              (fun q => (s0.readAttempt line q retry).2) (b.1 = .poisoned))
        | r =>
          let s1 := match r with
            | .fixed _ => count s0 (fun x => { x with corrected := sat16 x.corrected 1 })
            | _ => s0
          let data := fun q => (s1.readAttempt line q first).2
          if !tagBad first then .next (s1.sectorsCome key m ss data false)
          else if !tagBad retry then
            .next ((count s1 (fun x => { x with transient := sat16 x.transient 1 })).sectorsCome key m ss data false)
          else .next ((s1.lastingError m.suite line sector.val true).sectorsCome key m ss data true)

/-- REFRESH: a due per-bank refresh is issued; that of a failed package has stopped (R283, R427). -/
def execRefresh (m : Ctl) (channel : Fin 4) (_bank : Fin 16) (s : State) : Out :=
  let c := s.mc m
  if !s.on || c.failed || c.paused.getLsbD channel.val then .next s
  else .next (s.updMc m (fun x => { x with refreshes := x.refreshes + 1 }))

/-! ## Calibration (R300 to R302) -/

/-- A channel the controller has. -/
def hasChannel (m : Ctl) (channel : Fin 4) : Bool := !isDdr m || channel.val = 0

/-- The bit of a channel. -/
def chBit (channel : Nat) : BitVec 4 := BitVec.ofNat 4 (2 ^ channel)

/-- Start a channel's pause, or let it wait for the one that pauses: no two channels of a package pause at once. -/
def Mc.startPause (c : Mc) (channel : Nat) : Mc :=
  if c.paused = 0 then { c with paused := chBit channel } else { c with calWait := c.calWait ||| chBit channel }

/-- CALIBRATION_PAUSE: in hardware mode a channel pauses when it has nothing queued, or at the window's deadline. -/
def execCalibrationPause (m : Ctl) (channel : Fin 4) (idle : Bool) (s : State) : Out :=
  let c := s.mc m
  let queued := c.reqs.any (fun r => s.channelOf r.line = channel.val)
  if !s.on || c.failed || c.calMode || !hasChannel m channel || (idle && queued) || c.paused.getLsbD channel.val then .next s
  else .next (s.updMc m (fun x => x.startPause channel.val))

/-- CALIBRATION_DUE: in host-assisted mode a window starts: DUE is set, and the MSI sent. -/
def execCalibrationDue (m : Ctl) (channel : Fin 4) (s : State) : Out :=
  let c := s.mc m
  if c.failed || !c.calMode || !hasChannel m channel then .next s
  else .next ((s.updMc m (fun x => { x with due := x.due ||| chBit channel.val })).msiFrom c.calMsi)

/-- The channels whose GO is written and DUE is set start their pauses, DUE clears. -/
def Mc.go (c : Mc) (m : Ctl) (mask : BitVec 4) : Mc :=
  (List.finRange 4).foldl (fun x ch =>
    if mask.getLsbD ch.val && x.due.getLsbD ch.val && hasChannel m ch then
      ({ x with due := x.due &&& ~~~(chBit ch.val) } : Mc).startPause ch.val
    else x) c

/-- CALIBRATION_GO: a write of LPD_CAL or DDR_CAL GO by Suite 0 or the Hearth (R301, R309). -/
def execCalibrationGo (agent : Agent) (m : Ctl) (mask : BitVec 4) (s : State) : Out :=
  s.regCommand agent (ctlEndpoint m) (suite0OrHearth agent) (fun t => t.updMc m (fun x => x.go m mask))

/-- CALIBRATION_DEADLINE: DUE is still set at the deadline, and the controller starts the pause itself. -/
def execCalibrationDeadline (m : Ctl) (channel : Fin 4) (s : State) : Out :=
  let c := s.mc m
  if c.failed || !c.calMode || !c.due.getLsbD channel.val then .next s
  else
    .next (s.updMc m (fun x =>
      ({ x with due := x.due &&& ~~~(chBit channel.val), forced := sat16 x.forced 1 } : Mc).startPause channel.val))

/-- CALIBRATION_DONE: a pause ends and is counted; a channel that waited for it pauses next. -/
def execCalibrationDone (m : Ctl) (channel : Fin 4) (s : State) : Out :=
  let c := s.mc m
  if !c.paused.getLsbD channel.val then .next s
  else
    let nxt := (List.range 4).find? (fun i => c.calWait.getLsbD i)
    .next (s.updMc m (fun x =>
      { x with
        calDone := sat16 x.calDone 1,
        paused := match nxt with | some i => chBit i | none => 0,
        calWait := match nxt with | some i => x.calWait &&& ~~~(chBit i) | none => x.calWait }))

/-- SLOT_MAP_APPLY: a new slot map takes effect at the frame boundary (R298). -/
def execSlotMapApply (m : Ctl) (s : State) : Out :=
  match (s.mc m).nextMap with
  | none => .next s
  | some (strict, map) => .next (s.updMc m (fun x => { x with strict := strict, slotMap := map, nextMap := none }))

/-! ## Wipes (R307, R308) -/

/-- Start a full wipe. -/
def Mc.startFull (c : Mc) : Mc := { c with wiping := true, wipePage := none, wipeDone := false, progress := 0 }

/-- Start a page wipe. -/
def Mc.startPage (c : Mc) (page : Nat) : Mc := { c with wiping := false, wipePage := some page, wipeDone := false }

/-- FULL_WIPE: LPD_WIPE or DDR_WIPE with CMD 1, by the Hearth. A unit out of service is not wiped. -/
def execFullWipe (agent : Agent) (m : Ctl) (s : State) : Out :=
  s.regCommand agent (ctlEndpoint m) (agent = .hearth) (fun t => if (s.mc m).inService then t.updMc m Mc.startFull else t)

/-- PAGE_WIPE: LPD_WIPE or DDR_WIPE with CMD 2, by the Hearth. -/
def execPageWipe (agent : Agent) (m : Ctl) (page : BitVec 27) (s : State) : Out :=
  s.regCommand agent (ctlEndpoint m) (agent = .hearth) (fun t => t.updMc m (fun x => x.startPage page.toNat))

/-- The controller of a key. -/
def ctlOfKey (k : Nat) : Ctl := if k < 32 then .lpd (Fin.ofNat 32 k) else .ddr (Fin.ofNat 12 (k - 32))

/-- Every controller with no wipe running starts that of the next changed page that waits for it (R368). -/
def State.kickWipes (s : State) : State :=
  let start := fun (t : State) (k : Nat) =>
    let c := t.mc (ctlOfKey k)
    match t.hearth.changes.find? (fun y => y.waiting.contains k) with
    | none => t
    | some y => if c.wiping || c.wipePage.isSome then t else t.updMc (ctlOfKey k) (fun x => x.startPage y.page)
  (List.range 44).foldl start s

/-- A controller is no longer waited for in the change of a page, or of any page where none is given. -/
def State.wipeReported (s : State) (k : Nat) (page : Option Nat) : State :=
  s.updHearth (fun h =>
    { h with changes := h.changes.map (fun y =>
        if page = none || page = some y.page then { y with waiting := dropAll k y.waiting } else y) })

/-- WIPE_DONE: the running wipe ends: every byte of the controller's memory, or of its part of the page, reads zero, and
DONE is set. -/
def execWipeDone (m : Ctl) (s : State) : Out :=
  let c := s.mc m
  if c.wiping then
    let full : W32 := match m with
      | .lpd _ => 4096
      | .ddr k => BitVec.ofNat 32 (Table.get 0 (s.parlour (Fin.ofNat 2 (k.val / 6))).chCap (k.val % 6))
    .next ((s.wipeFull m).updMc m (fun x => { x with wiping := false, wipeDone := true, progress := full }))
  else
    match c.wipePage with
    | none => .next s
    | some p =>
      let s1 := (s.wipePart p m).updMc m (fun x => { x with wipePage := none, wipeDone := true })
      .next (s1.wipeReported (ctlKey m) (some p)).kickWipes

/-- The Hearth records a loss in the flash fault list; while a firmware write is open the record waits (R429, R445). -/
def State.listFault (s : State) (kind num : Nat) : State :=
  s.updHearth (fun h =>
    if (h.faultList ++ h.faultWait).contains (kind, num) then h
    else if h.fwState = 1 || h.fwState = 2 || h.fwState = 3 then { h with faultWait := h.faultWait ++ [(kind, num)] }
    else { h with faultList := h.faultList ++ [(kind, num)] })

/-- PACKAGE_FAILURE: a package or DDR5 channel fails until the next module reset (R427); the Hearth lists it (R429). -/
def execPackageFailure (m : Ctl) (trigger : BitVec 8) (s : State) : Out :=
  if !s.on || (s.mc m).failed || !(trigger = 1 || trigger = 2) then .next s
  else
    let s0 := s.updMc m (fun x => { x with failed := true, chUp := 0, paused := 0, calWait := 0, due := 0, wipePage := none })
    let s1 := s0.wipeReported (ctlKey m) none
    let (kind, num) := match m with | .lpd p => (2, p.val) | .ddr c => (5, c.val)
    let s2 := s1.listFault kind num
    .next (s2.reportLost (ctlEndpoint m) kind num trigger.toNat (endpointId (ctlEndpoint m)) none)

end Sys2Proof.Machine
end

