-- ==== Sys2Proof/Machine/Maint.lean ====
section
/-! DEFINITION. Slice and read-only cache enables (R246, R247), the maintenance engine (R248 to R251), and writes that are
dropped (R421). -/

namespace Sys2Proof.Machine

/-! ## Enables -/

/-- Whether an agent may write ENABLE of a slice (R257). -/
def State.sliceWriter (s : State) (a : Agent) (slice : Nat) : Bool :=
  match a with
  | .hearth => true
  | .suite n => (s.slice slice).owned && (s.slice slice).suite = n
  | _ => false

/-- ENABLE = 1 (R246): only over a clean state, else refused and shown. -/
def SliceReg.turnOn (x : SliceReg) : SliceReg :=
  if x.cleanState then { x with enable := true } else { x with refused := true }

/-- The lines of a slice with a transaction in flight. -/
def State.sliceBusyLines (s : State) (slice : Nat) : List Nat :=
  (((Table.keys s.misses ++ Table.keys s.busyLines).filter (fun k => k / 2 ^ 41 = slice)).map (fun k => k % 2 ^ 41)
    ++ (s.snoops.filter (fun (x : Snoop) => x.slice = slice)).map Snoop.line).dedup

/-- Write back and drop every line of a slice. -/
def State.emptySlice (s : State) (slice : Nat) : State :=
  let here := fun (k : Nat) => decide (k / 2 ^ 41 = slice)
  let keys := ((Table.keys s.lines ++ Table.keys s.evicted ++ Table.keys s.partials).filter here).dedup
  keys.foldl (fun t k => (t.settleLine slice (k % 2 ^ 41)).cleanDrop slice (k % 2 ^ 41)) s

/-- A slice about to change owner gives up everything it holds or has in flight: what waits there is taken again at its line's new home
(R225). -/
def State.releaseSlice (s : State) (slice : Nat) : State :=
  let s1 := (s.sliceBusyLines slice).foldl (fun t line => t.settleSnoops slice line) s
  let s2 := s1.emptySlice slice
  let here := fun (k : Nat) => decide (k / 2 ^ 41 = slice)
  let joined := (s2.misses.filter (fun e => here e.1)).flatMap (fun e => e.2.joined)
  { s2 with
    misses := s2.misses.filter (fun e => !here e.1), busyLines := s2.busyLines.filter (fun e => !here e.1),
    dirs := s2.dirs.filter (fun e => !here e.1),
    mcs := Table.mapVals (fun _ c => { c with reqs := c.reqs.filter (fun r => r.slice ≠ slice) }) s2.mcs,
    reqs := Table.mapVals (fun k r => if joined.contains k then { r with stage := .sent } else r) s2.reqs }

/-- ENABLE = 0 (R246): every line is written back and dropped, then the slice is disabled. -/
def State.turnOff (s : State) (slice : Nat) : State :=
  (s.emptySlice slice).updSlice slice (fun x => { x with enable := false, cleanState := false })

/-- SLICE_ENABLE: a write of ENABLE = 1. -/
def execSliceEnable (agent : Agent) (slice : Fin 128) (s : State) : Out :=
  s.regCommand agent (homeEndpoint slice.val) (s.sliceWriter agent slice.val) (fun t => t.updSlice slice.val SliceReg.turnOn)

/-- SLICE_DISABLE: a write of ENABLE = 0. -/
def execSliceDisable (agent : Agent) (slice : Fin 128) (s : State) : Out :=
  s.regCommand agent (homeEndpoint slice.val) (s.sliceWriter agent slice.val) (fun t => t.turnOff slice.val)

/-- CORE_ROC_CTL.ENABLE = 1 (R247). -/
def Core.rocOn (c : Core) : Core := if c.rocClean then { c with rocEnable := true } else { c with rocRefused := true }

/-- CORE_ROC_CTL.INVAL = 1 (R247): every line is dropped, and CLEAN_STATE is set. -/
def State.rocInvalidate (s : State) (c : CoreId) : State := (s.dropRoc c).updCore c (fun x => { x with rocClean := true })

/-- ROC_ENABLE: a write of CORE_ROC_CTL.ENABLE = 1, by the Suite that owns the Room or the Hearth. -/
def execRocEnable (agent : Agent) (c : CoreId) (s : State) : Out :=
  s.regCommand agent (.core c) (s.roomWriter agent c.room) (fun t => t.updCore c Core.rocOn)

/-- ROC_INVAL: a write of CORE_ROC_CTL.INVAL = 1. -/
def execRocInval (agent : Agent) (c : CoreId) (s : State) : Out :=
  s.regCommand agent (.core c) (s.roomWriter agent c.room) (fun t => t.rocInvalidate c)

/-! ## The maintenance engine -/

/-- A maintenance slot of a Wing. -/
def State.maint (s : State) (wing : Fin 8) (n : Nat) : Maint := Table.get Maint.reset (s.wing wing).maint n

/-- Change a maintenance slot. -/
def State.updMaint (s : State) (wing : Fin 8) (n : Nat) (f : Maint → Maint) : State :=
  s.updWing wing (fun w => { w with maint := Table.upd Maint.reset w.maint n f })

/-- A read by the Hearth at a physical address, at the page owner's home. -/
def State.hearthRead (s : State) (pa n : Nat) : (List Byte × Bool) × State := s.sysRead (s.page pa).owner pa n .wbNA

/-- A write by the Hearth at a physical address. -/
def State.hearthWrite (s : State) (pa : Nat) (bs : List Byte) : State := s.sysWrite (s.page pa).owner pa bs .wbNA false

/-- UC_MNT_GO (R248): a busy slot ignores it; else the slot becomes busy for the writer's Suite, or for the Suite that word
3 of the descriptor names when the Hearth writes. -/
def State.mntGo (s : State) (wing : Fin 8) (a : Agent) (v : W64) : State :=
  let n := bitsOf v.toNat 0 3
  let desc := bitsOf v.toNat 5 43 * 32
  if (s.maint wing n).busy then s.acceptedAccess
  else
    let start := fun (t : State) (own : BitVec 8) (byHearth : Bool) =>
      t.acceptedAccess.updMaint wing n (fun x =>
        { Maint.reset with busy := true, owner := own, byHearth := byHearth, status := x.status, desc := BitVec.ofNat 64 desc })
    match a with
    | .suite k => start s k false
    | .hearth =>
      let r := s.hearthRead desc 32
      start r.2 (BitVec.ofNat 8 (wordAt (wordsOf r.1.1) 3)) true
    | _ => s.refusedAccess

/-- The fields of a maintenance descriptor obey R249. -/
def mntFormOk (ws : List W64) (byHearth : Bool) : Bool :=
  let w1 := wordAt ws 1
  let op := bitsOf w1 40 4
  let target := bitsOf w1 44 2
  let len := bitsOf w1 0 40
  bitsOf w1 46 18 = 0 && decide (1 ≤ op) && decide (op ≤ 6) && decide (target ≤ 1) && len % 128 = 0 && wordAt ws 0 % 128 = 0
    && (target = 0 || (decide (op ≤ 3) && wordAt ws 0 = 0 && len = 0)) && wordAt ws 2 % 8 = 0
    && bitsOf (wordAt ws 3) 8 56 = 0 && (byHearth || wordAt ws 3 = 0)

/-- Every Parlour drops its copies of a line, dirty data included. -/
def State.snoopDrop (s : State) (slice line : Nat) : State :=
  let s1 := (List.finRange 2).foldl (fun t n => (t.updParlour n (fun p => p.snooped true line)).dropReservations n line) s
  s1.setDir slice line .i

/-- One line's step of an operation (R250): 1 CLEAN, 2 INVAL, 3 CLEAN_INVAL, 4 ZERO, 5 PREFETCH, 6 LAST. It enters by port 2 (R233),
and what the line has in flight ends first. -/
def State.mntLine (s : State) (op slice line : Nat) : State :=
  let t := (s.settleSnoops slice line).portTaken slice 2
  match op with
  | 1 => ((t.settlePartial slice line).snoopNow slice line false).cleanLine slice line
  | 2 => ((t.dropPartial slice line).snoopDrop slice line).dropLine slice line
  | 3 => ((t.settlePartial slice line).snoopNow slice line true).cleanDrop slice line
  | 4 => (((t.dropPartial slice line).snoopDrop slice line).dropLine slice line).extWrite line 0 (List.replicate 128 0) false
  | 5 => if (t.partialOf (lineKey slice line)).isSome then t else t.fillLine slice line
  | _ => (t.dropPartial slice line).dropLine slice line

/-- Every line that a slice, its buffer, its partials or its directory part hold. -/
def State.sliceLines (s : State) (slice : Nat) : List Nat :=
  let here := fun (k : Nat) => decide (k / 2 ^ 41 = slice)
  ((Table.keys s.lines ++ Table.keys s.evicted ++ Table.keys s.partials ++ Table.keys s.dirs).filter here).dedup.map (fun k => k % 2 ^ 41)

/-- An operation on every line of a set of slices. -/
def State.mntSlices (s : State) (op : Nat) (slices : List Nat) : State :=
  slices.foldl (fun t i => (t.sliceLines i).foldl (fun u line => u.mntLine op i line) t) s

/-- A slice that holds no line after INVAL or CLEAN_INVAL of TARGET 1 has completed is in the clean state (R246). -/
def State.cleanState (s : State) (slice : Nat) : State :=
  if (s.sliceKeys slice) = [] then s.updSlice slice (fun x => { x with cleanState := true }) else s

/-- An operation on one page's part of a range, already translated: the lines in turn. -/
def State.mntPage (s : State) (op : Nat) (suite : BitVec 8) (pa n : Nat) : State :=
  (linePieces pa n).foldl (fun t q => t.mntLine op (t.homeOf suite (128 * q.1)) q.1) s

/-- A range, page by page: the status, the faulting address and the physical ranges handled, lines already done staying done (R250).
DEV pages are skipped, RED lines only by PREFETCH. A physical range of the Hearth needs memory behind it (R12). -/
def State.mntRange (s : State) (op : Nat) (suite : BitVec 8) (byHearth : Bool) :
    List (Nat × Nat) → (Nat × Nat × List (Nat × Nat)) × State
  | [] => ((0, 0, []), s)
  | (va, n) :: rest =>
    let on := fun (t : State) (pa : Nat) =>
      let r := State.mntRange (t.mntPage op suite pa n) op suite byHearth rest
      ((r.1.1, r.1.2.1, (pa, n) :: r.1.2.2), r.2)
    if byHearth then
      if !s.memBacked va then ((1, va, []), s) else on s va
    else
      let r := s.locate suite va (op = 4) false
      match r.1 with
      | none => ((1, va, []), r.2)
      | some l =>
        if !r.2.rangeAllows suite l.pa n (op ≠ 4) && l.region.attr ≠ .dev then ((1, va, []), r.2)
        else if l.region.attr = .dev || (l.region.attr = .red && op = 5) then State.mntRange r.2 op suite byHearth rest
        else on r.2 l.pa

/-- The work of a slot whose descriptor asks for `op`: its status, faulting address and DONE_ADDR. A descriptor that
breaks R249 ends it with REFUSED, one that cannot be read with FAULT. -/
def runMaint (op : Nat) (wing : Fin 8) (slot : Fin 8) (s : State) : Out :=
  let x := s.maint wing slot.val
  if !x.busy || x.started then .next s
  else
    let r : Option (List Byte) × State :=
      if x.byHearth then
        let q := s.hearthRead x.desc.toNat 32
        (if q.1.2 then none else some q.1.1, q.2)
      else s.gRead x.owner x.desc.toNat 32
    let fin := fun (t : State) (st va done : Nat) (ranges : List (Nat × Nat)) (slices : List Nat) =>
      t.updMaint wing slot.val (fun y =>
        { y with started := true, result := BitVec.ofNat 8 st, faultVa := BitVec.ofNat 64 va, doneAddr := BitVec.ofNat 64 done,
                 ranges := ranges, slices := slices })
    match r.1 with
    | none => .next (fin r.2 1 x.desc.toNat 0 [] [])
    | some bs =>
      let ws := wordsOf bs
      if !mntFormOk ws x.byHearth then .next (fin r.2 2 0 (if wordAt ws 2 % 8 = 0 then wordAt ws 2 else 0) [] [])
      else if bitsOf (wordAt ws 1) 40 4 ≠ op then .next s
      else if bitsOf (wordAt ws 1) 44 2 = 1 then
        let slices := sliceList (r.2.suite x.owner).slices
        .next (fin (r.2.mntSlices op slices) 0 0 (wordAt ws 2) [(0, 2 ^ 48)] (if op = 2 || op = 3 then slices else []))
      else
        let q := r.2.mntRange op x.owner x.byHearth (pagePieces (wordAt ws 0) (bitsOf (wordAt ws 1) 0 40))
        .next (fin q.2 q.1.1 q.1.2.1 (wordAt ws 2) q.1.2.2 [])

/-- CLEAN (R250). -/
def execClean (wing slot : Fin 8) (s : State) : Out := runMaint 1 wing slot s

/-- INVAL (R250). -/
def execInval (wing slot : Fin 8) (s : State) : Out := runMaint 2 wing slot s

/-- CLEAN_INVAL (R250). -/
def execCleanInval (wing slot : Fin 8) (s : State) : Out := runMaint 3 wing slot s

/-- ZERO (R250). -/
def execZero (wing slot : Fin 8) (s : State) : Out := runMaint 4 wing slot s

/-- PREFETCH (R250). -/
def execPrefetch (wing slot : Fin 8) (s : State) : Out := runMaint 5 wing slot s

/-- LAST (R250). -/
def execLast (wing slot : Fin 8) (s : State) : Out := runMaint 6 wing slot s

/-- The completion word (R251). -/
def mntWord (x : Maint) : Nat := x.result.toNat + (if x.result = 1 then x.faultVa.toNat / 256 * 256 else 0)

/-- A tally add that the adders owe for lines a slot has handled is still on its way (R251, R255, R256). -/
def State.mntOwes (s : State) (x : Maint) : Bool :=
  s.tallies.any (fun m => m.suite = x.owner && x.ranges.any (fun r => decide (r.1 < 128 * m.line + 128) && decide (128 * m.line < r.1 + r.2)))

/-- MAINTENANCE_COMPLETE: once every adder update is acknowledged, the completion word is written at DONE_ADDR and the slot leaves
BUSY (R251); the slices that INVAL or CLEAN_INVAL has left empty are in the clean state (R246). -/
def execMaintenanceComplete (wing slot : Fin 8) (s : State) : Out :=
  let x := s.maint wing slot.val
  if !x.busy || !x.started || s.mntOwes x then .next s
  else
    let bs := leBytes 8 (mntWord x)
    let s0 := x.slices.foldl State.cleanState s
    let s1 := if x.doneAddr = 0 then s0
      else if x.byHearth then s0.hearthWrite x.doneAddr.toNat bs
      else (s0.gWrite x.owner x.doneAddr.toNat bs).2
    .next (s1.updMaint wing slot.val (fun y => { y with busy := false, started := false, status := y.result }))

/-! ## Writes that never land (R421) -/

/-- Whether the reason given for a drop holds: 0 a DEV target or another Room that does not answer, 1 a lost unit, 2 a
failed package, 3 a refusal. -/
def State.dropHolds (s : State) (r : Req) (reason : BitVec 2) : Bool :=
  let far := match r.owner, r.room with | .dma g _ _, some x => g.core.room != x | _, _ => false
  let line := r.addr / 128
  let slice := s.reqHome r
  match reason.toNat with
  | 0 => r.attr = .dev || far
  | 1 => (match r.room with | some x => (s.room x).lost | none => s.homeLost slice || (s.pkgLost line && !(s.mc (s.ctlOf r.addr)).failed))
  | 2 => r.room = none && (s.mc (s.ctlOf r.addr)).failed
  | _ => r.room = none && !s.pageAllows r.suite r.addr false

/-- WRITE_DROPPED: a store, DMA write, atomic or contribution that will never land is dropped and counts as performed (R109,
R151, R421). A hart's device store is dropped by its own row. -/
def execWriteDropped (req : Nat) (reason : BitVec 2) (s : State) : Out :=
  match Table.find s.reqs req with
  | none => .next s
  | some r =>
    let open_ := r.stage ≠ .answered || r.gone
    let hart := match r.owner with | .hart _ => true | _ => false
    if r.kind = .read || !open_ || hart || !s.dropHolds r reason then .next s
    else
      let subject : BitVec 16 := match r.room with
        | some x => endpointId (.hall x)
        | none => if reason = 3 then endpointId (homeEndpoint (s.reqHome r)) else if reason = 0 then 0 else endpointId (ctlEndpoint (s.ctlOf r.addr))
      .next (s.dropWrite req reason subject)

end Sys2Proof.Machine
end

