-- ==== Sys2Proof/Machine/ParlourRows.lean ====
section
/-! DEFINITION. The commands of the Parlour harts: loads, stores, LR, SC, AMOs, cache-block operations, MSEND, the
monitor's calls and the time counters (R43, R47, R49, R262 to R279, R441). -/

namespace Sys2Proof.Machine

/-! ## Loads and stores -/

/-- A hart that runs and waits for nothing that orders a later instruction. An MSEND without its answer orders none (R278). -/
def State.hartReady (s : State) (h : Fin 128) : Bool :=
  (s.hart h).running && (s.hart h).wait = .none && (s.hart h).lateTrap = none

/-- The first byte of an access's NC pieces that fails the home's check of R367, or whose home is lost. -/
def State.ncRefused (s : State) (h : Fin 128) (a : HartAcc) (isRead : Bool) : Option W64 :=
  let tag := (s.hart h).tag
  ((hartNc a).find? (fun q => !s.rangeAllows tag q.2.1 q.2.2 isRead || s.homeLost (s.homeOf tag q.2.1))).map
    (fun q => a.va + BitVec.ofNat 64 q.1)

/-- A hart's request to a DEV target or an atomic at its home. -/
def State.hartSend (s : State) (h : Fin 128) (a : HartAcc) (k : ReqKind) (attr : Attr) (f : Req → Req) : State :=
  let x := s.hart h
  s.addReqs [f { Req.blank (.hart h) k x.tag x.gen with
    addr := a.pa.toNat, va := a.va, size := a.size.val, attr := attr, mmode := a.mmode }]

/-- HART_LOAD: to main memory through the die's caches, or NC at the home; to I/O memory at its target (R266 to R269,
R273). -/
def execHartLoad (h : Fin 128) (a : HartAcc) (rd : HartReg) (signed : Bool) (s : State) : Out :=
  if !s.hartReady h || !hartSizeOk rd a.size.val || (s.hart h).owedReg rd then .next s
  else
    match s.hartCheck .load a with
    | some (c, t) => .next (s.hartTrap h c t)
    | none =>
      if hartIo a.pa.toNat a.pbmt then
        let s1 := s.hartSend h a .read .dev (fun r => r)
        .next (s1.updHart h (fun x => { x with wait := .devLoad s.nextReq a rd signed }))
      else
        match s.ncRefused h a true with
        | some va => .next (s.hartTrap h 5 va)
        | none => .next (s.hartGo h (.load a rd signed))

/-- HART_STORE (R266 to R269). -/
def execHartStore (h : Fin 128) (a : HartAcc) (rs2 : HartReg) (s : State) : Out :=
  if !s.hartReady h || !hartSizeOk rs2 a.size.val || (s.hart h).owedReg rs2 then .next s
  else
    match s.hartCheck .store a with
    | some (c, t) => .next (s.hartTrap h c t)
    | none =>
      if hartIo a.pa.toNat a.pbmt then
        let s1 := s.hartSend h a .write .dev (fun r => { r with data := (s.hart h).storeBytes rs2 a.size.val })
        .next (s1.updHart h (fun x => { x with devStores := x.devStores ++ [s.nextReq] }))
      else
        match s.ncRefused h a false with
        | some va => .next (s.hartTrap h 7 va)
        | none => .next (s.hartGo h (.store a rs2))

/-- LR: takes the line exclusively and reserves it (R263, R270). -/
def execLr (h : Fin 128) (a : HartAcc) (rd : Fin 32) (s : State) : Out :=
  if !s.hartReady h || !(a.size.val = 4 || a.size.val = 8) || (s.hart h).owed rd.val then .next s
  else
    match s.hartCheck .lr a with
    | some (c, t) => .next (s.hartTrap h c t)
    | none => .next (s.hartGo h (.lr a rd.val))

/-- SC: succeeds while the reservation holds, and may fail spuriously; the reservation clears either way (R270). -/
def execSc (h : Fin 128) (a : HartAcc) (rd rs2 : Fin 32) (spurious : Bool) (s : State) : Out :=
  if !s.hartReady h || !(a.size.val = 4 || a.size.val = 8) || (s.hart h).owed rd.val || (s.hart h).owed rs2.val then .next s
  else
    match s.hartCheck .sc a with
    | some (c, t) => .next (s.hartTrap h c t)
    | none =>
      let line := a.pa.toNat / 128
      let ok := (s.hart h).reserve = some line && s.hartHas h line true && !spurious
      let clear := fun (x : Hart) => { x with reserve := none, lrHold := false }
      let v := leBytes a.size.val ((s.hart h).reg rs2.val).toNat
      if ok then .next (((s.hartWrite h a v).breakOthers h a).updHart h (fun x => (clear x).setReg rd.val 0))
      else .next (s.updHart h (fun x => (clear x).setReg rd.val 1))

/-- LR_HOLD_EXPIRY: 256 requester-fabric cycles after the LR the die answers a held snoop (R270). -/
def execLrHoldExpiry (h : Fin 128) (s : State) : Out :=
  if !s.on then .next s else .next (s.updHart h (fun x => { x with lrHold := false }))

/-- AMO: in the die's cache for PBMT 0, at the home for NC and IO (R271). -/
def execAmo (h : Fin 128) (a : HartAcc) (op : Fin 9) (rd rs2 : Fin 32) (s : State) : Out :=
  if !s.hartReady h || !(a.size.val = 4 || a.size.val = 8) || (s.hart h).owed rd.val || (s.hart h).owed rs2.val then .next s
  else
    match s.hartCheck .amo a with
    | some (c, t) => .next (s.hartTrap h c t)
    | none =>
      if hartCached a.pa.toNat a.pbmt then .next (s.hartGo h (.amo a op.val rd.val rs2.val))
      else
        let c : Contribution := { thread := 0, a := (s.hart h).reg rs2.val, b := 0 }
        let attr : Attr := if a.pbmt = 2 then .dev else .wbNA
        let s1 := s.hartSend h a .atomic attr (fun r => { r with atomFn := BitVec.ofNat 8 (amoFn op.val), contrib := [c] })
        .next (s1.updHart h (fun x => { x with wait := .homeAmo s.nextReq a rd.val }))

/-! ## Cache-block operations (R264) -/

/-- The line of a cache-block operation, once its page is backed main memory that the hart's tag may reach. -/
def State.cboLine (s : State) (h : Fin 128) (a : HartAcc) (isRead : Bool) : Option Nat :=
  let pa := a.pa.toNat
  if hartIo pa 0 || a.pbmt = 3 || !s.memBacked pa || !s.rangeAllows (s.hart h).tag pa 1 isRead then none else some (pa / 128)

/-- One cache-block operation: done at once at the line's home, or a store access fault. -/
def cbo (h : Fin 128) (a : HartAcc) (isRead : Bool) (f : State → Nat → Nat → State) (s : State) : Out :=
  if !s.hartReady h then .next s
  else if a.pbmt = 3 then .next (s.hartTrap h 15 a.va)
  else
    match s.cboLine h a isRead with
    | none => .next (s.hartTrap h 7 a.va)
    | some line => .next (f s (s.homeOf (s.hart h).tag (128 * line)) line)

/-- Write back the line and keep it clean, everywhere. -/
def State.cboKeep (s : State) (slice line : Nat) : State :=
  ((s.settleLine slice line).snoopNow slice line false).cleanLine slice line

/-- Write back the line and drop it from every Parlour cache; memory is current. -/
def State.cboDrop (s : State) (slice line : Nat) : State :=
  ((s.settleLine slice line).snoopNow slice line true).cleanLine slice line

/-- CBO.CLEAN. -/
def execCboClean (h : Fin 128) (a : HartAcc) (s : State) : Out := cbo h a true State.cboKeep s

/-- CBO.FLUSH. -/
def execCboFlush (h : Fin 128) (a : HartAcc) (s : State) : Out := cbo h a true State.cboDrop s

/-- CBO.INVAL: always a flush. -/
def execCboInval (h : Fin 128) (a : HartAcc) (s : State) : Out := cbo h a true State.cboDrop s

/-- CBO.ZERO: zero to exactly the addressed 64 B block, under the home attribute of its page (R266). -/
def execCboZero (h : Fin 128) (a : HartAcc) (s : State) : Out :=
  let attr : Attr := if a.pbmt = 0 then .wbA else if a.pbmt = 1 then .wbNA else .dev
  cbo h a false (fun t _ _ => t.sysWrite (t.hart h).tag (a.pa.toNat / 64 * 64) (List.replicate 64 0) attr false) s

/-! ## Device timeouts (R272) -/

/-- HART_DEV_STORE_TIMEOUT: the store is dropped, recorded and shown in sxerr or vsxerr. -/
def execHartDevStoreTimeout (h : Fin 128) (req : Nat) (s : State) : Out :=
  if (s.hart h).devStores.contains req && (Table.find s.reqs req).isSome then .next (s.dropWrite req 0 0) else .next s

/-- HART_DEV_LOAD_TIMEOUT: a load access fault at the load. -/
def execHartDevLoadTimeout (h : Fin 128) (req : Nat) (s : State) : Out :=
  match Table.find s.reqs req, (s.hart h).wait with
  | some r, .devLoad q a _ _ =>
    if q = req then .next (((s.reportReq r 7 0 0 0).dropReq req).hartTrap h 5 a.va) else .next s
  | _, _ => .next s

/-! ## mxsuite (R274) -/

/-- MXSUITE_WRITE: only M-mode can write it; the write ends a reservation (R270). -/
def execMxsuiteWrite (h : Fin 128) (mmode : Bool) (value : W64) (s : State) : Out :=
  if !s.hartReady h then .next s
  else
    match s.csrWrite h (if mmode then 3 else 1) 0x7C0 value with
    | none => .next (s.hartTrap h 2 0)
    | some t => .next t

/-! ## MSEND (R277, R278) -/

/-- The fields of MSEND's encoding: rd and vs2, or none for an illegal instruction. -/
def msendFields (insn : W32) : Option (Nat × Nat) :=
  let w := insn.toNat
  if bitsOf w 0 7 = 0x0B && bitsOf w 12 3 = 0 && bitsOf w 15 5 = 0 && bitsOf w 25 7 = 0 && bitsOf w 20 1 = 0 then
    some (bitsOf w 7 5, bitsOf w 20 5)
  else none

/-- A mail-slot message of 64 bytes (R190). -/
def mailOf (bs : List Byte) : MailMsg :=
  let w := fun i => leNat ((bs.drop (8 * i)).take 8)
  { cmd := BitVec.ofNat 8 (w 0), len := BitVec.ofNat 3 (bitsOf (w 0) 8 3), auth := bitOf (w 0) 11, ack := bitOf (w 0) 12,
    rsvd := bitsOf (w 0) 13 3 ≠ 0 || bitsOf (w 0) 24 8 ≠ 0 || bitsOf (w 0) 48 16 ≠ 0, suite := BitVec.ofNat 8 (bitsOf (w 0) 16 8),
    gen := BitVec.ofNat 16 (bitsOf (w 0) 32 16), seqno := BitVec.ofNat 64 (w 1), opa := BitVec.ofNat 64 (w 2),
    opb := BitVec.ofNat 64 (w 3), opc := BitVec.ofNat 64 (w 4), opd := BitVec.ofNat 64 (w 5),
    tag := BitVec.ofNat 128 (leNat (bs.drop 48)), payload := [] }

/-- MSEND: hands the message in vs2 and vs2 + 1 to its Suite's slot; its answer comes when the earlier accesses are performed, and
later ones go on (R278). One MSEND at a time waits. -/
def execMsend (h : Fin 128) (insn : W32) (s : State) : Out :=
  let x := s.hart h
  if !s.hartReady h || x.mail.isSome then .next s
  else
    match msendFields insn with
    | none => .next (s.hartTrap h 2 (insn.setWidth 64))
    | some (rd, vs) =>
      if x.vsOff then .next (s.hartTrap h 2 (insn.setWidth 64))
      else
        let bs := leBytes 32 (Table.get 0 x.v vs).toNat ++ leBytes 32 (Table.get 0 x.v (vs + 1)).toNat
        .next (s.updHart h (fun y => { y with mail := some { rd := rd, msg := mailOf bs, after := x.devStores } }))

/-- A trap that waited for an MSEND's answer is taken. -/
def State.takeLate (s : State) (h : Fin 128) : State :=
  match (s.hart h).lateTrap with
  | none => s
  | some (c, t) => (s.updHart h (fun x => { x with lateTrap := none })).hartTrap h c t

/-- MSEND_ANSWER: with every earlier access of the hart performed, the slot's serialising point answers, and rd takes 0
ACCEPTED, 1 NO_CREDIT or 2 NOT_REGISTERED; a trap that came meanwhile follows. -/
def execMsendAnswer (h : Fin 128) (s : State) : Out :=
  match (s.hart h).mail with
  | none => .next s
  | some m =>
    if m.after.any (fun k => (s.hart h).devStores.contains k) then .next s
    else
      let r := if (s.hart h).tag ≠ m.msg.suite then (2, s) else s.offerMail m.msg.suite (.hart h.val) m.msg false
      .next ((r.2.updHart h (fun x => ({ x with mail := none } : Hart).setReg m.rd (BitVec.ofNat 64 r.1))).takeLate h)

/-! ## The monitor's calls (R49, R276) -/

/-- The result of an SBI call: the error code in a0, the value in a1. -/
def State.sbiRet (s : State) (h : Fin 128) (err : Int) (v : W64) : State :=
  s.updHart h (fun x => (x.setReg 10 (BitVec.ofInt 64 err)).setReg 11 v)

/-- A hart in HS-mode that can call the monitor: it runs, waits for nothing, no MSEND's answer either, and is not inside a
virtual hart. -/
def State.hartCalls (s : State) (h : Fin 128) : Bool := s.hartReady h && (s.hart h).vhart = none && (s.hart h).mail.isNone

/-- KMON_VERSION, FID 0. The FIDs 1 to 4 are commands of their own; one that R276 does not list is answered with
SBI_ERR_NOT_SUPPORTED. -/
def execKmonVersion (c : KmonCall) (s : State) : Out :=
  let h := c.hart
  if !s.hartCalls h then .next s
  else if c.fid = 0 then .next (s.sbiRet h 0 (Config.monitorVersion.setWidth 64))
  else if c.fid ≤ 4 then .next s
  else .next (s.sbiRet h (-2) 0)

/-- KMON_HART_OWNER: the Suite that the Hearth gave the hart, and its generation. -/
def execKmonHartOwner (h : Fin 128) (s : State) : Out :=
  if !s.hartCalls h then .next s
  else
    let n := ((s.hart h).reg 10).toNat
    if 128 ≤ n then .next (s.sbiRet h (-3) 0)
    else
      let x := s.hart (Fin.ofNat 128 n)
      .next (s.sbiRet h 0 (BitVec.ofNat 64 (x.owner.toNat + 256 * x.ownerGen.toNat)))

/-- Change a virtual hart. -/
def State.updVhart (s : State) (handle : Nat) (v : VHart) : State :=
  s.updHearth (fun y => { y with vharts := Table.set y.vharts handle v })

/-- A guest file of a hart that no confidential VM uses, the lowest; 0 when all seven are used. -/
def Hart.freeFile (x : Hart) : Nat := ((List.range 8).find? (fun g => g ≠ 0 && !x.guestUsed.contains g)).getD 0

/-- Set a pending interrupt of a free identity in a guest file (R276 names none). -/
def State.kickFile (s : State) (h : Fin 128) (g : Nat) : State :=
  let (b, s1) := s.drawBits
  s1.updHart h (fun x => { x with imsicG := Table.set x.imsicG g (Table.get 0 x.imsicG g ||| BitVec.ofNat 256 (2 ^ (1 + b.toNat % 255))) })

/-- htimedelta that makes a guest's first time on a Parlour greater by at least 1 than the last it read; by how much more is
free (R49). -/
def State.guestDelta (s : State) (v : VHart) (die : Fin 2) : W64 × State :=
  let (b, t) := s.drawBits
  (v.lastTime + 1 - (s.parlour die).mtime + BitVec.ofNat 64 (bitsOf b.toNat 0 32), t)

/-- A virtual hart as it is entered on a Parlour: with its htimedelta set where it ran on the other. -/
def State.onDie (s : State) (v : VHart) (die : Fin 2) : VHart × State :=
  if v.die = die.val then (v, s)
  else
    let d := s.guestDelta v die
    ({ v with delta := d.1, die := die.val }, d.2)

/-- Enter a virtual hart: its registers, its Suite's tag, a guest file; a kick that came while it was out is delivered. -/
def State.enterVhart (s : State) (h : Fin 128) (handle : Nat) (v : VHart) : State :=
  let g := (s.hart h).freeFile
  let regs := if v.started then v.regs else [(10, v.a0)]
  let s1 := s.updHart h (fun x =>
    { x with
      x := regs, f := v.fregs, v := v.vregs, vscsr := v.vscsr, vsxerr := v.vsxerr, virt := true,
      vhart := some (BitVec.ofNat 64 handle), htimedelta := v.delta, reserve := none, lrHold := false,
      mxsuite := BitVec.ofNat 64 (v.suite.toNat + 256 * (s.genOf v.suite).toNat),
      guestUsed := if g = 0 then x.guestUsed else addOnce g x.guestUsed })
  let s2 := if v.kicked && g ≠ 0 then s1.kickFile h g else s1
  s2.updVhart handle { v with started := true, hart := h.val, kicked := v.kicked && g = 0, file := g }

/-- The hart on which a virtual hart runs. -/
def State.vhartOn (s : State) (handle : Nat) : Option (Fin 128) :=
  (List.finRange 128).find? (fun h => (s.hart h).vhart = some (BitVec.ofNat 64 handle))

/-- KMON_RUN: enters the virtual hart on the calling hart, which must belong to the handle's Suite. -/
def execKmonRun (h : Fin 128) (s : State) : Out :=
  if !s.hartCalls h then .next s
  else
    let handle := ((s.hart h).reg 10).toNat
    match Table.find s.hearth.vharts handle with
    | none => .next (s.sbiRet h (-3) 0)
    | some v =>
      if (s.hart h).owner ≠ v.suite then .next (s.sbiRet h (-4) 0)
      else if (s.vhartOn handle).isSome then .next (s.sbiRet h (-3) 0)
      else
        let d := s.onDie v (parlourOf h)
        .next (d.2.enterVhart h handle d.1)

/-- VM_EXIT: the monitor keeps the guest's registers, zeroes every register and VS CSR, and returns to HS-mode with the
cause in a1 and the passed values in a2 to a5; mxsuite is 0 again (R274, R276). An MSEND is answered before (R278). -/
def execVmExit (h : Fin 128) (cause : W64) (passed : List W64) (s : State) : Out :=
  let x := s.hart h
  match x.vhart with
  | none => .next s
  | some hd =>
    if x.wait ≠ .none || x.mail.isSome then .next s
    else
      let s1 := match Table.find s.hearth.vharts hd.toNat with
        | none => s
        | some v =>
          s.updVhart hd.toNat
            { v with
              regs := x.x, fregs := x.f, vregs := x.v, vscsr := x.vscsr, vsxerr := x.vsxerr, lastTime := s.hartTime h, file := 0 }
      let file := ((Table.find s.hearth.vharts hd.toNat).map (fun v => v.file)).getD 0
      let out := fun (y : Hart) =>
        (((((y.cleared file).setReg 11 cause).setReg 12 (listGet 0 passed 0)).setReg 13 (listGet 0 passed 1)).setReg 14
          (listGet 0 passed 2)).setReg 15 (listGet 0 passed 3)
      .next (s1.updHart h out)

/-- KMON_MOVE: binds the virtual hart to a hart of its Suite for its next KMON_RUN. Across Parlours the monitor sets htimedelta (R49): at
once for one that is out, else when it is entered there, since only its exit says what time it has read. -/
def execKmonMove (h : Fin 128) (s : State) : Out :=
  if !s.hartCalls h then .next s
  else
    let handle := ((s.hart h).reg 10).toNat
    let target := ((s.hart h).reg 11).toNat
    match Table.find s.hearth.vharts handle with
    | none => .next (s.sbiRet h (-3) 0)
    | some v =>
      let t : Fin 128 := Fin.ofNat 128 target
      if 128 ≤ target || (s.hart t).owner ≠ v.suite then .next (s.sbiRet h (-4) 0)
      else
        let d := if (s.vhartOn handle).isSome then (v, s) else s.onDie v (parlourOf t)
        .next ((d.2.updVhart handle { d.1 with hart := target }).sbiRet h 0 0)

/-- KMON_KICK: a virtual interrupt to the virtual hart's guest file on the hart that runs it, or kept until it runs. -/
def execKmonKick (h : Fin 128) (s : State) : Out :=
  if !s.hartCalls h then .next s
  else
    let handle := ((s.hart h).reg 10).toNat
    match Table.find s.hearth.vharts handle, s.vhartOn handle with
    | none, _ => .next (s.sbiRet h (-3) 0)
    | some v, some t =>
      if v.file = 0 then .next ((s.updVhart handle { v with kicked := true }).sbiRet h 0 0)
      else .next ((s.kickFile t v.file).sbiRet h 0 0)
    | some v, none => .next ((s.updVhart handle { v with kicked := true }).sbiRet h 0 0)

/-- SBI_HSM_START: a hart that waits starts in HS-mode with a0 = its mhartid and a1 the opaque value (R441, SBI v2.0). -/
def execSbiHsmStart (h : Fin 128) (s : State) : Out :=
  if !s.hartCalls h then .next s
  else
    let n := ((s.hart h).reg 10).toNat
    let t : Fin 128 := Fin.ofNat 128 n
    if 128 ≤ n || (s.hart t).inReset then .next (s.sbiRet h (-3) 0)
    else if (s.hart t).started then .next (s.sbiRet h (-6) 0)
    else
      let opq := (s.hart h).reg 12
      let s1 := s.updHart t (fun x => (({ x with started := true, mxsuite := 0 } : Hart).setReg 10 (BitVec.ofNat 64 n)).setReg 11 opq)
      .next ((s1.updHearth (fun y => { y with hsmWaiting := dropAll n y.hsmWaiting })).sbiRet h 0 0)

/-! ## Time (R43, R47, R279) -/

/-- A hart's timer interrupts are pending while mtime has reached its machine compare, its time stimecmp (0x14D), and the guest's time
vstimecmp (0x24D) (R47, R279). -/
def State.evalTimer (s : State) (n : Fin 2) (c : Fin 64) : State :=
  let p := s.parlour n
  let h : Fin 128 := Fin.ofNat 128 (64 * n.val + c.val)
  let x := s.hart h
  let m := decide ((Table.get (BitVec.allOnes 64) p.mtimecmp c.val).toNat ≤ p.mtime.toNat)
  let st := decide ((Table.get 0 x.csr 0x14D).toNat ≤ p.mtime.toNat)
  let vs := decide ((Table.get 0 x.vscsr 0x24D).toNat ≤ (p.mtime + x.htimedelta).toNat)
  if x.timerPend = m && x.stimePend = st && x.vstimePend = vs then s
  else s.updHart h (fun y => { y with timerPend := m, stimePend := st, vstimePend := vs })

/-- MTIME_TICK: mtime advances by 1 while the reference is locked, and the compares are evaluated. -/
def execMtimeTick (parlour : Fin 2) (s : State) : Out :=
  if !(s.parlour parlour).refLocked then .next s
  else
    let s1 := s.updParlour parlour (fun p => { p with mtime := p.mtime + 1 })
    .next ((List.finRange 64).foldl (fun t c => t.evalTimer parlour c) s1)

/-- PLR_MTIMECMP takes a value, and the compare takes effect at once (R279). -/
def State.setMtimecmp (s : State) (n : Fin 2) (c : Fin 64) (value : W64) : State :=
  (s.updParlour n (fun p => { p with mtimecmp := Table.set p.mtimecmp c.val value })).evalTimer n c

/-- MTIMECMP_WRITE: by M-mode of the Parlour's own harts only; any other hart's takes an access fault (R282). The compare takes effect
at once (R279). -/
def execMtimecmpWrite (agent : Agent) (parlour : Fin 2) (core : Fin 64) (value : W64) (s : State) : Out :=
  let may : Bool := match agent with
    | .mmode h => parlourOf h = parlour
    | _ => false
  let fault := fun (t : State) => match agent with
    | .mmode h => if parlourOf h = parlour then t else t.hartTrap h 7 (BitVec.ofNat 64 (0xF00020001000 + 0x1000000 * parlour.val + 8 * core.val))
    | _ => t
  if !s.on then .next s
  else
    .next (fault (s.ctlExchange (agentEndpoint agent) (.parlour parlour) (fun t =>
      if may then t.acceptedAccess.setMtimecmp parlour core value else t.refusedAccess)))

/-- A read of WING_STAMP is an exchange of the Bellwire: the dispatcher's endpoint takes the reader's stamp, the value is its
stamp after that, and the reader's then exceeds it. -/
def State.exchangeStamp (s : State) (reader : Endpoint) (wing : Fin 8) : W64 × State :=
  let t := s.ctlAsk reader (.dispatcher wing)
  (t.stamp (.dispatcher wing), t.ctlAsk (.dispatcher wing) reader)

/-- WING_STAMP_READ: by Suite 0 and the Hearth; a read by any other agent is refused. -/
def execWingStampRead (reader : Endpoint) (agent : Agent) (wing : Fin 8) (s : State) : Out :=
  s.regCommand agent (agentEndpoint agent) (suite0OrHearth agent) (fun t =>
    let r := t.exchangeStamp reader wing
    { r.2 with lastRead := r.1 })

end Sys2Proof.Machine
end

