-- ==== Sys2Proof/Machine/Ras.lean ====
section
/-! DEFINITION. The Bellwire's delivery (R44, R181 to R184), the Hearth's RAS records and notices (R384, R410 to R417), and
the losses of Wings and links (R428, R429). -/

namespace Sys2Proof.Machine

/-! ## Delivery -/

/-- The Wing whose Bellwire routers serve an endpoint, if one does. -/
def endpointWing : Endpoint → Option (Fin 8)
  | .core c => some (wingOfRoom c.room)
  | .hall r => some (wingOfRoom r)
  | .dispatcher k => some k
  | .cellar k => some k
  | _ => none

/-- The class of a message (R181, R205). -/
def payloadClass : Payload → Nat
  | .tokenAdd _ _ => 0
  | .creditRet _ _ => 1
  | .slotDone _ _ _ => 1
  | .launch _ _ _ _ => 2
  | .refuse _ _ => 2
  | .freed => 2
  | .done _ _ _ => 2
  | .record _ => 3
  | .ras _ => 3
  | .reinstalled _ _ => 3
  | .beat => 7
  | .other c _ => c

/-- The OP of a message (R205). Reports to the Hearth and repair reports are records of class EVENT, and a heartbeat has none: the spec
gives these no OP of their own (log 187). -/
def payloadOp : Payload → Nat
  | .tokenAdd _ _ => 1
  | .creditRet _ _ => 1
  | .slotDone _ _ _ => 2
  | .launch _ _ _ _ => 1
  | .refuse _ _ => 2
  | .freed => 3
  | .done _ _ _ => 4
  | .record _ => 1
  | .ras _ => 1
  | .reinstalled _ _ => 1
  | .beat => 0
  | .other _ o => o

/-- The 16 B header of a message (R182). -/
def BwMsg.header (m : BwMsg) : BitVec 128 :=
  BitVec.ofNat 128 (payloadClass m.payload % 16 + payloadOp m.payload % 256 * 2 ^ 4 + (endpointId m.dst).toNat * 2 ^ 16
    + (endpointId m.src).toNat * 2 ^ 32 + m.suite.toNat * 2 ^ 48 + m.gen.toNat * 2 ^ 56 + m.stamp.toNat * 2 ^ 72)

/-- The operations of the graph classes (R205); the other classes' are not limited here. -/
def opAssigned (cls op : Nat) : Bool :=
  match cls with
  | 0 => op = 1
  | 1 => op = 1 || op = 2
  | 2 => decide (1 ≤ op) && decide (op ≤ 4)
  | 3 => op = 1
  | _ => true

/-- Whether an endpoint is there: its hop in service, its unit neither fenced nor absent (R180, R184). -/
def State.endpointUp (s : State) (e : Endpoint) : Bool :=
  !s.hopsOut.contains e
    && (match endpointWing e with | some k => (s.wing k).included && !(s.wing k).lost | none => true)
    && (match e with | .core c => !(s.core c).fenced | .hall r => !(s.room r).lost | _ => true)

/-- A message of a Suite that is not at its current generation (R184, R361). -/
def State.staleMsg (s : State) (m : BwMsg) : Bool := m.suite ≠ 0 && (m.gen ≠ s.genOf m.suite || (s.suite m.suite).staleAll)

/-- Count on the Wing that serves an endpoint. -/
def State.countWing (s : State) (e : Endpoint) (f : Wing → Wing) : State :=
  match endpointWing e with
  | none => s
  | some k => s.updWing k f

/-- Count a message resent, on the Wing whose hop it takes: the receiver's, or, where no Wing serves that, the sender's (log 187). -/
def State.countResent (s : State) (m : BwMsg) : State :=
  s.countWing (if (endpointWing m.dst).isSome then m.dst else m.src) (fun w => { w with resent := sat16 w.resent 1 })

/-- A hop fails a resend: it goes out of service, a record is written, and the unit that only it reaches is fenced or lost
(R184, R407, R423). -/
def State.hopFails (s : State) (m : BwMsg) : State :=
  let kind : W32 := 0
  let rep : RasRep :=
    { RasRep.zero with cause := 8, outcome := 5, subject := endpointId m.src, locA := 4, locB := kind }
  let s1 := { s with hopsOut := if s.hopsOut.contains m.dst then s.hopsOut else s.hopsOut ++ [m.dst] }.report m.src rep
  match m.dst with
  | .core c => (s1.fenceCore c 2).settleAll
  | .hall r => s1.loseRoom r 2
  | _ => s1

/-- BELLWIRE_MESSAGE_RECEIVE: the message at a place of the wire arrives, in the order of its class and pair. The receiver's
stamp takes it in even when it is discarded: for a stale generation, an endpoint that is not there, or an OP that its class does not
have. One of a class not assigned goes no further than the first router (R181). -/
def execBellwireMessageReceive (index : Nat) (crc : Crc) (s : State) : Out :=
  match listAt s.bw index with
  | none => .next s
  | some m =>
    let ahead := (s.bw.take index).any (fun x => x.src = m.src && x.dst = m.dst && payloadClass x.payload = payloadClass m.payload)
    if ahead then .next s
    else
      let s0 := { s with bw := listDrop s.bw index }
      let s1 := if crc = .ok then s0 else s0.countResent m
      let noEnd := fun (t : State) (e : Endpoint) => t.countWing e (fun w => { w with noEndp := sat16 w.noEndp 1 })
      if crc = .failed then .next (s1.hopFails m)
      else if decide (8 ≤ payloadClass m.payload) then .next (noEnd s1 m.src)
      else
        let s2 := s1.receiveStamp m.dst m.stamp
        if !s.endpointUp m.dst || !opAssigned (payloadClass m.payload) (payloadOp m.payload) then .next (noEnd s2 m.dst)
        else if s.staleMsg m then .next (s2.countWing m.dst (fun w => { w with staleGen := sat16 w.staleGen 1 }))
        else if decide (4 ≤ payloadClass m.payload) then .next s2
        else .next { s2 with delivered := s2.delivered ++ [m] }

/-- The endpoints that the router of an endpoint serves, and the neighbouring routers (R44). Each Hall, Cellar, Parlour and Porch has
one; which are neighbours no rule says: Halls side by side, a Wing's Halls and its Cellar, Cellars joined by a Corridor, a Cellar and
the dies linked to it (log 187). The Hearth and the power controller are served by the Porch that carries them (R32). -/
def State.beatTargets (s : State) : Endpoint → List Endpoint
  | .hall r =>
    (List.finRange 6).map (fun c => Endpoint.core ⟨r, c⟩) ++ ([0, 1, 2, 3].filterMap (neighbour r)).map Endpoint.hall
      ++ [.cellar (wingOfRoom r)]
  | .cellar k =>
    let n := k.val
    let near := (List.finRange 8).filter (fun j => (wingNeighbours n).contains j.val)
    near.map Endpoint.cellar ++ [.dispatcher k] ++ (((List.range 96).map roomOfKey).filter (fun r => wingOfRoom r = k)).map Endpoint.hall
      ++ (if n = 0 || n = 4 then [.parlour 0, .porch 0] else if n = 3 || n = 7 then [.parlour 1, .porch 1] else [])
  | .parlour n => if n = 0 then [.cellar 0, .cellar 4] else [.cellar 3, .cellar 7]
  | .porch n =>
    (if n = 0 then [.cellar 0, .cellar 4] else [.cellar 3, .cellar 7])
      ++ (if (n = 1) = s.hearth.hearthPorch then [.hearth, .power] else [])
  | _ => []

/-- HEARTBEAT: a router sends its stamp to its neighbours and the endpoints it serves. -/
def execHeartbeat (source : Endpoint) (s : State) : Out :=
  if !s.on || !s.endpointUp source then .next s
  else .next ((s.beatTargets source).foldl (fun t e => t.send source e 0 0 .beat) s)

/-! ## Notices (R384, R417) -/

/-- A report of the Hearth in a Suite's event sink (R384). -/
def State.hearthNote (s : State) (suite : BitVec 8) (code idx : Nat) (detail : W64) : State :=
  let s1 := s.stepStamp .hearth
  s1.sinkRecord (s1.gsuite suite).leadWing.val suite
    (graphRecord code 0 suite (s1.genOf suite) 0 idx 0 0 detail (s1.stamp .hearth))

/-- The physical address of a page of the page-owner table. -/
def pageBase (i : Nat) : Nat := if i < 2097152 then i * 2 ^ 21 else 0x040000000000 + (i - 2097152) * 2 ^ 21

/-- Suites that exist. -/
def State.liveSuites (s : State) : List Nat :=
  (s.hearth.suites.filter (fun e => e.2.state ≠ .absent && e.1 ≠ 255)).map (fun e => e.1)

/-- Packages a page spreads over. -/
def State.pagePkgs (s : State) (pa : Nat) : List Nat :=
  let w := s.band (bitsOf pa 30 12)
  (List.range (2 ^ bandL w)).map (fun i => bitsOf w 4 5 + i)

/-- Whether a Suite owns a page that passes a test on its address. -/
def State.ownsPage (s : State) (n : Nat) (p : Nat → Bool) : Bool :=
  s.hearth.pages.any (fun e => e.2.valid && !e.2.common && e.2.owner.toNat = n && p (pageBase e.1))
    || (n = 0 && s.hearth.ddrToZero && (List.finRange 2).any (fun k =>
      p (ddrBase k) && decide ((s.hearth.pages.filter (fun e => rangeOf (pageBase e.1) = .ddr k)).length < (s.parlour k).ddrBytes / 2 ^ 21)))

/-- A Room lies in a Suite's rectangle. -/
def Suite.holdsRoom (x : Suite) (r : RoomId) : Bool :=
  match x.rect with
  | none => false
  | some q => decide (q.rowLo ≤ r.row.val) && decide (r.row.val ≤ q.rowHi) && decide (q.colLo ≤ r.col.val) && decide (r.col.val ≤ q.colHi)

/-- Rooms of a Wing. -/
def roomsOfWing (k : Nat) : List RoomId := ((List.range 96).map roomOfKey).filter (fun r => (wingOfRoom r).val = k)

/-- The Wings that hold a Room, a slice or a page of a Suite. -/
def State.suiteWings (s : State) (n : Nat) : List Nat :=
  let x := s.suite (BitVec.ofNat 8 n)
  (List.range 8).filter (fun k =>
    (roomsOfWing k).any (fun r => x.holdsRoom r) || x.cellarSlices k ≠ []
      || s.ownsPage n (fun pa => rangeOf pa = .lpd && (s.pagePkgs pa).any (fun p => p / 4 = k)))

/-- The Parlours (kind 0) that hold a hart or a page of a Suite, and the Porches (kind 1) that hold a session of it. -/
def State.suiteDies (s : State) (n : Nat) : List (Fin 2 × Nat) :=
  let x := s.suite (BitVec.ofNat 8 n)
  ((List.finRange 2).filter (fun d =>
      decide (bitsOf x.harts.toNat (64 * d.val) 64 ≠ 0) || s.ownsPage n (fun pa => rangeOf pa = .ddr d))).map (fun d => (d, 0))
    ++ ((List.finRange 2).filter (fun d =>
      s.sessions.any (fun e => e.1 / 256 = d.val && bitOf e.2.lo.toNat 0 && bitsOf e.2.lo.toNat 4 8 = n))).map (fun d => (d, 1))

/-- Whether a lost Corridor or link cuts something of a Suite off: a die whose links are both out, or two places whose route takes
the Corridor (DEDUCED, log 194). -/
def State.linkTouches (s : State) (link n : Nat) : Bool :=
  let takes := fun (a b : Nat) => ((s.routeOf a b).getD []).contains link
  let ws := s.suiteWings n
  if bitOf link 6 then
    (s.suiteDies n).any (fun d => d.1.val = bitsOf link 3 1 && d.2 = bitsOf link 4 1
      && [0, 4].all (fun r => s.linkOut (dieLinkNo (3 * d.1.val + r) d.1.val d.2)))
  else
    ws.any (fun b => ws.any (fun a => takes a b) || (s.suiteDies n).any (fun d => takes (s.dieCellar d.1.val d.2 b) b))

/-- Whether a loss touches a Suite (R417): by kind of R478 and number. -/
def State.lossTouches (s : State) (kind num n : Nat) : Bool :=
  let x := s.suite (BitVec.ofNat 8 n)
  let onPkg := fun (p : Nat → Bool) => s.ownsPage n (fun pa => rangeOf pa = .lpd && (s.pagePkgs pa).any p)
  match kind with
  | 1 => x.holdsRoom (roomOfKey num)
  | 2 => onPkg (fun p => p = num)
  | 3 => (roomsOfWing num).any (fun r => x.holdsRoom r) || x.cellarSlices num ≠ [] || onPkg (fun p => p / 4 = num)
  | 4 => s.linkTouches num n
  | 5 => s.ownsPage n (fun pa => rangeOf pa = .ddr (Fin.ofNat 2 (num / 6)))
  | _ => false

/-- RESOURCE_LOST for a loss: one notice per Suite touched, or to Suite 0 alone. -/
def State.lossNotices (s : State) (kind num : Nat) (detail : W64) : State :=
  let hit := s.liveSuites.filter (fun n => s.lossTouches kind num n)
  (if hit = [] then [0] else hit).foldl (fun t n => t.hearthNote (BitVec.ofNat 8 n) 0x33 0 detail) s

/-- POISON_NOTICE for a line: to every reader of a common page, else to the record's Suite. -/
def State.poisonNotices (s : State) (suite : BitVec 8) (addr : W64) : State :=
  let e := s.page addr.toNat
  if addr ≠ 0 && e.valid && e.common then
    let c := Table.get CommonRegion.reset s.hearth.commons e.cid.toNat
    (s.liveSuites.filter (fun n => c.readers.getLsbD n)).foldl
      (fun t n => t.hearthNote (BitVec.ofNat 8 n) 0x31 e.cid.toNat addr) s
  else if suite = 0 then s
  else s.hearthNote suite 0x31 0xFFFF addr

/-- Status AUTH of R376. -/
def statusAuth : Nat := 2

/-- The notices that a record calls for (R417). -/
def State.suiteNotices (s : State) (r : RasRep) : State :=
  match r.cause.toNat with
  | 1 => s.poisonNotices r.suite r.addr
  | 2 => s.poisonNotices r.suite r.addr
  | 3 => s.poisonNotices r.suite r.addr
  | 9 => s.poisonNotices r.suite r.addr
  | 10 => if r.suite = 0 then s else s.hearthNote r.suite 0x34 r.locB.toNat (BitVec.ofNat 64 (1 + statusAuth * 256))
  | 12 =>
    if r.locA = 0 || r.outcome ≠ 4 then s
    else s.lossNotices r.locA.toNat r.locB.toNat (if r.locA = 2 then BitVec.ofNat 64 (0x10000 + r.locB.toNat) else r.subject.setWidth 64)
  | _ => s

/-! ## RAS records (R410, R411, R414) -/

/-- The 64 bytes of a record (R411). -/
def RasRec.bytes (x : RasRec) : List Byte :=
  let r := x.rep
  leBytes 8 (r.cause.toNat + r.outcome.toNat * 2 ^ 8 + x.reporter.toNat * 2 ^ 16 + r.suite.toNat * 2 ^ 32 + r.gen.toNat * 2 ^ 40)
    ++ leBytes 8 (r.subject.toNat + r.locA.toNat * 2 ^ 16 + r.locB.toNat * 2 ^ 32) ++ leBytes 8 r.addr.toNat
    ++ leBytes 8 (r.detail.toNat + r.suppressed.toNat * 2 ^ 32) ++ leBytes 8 x.stamp.toNat ++ leBytes 8 x.hstamp.toNat
    ++ leBytes 8 x.seq.toNat ++ leBytes 8 0

/-- Whether the RAS ring has room. -/
def Hearth.rasRoom (h : Hearth) : Bool :=
  let n := ringSize h.ringReg
  n != 0 && (h.rasWr - h.rasRd).toNat != n

/-- Write a record into the ring, then advance WR; one that cannot be written is lost. -/
def State.rasPut (s : State) (x : RasRec) : State :=
  let h := s.hearth
  let at_ := bitsOf h.ringReg.toNat 12 52 * 4096 + 64 * (h.rasWr.toNat % ringSize h.ringReg)
  let w := s.gWrite 0 at_ x.bytes
  if w.1 then w.2.updHearth (fun y => { y with rasWr := y.rasWr + 1 })
  else w.2.updHearth (fun y => { y with rasLost := sat16 y.rasLost 1 })

/-- A record goes to the ring, to the queue of 1,024, or is lost. -/
def State.rasTake (s : State) (x : RasRec) : State :=
  let h := s.hearth
  if h.rasQueue = [] && h.rasRoom then s.rasPut x
  else if h.rasQueue.length < 1024 then s.updHearth (fun y => { y with rasQueue := y.rasQueue ++ [x] })
  else s.updHearth (fun y => { y with rasLost := sat16 y.rasLost 1 })

/-- The extended stamp whose low 32 bits are a header's and which lies within 2^31 of the Hearth's (R411). -/
def extendStamp (own : W64) (low : W32) : W64 :=
  let d : W32 := low - own.setWidth 32
  own + d.signExtend 64

/-- RAS_REPORT: the Hearth completes a report into a record, and writes the notices it calls for. -/
def execRasReport (s : State) : Out :=
  match s.takeFor .hearth (fun p => match p with | .ras _ => true | _ => false) with
  | none => .next s
  | some (m, s1) =>
    match m.payload with
    | .ras r =>
      let s2 := s1.stepStamp .hearth
      let own := s2.stamp .hearth
      let x : RasRec :=
        { rep := r, reporter := endpointId m.src, stamp := extendStamp own m.stamp, hstamp := own, seq := s2.hearth.rasSeq }
      let s3 := (s2.updHearth (fun y => { y with rasSeq := y.rasSeq + 1 })).rasTake x
      .next (s3.suiteNotices r)
    | _ => .next s1

/-- RAS_QUEUE_DRAIN: queued records are written while the ring has room. -/
def execRasQueueDrain (s : State) : Out :=
  .next (s.hearth.rasQueue.foldl (fun (t : State) (x : RasRec) =>
    if t.hearth.rasRoom then (t.updHearth (fun y => { y with rasQueue := y.rasQueue.drop 1 })).rasPut x else t) s)

/-- RAS_SUPPRESSION_WINDOW: a window of 2^16 cycles for a page and SUBJECT ends; its reporter may report again, and what was
held goes with that report (R415). -/
def execRasSuppressionWindow (page : Nat) (subject : BitVec 16) (s : State) : Out :=
  let over_ := fun (x : SupWin) => if x.page = page && x.subject = subject then { x with running := false } else x
  .next (s.updHearth (fun h => { h with suppress := (h.suppress.map over_).filter (fun x => x.running || x.held ≠ 0) }))

/-! ## Losses (R428, R429) -/

/-- Requests in flight that can no longer reach their home or memory are answered: reads poisoned, writes dropped. -/
def State.answerCutOff (s : State) : State :=
  let lost := fun (t : State) (r : Req) =>
    let line := r.addr / 128
    let slice := t.reqHome r
    t.homeLost slice || t.unreachable r slice line || (t.pkgLost line && t.heldSectors slice line = 0)
  (s.reqs.filter (fun e => e.2.room = none && rangeOf e.2.addr ≠ .control && e.2.stage ≠ .answered && lost s e.2)).foldl
    (fun t e => t.homeRefuse e.1 e.2 1 (t.reqHome e.2)) s

/-- WING_LOSS: no heartbeat for 2^16 cycles (1), or a fabric that fails lastingly (2). Its Rooms, homes and packages are
lost, and nothing waits on it. -/
def execWingLoss (wing : Fin 8) (trigger : BitVec 8) (s : State) : Out :=
  if (s.wing wing).lost || !(s.wing wing).included || !(trigger = 1 || trigger = 2) then .next s
  else
    let near := (s.beatTargets (.cellar wing)).find? (fun e => match e with | .cellar k => (s.wing k).included && !(s.wing k).lost | _ => false)
    let s1 := (s.updWing wing (fun w => { w with lost := true })).listFault 3 wing.val
    let s2 := s1.reportLost (near.getD .hearth) 3 wing.val trigger.toNat (endpointId (.cellar wing)) none
    let s3 := (roomsOfWing wing.val).foldl (fun t r => t.loseRoom r 0) s2
    .next s3.answerCutOff

/-- The Cellars at the ends of a numbered link. -/
def linkCellars (link : Nat) : List (Fin 8) :=
  if bitOf link 6 then [Fin.ofNat 8 link] else [Fin.ofNat 8 link, Fin.ofNat 8 (link / 8)]

/-- A number names a link of the module (R15, R478). -/
def linkExists (link : Nat) : Bool :=
  let a := bitsOf link 0 3
  let b := bitsOf link 3 3
  if bitOf link 6 then
    bitsOf link 5 1 = 0 && bitsOf link 7 1 = 0 && (if bitOf link 3 then a = 3 || a = 7 else a = 0 || a = 4)
  else bitsOf link 6 2 = 0 && ((a / 4 = b / 4 && b = a + 1) || b = a + 4)

/-- CELLAR_LINK_FAILURE: a flit on a Corridor or die link fails its check; one resend is counted, a second failure takes the
link out of service (R407, R428). -/
def execCellarLinkFailure (link : BitVec 8) (crc : Crc) (s : State) : Out :=
  let n := link.toNat
  if !s.on || !linkExists n then .next s
  else
    match crc with
    | .ok => .next s
    | .resent => .next ((linkCellars n).foldl (fun t k => t.updWing k (fun w => { w with cfabRetry := sat16 w.cfabRetry 1 })) s)
    | .failed =>
      if s.lostLinks.contains n || s.hearth.routes.contains n then .next s
      else
        let k := ((linkCellars n)[0]?).getD 0
        .next (((s.listFault 4 n).reportLost (.cellar k) 4 n 1 (endpointId (.cellar k)) none).answerCutOff)

end Sys2Proof.Machine
end

