-- ==== Sys2Proof/Machine/Beyfy.lean ====
section
/-! DEFINITION. The link layer of the Beyfy and Breezeway ports: flits and replay (R314, R315, R337, R339), the messages the
module sends (R318 to R321), and MAIL (R323). -/

namespace Sys2Proof.Machine

/-! ## Ports -/

/-- The flit layer of a port. -/
def State.link (s : State) : Port → Link
  | .by i => (s.byPort i).link
  | .bz i => (s.bzPort i).link

/-- Change the flit layer of a port. -/
def State.updLink (s : State) (p : Port) (f : Link → Link) : State :=
  match p with
  | .by i => s.updByPort i (fun x => { x with link := f x.link })
  | .bz i => s.updBzPort i (fun x => { x with link := f x.link })

/-- The Porch of a port. -/
def porchOf : Port → Fin 2
  | .by i => Fin.ofNat 2 (i.val / 2)
  | .bz i => Fin.ofNat 2 (i.val / 3)

/-- The Porch of a copy engine (R324): inbound engines 0 to 15, outbound engines 16 to 31, eight of each to a Porch. -/
def enginePorch (e : Fin 32) : Fin 2 := Fin.ofNat 2 (e.val / 8)

/-! ## Credits (R321, R345) -/

/-- Units of 16 B of a message: its 32 B header and its payload. -/
def SentMsg.units (m : SentMsg) : Nat := 2 + (m.data.length + 15) / 16

/-- The credited class of a message on a Beyfy port: MREQ (false) of DMA_RD, DMA_WR and MSI; the others are answers. -/
def beyfyClass (m : SentMsg) : Option Bool := if m.type = 0x20 || m.type = 0x22 || m.type = 0x30 then some false else none

/-- The credited class of a message on a Breezeway port: PREQ (false) of PWR, COLL (true) of the collective messages. -/
def peerClass (m : SentMsg) : Option Bool := if m.type = 1 then some false else if m.type = 2 then none else some true

/-- The link after a message of a class and length has taken its credits; none while it has not enough. -/
def Link.spend (l : Link) (c : Option Bool) (n : Nat) : Option Link :=
  match c with
  | none => some l
  | some false => if n ≤ l.creditA.toNat then some { l with creditA := l.creditA - BitVec.ofNat 16 n } else none
  | some true => if n ≤ l.creditB.toNat then some { l with creditB := l.creditB - BitVec.ofNat 16 n } else none

/-- Send messages in order: one goes when its class holds credits for all of its units, and none of a class passes an earlier one of it.
Answers: the link, what went, what waits. -/
def Link.post (cls : SentMsg → Option Bool) (units : SentMsg → Nat) (l : Link) (ms : List SentMsg) : Link × List SentMsg × List SentMsg :=
  ms.foldl (fun acc m =>
    if acc.2.2.any (fun w => cls w = cls m) then (acc.1, acc.2.1, acc.2.2 ++ [m])
    else
      match acc.1.spend (cls m) (units m) with
      | none => (acc.1, acc.2.1, acc.2.2 ++ [m])
      | some l1 => (l1, acc.2.1 ++ [m], acc.2.2)) (l, [], [])

/-- A Beyfy port sends what waits and these messages, as its credits allow. -/
def ByPort.post (p : ByPort) (ms : List SentMsg) : ByPort :=
  let r := p.link.post beyfyClass SentMsg.units (p.outq ++ ms)
  { p with link := r.1, sent := p.sent ++ r.2.1, outq := r.2.2 }

/-- As `ByPort.post`, of a Breezeway port; the GCM tag that stands after a message's payload goes in its header. -/
def BzPort.post (p : BzPort) (ms : List SentMsg) : BzPort :=
  let r := p.link.post peerClass (fun m => m.units - 1) (p.outq ++ ms)
  { p with link := r.1, sent := p.sent ++ r.2.1, outq := r.2.2 }

/-- A message the module sends by a Beyfy port, kept in the order sent; a request waits for its credits. -/
def State.beyfySend (s : State) (port : Fin 4) (m : SentMsg) : State := s.updByPort port (fun p => p.post [m])

/-- A message the module sends by a Breezeway port, as `State.beyfySend`. -/
def State.peerSend (s : State) (port : Fin 6) (m : SentMsg) : State := s.updBzPort port (fun p => p.post [m])

/-- Credits have come: what waited for them goes. -/
def State.postWaiting (s : State) : Port → State
  | .by i => s.updByPort i (fun p => p.post [])
  | .bz i => s.updBzPort i (fun p => p.post [])

/-- The port of a descriptor in a copy engine's hand. -/
def CopyEngine.port (x : CopyEngine) : Fin 4 := Fin.ofNat 4 (bitsOf (listGet 0 (x.words.getD []) 2).toNat 46 2)

/-- Start training a port afresh: no flit is outstanding, and numbering starts at 0 on both ends (log 30). -/
def Link.fresh (l : Link) : Link :=
  { l with state := .detect, secondTry := false, aligned := 0, expect := 0, nakSent := false, badSeq := none, nextSeq := 0,
           acked := 4095, replaying := none, partner := 0, repair := false }

/-! ## Flits -/

/-- The partner asks for a replay from the flit after ACKSEQ (R315). -/
def Link.replay (l : Link) (ackseq : BitVec 12) : Link :=
  { l with acked := ackseq, replaying := some (ackseq + 1), replays := sat16 l.replays 1 }

/-- The Beyfy flit fields that acknowledge, ask for a replay and return credits (R314). -/
def Link.takeHeader (l : Link) (f : Flit) : Link :=
  let l1 := { l with acked := if f.ackValid then f.ackseq else l.acked,
                     creditA := BitVec.ofNat 16 (satAdd 16 l.creditA.toNat f.crMreq.toNat),
                     creditB := BitVec.ofNat 16 (satAdd 16 l.creditB.toNat f.crHreq.toNat) }
  if f.nak then l1.replay f.ackseq else l1

/-- A data flit that is discarded: one NAK for each gap; the same flit failing again once replayed is a lasting error, and the
port retrains once (R315). -/
def State.discardFlit (s : State) (p : Port) (f : Flit) : State :=
  let l := s.link p
  if !l.nakSent then s.updLink p (fun x => { x with nakSent := true, badSeq := if f.fseq = x.expect then some f.fseq else none })
  else if f.bad && f.fseq = l.expect then
    if l.badSeq = some f.fseq then
      s.updLink p (fun x =>
        { x with lasting := sat16 x.lasting 1, retrains := BitVec.ofNat 8 (satAdd 8 x.retrains.toNat 1), state := .detect,
                 secondTry := true, repair := true, nakSent := false, badSeq := none, aligned := 0 })
    else s.updLink p (fun x => { x with badSeq := some f.fseq })
  else s

/-- The receiver's checks of a flit (R315): a corrected codeword is counted; a bad flit, and a data flit out of turn, are
discarded; a good data flit in turn is accepted. `header` reads what an accepted flit carries for the sender. -/
def State.takeFlit (s : State) (p : Port) (f : Flit) (header : Link → Link) : State :=
  let l := s.link p
  if l.state ≠ .active then s
  else
    let s1 := if f.fecCorr then s.updLink p (fun x => { x with fecCorr := BitVec.ofNat 32 (satAdd 32 x.fecCorr.toNat 1) }) else s
    if f.ftype = 1 then
      if f.bad || f.fseq ≠ l.expect then s1.discardFlit p f
      else s1.updLink p (fun x => header { x with expect := x.expect + 1, nakSent := false, badSeq := none })
    else if f.bad || f.ftype ≠ 0 then s1
    else s1.updLink p header

/-- BEYFY_FLIT: idle flits carry acknowledgements and credits too (R314, R315). -/
def execBeyfyFlit (port : Fin 4) (f : Flit) (s : State) : Out :=
  .next ((s.takeFlit (.by port) f (fun l => l.takeHeader f)).postWaiting (.by port))

/-- Train a DOWN port again (R316). -/
def State.retrainPort (s : State) (p : Port) : State := if (s.link p).state = .down then s.updLink p Link.fresh else s

/-- PORT_RETRAIN: a write of RETRAIN, by Suite 0 or the Hearth. -/
def execPortRetrain (agent : Agent) (port : Port) (s : State) : Out :=
  s.regCommand agent (.porch (porchOf port)) (suite0OrHearth agent) (fun t => t.retrainPort port)

/-! ## Messages (R318 to R320) -/

/-- Count a message or answer discarded under R320. -/
def State.discardMsg (s : State) (port : Fin 4) : State := s.updByPort port (fun p => { p with discarded := sat16 p.discarded 1 })

/-- Count one discarded as stale (R334). -/
def State.staleGen (s : State) (port : Fin 4) : State := s.updByPort port (fun p => { p with staleGen := sat16 p.staleGen 1 })

/-- A Suite and generation are current: the Suite lives and its generation has not been taken away (R361). -/
def State.current (s : State) (suite : BitVec 8) (gen : BitVec 16) : Bool :=
  (s.suite suite).state ≠ .absent && (s.suite suite).gen = gen && !(s.suite suite).staleAll

/-- The form of a message from the adapter (R318 to R320): its type, the bytes of payload it has, whether COUNT is used; a
request carries STATUS 0, its tag is not outstanding, and a module partner sends mail alone. -/
def State.msgFormOk (s : State) (port : Fin 4) (h : BeyfyHdr) (type : Nat) (payload : Nat) (count : Option Nat) (request : Bool) : Bool :=
  let l := (s.byPort port).link
  l.state = .active && h.type.toNat = type && 16 * h.len.toNat = payload && decide (h.len.toNat ≤ 32)
    && (match count with | none => h.count = 0 | some n => decide (1 ≤ h.count.toNat) && decide (h.count.toNat ≤ n))
    && (!request || (h.status = 0 && !(s.byPort port).hostTags.contains h.tag))
    && (l.partner ≠ 2 || type = 1)

/-- An answer by a Beyfy port. -/
def beyfyAnswer (type : BitVec 8) (h : BeyfyHdr) (status : Nat) (data : List Byte) : SentMsg :=
  { type := type, suite := h.suite, gen := h.gen, session := h.session, status := BitVec.ofNat 8 status, tag := h.tag, addr := 0,
    arg := 0, data := data }

/-! ## Mail (R323) -/

/-- The session of a message: live and of the Suite and generation that the header names. -/
def State.sessionOf (s : State) (n : BitVec 12) (suite : BitVec 8) (gen : BitVec 16) : Option Session :=
  match Table.find s.hearth.sessions n.toNat with
  | none => none
  | some x => if n ≠ 0 && x.suite = suite && x.gen = gen then some x else none

/-- Whether the tag of a mail-slot message is right under its session's command key (R372), and its payload in clear. -/
def State.openMail (s : State) (session : BitVec 12) (m : MailMsg) : Option (List Byte) :=
  match Table.find s.hearth.sessions session.toNat with
  | none => none
  | some x => gcmOpen x.cmdKey (cmdNonce 3 session m.seqno) (mailHead m) m.payload m.tag

/-- MAIL: the Porch takes a message, offers it to the Suite's slot and answers with MAIL_ANS: 0 accepted, 1 no credit, 2 not
registered (R323). A message with an old generation is discarded and counted (R334). -/
def execMail (port : Fin 4) (hdr : BeyfyHdr) (msg : MailMsg) (s : State) : Out :=
  if (s.byPort port).link.state ≠ .active then .next s
  else if !s.msgFormOk port hdr 1 (64 + 64 * msg.len.toNat) none true then .next (s.discardMsg port)
  else if !s.current hdr.suite hdr.gen then .next (s.staleGen port)
  else
    let ans := fun (t : State) (st : Nat) => t.beyfySend port (beyfyAnswer 2 hdr st [])
    if hdr.suite ≠ msg.suite || hdr.gen ≠ msg.gen then .next (ans s 2)
    else
      let clear := s.openMail hdr.session msg
      let m := if msg.auth then { msg with payload := clear.getD [] } else msg
      let r := s.offerMail hdr.suite (.session hdr.session) m clear.isSome
      let s1 := r.2.updGsuite hdr.suite (fun g => g.updSender (.session hdr.session) (fun x => { x with port := port.val }))
      .next (ans s1 r.1)

end Sys2Proof.Machine
end

