-- ==== Sys2Proof/Machine/Copy.lean ====
section
/-! DEFINITION. Copy engines: descriptors and their checks (R325, R326), starts (R327, R331), requests to the host, and the end of
a descriptor (R329, R330). -/

namespace Sys2Proof.Machine

/-! ## Descriptor words (R325) -/

/-- Word i of the descriptor in hand, as a number. -/
def CopyEngine.word (x : CopyEngine) (i : Nat) : Nat := (listGet 0 (x.words.getD []) i).toNat

/-- LEN. -/
def CopyEngine.len (x : CopyEngine) : Nat := bitsOf (x.word 2) 0 40

/-- OP. -/
def CopyEngine.op (x : CopyEngine) : Nat := bitsOf (x.word 2) 40 4

/-- A flag of word 2. -/
def CopyEngine.flag (x : CopyEngine) (i : Nat) : Bool := bitOf (x.word 2) i

/-- SRC_HOST. -/
def CopyEngine.srcHost (x : CopyEngine) : Bool := x.flag 44
/-- DST_HOST. -/
def CopyEngine.dstHost (x : CopyEngine) : Bool := x.flag 45
/-- GCM. -/
def CopyEngine.gcm (x : CopyEngine) : Bool := x.flag 48
/-- NOTE. -/
def CopyEngine.note (x : CopyEngine) : Bool := x.flag 49

/-- SESSION. -/
def CopyEngine.session (x : CopyEngine) : BitVec 12 := BitVec.ofNat 12 (bitsOf (x.word 2) 52 12)

/-- The Suite that owns the engine (CPY_OWN). -/
def CopyEngine.owner (x : CopyEngine) : Option (BitVec 8) :=
  if bitOf x.own.toNat 8 then some (BitVec.ofNat 8 x.own.toNat) else none

/-- Host-assisted mode (R331). -/
def CopyEngine.assisted (x : CopyEngine) : Bool := bitOf x.ctl.toNat 0

/-- Outbound engine (R324). -/
def outbound (e : Fin 32) : Bool := decide (16 ≤ e.val)

/-- The engine stops issuing: nothing more of the transfer is asked for. -/
def CopyEngine.failAt (x : CopyEngine) (status : BitVec 8) (pos : Nat) : CopyEngine :=
  { x with status := if x.status = 0 then status else x.status, next := max x.next x.len,
           failPos := some (match x.failPos with | none => pos | some p => min p pos) }

/-! ## Checks made before any byte moves (R326) -/

/-- Whether every page of a module side lies in a HOST_SHARED region. -/
def State.sideShared (s : State) (suite : BitVec 8) (va n : Nat) : Bool :=
  (pagePieces va n).all (fun p => match s.regionOf suite p.1 with | some r => r.hostShared | none => false)

/-- REFUSED (R326). Beside the cases listed: LEN 0, a misaligned ATOM or record address, and a GCM session that is not a live
session of the Suite (log 31). -/
def State.descRefused (s : State) (e : Fin 32) (suite : BitVec 8) (x : CopyEngine) : Bool :=
  let host := x.srcHost || x.dstHost
  let atom := x.op = 3 || x.op = 4
  let ses := s.sessionOf x.session suite (s.genOf suite)
  let lastDseq := (ses.map (fun y => if x.srcHost then y.dseqIn else y.dseqOut)).getD 0
  x.op = 0 || decide (4 < x.op) || x.len = 0 || (x.op = 2 && (x.word 0 ≠ 0 || x.srcHost))
    || (x.srcHost && x.dstHost)
    || (x.srcHost && outbound e) || (x.dstHost && !outbound e)
    || porchOf (.by x.port) ≠ enginePorch e
    || (atom && (host || x.len ≠ 8 || x.word 1 % 8 ≠ 0))
    || (x.note && x.word 6 % 32 ≠ 0)
    || (x.gcm && (decide (2 ^ 36 < x.len) || !host || ses.isNone || decide (x.word 4 ≤ lastDseq)))
    || (!x.gcm && host && !s.sideShared suite (if x.srcHost then x.word 1 else x.word 0) x.len)

/-- A descriptor comes into the engine's hand: refused, or ready for its operation; its DSEQ counts as used (R328). -/
def State.takeDesc (s : State) (e : Fin 32) (suite : BitVec 8) (ws : List W64) : State :=
  let fresh := fun (x : CopyEngine) =>
    { x with words := some ws, moved := false, status := 0, next := 0, failPos := none, result := 0, open_ := [],
             gcmBuf := [], gcmAgain := false, tags := [], noteSent := false }
  let s1 := s.updEngine e fresh
  let x := s1.engine e
  if s1.descRefused e suite x then s1.updEngine e (fun y => { y.failAt 5 0 with moved := true })
  else if x.gcm then
    let use := fun (n : Nat) (y : Session) =>
      if n ≠ x.session.toNat then y else if x.srcHost then { y with dseqIn := x.word 4 } else { y with dseqOut := x.word 4 }
    s1.updHearth (fun h => { h with sessions := Table.mapVals use h.sessions })
  else s1

/-! ## Starts (R327, R331) -/

/-- Read a descriptor in the Suite's memory; `none` where a check fails, or its address is not 64 B aligned (log 31). -/
def State.fetchDesc (s : State) (suite : BitVec 8) (va : Nat) : Option (List W64) × State :=
  if va % 64 ≠ 0 then (none, s)
  else
    let r := s.gReadIf suite va 64 (fun g => g.attr ≠ .red && g.attr ≠ .dev)
    (r.1.map wordsOf, r.2)

/-- The chain ends, and the engine becomes idle. -/
def CopyEngine.idle (x : CopyEngine) : CopyEngine :=
  { x with busy := false, words := none, moved := false, open_ := [], gcmBuf := [], tags := [], noteSent := false }

/-- Start a chain: in hardware mode from memory, in host-assisted mode from CPY_DESC. A first descriptor that cannot be read
ends the chain with FAULT and no record, since no descriptor says where to write one (log 31). -/
def State.startChain (s : State) (e : Fin 32) (suite : BitVec 8) (va : Nat) : State :=
  let x := s.engine e
  if x.assisted then
    let s1 := s.updEngine e (fun y => { y with busy := true })
    s1.takeDesc e suite ((List.range 8).map (fun i => Table.get 0 x.descReg i))
  else
    let s1 := s.updEngine e (fun y => { y with busy := true, cur := BitVec.ofNat 64 va })
    let r := s1.fetchDesc suite va
    match r.1 with
    | none => r.2.updEngine e (fun y => { y.idle with lastStatus := 1 })
    | some ws => r.2.takeDesc e suite ws

/-- Whether an agent may write an engine's registers: its owning Suite or the Hearth (R335). -/
def State.engineWriter (s : State) (a : Agent) (e : Fin 32) : Bool :=
  match a with
  | .hearth => true
  | .suite n => (s.engine e).owner = some n
  | .mmode _ => false
  | .bmc => false

/-- A permitted write of CPY_GO: a busy engine, and one that no Suite owns, refuse and show it. -/
def State.copyGo (s : State) (e : Fin 32) (value : W64) : State :=
  let x := s.engine e
  match x.owner with
  | none => s.updEngine e (fun y => { y with goRefused := true })
  | some n =>
    if x.busy then s.updEngine e (fun y => { y with goRefused := true })
    else s.startChain e n (bitsOf value.toNat 6 42 * 64)

/-- CPY_GO: a write of CPY_GO by the owning Suite or the Hearth. -/
def execCpyGo (agent : Agent) (engine : Fin 32) (value : W64) (s : State) : Out :=
  s.regCommand agent (.porch (enginePorch engine)) (s.engineWriter agent engine) (fun t => t.copyGo engine value)

/-- Whether a session's SEQNO is above the last that its mail and copy starts have used (R327). -/
def State.copySeqOk (s : State) (suite : BitVec 8) (n : BitVec 12) (x : Session) (seqno : W64) : Bool :=
  decide (x.cpySeq < seqno.toNat)
    && (match (s.gsuite suite).senders.find? (fun r => r.sender = .session n) with
        | none => true
        | some r => decide (r.lastSeq < seqno.toNat))

/-- Note a SEQNO used by a copy start. -/
def State.useCopySeq (s : State) (suite : BitVec 8) (n : BitVec 12) (seqno : W64) : State :=
  let use := fun (k : Nat) (y : Session) => if k = n.toNat then { y with cpySeq := seqno.toNat } else y
  let s1 := s.updHearth (fun h => { h with sessions := Table.mapVals use h.sessions })
  s1.updGsuite suite (fun g => g.updSender (.session n) (fun z => { z with lastSeq := seqno.toNat }))

/-- CPY_START: a start by a session of the owning Suite. One whose tag or SEQNO fails is discarded with no answer; else it is
answered with CPY_ANS: 2 not the owner, 1 busy, 3 host-assisted mode, 0 started. It is not taken while an earlier WIN_WR of its
port is to be performed (R327). -/
def execCpyStart (port : Fin 4) (hdr : BeyfyHdr) (seqno zero8 : W64) (tag : BitVec 128) (s : State) : Out :=
  let writing := fun (o : Owner) => match o with | .window q _ => q = port | _ => false
  if (s.byPort port).link.state ≠ .active || s.reqs.any (fun e => e.2.kind = .write && writing e.2.owner) then .next s
  else if !s.msgFormOk port hdr 6 32 none true then .next (s.discardMsg port)
  else if !s.current hdr.suite hdr.gen then .next (s.staleGen port)
  else
    match s.sessionOf hdr.session hdr.suite hdr.gen with
    | none => .next s
    | some x =>
      let aad := beyfyBytes hdr ++ leBytes 8 seqno.toNat ++ leBytes 8 zero8.toNat
      if (gcmOpen x.cmdKey (cmdNonce 4 hdr.session seqno) aad [] tag).isNone || !s.copySeqOk hdr.suite hdr.session x seqno then .next s
      else
        let s1 := s.useCopySeq hdr.suite hdr.session seqno
        let e : Fin 32 := Fin.ofNat 32 hdr.arg.toNat
        let ans := fun (t : State) (st : Nat) => t.beyfySend port (beyfyAnswer 7 hdr st [])
        if (s1.engine e).owner ≠ some hdr.suite then .next (ans s1 2)
        else if (s1.engine e).busy then .next (ans s1 1)
        else if (s1.engine e).assisted then .next (ans s1 3)
        else .next ((ans s1 0).startChain e hdr.suite hdr.addr.toNat)

/-! ## Requests to the host -/

/-- Requests outstanding on a port. -/
def State.hostOpen (s : State) (port : Fin 4) : Nat :=
  (s.engines.filter (fun e => e.2.words.isSome && e.2.port = port)).foldl (fun n e => n + e.2.open_.length) 0

/-- The type of a request by its kind: DMA_RD or DMA_WR. -/
def HostReq.type (q : HostReq) : BitVec 8 := if q.kind = 1 || q.kind = 2 then 0x22 else 0x20

/-- Send a request of an engine to the host, under the port's next tag (R318, R321). On a port that is not ACTIVE it ends
ABORTED (R316). -/
def State.hostSend (s : State) (e : Fin 32) (q : HostReq) : State :=
  let x := s.engine e
  let p := s.byPort x.port
  if p.link.state ≠ .active then s.updEngine e (fun y => y.failAt 6 q.pos)
  else
    let suite := x.owner.getD 0
    let m : SentMsg :=
      { type := q.type, suite := suite, gen := s.genOf suite, session := x.session, status := 0, tag := p.nextTag, addr := q.addr,
        arg := 0, data := q.data }
    let s1 := s.updByPort x.port (fun y => { y.post [m] with nextTag := y.nextTag + 1 })
    s1.updEngine e (fun y => { y with open_ := y.open_ ++ [{ q with tag := p.nextTag }] })

/-! ## The end of a descriptor (R329, R330) -/

/-- RESULT of the completion record. -/
def CopyEngine.recordResult (x : CopyEngine) : W64 :=
  if x.op = 3 || x.op = 4 then x.result else BitVec.ofNat 64 (x.failPos.getD x.len)

/-- The 32 B completion record. -/
def State.copyRecord (s : State) (e : Fin 32) : List Byte :=
  let x := s.engine e
  let suite := x.owner.getD 0
  leBytes 8 (x.status.toNat + e.val * 2 ^ 8 + suite.toNat * 2 ^ 16 + (s.genOf suite).toNat * 2 ^ 24)
    ++ leBytes 8 x.cur.toNat ++ leBytes 8 x.recordResult.toNat ++ leBytes 8 (s.stamp (.porch (enginePorch e))).toNat

/-- Write the completion record: to the host it is on its way until acknowledged. A record address that fails its checks
takes no record (log 31). -/
def State.writeNote (s : State) (e : Fin 32) : State :=
  let s0 := s.stepStamp (.porch (enginePorch e))
  let x := s0.engine e
  let rec_ := s0.copyRecord e
  let s1 := s0.updEngine e (fun y => { y with noteSent := true })
  if x.flag 51 then
    s1.hostSend e { tag := 0, kind := 2, pos := 0, len := 32, addr := BitVec.ofNat 64 (x.word 6), data := rec_, again := false }
  else (s1.gWrite (x.owner.getD 0) (x.word 6) rec_).2

/-- The engine's MSI (R329): to the host, or an IMSIC write under the Suite's tag. -/
def State.copyMsi (s : State) (e : Fin 32) : State :=
  let x := s.engine e
  let suite := x.owner.getD 0
  if bitOf x.msiData.toNat 32 then
    let port : Fin 4 := Fin.ofNat 4 (bitsOf x.msiData.toNat 33 2)
    if porchOf (.by port) ≠ enginePorch e || (s.byPort port).link.state ≠ .active then s
    else s.beyfySend port
      { type := 0x30, suite := suite, gen := s.genOf suite, session := 0, status := 0, tag := 0, addr := x.msiAddr,
        arg := BitVec.ofNat 64 (x.msiData.toNat % 2 ^ 32), data := [] }
  else s.msiTo suite x.msiAddr.toNat (BitVec.ofNat 32 x.msiData.toNat)

/-- Go on to NEXT, or end the chain. A NEXT that cannot be read ends the chain with a record of status FAULT for NEXT at the
same CPL_ADDR (R330). -/
def State.nextDesc (s : State) (e : Fin 32) : State :=
  let x := s.engine e
  let suite := x.owner.getD 0
  let s1 := s.updEngine e (fun y => { y with lastStatus := y.status })
  if x.status ≠ 0 || x.word 3 = 0 || x.assisted then s1.updEngine e CopyEngine.idle
  else
    let s2 := s1.updEngine e (fun y => { y with cur := BitVec.ofNat 64 (x.word 3) })
    let r := s2.fetchDesc suite (x.word 3)
    match r.1 with
    | some ws => r.2.takeDesc e suite ws
    | none =>
      if x.note then
        r.2.updEngine e (fun y => { (y.failAt 1 0) with words := y.words.map (fun ws => listSet ws 3 0), noteSent := false })
      else r.2.updEngine e (fun y => { y.idle with lastStatus := 1 })

/-- COPY_DESCRIPTOR_END: every read has returned and every write is acknowledged: the record first, then the MSI, then NEXT
(R329). -/
def execCopyDescriptorEnd (engine : Fin 32) (s : State) : Out :=
  let x := s.engine engine
  if !x.busy || x.words.isNone || !x.moved || x.open_ ≠ [] || decide (x.next < x.len) then .next s
  else
    let s1 := if x.note && !x.noteSent then s.writeNote engine else s
    if (s1.engine engine).open_ ≠ [] then .next s1
    else
      let s2 := if x.flag 50 then s1.copyMsi engine else s1
      .next (s2.nextDesc engine)

end Sys2Proof.Machine
end

