-- ==== Sys2Proof/Machine/Peer.lean ====
section
/-! DEFINITION. Breezeway: peer sessions and their messages (R341 to R346, R354), and the collective units (R347 to R355). -/

namespace Sys2Proof.Machine

/-! ## Peer sessions (R341) -/

/-- VALID. -/
def PeerSess.valid (x : PeerSess) : Bool := bitOf x.lo.toNat 0
/-- The local Suite. -/
def PeerSess.suite (x : PeerSess) : BitVec 8 := BitVec.ofNat 8 (bitsOf x.lo.toNat 4 8)
/-- The local generation. -/
def PeerSess.gen (x : PeerSess) : BitVec 16 := BitVec.ofNat 16 (bitsOf x.lo.toNat 12 16)
/-- LAND_SIZE in bytes. -/
def PeerSess.landSize (x : PeerSess) : Nat := bitsOf x.lo.toNat 48 16 * 2 ^ 21
/-- LAND_BASE. -/
def PeerSess.landBase (x : PeerSess) : Nat := bitsOf x.hi.toNat 21 27 * 2 ^ 21

/-- The Breezeway port of a Porch by its local number. -/
def bzPortOf (porch : Fin 2) (n : Nat) : Fin 6 := Fin.ofNat 6 (3 * porch.val + n % 3)

/-- The port a session is bound to. -/
def PeerSess.port (x : PeerSess) (porch : Fin 2) : Fin 6 := bzPortOf porch (bitsOf x.lo.toNat 1 3)

/-- The session is live for its Suite: valid, and its generation is current. -/
def State.sessLive (s : State) (porch : Fin 2) (p : BitVec 8) : Bool :=
  let x := s.sess porch p.toNat
  p ≠ 0 && x.valid && s.current x.suite x.gen

/-- The 12 B nonce of a session message (R342). -/
def peerNonce (count : W64) (p : BitVec 8) : List Byte := leBytes 8 count.toNat ++ [p, 0, 0, 0]

/-- Bytes 0 to 15 of a peer message's header (R343). -/
def peerHead (h : PeerHdr) : List Byte :=
  leBytes 4 (h.type.toNat + h.len.toNat * 2 ^ 4 + h.psess.toNat * 2 ^ 16 + h.status.toNat * 2 ^ 24) ++ leBytes 2 h.xtag.toNat
    ++ leBytes 6 h.offset.toNat ++ leBytes 4 h.arg.toNat

/-- Pad to whole units of 16 B. -/
def padUnits (bs : List Byte) : List Byte := bs ++ List.replicate ((16 - bs.length % 16) % 16) 0

/-- Send a message on a session: encrypted and tagged under its key of this direction, with its counter (R342). On a port
that is not ACTIVE it is lost. -/
def State.sessSend (s : State) (porch : Fin 2) (p : BitVec 8) (type status xtag offset arg : Nat) (plain : List Byte) : State :=
  let x := s.sess porch p.toNat
  let port := x.port porch
  let data := padUnits plain
  let h : PeerHdr :=
    { type := BitVec.ofNat 4 type, len := BitVec.ofNat 9 (data.length / 16), psess := p, status := BitVec.ofNat 8 status,
      xtag := BitVec.ofNat 16 xtag, offset := BitVec.ofNat 48 offset, arg := BitVec.ofNat 32 arg, tag := 0 }
  let q := gcmSeal x.txKey (peerNonce x.txCount p) (peerHead h) data
  let s1 := s.updSess porch p.toNat (fun y => { y with txCount := y.txCount + 1 })
  if (s1.bzPort port).link.state ≠ .active then s1
  else s1.peerSend port
    { type := BitVec.ofNat 8 type, suite := x.suite, gen := x.gen, session := p.setWidth 12, status := BitVec.ofNat 8 status,
      tag := BitVec.ofNat 16 xtag, addr := BitVec.ofNat 64 offset, arg := BitVec.ofNat 64 arg,
      data := q.1 ++ leBytes 16 q.2.toNat }

/-- Count a message discarded under R341 and R344. -/
def State.discardPeer (s : State) (port : Fin 6) : State := s.updBzPort port (fun p => { p with discarded := sat16 p.discarded 1 })

/-! ## Collective descriptors (R348) -/

/-- Word i of a slot's descriptor. -/
def CollSlot.word (x : CollSlot) (i : Nat) : Nat := (listGet 0 (x.words.getD []) i).toNat
/-- OP. -/
def CollSlot.op (x : CollSlot) : Nat := bitsOf (x.word 2) 32 4
/-- NELEM. -/
def CollSlot.nelem (x : CollSlot) : Nat := bitsOf (x.word 2) 0 32
/-- IN_FMT. -/
def CollSlot.inFmt (x : CollSlot) : Nat := bitsOf (x.word 2) 36 4
/-- OUT_FMT. -/
def CollSlot.outFmt (x : CollSlot) : Nat := bitsOf (x.word 2) 40 4
/-- ANCHOR, signed. -/
def CollSlot.anchor (x : CollSlot) : Int := (BitVec.ofNat 12 (bitsOf (x.word 2) 44 12)).toInt
/-- NRANK. -/
def CollSlot.nrank (x : CollSlot) : Nat := bitsOf (x.word 3) 0 8
/-- RANK. -/
def CollSlot.rank (x : CollSlot) : Nat := bitsOf (x.word 3) 8 8
/-- NEXT_SESS. -/
def CollSlot.nextSess (x : CollSlot) : BitVec 8 := BitVec.ofNat 8 (bitsOf (x.word 3) 16 8)
/-- PREV_SESS. -/
def CollSlot.prevSess (x : CollSlot) : BitVec 8 := BitVec.ofNat 8 (bitsOf (x.word 3) 24 8)
/-- COLL_ID. -/
def CollSlot.collId (x : CollSlot) : Nat := bitsOf (x.word 4) 0 32

/-- Bytes of an element in a format: FP32, BF16, partial form (R352). -/
def fmtBytes (f : Nat) : Nat := if f = 0 then 4 else if f = 1 then 2 else 20

/-- The format rules of R348 and the rule on sessions of R350. -/
def State.collRefused (s : State) (porch : Fin 2) (x : CollSlot) : Bool :=
  let reduce := x.op = 1 || x.op = 2
  let mine := fun (p : BitVec 8) => s.sessLive porch p && (s.sess porch p.toNat).suite = x.owner
  x.op = 0 || decide (5 < x.op) || bitsOf (x.word 2) 56 8 ≠ 0 || bitsOf (x.word 3) 32 32 ≠ 0 || bitsOf (x.word 4) 32 32 ≠ 0
    || x.word 6 ≠ 0 || x.word 7 ≠ 0 || x.word 5 % 8 ≠ 0
    || decide (2 < x.inFmt) || decide (2 < x.outFmt) || (!reduce && (x.inFmt ≠ 0 || x.outFmt ≠ 0))
    || decide (x.nrank < 2) || decide (64 < x.nrank) || (x.op = 5 && x.nrank ≠ 2) || decide (x.nrank ≤ x.rank)
    || !mine x.nextSess || (if x.op = 5 then x.prevSess ≠ 0 else !mine x.prevSess)

/-- Elements ⌊r N / R⌋ to ⌊(r + 1) N / R⌋ − 1, the share of a rank (R349). -/
def share (n ranks r : Nat) : Nat × Nat := (r * n / ranks, (r + 1) * n / ranks)

/-- The segment of rank r in a collective: elements, or bytes for ALLGATHER and BROADCAST. -/
def CollSlot.segment (x : CollSlot) (r : Nat) : Nat × Nat :=
  if x.op = 3 then (r * x.nelem, (r + 1) * x.nelem)
  else if x.op = 4 then (0, x.nelem)
  else share x.nelem x.nrank r

/-- The largest chunk: 204 elements in partial form, or 4,096 bytes. -/
def CollSlot.chunk (x : CollSlot) : Nat := if x.op = 1 || x.op = 2 then 204 else 4096

/-- A segment cut into chunks: first element and count. -/
def CollSlot.chunks (x : CollSlot) (seg : Nat × Nat) : List (Nat × Nat) :=
  let n := seg.2 - seg.1
  (List.range ((n + x.chunk - 1) / x.chunk)).map (fun i => (seg.1 + i * x.chunk, min x.chunk (n - i * x.chunk)))

/-- A chunk that a rank receives: whether it replaces what the rank has or is added to it, whether it is final, whether it goes on to
the next rank, and where it lies. -/
structure CollStep where
  gather  : Bool
  final   : Bool
  forward : Bool
  start   : Nat
  count   : Nat
deriving DecidableEq, Repr

/-- The chunks a rank receives, in order (log 32): reduce-scatter around the ring, each rank ending with its own share, then
all-gather; ALLGATHER gathers alone; BROADCAST passes rank 0's bytes along. -/
def CollSlot.schedule (x : CollSlot) : List CollStep :=
  let rs := x.nrank
  let steps := fun (gather final fwd : Bool) (r : Nat) =>
    (x.chunks (x.segment (r % rs))).map (fun c => ({ gather := gather, final := final, forward := fwd, start := c.1, count := c.2 } : CollStep))
  let ts := List.range (rs - 1)
  let reduce := ts.flatMap (fun t =>
    let last := t + 2 = rs
    steps false last (!last || x.op = 1) (x.rank + 2 * rs - t - 2))
  let gather := ts.flatMap (fun t => steps true true (t + 2 ≠ rs) (x.rank + rs - t - 1))
  match x.op with
  | 1 => reduce ++ gather
  | 2 => reduce
  | 3 => gather
  | 4 => if x.rank = 0 then [] else steps true true (x.rank + 1 ≠ rs) 0
  | _ => []

/-- The chunks a rank sends before it has received any. -/
def CollSlot.opening (x : CollSlot) : List (Nat × Nat) :=
  match x.op with
  | 1 => x.chunks (x.segment ((x.rank + x.nrank - 1) % x.nrank))
  | 2 => x.chunks (x.segment ((x.rank + x.nrank - 1) % x.nrank))
  | 3 => x.chunks (x.segment x.rank)
  | 4 => if x.rank = 0 then x.chunks (x.segment 0) else []
  | _ => []

/-! ## Elements (R351, R352) -/

/-- An input element rounded once to the anchor at the rank that holds it. -/
def collIn (fmt : Nat) (anchor : Int) (bs : List Byte) : PartElem :=
  if fmt = 2 then
    let w := leNat (bs.drop 16)
    { tally := BitVec.ofNat 16 w, n := BitVec.ofNat 128 (leNat (bs.take 16)), out := bitOf w 16, inexact := bitOf w 17 }
  else
    let v := (if fmt = 0 then fp32 else bf16).value (leNat bs)
    match afRound anchor v with
    | (some u, ix) => { tally := 0, n := BitVec.ofInt 128 u, out := false, inexact := ix }
    | (none, ix) => { tally := 0, n := 0, out := true, inexact := ix }

/-- The 20 B partial form. -/
def PartElem.bytes (e : PartElem) : List Byte :=
  leBytes 16 e.n.toNat ++ leBytes 4 (e.tally.toNat + (if e.out then 2 ^ 16 else 0) + (if e.inexact then 2 ^ 17 else 0))

/-- An element has no valid value. -/
def PartElem.wrapped (e : PartElem) : Bool := e.out || e.tally ≠ 0

/-- An element in the output format, converted once (R140). -/
def collOut (fmt : Nat) (anchor : Int) (e : PartElem) : List Byte :=
  if fmt = 2 then e.bytes
  else
    let f := if fmt = 0 then fp32 else bf16
    leBytes (fmtBytes fmt) (if e.wrapped then f.canonNan false
      else (f.round .near Config.collSat (FV.ofInt e.n.toInt anchor)).bits)

/-! ## Memory of a collective (R350) -/

/-- Regions that a collective may read or write: never RED or DEV; no write to RO or COMMON. -/
def collAllows (write : Bool) (r : RegionInfo) : Bool := r.attr ≠ .red && r.attr ≠ .dev && !(write && (r.attr = .ro || r.common))

/-- Read a Suite's range: `none` where a check fails; the data with its poison mark. -/
def State.markedRead (s : State) (suite : BitVec 8) (ok : RegionInfo → Bool) (va n : Nat) : Option (List Byte × Bool) × State :=
  let r := s.locateAll suite false ok (pagePieces va n)
  match r.1 with
  | none => (none, r.2)
  | some ls =>
    let q := ls.foldl (fun (acc : (List Byte × Bool) × State) l =>
      let x := acc.2.sysRead suite l.1.pa l.2 l.1.region.attr
      ((acc.1.1 ++ x.1.1, acc.1.2 || x.1.2), x.2)) (([], false), r.2)
    (some q.1, q.2)

/-- Whether a Suite's whole range may be accessed. -/
def State.mayReach (s : State) (suite : BitVec 8) (write : Bool) (ok : RegionInfo → Bool) (va n : Nat) : Bool :=
  (s.locateAll suite write ok (pagePieces va n)).1.isSome

/-- Write a Suite's range, if every page passes. -/
def State.checkedWrite (s : State) (suite : BitVec 8) (ok : RegionInfo → Bool) (va : Nat) (bs : List Byte) (mark : Bool) : Bool × State :=
  let r := s.locateAll suite true ok (pagePieces va bs.length)
  match r.1 with
  | none => (false, r.2)
  | some ls =>
    let q := ls.foldl (fun (acc : Nat × State) l =>
      (acc.1 + l.2, acc.2.sysWrite suite l.1.pa ((bs.drop acc.1).take l.2) l.1.region.attr mark)) (0, r.2)
    (true, q.2)

/-! ## Ending a slot (R353, R355) -/

/-- Write the completion word and free the slot. -/
def State.collFinish (s : State) (porch : Fin 2) (n : Nat) (status : Nat) : State :=
  let x := s.coll porch n
  let w := status + (if x.inexact then 2 ^ 8 else 0) + (if x.wrap then 2 ^ 9 else 0)
  let s1 := if x.words.isSome then (s.gWrite x.owner (x.word 5) (leBytes 8 w)).2 else s
  s1.updColl porch n (fun y => { y with busy := false, started := false, status := BitVec.ofNat 8 status, elems := [], putOpen := 0 })

/-- A rank ends early: ABORT to NEXT_SESS with the rank it came from, then its completion word. -/
def State.collEnd (s : State) (porch : Fin 2) (n status from_ why : Nat) : State :=
  let x := s.coll porch n
  let s1 := if x.started && x.op ≠ 5 then s.sessSend porch x.nextSess 7 0 0 0 x.collId (leBytes 16 (from_ + why * 2 ^ 8)) else s
  s1.collFinish porch n status

/-- The running slots of a Porch that use a session. -/
def State.slotsOn (s : State) (porch : Fin 2) (p : BitVec 8) : List Nat :=
  (List.range 8).filter (fun n =>
    let x := s.coll porch n
    x.busy && x.started && (x.nextSess = p || (x.op ≠ 5 && x.prevSess = p)))

/-- End every running slot and every write of a session: PEER_LOST (4) or ABORTED (5). -/
def State.endSlotsOn (s : State) (porch : Fin 2) (p : BitVec 8) (status : Nat) : State :=
  ((s.slotsOn porch p).foldl (fun t n => t.collEnd porch n status (t.coll porch n).rank status) s).updSess porch p.toNat
    (fun y => { y with pwrOut := [], held := [] })

/-! ## The ring at work (R349) -/

/-- Send a chunk of a slot on NEXT_SESS; XTAG is its number in the order sent. -/
def State.sendChunk (s : State) (porch : Fin 2) (n xtag start count : Nat) : State :=
  let x := s.coll porch n
  let e := fun (k : Nat) => Table.get PartElem.reset x.elems k
  let data :=
    if x.op = 1 || x.op = 2 then (List.range count).flatMap (fun i => (e (start + i)).bytes)
    else (List.range count).map (fun i => (e (start + i)).n.setWidth 8)
  s.sessSend porch x.nextSess 4 0 xtag 0 x.collId data

/-- Write finished elements, or bytes, to DST; the flags gather what is written. -/
def State.collStore (s : State) (porch : Fin 2) (n start count : Nat) : Bool × State :=
  let x := s.coll porch n
  let es := (List.range count).map (fun i => Table.get PartElem.reset x.elems (start + i))
  let ob := fmtBytes x.outFmt
  let data := if x.op = 1 || x.op = 2 then es.flatMap (collOut x.outFmt x.anchor) else es.map (fun e => e.n.setWidth 8)
  let at_ := if x.op = 1 then start * ob else if x.op = 2 then (start - (x.segment x.rank).1) * ob else start
  let r := s.checkedWrite x.owner (collAllows true) (x.word 1 + at_) data false
  (r.1, r.2.updColl porch n (fun y =>
    if x.op = 1 || x.op = 2 then
      { y with inexact := y.inexact || es.any (fun e => e.inexact), wrap := y.wrap || es.any (fun e => e.wrapped) }
    else y))

/-- The rank's own DST is performed: COLL_DONE goes out (R353). -/
def State.collDstDone (s : State) (porch : Fin 2) (n : Nat) : State :=
  let x := s.coll porch n
  (s.updColl porch n (fun y => { y with dstDone := true })).sessSend porch x.nextSess 5 0 0 0 x.collId (leBytes 16 x.rank)

/-- If every chunk has come, the DST is performed. -/
def State.collCheck (s : State) (porch : Fin 2) (n : Nat) : State :=
  let x := s.coll porch n
  if x.busy && x.started && !x.dstDone && decide (x.schedule.length ≤ x.steps) then s.collDstDone porch n else s

/-- A chunk comes: it is combined into the staging buffer by the rule of R253 and, as the ring asks, written to DST and sent
on (R349, R351). -/
def State.collData (s : State) (porch : Fin 2) (n : Nat) (payload : List Byte) : State :=
  let x := s.coll porch n
  match x.schedule[x.steps]? with
  | none => s
  | some c =>
    let reduce := x.op = 1 || x.op = 2
    let got := fun (i : Nat) =>
      if reduce then collIn 2 0 ((payload.drop (20 * i)).take 20)
      else ({ PartElem.reset with n := (listGet (0 : Byte) payload i).setWidth 128 } : PartElem)
    let put := fun (es : Table PartElem) (i : Nat) =>
      let k := c.start + i
      Table.set es k (if c.gather then got i else (Table.get PartElem.reset es k).merge (got i))
    let s1 := s.updColl porch n (fun y => { y with elems := (List.range c.count).foldl put y.elems, steps := y.steps + 1 })
    let r := if c.final then s1.collStore porch n c.start c.count else (true, s1)
    if !r.1 then r.2.collEnd porch n 1 x.rank 1
    else
      let s2 := if c.forward then r.2.sendChunk porch n (x.opening.length + x.steps) c.start c.count else r.2
      s2.collCheck porch n

/-- The parameters in COLL_HDR: words 2 and 3[7:0] of the descriptor (log 32). -/
def CollSlot.params (x : CollSlot) : List Byte := leBytes 8 (x.word 2) ++ leBytes 8 x.nrank ++ List.replicate 48 0

/-- A collective message for a slot: parameters, a chunk, a completion notice or an ABORT (R350 to R355). -/
def State.collTake (s : State) (porch : Fin 2) (n : Nat) (m : PeerMsg) : State :=
  let x := s.coll porch n
  if !x.busy then s
  else
    match m.hdr.type.toNat with
    | 3 => if m.payload = x.params then s.updColl porch n (fun y => { y with hdrOk := true }) else s.collEnd porch n 3 x.rank 3
    | 4 => if x.hdrOk then s.collData porch n m.payload else s
    | 5 =>
      let origin := leNat (m.payload.take 1)
      let s1 := s.updColl porch n (fun y => { y with doneFrom := if origin = x.rank then y.doneFrom else addOnce origin y.doneFrom })
      if origin = x.rank || (x.rank + 1) % x.nrank = origin then s1
      else s1.sessSend porch x.nextSess 5 0 0 0 x.collId (leBytes 16 origin)
    | 7 => s.collEnd porch n 5 (leNat (m.payload.take 1)) (leNat ((m.payload.drop 1).take 1))
    | _ => s

/-! ## Starting (R347, R350) -/

/-- BZW_CU_GO: a write that names a BUSY slot has no effect; else OWNER is the writer's Suite and the unit reads the descriptor.
One that cannot be read ends the slot with FAULT and no completion word (log 32); one that breaks R348 with REFUSED. -/
def State.cuGo (s : State) (porch : Fin 2) (owner : BitVec 8) (v : W64) : State :=
  let n := bitsOf v.toNat 0 3
  if (s.coll porch n).busy then s
  else
    let desc := bitsOf v.toNat 6 42 * 64
    let s1 := s.updColl porch n (fun _ =>
      { CollSlot.reset with busy := true, owner := owner, desc := BitVec.ofNat 64 desc, status := (s.coll porch n).status })
    let r := s1.gReadIf owner desc 64 (collAllows false)
    match r.1 with
    | none => r.2.updColl porch n (fun y => { y with busy := false, status := 1 })
    | some bs =>
      let s2 := r.2.updColl porch n (fun y => { y with words := some (wordsOf bs) })
      if s2.collRefused porch (s2.coll porch n) then s2.collFinish porch n 2 else s2

/-- Bytes of SRC that a rank reads. -/
def CollSlot.srcBytes (x : CollSlot) : Nat :=
  if x.op = 1 || x.op = 2 then x.nelem * fmtBytes x.inFmt else if x.op = 4 && x.rank ≠ 0 then 0 else x.nelem

/-- Bytes of DST that a rank writes. -/
def CollSlot.dstBytes (x : CollSlot) : Nat :=
  match x.op with
  | 1 => x.nelem * fmtBytes x.outFmt
  | 2 => ((x.segment x.rank).2 - (x.segment x.rank).1) * fmtBytes x.outFmt
  | 3 => x.nrank * x.nelem
  | 4 => x.nelem
  | _ => 0

/-- The staging buffer filled with a rank's own input. -/
def CollSlot.stage (x : CollSlot) (src : List Byte) : Table PartElem :=
  if x.op = 1 || x.op = 2 then
    let ib := fmtBytes x.inFmt
    (List.range x.nelem).map (fun k => (k, collIn x.inFmt x.anchor ((src.drop (ib * k)).take ib)))
  else
    (List.range src.length).map (fun k =>
      ((x.segment x.rank).1 + k, ({ PartElem.reset with n := (listGet (0 : Byte) src k).setWidth 128 } : PartElem)))

/-- The messages held for a collective, taken from its session's buffer. -/
def State.takeHeld (s : State) (porch : Fin 2) (x : CollSlot) : List PeerMsg × State :=
  let mine := fun (m : PeerMsg) => m.hdr.arg.toNat = x.collId
  let p := x.prevSess.toNat
  ((s.sess porch p).held.filter mine, s.updSess porch p (fun y => { y with held := y.held.filter (fun m => !mine m) }))

/-- The PWR of a PUT: chunks of 4,096 bytes. Where the last unit of 16 B reaches past NELEM, its further bytes are free values
(log 32). -/
def State.sendPut (s : State) (porch : Fin 2) (n : Nat) (src : List Byte) : State :=
  let x := s.coll porch n
  let b1 := s.drawBits
  let b2 := b1.2.drawBits
  let data := src ++ ((leBytes 8 b1.1.toNat ++ leBytes 8 b2.1.toNat).take ((16 - src.length % 16) % 16))
  let count := (data.length + 4095) / 4096
  let one := fun (t : State) (i : Nat) =>
    let q := t.sess porch x.nextSess.toNat
    let t1 := t.updSess porch x.nextSess.toNat (fun y => { y with nextX := y.nextX + 1, pwrOut := y.pwrOut ++ [(y.nextX, n)] })
    t1.sessSend porch x.nextSess 1 0 q.nextX.toNat (x.word 1 + 4096 * i) 0 ((data.drop (4096 * i)).take 4096)
  ((List.range count).foldl one b2.2).updColl porch n (fun y => { y with putOpen := count, dstDone := count = 0 })

/-- Run the operation of a slot: SRC is read and checked, DST checked, parameters and the first chunks sent, and what was held
for the collective taken. -/
def State.collStart (s : State) (porch : Fin 2) (n : Nat) : State :=
  let x := s.coll porch n
  let s0 := s.updColl porch n (fun y => { y with started := true })
  let r := s0.markedRead x.owner (collAllows false) (x.word 0) x.srcBytes
  match r.1 with
  | none => r.2.collEnd porch n 1 x.rank 1
  | some (src, poisoned) =>
    if x.op ≠ 5 && !r.2.mayReach x.owner true (collAllows true) (x.word 1) x.dstBytes then r.2.collEnd porch n 1 x.rank 1
    else if poisoned then r.2.collEnd porch n 6 x.rank 6
    else if x.op = 5 then r.2.sendPut porch n src
    else
      let s1 := r.2.updColl porch n (fun y => { y with elems := x.stage src })
      let s2 := s1.sessSend porch x.nextSess 3 0 0 0 x.collId x.params
      let s3 := (x.opening.zipIdx).foldl (fun (t : State) c => t.sendChunk porch n c.2 c.1.1 c.1.2) s2
      let own := if x.op = 3 || (x.op = 4 && x.rank = 0) then s3.collStore porch n (x.segment x.rank).1 src.length else (true, s3)
      if !own.1 then own.2.collEnd porch n 1 x.rank 1
      else
        let h := own.2.takeHeld porch x
        (h.1.foldl (fun t m => t.collTake porch n m) h.2).collCheck porch n

/-- A row of the collective unit: it runs the descriptor of a slot if that names its operation. -/
def runColl (op : Nat) (porch : Fin 2) (slot : Fin 8) (s : State) : Out :=
  let x := s.coll porch slot.val
  if x.busy && !x.started && x.words.isSome && x.op = op then .next (s.collStart porch slot.val) else .next s

/-- ALLREDUCE: every DST receives the sum of every rank's SRC. -/
def execAllreduce (porch : Fin 2) (slot : Fin 8) (s : State) : Out := runColl 1 porch slot s

/-- REDUCE_SCATTER: each rank's DST receives its share of the sum. -/
def execReduceScatter (porch : Fin 2) (slot : Fin 8) (s : State) : Out := runColl 2 porch slot s

/-- ALLGATHER: every DST receives every rank's SRC. -/
def execAllgather (porch : Fin 2) (slot : Fin 8) (s : State) : Out := runColl 3 porch slot s

/-- BROADCAST: rank 0's SRC is copied to every DST. -/
def execBroadcast (porch : Fin 2) (slot : Fin 8) (s : State) : Out := runColl 4 porch slot s

/-- PUT: NELEM bytes are written to the peer as PWR. -/
def execPut (porch : Fin 2) (slot : Fin 8) (s : State) : Out := runColl 5 porch slot s

/-- COLLECTIVE_COMPLETE: the DST is performed and every other rank's COLL_DONE has come; a PUT when every PWACK has: the
completion word is written (R353). -/
def execCollectiveComplete (porch : Fin 2) (slot : Fin 8) (s : State) : Out :=
  let x := s.coll porch slot.val
  let all := (List.range x.nrank).all (fun r => r = x.rank || x.doneFrom.contains r)
  if !x.busy || !x.started then .next s
  else if x.op = 5 then (if x.putOpen = 0 then .next (s.collFinish porch slot.val x.status.toNat) else .next s)
  else if x.dstDone && all then .next (s.collFinish porch slot.val 0)
  else .next s

/-! ## Messages received (R341 to R346) -/

/-- The form of a message by type: its LEN in units of 16 B (R344). -/
def peerFormOk (h : PeerHdr) (payload : List Byte) : Bool :=
  let u := h.len.toNat
  payload.length = 16 * u &&
    (match h.type.toNat with
     | 0 => u = 0 && h.psess = 0
     | 1 => decide (1 ≤ u) && decide (u ≤ 256)
     | 2 => u = 0
     | 3 => u = 4
     | 4 => decide (1 ≤ u) && decide (u ≤ 256)
     | 5 => u = 1
     | 6 => u = 0
     | 7 => u = 1
     | _ => false)

/-- PEER_MESSAGE_AUTH_FAIL (R342): the session ends both ways, its collectives and writes end ABORTED, the failure is counted
and reported. -/
def State.peerAuthFail (s : State) (port : Fin 6) (p : BitVec 8) : State :=
  let porch := porchOf (.bz port)
  let x := s.sess porch p.toNat
  let s1 := s.endSlotsOn porch p 5
  let s2 := s1.updSess porch p.toNat (fun _ => PeerSess.reset)
  let s3 := s2.updBzPort port (fun y => { y with authFail := sat16 y.authFail 1 })
  s3.report (.porch porch)
    { RasRep.zero with
      cause := 0x0A, suite := x.suite, gen := x.gen, subject := endpointId (.porch porch), locA := BitVec.ofNat 16 port.val,
      locB := p.setWidth 32 }

/-- Receive a message of a session: discarded and counted where R341 or R344 says, ended where its tag fails; else its
plaintext, with the counter of the direction advanced. -/
def State.peerOpen (s : State) (port : Fin 6) (h : PeerHdr) (type : Nat) (payload : List Byte) : Option (List Byte) × State :=
  let porch := porchOf (.bz port)
  let x := s.sess porch h.psess.toNat
  if (s.bzPort port).link.state ≠ .active then (none, s)
  else if h.type.toNat ≠ type || !peerFormOk h payload then (none, s.discardPeer port)
  else if !s.sessLive porch h.psess || x.port porch ≠ port then (none, s.discardPeer port)
  else
    match gcmOpen x.rxKey (peerNonce x.rxCount h.psess) (peerHead h) payload h.tag with
    | none => (none, s.peerAuthFail port h.psess)
    | some plain => (some plain, s.updSess porch h.psess.toNat (fun y => { y with rxCount := y.rxCount + 1 }))

/-- LCTL: acknowledgements, a replay asked for, and credits (R339, R343). -/
def execLctl (port : Fin 6) (hdr : PeerHdr) (s : State) : Out :=
  if (s.bzPort port).link.state ≠ .active then .next s
  else if hdr.type ≠ 0 || !peerFormOk hdr [] then .next (s.discardPeer port)
  else
    let o := hdr.offset.toNat
    .next ((s.updLink (.bz port) (fun l =>
      let l1 := { l with acked := if bitOf o 12 then BitVec.ofNat 12 o else l.acked,
                         creditA := BitVec.ofNat 16 (satAdd 16 l.creditA.toNat (bitsOf hdr.arg.toNat 0 16)),
                         creditB := BitVec.ofNat 16 (satAdd 16 l.creditB.toNat (bitsOf hdr.arg.toNat 16 16)) }
      if bitOf o 13 then l1.replay (BitVec.ofNat 12 o) else l1)).postWaiting (.bz port))

/-- BREEZEWAY_FLIT: the flit is checked, replayed or accepted as under R315. A message that comes whole with an accepted flit
and whose tag fails ends its session (R342); every other message is taken by the row of its type. -/
def execBreezewayFlit (port : Fin 6) (f : Flit) (hdr : PeerHdr) (payload : List Byte) (s : State) : Out :=
  let l := (s.bzPort port).link
  let s1 := s.takeFlit (.bz port) f (fun x => x)
  let porch := porchOf (.bz port)
  let x := s.sess porch hdr.psess.toNat
  if l.state ≠ .active || f.bad || f.ftype ≠ 1 || f.fseq ≠ l.expect then .next s1
  else if hdr.psess = 0 || !peerFormOk hdr payload || !s.sessLive porch hdr.psess || x.port porch ≠ port then .next s1
  else if (gcmOpen x.rxKey (peerNonce x.rxCount hdr.psess) (peerHead hdr) payload hdr.tag).isNone then .next (s1.peerAuthFail port hdr.psess)
  else .next s1

/-- Regions that a peer write may reach (R346): not RO, RED, COMMON or DEV. -/
def peerAllows (r : RegionInfo) : Bool := collAllows true r

/-- PWR: a peer write, within the landing region and where the Suite's tables and regions allow it, is performed, then answered
with PWACK: 0 OK, 1 REFUSED (R346). -/
def execPwr (port : Fin 6) (hdr : PeerHdr) (data : List Byte) (s : State) : Out :=
  let porch := porchOf (.bz port)
  let r := s.peerOpen port hdr 1 data
  match r.1 with
  | none => .next r.2
  | some plain =>
    let x := r.2.sess porch hdr.psess.toNat
    let at_ := hdr.offset.toNat
    let w := if x.landSize < at_ + plain.length then (false, r.2)
      else r.2.checkedWrite x.suite peerAllows (x.landBase + at_) plain false
    .next (w.2.sessSend porch hdr.psess 2 (if w.1 then 0 else 1) hdr.xtag.toNat 0 0 [])

/-- PEER_WRITE_TIMEOUT: a peer write has come and is not performed within 2^22 cycles: PWACK TIMEOUT and a report (R346, R421). -/
def execPeerWriteTimeout (port : Fin 6) (hdr : PeerHdr) (s : State) : Out :=
  let porch := porchOf (.bz port)
  let x := s.sess porch hdr.psess.toNat
  if (s.bzPort port).link.state ≠ .active then .next s
  else if hdr.type ≠ 1 || hdr.len = 0 || decide (256 < hdr.len.toNat) then .next (s.discardPeer port)
  else if !s.sessLive porch hdr.psess || x.port porch ≠ port then .next (s.discardPeer port)
  else
    let s1 := s.updSess porch hdr.psess.toNat (fun y => { y with rxCount := y.rxCount + 1 })
    let s2 := s1.reportHeld (.porch porch)
      { RasRep.zero with cause := 0x06, outcome := 2, suite := x.suite, gen := x.gen }
    .next (s2.sessSend porch hdr.psess 2 2 hdr.xtag.toNat 0 0 [])

/-- PWACK: the answer to a PWR; a PUT is over when every one has come, with the first status that is not OK (R353). -/
def execPwack (port : Fin 6) (hdr : PeerHdr) (s : State) : Out :=
  let porch := porchOf (.bz port)
  let r := s.peerOpen port hdr 2 []
  match r.1 with
  | none => .next r.2
  | some _ =>
    match (r.2.sess porch hdr.psess.toNat).pwrOut.find? (fun e => e.1 = hdr.xtag) with
    | none => .next r.2
    | some e =>
      let s1 := r.2.updSess porch hdr.psess.toNat (fun y => { y with pwrOut := y.pwrOut.filter (fun z => z.1 ≠ hdr.xtag) })
      let st : BitVec 8 := if hdr.status = 0 then 0 else if hdr.status = 1 then 1 else 4
      .next (s1.updColl porch e.2 (fun y =>
        if y.busy && y.op = 5 then
          { y with putOpen := y.putOpen - 1, status := if y.status = 0 then st else y.status, dstDone := y.putOpen = 1 }
        else y))

/-- A collective message: to the running slot that reads this session and COLL_ID; one for a collective not yet started here
waits in the receive buffer. An ABORT for a collective already over is ignored (R355). -/
def State.collArrive (s : State) (porch : Fin 2) (m : PeerMsg) : State :=
  let reads := fun (n : Nat) =>
    let x := s.coll porch n
    x.words.isSome && x.op ≠ 5 && x.prevSess = m.hdr.psess && x.collId = m.hdr.arg.toNat
  match (List.range 8).find? (fun n => reads n && (s.coll porch n).busy && (s.coll porch n).started) with
  | some n => s.collTake porch n m
  | none =>
    if m.hdr.type = 7 && (List.range 8).any (fun n => reads n && !(s.coll porch n).busy) then s
    else s.updSess porch m.hdr.psess.toNat (fun y => { y with held := y.held ++ [m] })

/-- A collective message of a type. -/
def collRow (type : Nat) (port : Fin 6) (hdr : PeerHdr) (payload : List Byte) (s : State) : Out :=
  let r := s.peerOpen port hdr type payload
  match r.1 with
  | none => .next r.2
  | some plain => .next (r.2.collArrive (porchOf (.bz port)) { hdr := hdr, payload := plain })

/-- COLL_HDR: parameters that differ from the rank's own end it with MISMATCH (R350). -/
def execCollHdr (port : Fin 6) (hdr : PeerHdr) (payload : List Byte) (s : State) : Out := collRow 3 port hdr payload s

/-- COLL_DATA: a chunk is combined into the staging buffer (R349). -/
def execCollData (port : Fin 6) (hdr : PeerHdr) (payload : List Byte) (s : State) : Out := collRow 4 port hdr payload s

/-- COLL_DONE: another rank's result is performed; the notice is forwarded (R353). -/
def execCollDone (port : Fin 6) (hdr : PeerHdr) (payload : List Byte) (s : State) : Out := collRow 5 port hdr payload s

/-- ABORT: forwarded once; the rank ends ABORTED unless it has written OK (R355). -/
def execAbort (port : Fin 6) (hdr : PeerHdr) (payload : List Byte) (s : State) : Out := collRow 7 port hdr payload s

/-- PROG: a progress beat; it shows that the session is not silent (R354). -/
def execProg (port : Fin 6) (hdr : PeerHdr) (s : State) : Out := .next (s.peerOpen port hdr 6 []).2

/-- A live session: a running slot or an unanswered PWR uses it (R354). -/
def State.sessBusy (s : State) (porch : Fin 2) (p : BitVec 8) : Bool :=
  s.sessLive porch p && (s.slotsOn porch p ≠ [] || (s.sess porch p.toNat).pwrOut ≠ [])

/-- PROG_SEND: nothing has been sent on a live session for 2^16 cycles. -/
def execProgSend (porch : Fin 2) (psess : BitVec 8) (s : State) : Out :=
  if s.sessBusy porch psess then .next (s.sessSend porch psess 6 0 0 0 0 []) else .next s

/-- PEER_LOST: nothing has arrived on a live session for 2^26 cycles: its slots and writes end (R354). -/
def execPeerLost (porch : Fin 2) (psess : BitVec 8) (s : State) : Out :=
  if s.sessBusy porch psess then .next (s.endSlotsOn porch psess 4) else .next s

end Sys2Proof.Machine
end

