-- ==== Sys2Proof/Machine/Training.lean ====
section
/-! DEFINITION. Training of the Beyfy and Breezeway ports, replay by the sender, and what ends when a port goes DOWN (R315 to
R317, R339, R340, R355). -/

namespace Sys2Proof.Machine

/-! ## A port goes DOWN (R316) -/

/-- Outstanding requests of a copy engine end ABORTED at the first byte not answered. -/
def CopyEngine.cutOff (x : CopyEngine) : CopyEngine :=
  match x.open_ with
  | [] => x
  | q :: qs => { x.failAt 6 (qs.foldl (fun p r => min p r.pos) (if x.gcm && x.srcHost then min q.pos x.next else q.pos)) with open_ := [], gcmBuf := [] }

/-- What is in flight on a Beyfy port ends: outstanding requests of copy engines ABORTED; tags of host requests are forgotten
(R316). -/
def State.abortPort (s : State) (port : Fin 4) : State :=
  let cut := fun (x : CopyEngine) => if x.busy && x.words.isSome && x.port = port then x.cutOff else x
  { s.updByPort port (fun p => { p with hostTags := [], outq := [] }) with engines := Table.mapVals (fun _ x => cut x) s.engines }

/-- Sessions of a Porch by number. -/
def State.sessNumbers (s : State) (porch : Fin 2) : List (BitVec 8) :=
  ((Table.keys s.sessions).filter (fun k => k / 256 = porch.val)).map (fun k => BitVec.ofNat 8 k)

/-- Collectives and peer writes of the sessions on a Breezeway port end ABORTED (R316, R355). -/
def State.abortBz (s : State) (port : Fin 6) : State :=
  let porch := porchOf (.bz port)
  ((s.sessNumbers porch).filter (fun p => (s.sess porch p.toNat).valid && (s.sess porch p.toNat).port porch = port)).foldl
    (fun t p => t.endSlotsOn porch p 5) (s.updBzPort port (fun p => { p with outq := [] }))

/-- PORT_DOWN (R316). -/
def State.portDown (s : State) (p : Port) : State :=
  let s1 := s.updLink p (fun l =>
    { l with state := .down, nakSent := false, badSeq := none, replaying := none, aligned := 0, repair := false })
  match p with
  | .by i => s1.abortPort i
  | .bz i => s1.abortBz i

/-- A port goes DOWN after a lasting error: the Porch reports it (R315, R411). -/
def State.portLost (s : State) (p : Port) : State :=
  let e := Endpoint.porch (porchOf p)
  let (kind, n) := match p with | .by i => ((0 : BitVec 16), i.val) | .bz i => (1, i.val)
  (s.portDown p).report e
    { RasRep.zero with cause := 8, outcome := 5, subject := endpointId e, locA := kind, locB := BitVec.ofNat 32 n }

/-- A training state fails: back to DETECT once, then DOWN (R317); after a lasting error that is reported. -/
def State.trainFail (s : State) (p : Port) : State :=
  if !(s.link p).secondTry then s.updLink p (fun l => { l with state := .detect, secondTry := true, aligned := 0 })
  else if (s.link p).repair then s.portLost p
  else s.portDown p

/-- NAK: the sender replays from ACKSEQ + 1, and counts it. When the replay of the same flit has failed again, the error is
lasting: the port retrains once and goes on from the last acknowledged flit, or goes DOWN (R315, R339). -/
def execNak (port : Port) (ackseq : BitVec 12) (again retrainOk : Bool) (s : State) : Out :=
  if (s.link port).state ≠ .active then .next s
  else
    let s1 := s.updLink port (fun l => l.replay ackseq)
    if !again then .next s1
    else
      let s2 := s1.updLink port (fun l =>
        { l with lasting := sat16 l.lasting 1, retrains := BitVec.ofNat 8 (satAdd 8 l.retrains.toNat 1) })
      .next (if retrainOk then s2 else s2.portLost port)

/-! ## Training (R317, R340) -/

/-- TRAINING_DETECT_LOCK: every lane has locked. -/
def execTrainingDetectLock (port : Port) (s : State) : Out :=
  if (s.link port).state ≠ .detect then .next s else .next (s.updLink port (fun l => { l with state := .eq }))

/-- The width that the lanes passed give: full, half, or none. Beyfy has 8 lanes and Breezeway 16. -/
def lanesWidth (port : Port) (passed : BitVec 16) : Option Bool :=
  let v := passed.toNat
  match port with
  | .by _ => if v % 256 = 255 then some false else if v % 16 = 15 || v / 16 % 16 = 15 then some true else none
  | .bz _ => if v = 65535 then some false else if v % 256 = 255 || v / 256 = 255 then some true else none

/-- TRAINING_EQ_REPORT: the lanes that pass choose the width, or training fails. -/
def execTrainingEqReport (port : Port) (passed : BitVec 16) (s : State) : Out :=
  if (s.link port).state ≠ .eq then .next s
  else
    match lanesWidth port passed with
    | none => .next (s.trainFail port)
    | some half => .next (s.updLink port (fun l => { l with state := .align, narrow := half, aligned := 0 }))

/-- TRAINING_ALIGN: three align flits in a row have been received intact. -/
def execTrainingAlign (port : Port) (s : State) : Out :=
  if (s.link port).state ≠ .align then .next s else .next (s.updLink port (fun l => { l with state := .config, aligned := 3 }))

/-- TRAINING_CONFIG: the config flits are exchanged. A Breezeway partner must be a Breezeway port of another module. -/
def execTrainingConfig (port : Port) (partner : BitVec 2) (modid : W64) (peerPort : BitVec 3) (bufA bufB : BitVec 16) (s : State) : Out :=
  if (s.link port).state ≠ .config then .next s
  else
    let up := fun (t : State) => t.updLink port (fun l =>
      { l with state := .active, partner := partner, creditA := bufA, creditB := bufB, secondTry := false, repair := false })
    match port with
    | .by _ => if partner = 1 || partner = 2 then .next (up s) else .next (s.trainFail port)
    | .bz i =>
      if partner ≠ 2 || modid = Config.modid || decide (5 < peerPort.toNat) then .next (s.trainFail port)
      else .next ((up s).updBzPort i (fun x => { x with modid := modid, peerPort := peerPort }))

/-- TRAINING_STATE_TIMEOUT: a training state reaches its limit. -/
def execTrainingStateTimeout (port : Port) (s : State) : Out :=
  match (s.link port).state with
  | .down => .next s
  | .active => .next s
  | .detect => .next (s.trainFail port)
  | .eq => .next (s.trainFail port)
  | .align => .next (s.trainFail port)
  | .config => .next (s.trainFail port)

end Sys2Proof.Machine
end

