-- ==== Sys2Proof/Machine/HearthOps.lean ====
section
/-! DEFINITION. What the Hearth does to resources on behalf of its calls: pages (R365 to R369), Rooms, slices, engines, Windows and
harts (R360, R365), mail slots (R187), slot maps (R298), and the steps that end a Suite's activity (R363). -/

namespace Sys2Proof.Machine

/-! ## Ordered lists -/

/-! ## Pages (R366, R368) -/

/-- The three kinds of page that a resource block asks for (R378). -/
inductive PageKind where
  | global
  | wingLocal (k : Nat)
  | ddr
deriving DecidableEq, Repr

/-- Whether an index of the page-owner table is a page of a kind: backed, and not in the Hearth's own band 0. -/
def State.pageOfKind (s : State) (i : Nat) (k : PageKind) : Bool :=
  let pa := pageBase i
  let w := s.band (bitsOf pa 30 12)
  decide (512 ≤ i) && s.memBacked pa
    && (match k with
        | .global => rangeOf pa = .lpd && !bitOf w 21
        | .wingLocal n => rangeOf pa = .lpd && bitOf w 21 && bandWing w = some n
        | .ddr => rangeOf pa ≠ .lpd)

/-- A free page: its entry says VALID 0 and no change of it runs. -/
def State.pageFree (s : State) (i : Nat) : Bool :=
  !(s.pageAt i).valid && !s.hearth.changes.any (fun y => y.page = pageBase i / 2 ^ 21)

/-- The free pages of a kind. -/
def State.freePages (s : State) (k : PageKind) : List Nat :=
  let all := match k with
    | .ddr => (List.range 1572864).map (fun i => 2097152 + i)
    | _ => List.range 2097152
  all.filter (fun i => s.pageOfKind i k && s.pageFree i)

/-- Take n of a list of pages; which of them is a free choice (the Hearth chooses the pages, R378). -/
def State.pickFrom (s : State) : Nat → List Nat → Option (List Nat) × State
  | 0, _ => (some [], s)
  | _ + 1, [] => (none, s)
  | n + 1, p :: ps =>
    let d := s.drawBits
    let l := p :: ps
    let x := listGet p l (d.1.toNat % l.length)
    let r := State.pickFrom d.2 n (l.erase x)
    (r.1.map (fun xs => x :: xs), r.2)

/-- Take n free pages of a kind; asking for none asks nothing of the table. -/
def State.pickPages (s : State) (k : PageKind) (n : Nat) : Option (List Nat) × State :=
  match n with
  | 0 => (some [], s)
  | m + 1 => s.pickFrom (m + 1) (s.freePages k)

/-- The controllers, by key, that hold part of a page: those in service. -/
def State.pageCtls (s : State) (i : Nat) : List Nat :=
  let pa := pageBase i
  let keys := match rangeOf pa with
    | .ddr n => (s.parlour n).included.map (fun c => 32 + 6 * n.val + c)
    | _ => s.pagePkgs pa
  keys.filter (fun k => !(s.mc (ctlOfKey k)).failed)

/-- Write an entry of the page-owner table. -/
def State.setPage (s : State) (i : Nat) (e : PageEntry) : State :=
  s.updHearth (fun h => { h with pages := Table.set h.pages i e })

/-- The lines of a page that any slice, its buffer, its partials or its directory part hold: slice and line. -/
def State.pageLines (s : State) (i : Nat) : List (Nat × Nat) :=
  let n := pageBase i / 2 ^ 21
  let here := fun (k : Nat) => k % 2 ^ 41 / 2 ^ 14 = n
  ((Table.keys s.lines ++ Table.keys s.evicted ++ Table.keys s.partials ++ Table.keys s.dirs).filter here).dedup.map
    (fun k => (k / 2 ^ 41, k % 2 ^ 41))

/-- Drop every copy of a page, with INVAL (2) or CLEAN_INVAL (3); every Parlour holder gives up its copy (R368 step 1). -/
def State.dropPage (s : State) (i op : Nat) : State := (s.pageLines i).foldl (fun t q => t.mntLine op q.1 q.2) s

/-- R368 for one page that keeps or gains an owner: copies dropped, the entry written, the wipe under the new key asked of every
controller that holds part of the page. -/
def State.changePage (s : State) (i op : Nat) (e : PageEntry) : State :=
  let s1 := (s.dropPage i op).setPage i e
  let y : PageChange := { page := pageBase i / 2 ^ 21, waiting := s1.pageCtls i }
  s1.updHearth (fun h => { h with changes := h.changes ++ [y] })

/-- Give pages to a Suite under a key slot; the wipes start as the controllers come free. -/
def State.givePages (s : State) (n : BitVec 8) (key : BitVec 7) (pages : List Nat) : State :=
  let give := fun (t : State) (i : Nat) =>
    t.changePage i 2 { PageEntry.reset with owner := n, valid := true, keyIdx := key, ddr5 := decide (2097152 ≤ i) }
  (pages.foldl give s).kickWipes

/-- A page becomes free: its copies are dropped and its entry says VALID 0; it is wiped when next given (R368). -/
def State.freePage (s : State) (i : Nat) : State := (s.dropPage i 2).setPage i PageEntry.reset

/-- Every controller has reported the wipe of each of these pages. -/
def State.pagesWiped (s : State) (pages : List Nat) : Bool :=
  s.hearth.changes.all (fun y => !pages.any (fun i => pageBase i / 2 ^ 21 = y.page) || y.waiting = [])

/-- The changes of these pages are over. -/
def State.endChanges (s : State) (pages : List Nat) : State :=
  s.updHearth (fun h =>
    { h with changes := h.changes.filter (fun y => !pages.any (fun i => pageBase i / 2 ^ 21 = y.page)) })

/-- The pages that a Suite owns, in ascending order of their index. -/
def State.suitePages (s : State) (n : BitVec 8) : List Nat :=
  let listed := (s.hearth.pages.filter (fun e => e.2.valid && !e.2.common && e.2.owner = n)).map (fun e => e.1)
  let rest := if n = 0 && s.hearth.ddrToZero then
      ((List.range 1572864).map (fun i => 2097152 + i)).filter (fun i =>
        s.memBacked (pageBase i) && (Table.find s.hearth.pages i).isNone)
    else []
  sortBy (fun a b => decide (a < b)) (listed ++ rest)

/-- Contiguous runs of ascending pages: first page and count. -/
def pageRuns : List Nat → List (Nat × Nat)
  | [] => []
  | i :: is =>
    match pageRuns is with
    | (j, n) :: rest => if pageBase j = pageBase i + 2 ^ 21 then (i, n + 1) :: rest else (i, 1) :: (j, n) :: rest
    | [] => [(i, 1)]

/-- Write the root page: one run entry of 16 B, PA and count, for each run of the Suite's pages, and zero after the last (R378). A
Suite with no LPDDR6 page in a global band has no root page. -/
def State.writeRoot (s : State) (n : BitVec 8) : State :=
  let root := (s.suite n).rootPage
  if root = 0 then s
  else
    let runs := pageRuns (s.suitePages n)
    s.hearthWrite (pageBase root) (runs.flatMap (fun r => leBytes 8 (pageBase r.1) ++ leBytes 8 r.2) ++ leBytes 16 0)

/-! ## Rooms -/

/-- The Rooms of a rectangle. -/
def Rect.rooms (q : Rect) : List RoomId :=
  ((List.range 96).map roomOfKey).filter (fun r =>
    decide (q.rowLo ≤ r.row.val) && decide (r.row.val ≤ q.rowHi) && decide (q.colLo ≤ r.col.val) && decide (r.col.val ≤ q.colHi))

/-- The Rooms of a rectangle, or none. -/
def rectRooms (q : Option Rect) : List RoomId := match q with | none => [] | some x => x.rooms

/-- The value of ROOM_RECT for a Room of a Suite (R185). -/
def rectWord (q : Rect) (n : BitVec 8) (gen : BitVec 16) : W64 :=
  BitVec.ofNat 64 (q.rowLo + 16 * q.rowHi + 2 ^ 8 * q.colLo + 2 ^ 12 * q.colHi + 2 ^ 16 * n.toNat + 2 ^ 24 * gen.toNat + 2 ^ 40)

/-- Rewrite ROOM_RECT of a Room that stays with its Suite: no wipe, since the Room does not pass (R170). -/
def State.reRect (s : State) (q : Rect) (n : BitVec 8) (gen : BitVec 16) (r : RoomId) : State :=
  s.updRoom r (fun x => { x with rect := rectWord q n gen })

/-- A self-test runs on a Room or one of its cores: the Hearth owns the unit meanwhile (R430). -/
def State.roomTested (s : State) (r : RoomId) : Bool :=
  s.hearth.selftests.any (fun e => hallOfId e.1.toNat = some r || (coreOfId e.1.toNat).map (fun c => c.room) = some r)

/-- A Room is free to be claimed: no Suite owns it, no self-test runs on it, no group is left on it, and its Wing is in the
configuration. -/
def State.roomFree (s : State) (r : RoomId) : Bool :=
  !bitOf (s.room r).rect.toNat 40 && !s.roomTested r && (s.wing (wingOfRoom r)).included && !(s.wing (wingOfRoom r)).lost
    && (List.finRange 6).all (fun c => (s.core ⟨r, c⟩).resident = [])

/-- A rectangle spans a Wing edge only where every Room-lane group that it crosses is in service (R178). -/
def State.edgesUp (s : State) (q : Rect) : Bool :=
  q.rooms.all (fun r => [1, 2].all (fun d =>
    match neighbour r d with
    | none => true
    | some m => !q.rooms.contains m || wingOfRoom m = wingOfRoom r || ((s.room r).portUp d && (s.room m).portUp ((d + 2) % 4))))

/-- Whether no group is left on any core of these Rooms. -/
def State.roomsQuiet (s : State) (rs : List RoomId) : Bool :=
  rs.all (fun r => (List.finRange 6).all (fun c => (s.core ⟨r, c⟩).resident = []))

/-- Kill every group of a Suite on some Rooms (R79). -/
def State.killOn (s : State) (n : BitVec 8) (rs : List RoomId) : State :=
  rs.foldl (fun t r => (List.finRange 6).foldl (fun (u : State) (c : Fin 6) =>
    u.updCore ⟨r, c⟩ (fun x =>
      { x with slots := Table.mapVals (fun _ y => if y.suite = n then y.kill 1 else y) x.slots })) t) s

/-! ## Mail slots (R187) -/

/-- The Room index of a Room within its Wing (R22). -/
def roomIndex (r : RoomId) : Nat :=
  if r.row.val < 3 then 4 * r.row.val + r.col.val % 4 else 4 * (5 - r.row.val) + (3 - r.col.val % 4)

/-- The slots 12 to 15 of a Wing's dispatcher in use, or kept for a change that runs. -/
def State.spareSlots (s : State) (k : Fin 8) : List Nat :=
  let held := s.gsuites.filterMap (fun e => if e.2.hasSlot && e.2.leadWing = k && decide (12 ≤ e.2.slotNo) then some e.2.slotNo else none)
  let kept := s.hearth.suites.filterMap (fun e =>
    match e.2.change with
    | some c => (match c.lead with | some (j, n) => if j = k && decide (12 ≤ n) then some n else none | none => none)
    | none => none)
  held ++ kept

/-- The slot of a Suite that owns no Room: on the Wing of the configuration with the fewest of those slots in use, the lowest
number first; none where no slot is free. -/
def State.spareSlot (s : State) : Option (Fin 8 × Nat) :=
  let ws := (List.finRange 8).filter (fun k => s.hearth.wingIn.getLsbD k.val)
  let used := fun (k : Fin 8) => (s.spareSlots k).length
  let better := fun (b : Option (Fin 8)) (k : Fin 8) =>
    match b with
    | none => some k
    | some j => if used k < used j then some k else b
  match ws.foldl better none with
  | none => none
  | some k => ([12, 13, 14, 15].find? (fun i => !(s.spareSlots k).contains i)).map (fun i => (k, i))

/-- The lead Wing and slot that a rectangle gives. -/
def State.leadFor (s : State) (q : Option Rect) : Option (Fin 8 × Nat) :=
  match q with
  | none => s.spareSlot
  | some x =>
    let r : RoomId := ⟨Fin.ofNat 6 x.rowLo, Fin.ofNat 16 x.colLo⟩
    some (wingOfRoom r, roomIndex r)

/-! ## Slices, engines, Windows, harts -/

/-- A slice changes owner: it is disabled and not clean, and its counters clear (R225, R246, R257). -/
def SliceReg.passed (n : BitVec 8) (owned : Bool) : SliceReg :=
  { SliceReg.reset with suite := n, owned := owned, powered := owned }

/-- Give, or take back, slices; a slice is disabled before its owner changes. -/
def State.passSlices (s : State) (n : BitVec 8) (owned : Bool) (slices : List Nat) : State :=
  slices.foldl (fun t i => (t.releaseSlice i).updSlice i (fun _ => SliceReg.passed n owned)) s

/-- A copy engine changes owner: its registers return to reset. -/
def State.passEngines (s : State) (n : BitVec 8) (owned : Bool) (es : BitVec 32) : State :=
  ((List.finRange 32).filter (fun e => es.getLsbD e.val)).foldl (fun t e =>
    t.updEngine e (fun _ => { CopyEngine.reset with own := if owned then BitVec.ofNat 64 (n.toNat + 256) else 0 })) s

/-- A Window changes owner. -/
def State.passWindows (s : State) (n : BitVec 8) (owned : Bool) (ws : BitVec 8) : State :=
  ((List.finRange 4).filter (fun i => ws.getLsbD i.val)).foldl (fun t i =>
    t.updByPort i (fun p =>
      { p with winCtl := if owned then BitVec.ofNat 64 (n.toNat * 2 ^ 8 + 2 ^ 16) else 0, winRef := 0, winPois := 0, winTime := 0 })) s

/-- Harts pass to a Suite: HRT_HART_OWN is written. -/
def State.passHarts (s : State) (n : BitVec 8) (gen : BitVec 16) (hs : BitVec 128) : State :=
  ((List.finRange 128).filter (fun h => hs.getLsbD h.val)).foldl (fun t h =>
    t.updHart h (fun x => { x with owner := n, ownerGen := gen })) s

/-- Reserved entries of a Suite at every controller (LPD_CRED_MAP, DDR_CRED_MAP). -/
def State.setCredits (s : State) (n : BitVec 8) (lpd ddr : BitVec 8) : State :=
  let put := fun (t : State) (k : Nat) =>
    let v := if k < 32 then lpd.toNat else ddr.toNat
    let word := fun (c : Mc) => BitVec.ofNat 64 (putBits (Table.get 0 c.credMap (n.toNat / 8)).toNat (8 * (n.toNat % 8)) 8 v)
    t.updMc (ctlOfKey k) (fun c => { c with credMap := Table.set c.credMap (n.toNat / 8) (word c) })
  (List.range 44).foldl put s

/-- The Suites that exist, with their records. -/
def State.suitesNow (s : State) : List (Nat × Suite) := s.hearth.suites.filter (fun e => e.2.state ≠ .absent && e.1 ≠ 255)

/-- Reserved entries of the Suites other than one, at each LPDDR6 controller (true) or DDR5 channel. -/
def State.reservedBy (s : State) (n : BitVec 8) (lpd : Bool) : Nat :=
  (s.suitesNow.filter (fun e => e.1 ≠ n.toNat)).foldl (fun a e => a + (if lpd then e.2.resLpd else e.2.resDdr).toNat) 0

/-! ## Strict isolation (R298) -/

/-- The Suites that need a slot at a controller: Suite 0, and every live Suite that holds pages there, with their reserved
entries. `more` gives a Suite that is being judged: its number, entries and pages. -/
def State.slotSuites (s : State) (k : Nat) (more : Option (Nat × Nat × List Nat)) : List (Nat × Nat) :=
  let holds := fun (i : Nat) => (s.pageCtls i).contains k
  let res := fun (x : Suite) => (if k < 32 then x.resLpd else x.resDdr).toNat
  let has := fun (n : Nat) => s.hearth.pages.any (fun e => e.2.valid && !e.2.common && e.2.owner.toNat = n && holds e.1)
  let extra := match more with
    | some (m, r, ps) => if m ≠ 0 && (has m || ps.any holds) then [(m, r)] else []
    | none => []
  let skip := fun (n : Nat) => match more with | some (m, _, _) => m = n && n ≠ 0 | none => false
  (s.suitesNow.filter (fun e => !skip e.1 && (e.1 = 0 || has e.1))).map (fun e => (e.1, res e.2)) ++ extra

/-- The conditions of R298 at every controller in service. -/
def State.strictOk (s : State) (more : Option (Nat × Nat × Nat × List Nat)) : Bool :=
  (List.range 44).all (fun k =>
    let m := more.map (fun (n, l, d, ps) => (n, if k < 32 then l else d, ps))
    let xs := (s.slotSuites k m).filter (fun e => e.1 ≠ 0)
    decide (xs.length ≤ 31) && xs.all (fun e => e.2 ≠ 0))

/-- Slots of each Suite in a frame of 32: one each, the rest in proportion to the reserved entries; what rounding leaves goes by
the larger remainder, and to the lower Suite ID where they tie. -/
def slotShares (xs : List (Nat × Nat)) : List (Nat × Nat) :=
  let spare := 32 - xs.length
  let total := xs.foldl (fun a e => a + e.2) 0
  let base := xs.map (fun e => (e.1, 1 + spare * e.2 / total, spare * e.2 % total))
  let left := 32 - base.foldl (fun a e => a + e.2.1) 0
  let order := sortBy (fun a b => decide (b.2.2 < a.2.2) || (a.2.2 = b.2.2 && decide (a.1 < b.1))) base
  let lucky := (order.take left).map (fun e => e.1)
  base.map (fun e => (e.1, e.2.1 + (if lucky.contains e.1 then 1 else 0)))

/-- The eight words of a slot map: Suites in ascending order of ID, each with its run of slots. -/
def slotWords (shares : List (Nat × Nat)) : Table W64 :=
  let owners := (shares.flatMap (fun e => List.replicate e.2 e.1)).take 32
  (List.range 8).map (fun i =>
    (i, BitVec.ofNat 64 ((List.range 4).foldl (fun v j =>
      match owners[4 * i + j]? with
      | some n => v + (n + 256) * 2 ^ (16 * j)
      | none => v) 0)))

/-- Ask every controller for the slot map that strict mode, or its end, calls for; it takes effect at the next frame boundary. -/
def State.fillSlots (s : State) : State :=
  let put := fun (t : State) (k : Nat) =>
    let m := if t.hearth.strict then slotWords (slotShares (sortBy (fun a b => decide (a.1 < b.1)) (t.slotSuites k none))) else []
    t.updMc (ctlOfKey k) (fun c => { c with nextMap := some (t.hearth.strict, m) })
  (List.range 44).foldl put s

/-- Refill the slot maps where strict mode is set (R298). -/
def State.refillSlots (s : State) : State := if s.hearth.strict then s.fillSlots else s

/-! ## A Suite's activity ends (R363) -/

/-- Drop every task, edge and stream entry of a Suite, and what waited to be launched for it. -/
def State.dropGraphs (s : State) (n : BitVec 8) : State :=
  let one := fun (t : State) (k : Fin 8) =>
    t.updDisp k (fun d =>
      { d with
        able := d.able.filter (fun i => ((Table.find d.tasks i).map (fun x => x.suite)) ≠ some n)
        tasks := d.tasks.filter (fun e => e.2.suite ≠ n)
        edges := d.edges.filter (fun e => e.2.suite ≠ n)
        streams := d.streams.filter (fun e => e.2.suite ≠ n) })
  let s1 := (List.finRange 8).foldl one s
  { s1 with delivered := s1.delivered.filter (fun m => !(m.suite = n && m.dst ≠ .hearth)) }

/-- The graph block of a Suite that is reset (R223, R363): the fields that agents write return to reset; contexts, mail and graphs
are gone; the registered harts keep their limits, with every credit returned. WR, the lead Wing, QUOTA, the root and the records that wait stay. -/
def GSuite.restart (g : GSuite) : GSuite :=
  { GSuite.reset with
    wr := g.wr, ctxReg := BitVec.ofNat 64 (bitsOf g.ctxReg.toNat 0 11), leadWing := g.leadWing, slotNo := g.slotNo,
    hasSlot := g.hasSlot, sinkQueue := g.sinkQueue, root := g.root,
    senders := (g.senders.filter (fun r => match r.sender with | .hart _ => true | .session _ => false)).map
      (fun r => { r with inUse := 0, owed := 0 }) }

/-- End one Beyfy session: its keys are zeroised and its registration as a sender goes. -/
def State.endSession (s : State) (n : BitVec 8) (session : Nat) : State :=
  let s1 := s.updHearth (fun h => { h with sessions := Table.erase h.sessions session })
  let s2 := s1.updGsuite n (fun g =>
    { g with senders := g.senders.filter (fun r => r.sender ≠ .session (BitVec.ofNat 12 session)) })
  s2.hearthNote n 0x34 session 0

/-- End one peer session at its Suite's or the Hearth's word (R355). -/
def State.endPeer (s : State) (n : BitVec 8) (porch : Fin 2) (p : BitVec 8) : State :=
  ((s.endSlotsOn porch p 5).updSess porch p.toNat (fun _ => PeerSess.reset)).hearthNote n 0x34 p.toNat 1

/-- A collective slot stops with no completion word; ABORT goes to the next rank (R355). -/
def State.stopSlot (s : State) (porch : Fin 2) (i : Nat) : State :=
  let x := s.coll porch i
  let s1 := if x.started && x.op ≠ 5 then s.sessSend porch x.nextSess 7 0 0 0 x.collId (leBytes 16 (x.rank + 5 * 2 ^ 8)) else s
  s1.updColl porch i (fun y => { y with busy := false, started := false, status := 5, elems := [], putOpen := 0, words := none })

/-- Every session of a Suite ends, its copy chains and collective slots stop, and its Windows close (R334, R355). -/
def State.endLinks (s : State) (n : BitVec 8) : State :=
  let s1 := (List.finRange 2).foldl (fun (t : State) porch =>
    (List.range 8).foldl (fun (u : State) i =>
      if (u.coll porch i).busy && (u.coll porch i).owner = n then u.stopSlot porch i else u) t) s
  let s2 := (List.finRange 2).foldl (fun (t : State) porch =>
    let mine := (t.sessNumbers porch).filter (fun p => (t.sess porch p.toNat).suite = n)
    let t1 := (mine.filter (fun p => (t.sess porch p.toNat).valid)).foldl (fun u p => u.endPeer n porch p) t
    (mine.filter (fun p => (t.sess porch p.toNat).offered)).foldl (fun u p => u.updSess porch p.toNat (fun _ => PeerSess.reset)) t1) s1
  let s3 : State := { s2 with engines := Table.mapVals (fun _ x => if x.owner = some n then x.idle else x) s2.engines }
  let s4 := (List.finRange 4).foldl (fun (t : State) i =>
    t.updByPort i (fun p =>
      if bitOf p.winCtl.toNat 16 && bitsOf p.winCtl.toNat 8 8 = n.toNat then { p with winCtl := p.winCtl &&& ~~~(1 : W64) } else p)) s3
  ((s4.hearth.sessions.filter (fun e => e.2.suite = n)).map (fun e => e.1)).foldl (fun t i => t.endSession n i) s4

/-- Steps 1 to 3 of R363: the generation advances, or at 0xFFFF is taken away by a removal (R361); groups are killed; graphs,
contexts, mail and links end. -/
def State.silence (s : State) (n : BitVec 8) (remove : Bool) : State :=
  let last := (s.suite n).gen = 0xFFFF
  let s1 := s.updSuite n (fun x => if last then { x with staleAll := remove } else { x with gen := x.gen + 1 })
  let gen := (s1.suite n).gen
  let rooms := match (s1.suite n).rect with | none => [] | some q => q.rooms.map (fun r => (q, r))
  let s2 := rooms.foldl (fun (t : State) p =>
    if (t.room p.2).ownerSuite.map (fun o => o.1) = some n then t.reRect p.1 n gen p.2 else t) s1
  let s3 := s2.passHarts n gen (s2.suite n).harts
  let s4 := ((s3.killOn n ((List.range 96).map roomOfKey)).dropGraphs n).endLinks n
  s4.updGsuite n GSuite.restart

/-- Steps 4 of R363 for a Room that stays: its wipe and its barriers; the read-only caches of its cores are emptied (R160). -/
def State.rewipe (s : State) (r : RoomId) : State :=
  (List.finRange 6).foldl (fun t c => t.dropRoc ⟨r, c⟩) ((s.drainHall r).startWipe r)

end Sys2Proof.Machine
end

