-- ==== Sys2Proof/Machine/Startup.lean ====
section
/-! DEFINITION. Supply and OFF (R405, R456 to R465), module reset (R446), the start-up sequence (R434 to R442) and the management
commands (R443 to R445). `Hearth.step` is the last start-up step entered; 1 also means that step 2 is next. -/

namespace Sys2Proof.Machine

/-! ## OFF and module reset (R405, R446) -/

/-- The flash after an OFF or a reset: a copy whose write was open is invalid, and a requested clearing of the fault list is done. -/
def Hearth.flashAfter (h : Hearth) : List Nat × List (Nat × Nat) :=
  let open_ := h.fwState = 1 || h.fwState = 2 || h.fwState = 3
  let n := (if h.fwTarget then 2 else 0) + (if h.fwCopyB then 1 else 0)
  (if open_ then addOnce n h.flashBad else h.flashBad, if h.clearReq then [] else h.faultList)

/-- The Hearth with fuses and flash alone (R446). -/
def Hearth.fresh (h : Hearth) : Hearth :=
  { Hearth.reset with
    life := h.life, debugCount := h.debugCount, seedGone := h.seedGone, fuses := h.fuses, flashBad := h.flashAfter.1,
    faultList := h.flashAfter.2 }

/-- The module goes OFF: nothing is retained but fuses and flash (R405). -/
def State.powerOff (s : State) : State :=
  { State.reset with
    pending := s.pending, freeCtr := s.freeCtr, pins := { s.pins with modOn := false }, hearth := s.hearth.fresh }

/-- What a module reset keeps of power management: PWR_ENERGY, TOTAL_PM and the cycles since power-up (R446). -/
def Power.afterReset (p : Power) : Power :=
  { Power.reset with
    energy := p.energy, energyFrac := p.energyFrac, pmCycles := p.pmCycles,
    recs := Table.mapVals (fun _ r => { ThrRec.reset with totalPm := r.totalPm }) p.recs }

/-- A module reset: keys, sessions and the AK are zeroised, every Suite is gone, and the sequence restarts at step 2 (R446). -/
def State.moduleReset (s : State) (cause : BitVec 3) : State :=
  { State.reset with
    pending := s.pending, freeCtr := s.freeCtr, on := true, pins := s.pins, i3cAddr := s.i3cAddr, tap := s.tap, power := s.power.afterReset,
    hearth := { s.hearth.fresh with step := 1, lastReset := cause, resets := sat16 s.hearth.resets 1 } }

/-- Every key slot, every session with its keys, and the AK are zeroised (R386 step 1). -/
def State.zeroise (s : State) : State :=
  { s with sessions := [] }.updHearth (fun h => { h with keys := [], sessions := [], ak := 0 })

/-- A module reset is requested, and the keys are zeroised as the request is taken (R446); a request taken between a reset and the
next start of step 2 is merged into it. -/
def State.requestReset (s : State) (cause : BitVec 3) : State :=
  if s.hearth.step = 1 || s.hearth.resetReq.isSome then s
  else s.zeroise.updHearth (fun h => { h with resetReq := some cause })

/-! ## The supply (R395, R456 to R465) -/

/-- POWER_UP: the lands take these levels; with VIN in range past inrush, EN high, both references present and THERMTRIP_N
released, the module leaves OFF and begins step 1 (R459). -/
def execPowerUp (vinMv : Nat) (en ref0 ref1 : Bool) (s : State) : Out :=
  if s.on then .next s
  else
    let p : Pins :=
      { s.pins with
        inRange := decide (40000 ≤ vinMv) && decide (vinMv ≤ 60000), charged := s.pins.charged && decide (40000 ≤ vinMv), en := en,
        ref0 := ref0, ref1 := ref1, thermtrip := s.pins.thermtrip && en && decide (36000 ≤ vinMv) }
    let s1 := { s with pins := p }
    if p.inRange && p.charged && p.en && p.ref0 && p.ref1 && !p.thermtrip then
      .next ({ s1 with on := true }.updHearth (fun h => { h with step := 1 }))
    else .next s1

/-- INRUSH_COMPLETE: the input capacitance is charged (R456). -/
def execInrushComplete (s : State) : Out := .next (if s.pins.inRange then { s with pins := { s.pins with charged := true } } else s)

/-- ENABLE_DEASSERT: EN goes low, the module goes OFF and the thermal-trip latch is released (R460, R463). -/
def execEnableDeassert (s : State) : Out :=
  let t := s.powerOff
  .next { t with pins := { t.pins with en := false, thermtrip := false } }

/-- The module with no supply. -/
def State.unsupplied (s : State) : State :=
  let t := s.powerOff
  { t with pins := { t.pins with inRange := false, charged := false, thermtrip := false } }

/-- POWER_LOSS (R405). -/
def execPowerLoss (s : State) : Out := .next s.unsupplied

/-- BROWN_OUT: the input stays below 36.0 V for 400 cycles (R395). -/
def execBrownOut (s : State) : Out := .next s.unsupplied

/-- REFCLK_LOSS: an absent reference counts as EN low and takes the module OFF (R465). -/
def execRefclkLoss (porch : Fin 2) (s : State) : Out :=
  let t := s.powerOff
  .next { t with pins := if porch = 0 then { t.pins with ref0 := false } else { t.pins with ref1 := false } }

/-- RESET_INPUT: a pulse of at least 1 µs requests a module reset; one shorter than 100 ns is ignored; one between may or may not
be taken (R461). -/
def execResetInput (widthNs : Nat) (s : State) : Out :=
  if !s.on || decide (widthNs < 100) then .next s
  else if widthNs < 1000 then
    let d := s.drawBool
    .next (if d.1 then d.2.requestReset 1 else d.2)
  else .next (s.requestReset 1)

/-! ## Management commands (R443, R444) -/

/-- The Hearth ROM has halted the module for its life cycle: only status reads are answered (R444). -/
def Hearth.lifeHalt (h : Hearth) : Bool := h.phase = 14 && h.fault = 8

/-- Who may give MODULE_RESET and FAULT_CLEAR, with the LAST_RESET each leaves: the board management controller over I3C from the end
of step 1, and Suite 0, the monitor and the Hearth in the control space. -/
def State.mgmtWriter (s : State) (a : Agent) : Option (BitVec 3) :=
  match a with
  | .bmc => if s.pins.modOn then some 2 else none
  | .hearth => some 3
  | .mmode _ => some 3
  | .suite n => if n = 0 then some 3 else none

/-- HRT_MGMT_CMD with CMD 1: a module reset; a wrong KEY is ignored, as is any command in LIFECYCLE HALT (R444, R446). -/
def State.resetCmd (s : State) (cause : BitVec 3) (key : BitVec 16) : State :=
  if key ≠ 0xB007 || s.hearth.lifeHalt || s.hearth.step = 1 then s else s.moduleReset cause

/-- HRT_MGMT_CMD with CMD 2 (R444). -/
def State.clearCmd (s : State) (key : BitVec 16) : State :=
  if key ≠ 0xB007 || s.hearth.lifeHalt then s else s.updHearth (fun h => { h with clearReq := true })

/-- An access of the Hearth block: over the Bellwire, or by I3C for the board management controller (R434). -/
def State.hearthReg (s : State) (agent : Agent) (f : State → State) : State :=
  if agent = .bmc then f s else s.ctlExchange (agentEndpoint agent) .hearth f

/-- MODULE_RESET: carries out a reset requested before, or is the command with KEY 0xB007 (R444, R446). -/
def execModuleReset (agent : Agent) (key : BitVec 16) (s : State) : Out :=
  if !s.on then .next s
  else
    match s.hearth.resetReq with
    | some c => .next (s.moduleReset c)
    | none =>
      match s.mgmtWriter agent with
      | none => .next (s.hearthReg agent State.refusedAccess)
      | some c => .next (s.hearthReg agent (fun t => t.acceptedAccess.resetCmd c key))

/-- FAULT_CLEAR: the fault list is emptied at the next start (R444). -/
def execFaultClear (agent : Agent) (key : BitVec 16) (s : State) : Out :=
  if !s.on then .next s
  else
    match s.mgmtWriter agent with
    | none => .next (s.hearthReg agent State.refusedAccess)
    | some _ => .next (s.hearthReg agent (fun t => t.acceptedAccess.clearCmd key))

/-- SBI_SRST: shutdown is not supported; cold and warm reboot request a module reset (R441). -/
def execSbiSrst (h : Fin 128) (s : State) : Out :=
  if !s.hartCalls h then .next s
  else
    match ((s.hart h).reg 10).toNat with
    | 0 => .next (s.sbiRet h (-2) 0)
    | 1 => .next (s.requestReset 3)
    | 2 => .next (s.requestReset 3)
    | _ => .next (s.sbiRet h (-3) 0)

/-! ## Firmware copies (R435 to R437) -/

/-- Every stage lies within the copy at a multiple of 4 KiB and is not too long. -/
def imageCopyBounds (c : ImageCopy) : Bool :=
  (List.range 4).all (fun i =>
    let off := (listGet 0 c.stageOff i).toNat
    let len := (listGet 0 c.stageLen i).toNat
    off % 4096 = 0 && decide (off + len ≤ c.length.toNat) && decide (len ≤ listGet 0 [2 ^ 22, 2 ^ 19, 2 ^ 22, 2 ^ 24] i))

/-- An image copy's header is valid, and its first n stages match their digests (R437). -/
def imageOk (n : Nat) (c : ImageCopy) : Bool :=
  c.magic = 0x46585645 && decide (c.length.toNat ≤ 2 ^ 26) && imageCopyBounds c
    && Config.ecdsaVerify Config.firmwareKey c.header c.sig
    && (List.range n).all (fun i => listGet (0 : Digest) c.digests i = listGet 0 c.actual i)

/-- A configuration copy is valid (R436, R437). -/
def configOk (c : ConfigCopy) : Bool :=
  c.magic = 0x43585645 && decide (c.length.toNat ≤ 2 ^ 24) && c.bootOff.toNat % 4096 = 0 && decide (4096 ≤ c.bootOff.toNat)
    && decide (c.bootLen.toNat ≤ 15 * 2 ^ 20) && decide (c.bootOff.toNat + c.bootLen.toNat ≤ c.length.toNat) && c.digest = c.actual

/-- The copy chosen: the one with the higher VERSION if it is valid, copy A when they are equal, else the other. -/
def chooseCopy (va vb : BitVec 32) (okA okB : Bool) : Option Bool :=
  let bFirst := decide (va.toNat < vb.toNat)
  match okA, okB with
  | true, true => some bFirst
  | true, false => some false
  | false, true => some true
  | false, false => none

/-- FW_DIGEST: the chain over stages 1 to 3 (R379, R437). -/
def fwChain (c : ImageCopy) : Digest :=
  (List.range 3).foldl (fun (m : Digest) i => Config.sha384 (digestBytes m ++ digestBytes (listGet 0 c.actual i))) 0

/-- A copy read back from the bytes that a write has given: the image of R435. -/
def imageOfBytes (bs : List Byte) : ImageCopy :=
  let w := fun (n a : Nat) => leNat ((bs.drop a).take n)
  let st := fun (i : Nat) => 16 + 64 * i
  let part := fun (i : Nat) => (bs.drop (w 4 (st i))).take (w 4 (st i + 4))
  { magic := BitVec.ofNat 32 (w 4 0), version := BitVec.ofNat 32 (w 4 4), length := BitVec.ofNat 32 (w 4 8),
    stageOff := (List.range 4).map (fun i => BitVec.ofNat 32 (w 4 (st i))),
    stageLen := (List.range 4).map (fun i => BitVec.ofNat 32 (w 4 (st i + 4))),
    digests := (List.range 4).map (fun i => BitVec.ofNat 384 (w 48 (st i + 16))),
    actual := (List.range 4).map (fun i => Config.sha384 (part i)), header := bs.take 4000,
    sig := BitVec.ofNat 768 (w 96 4000) }

/-- The configuration block of R436 in the bytes that a write has given. -/
def configOfBytes (bs : List Byte) : ConfigCopy :=
  let w := fun (n a : Nat) => leNat ((bs.drop a).take n)
  { magic := BitVec.ofNat 32 (w 4 0), version := BitVec.ofNat 32 (w 4 4), length := BitVec.ofNat 32 (w 4 8),
    bootOff := BitVec.ofNat 32 (w 4 12), bootLen := BitVec.ofNat 32 (w 4 16), modes := BitVec.ofNat 8 (w 1 20),
    opKey := BitVec.ofNat 768 (w 96 64), digest := BitVec.ofNat 384 (w 48 160),
    actual := Config.sha384 ((bs.take (w 4 8)).drop 4096), boot := (bs.drop (w 4 12)).take (w 4 16) }

/-! ## Firmware writes (R444, R445) -/

/-- A firmware write is open. -/
def Hearth.writing (h : Hearth) : Bool := h.fwState = 1 || h.fwState = 2 || h.fwState = 3

/-- A write ends: fault-list writes that waited are made. -/
def Hearth.endWrite (h : Hearth) (st : BitVec 3) : Hearth :=
  { h with fwState := st, fwBytes := [], faultList := h.faultList ++ h.faultWait, faultWait := [] }

/-- The copy that FW_OPEN erases: the one not in use; in RECOVERY and HALT the invalid one, or copy A when both are. -/
def Hearth.copyToWrite (h : Hearth) (config : Bool) : Bool :=
  let used := if config then h.configB else h.imageB
  let seen := if config then h.cfgValid else h.imgValid
  if h.phase = 13 || h.phase = 14 then
    match seen with
    | some (true, false) => true
    | some (false, _) => false
    | some (true, true) => !used
    | none => !used
  else !used

/-- A firmware command by the board management controller; in the control space it is ignored, or refused. -/
def fwCommand (agent : Agent) (s : State) (f : Hearth → Hearth) : Out :=
  if !s.on then .next s
  else if agent = .bmc then
    if !s.pins.modOn || s.hearth.lifeHalt then .next s else .next (s.updHearth f)
  else
    match s.mgmtWriter agent with
    | none => .next (s.hearthReg agent State.refusedAccess)
    | some _ => .next (s.hearthReg agent State.acceptedAccess)

/-- The copy to be written is opened, and erased first; ignored while a write is open. -/
def Hearth.openWrite (h : Hearth) (config : Bool) : Hearth :=
  if h.writing then h
  else
    let b := h.copyToWrite config
    { h with
      fwState := 1, fwTarget := config, fwCopyB := b, fwWritten := 0, fwBytes := [],
      flashBad := addOnce ((if config then 2 else 0) + (if b then 1 else 0)) h.flashBad }

/-- The write is closed, and its copy checked next. -/
def Hearth.closeWrite (h : Hearth) : Hearth := if h.fwState = 2 then { h with fwState := 3 } else h

/-- The write ends and the copy stays invalid. -/
def Hearth.abortWrite (h : Hearth) : Hearth := if h.writing then h.endWrite 0 else h

/-- FW_OPEN: opens the copy to be written, and erases it first; ignored while a write is open. -/
def execFwOpen (agent : Agent) (config : Bool) (s : State) : Out :=
  fwCommand agent s (fun h => h.openWrite config)

/-- FW_ERASE_COMPLETE. -/
def execFwEraseComplete (s : State) : Out :=
  .next (if s.hearth.fwState = 1 then s.updHearth (fun h => { h with fwState := 2 }) else s)

/-- FW_DATA: 1 to 256 bytes are appended; past 64 MiB or 16 MiB the write ends in ERROR. -/
def execFwData (agent : Agent) (bytes : List Byte) (s : State) : Out :=
  if agent ≠ .bmc then .next s
  else
    fwCommand agent s (fun h =>
      if h.fwState ≠ 2 || bytes = [] || decide (256 < bytes.length) then h
      else if (if h.fwTarget then 2 ^ 24 else 2 ^ 26) < h.fwWritten.toNat + bytes.length then h.endWrite 5
      else { h with fwBytes := h.fwBytes ++ bytes, fwWritten := h.fwWritten + BitVec.ofNat 32 bytes.length })

/-- FW_CLOSE: the check of the whole copy starts. -/
def execFwClose (agent : Agent) (s : State) : Out :=
  fwCommand agent s Hearth.closeWrite

/-- FW_VERIFY_COMPLETE: the copy, read back as written where `ok` says so, is checked under R437; only then is its header written,
last, and DONE set; else ERROR. -/
def execFwVerifyComplete (ok : Bool) (s : State) : Out :=
  let h := s.hearth
  if h.fwState ≠ 3 then .next s
  else
    let n := (if h.fwTarget then 2 else 0) + (if h.fwCopyB then 1 else 0)
    let good := ok && (if h.fwTarget then configOk (configOfBytes h.fwBytes) else imageOk 4 (imageOfBytes h.fwBytes))
    .next (s.updHearth (fun y => if good then { y.endWrite 4 with flashBad := dropAll n y.flashBad } else y.endWrite 5))

/-- FW_ABORT: the write ends and the copy stays invalid. -/
def execFwAbort (agent : Agent) (s : State) : Out := fwCommand agent s Hearth.abortWrite

/-! ## Start-up, steps 2 to 4 (R438) -/

/-- Start-up stops under R439: RECOVERY for NO_IMAGE and NO_CONFIG, HALT for the rest. -/
def State.stopStartup (s : State) (fault : BitVec 8) : State :=
  s.updHearth (fun h => { h with step := 0, fault := fault, phase := if fault = 2 || fault = 3 then 13 else 14 })

/-- A start-up step is entered. -/
def State.enterStep (s : State) (n : Nat) (phase : BitVec 4) : State := s.updHearth (fun h => { h with step := n, phase := phase })

/-- HEARTH_ROM_START: step 2. BLANK and SCRAPPED stop with LIFECYCLE, failed entropy tests with ENTROPY. -/
def execHearthRomStart (entropyOk : Bool) (s : State) : Out :=
  if !s.on || s.hearth.step ≠ 1 then .next s
  else
    let s1 := { s with pins := { s.pins with modOn := true } }
    if s.hearth.life = .blank || s.hearth.life = .scrapped then .next (s1.stopStartup 8)
    else if !entropyOk then .next (s1.stopStartup 7)
    else .next (s1.enterStep 2 0)

/-- The straps of a Wing hold an odd number of ones (R20). -/
def strapParity (v : BitVec 4) : Bool := (List.range 4).foldl (fun b i => b != bitOf v.toNat i) false

/-- DIE_IDENTITY_CHECK: step 3. Each Wing holds its straps; one whose parity fails, and both of two that report one number, are left
out (R20, R21); a fault of the die fuses is an IDENTITY_FAULT (R27). -/
def execDieIdentityCheck (straps : List (BitVec 4)) (s : State) : Out :=
  if !s.on || s.hearth.step ≠ 2 then .next s
  else
    let strap := fun (k : Nat) => listGet (0 : BitVec 4) straps k
    let num := fun (k : Nat) => (strap k).toNat % 8
    let ok := fun (k : Nat) => strapParity (strap k) && (List.range 8).all (fun j => j = k || num j ≠ num k)
    let put := fun (t : State) (k : Fin 8) =>
      t.updWing k (fun w =>
        { w with wpos := BitVec.ofNat 3 (num k.val), strapOk := strapParity (strap k.val), included := ok k.val })
    let s1 := (List.finRange 8).foldl put s
    if !s.hearth.fuses.ok then .next (s1.stopStartup 1)
    else .next ((s1.updHearth (fun h => { h with identityOk := (List.range 8).all ok })).enterStep 3 0)

/-- FIRMWARE_VERIFY: step 4. A copy that a write left invalid, or that this start has abandoned, is not tried. -/
def execFirmwareVerify (a b : ImageCopy) (s : State) : Out :=
  let h := s.hearth
  if !s.on || h.step ≠ 3 then .next s
  else
    let usable := fun (n : Nat) => !h.flashBad.contains n && !h.imgBad.contains n
    let okA := usable 0 && imageOk 3 a
    let okB := usable 1 && imageOk 3 b
    let s1 := s.updHearth (fun y => { y with imgValid := some (okA, okB) })
    match chooseCopy a.version b.version okA okB with
    | none => .next (s1.stopStartup 2)
    | some useB =>
      let c := if useB then b else a
      .next ((s1.updHearth (fun y =>
        { y with imageB := useB, fwDigest := fwChain c, monDigest := listGet 0 c.digests 3, monLen := (listGet 0 c.stageLen 3).toNat })).enterStep 4 1)

/-! ## Step 5: links, HRT_DIE_MAP and the band table (R15, R18, R19, R429) -/

/-- The ten Corridors: the two Wings, lower first. -/
def corridorList : List (Nat × Nat) :=
  [(0, 1), (1, 2), (2, 3), (4, 5), (5, 6), (6, 7), (0, 4), (1, 5), (2, 6), (3, 7)]

/-- The four ends: Cellar and die number, in the order of R15. -/
def endList : List (Nat × Nat) := [(0, 0), (4, 0), (3, 1), (7, 1)]

/-- The number of a Parlour or Porch link (R478). -/
def endNumber (e : Nat × Nat) (porch : Bool) : Nat := e.1 + 8 * e.2 + (if porch then 16 else 0) + 64

/-- Aligned groups of packages that take the capacity, greedily from L = 5 downward (R429): L and first package. -/
def pkgGroups (pkgs : BitVec 32) : List (Nat × Nat) :=
  let whole := fun (l f : Nat) => (List.range (2 ^ l)).all (fun i => pkgs.getLsbD (f + i))
  let inside := fun (gs : List (Nat × Nat)) (f : Nat) => gs.any (fun g => decide (g.2 ≤ f) && decide (f < g.2 + 2 ^ g.1))
  [5, 4, 3, 2, 1, 0].foldl (fun gs l =>
    gs ++ ((List.range (2 ^ (5 - l))).map (fun i => i * 2 ^ l)).filterMap (fun f =>
      if whole l f && !inside gs f then some (l, f) else none)) []

/-- The band table: 124 × 2^L bands for each group, largest group first and lowest band number first (R228, R429). -/
def bandTable (pkgs : BitVec 32) : Table W64 :=
  ((pkgGroups pkgs).flatMap (fun g =>
    (List.range (124 * 2 ^ g.1)).map (fun i =>
      BitVec.ofNat 64 (1 + 2 * g.1 + 16 * g.2 + 512 * (i * 2 ^ (5 - g.1)))))).zipIdx.map (fun p => (p.2, p.1))

/-- The UP bits of a Wing's ports, die-local east, west and south (WING_PORT_MAP): a rotated Wing's east is physical west. -/
def portUpBits (k : Nat) (link : Nat → Bool) (endUp : Nat → Bool) : BitVec 3 :=
  let c := k % 4
  let east := if c = 3 then endUp k else link (k + 8 * (k + 1))
  let west := if c = 0 then endUp k else link (k - 1 + 8 * k)
  let south := link (k % 4 + 8 * (k % 4 + 4))
  BitVec.ofNat 3 ((if (if k < 4 then east else west) then 1 else 0) + (if (if k < 4 then west else east) then 2 else 0)
    + (if south then 4 else 0))

/-- The ports of a Room: to a neighbour in its own Wing, or over a Corridor in service. -/
def roomPorts (wings : BitVec 8) (link : Nat → Bool) (r : RoomId) : BitVec 4 :=
  let a := (wingOfRoom r).val
  let up := fun (d : Nat) =>
    match neighbour r d with
    | none => false
    | some m =>
      let b := (wingOfRoom m).val
      wings.getLsbD a && (a = b || link (min a b + 8 * max a b))
  BitVec.ofNat 4 ((List.range 4).foldl (fun v d => if up d then v + 2 ^ d else v) 0)

/-- LINK_TRAINING_BOOT: step 5. What trained, less what the fault list names, is the configuration. DESIGN CHOICE (log 188): no link
of a Wing left out is in service, a Wing left out under R21 with its parity right among them; R20 says so of a parity failure alone. -/
def execLinkTrainingBoot (corridors : BitVec 10) (parlourLinks porchLinks : BitVec 4) (stairs : BitVec 8) (s : State) : Out :=
  let h := s.hearth
  if !s.on || h.step ≠ 4 then .next s
  else
    let listed := fun (kind n : Nat) => h.faultList.contains (kind, n)
    let wingOk := fun (k : Nat) => (s.wing (Fin.ofNat 8 k)).included && stairs.getLsbD k && !listed 3 k
    let mask := fun (n : Nat) (p : Nat → Bool) => (List.range n).foldl (fun v i => if p i then v + 2 ^ i else v) 0
    let wings : BitVec 8 := BitVec.ofNat 8 (mask 8 wingOk)
    let links := (corridorList.zipIdx.filter (fun c =>
      corridors.getLsbD c.2 && wingOk c.1.1 && wingOk c.1.2 && !listed 4 (c.1.1 + 8 * c.1.2))).map (fun c => c.1.1 + 8 * c.1.2)
    let ends := fun (up : BitVec 4) (porch : Bool) => endList.zipIdx.filter (fun e =>
      up.getLsbD e.2 && wingOk e.1.1 && !listed 4 (endNumber e.1 porch))
    let plr := ends parlourLinks false
    let por := ends porchLinks true
    let has := fun (l : List ((Nat × Nat) × Nat)) (n : Nat) => l.any (fun e => e.1.2 = n)
    let pkgs : BitVec 32 := BitVec.ofNat 32 (mask 32 (fun p => wingOk (p / 4) && !listed 2 p))
    let out := (corridorList.map (fun c => c.1 + 8 * c.2)).filter (fun n => !links.contains n)
      ++ (endList.filter (fun e => !plr.any (fun x => x.1 = e))).map (fun e => endNumber e false)
      ++ (endList.filter (fun e => !por.any (fun x => x.1 = e))).map (fun e => endNumber e true)
    let link := fun (n : Nat) => links.contains n
    let degraded := wings ≠ 255 || links.length ≠ 10 || pkgs ≠ 0xFFFFFFFF
    let s1 := (List.finRange 8).foldl (fun (t : State) (k : Fin 8) =>
      t.updWing k (fun w =>
        { w with included := wingOk k.val, portUp := portUpBits k.val link (fun j => plr.any (fun e => e.1.1 = j)),
                 porchUp := por.any (fun e => e.1.1 = k.val) })) s
    let s2 := ((List.range 96).map roomOfKey).foldl (fun (t : State) r =>
      t.updRoom r (fun x => { x with portsUp := roomPorts wings link r })) s1
    let s3 := s2.updHearth (fun y =>
      { y with wingIn := wings, plrIn := BitVec.ofNat 2 (mask 2 (has plr)), porchIn := BitVec.ofNat 2 (mask 2 (has por)),
               pkgIn := pkgs, routes := out, bands := bandTable pkgs, degraded := degraded,
               routeTable := if degraded then some (routeTableFor wings out) else none })
    if wings = 0 then .next (s3.stopStartup 4)
    else if plr = [] then .next (s3.stopStartup 5)
    else .next (s3.enterStep 5 2)

/-! ## Step 6: memory training (R280, R281, R283) -/

/-- The highest of the first n bits that every mask has. -/
def commonBit (n : Nat) (masks : List Nat) : Option Nat :=
  ((List.range n).reverse).find? (fun i => masks.all (fun m => bitOf m i))

/-- Two DIMMs are equal in capacity, ranks, stacking and device width (R281). -/
def spdEqual (a b : Spd) : Bool := a.capGib = b.capGib && a.ranks2 = b.ranks2 && a.stack = b.stack && a.x8 = b.x8

/-- An option that R280 lists: the standard, the module type and its stack, ECC, the capacity, and a data rate. -/
def spdListed (x : Spd) : Bool :=
  x.ok && x.ddr5 && x.rdimm && x.ecc && x.stack ≠ 3 && x.rates ≠ 0 && [16, 32, 48, 64, 96, 128, 192, 256].contains x.capGib.toNat

/-- No DIMM. -/
def noSpd : Spd := { present := false, ok := false, ddr5 := false, rdimm := false, ecc := false, capGib := 0, ranks2 := false, stack := 0, x8 := false, rates := 0 }

/-- The channels of a Parlour that are included. -/
def channelsIn (spds : List Spd) (trained : BitVec 12) (listed : Nat → Bool) (n : Nat) : List Nat :=
  let spd := fun (c : Nat) => listGet noSpd spds (6 * n + c)
  match (List.range 6).find? (fun c => spdListed (spd c)) with
  | none => []
  | some f => (List.range 6).filter (fun c => spdListed (spd c) && spdEqual (spd c) (spd f) && trained.getLsbD (6 * n + c) && !listed (6 * n + c))

/-- MEMORY_TRAINING: step 6. Every package in service runs at the highest rate at which all of them train; one that does not train
at the lowest is listed and left out. Every included DDR5 channel runs at the highest rate that all their DIMMs list. -/
def execMemoryTraining (lpdRates : List (BitVec 4)) (spds : List Spd) (ddrTrained : BitVec 12) (s : State) : Out :=
  let h := s.hearth
  if !s.on || h.step ≠ 5 then .next s
  else
    let rates := fun (p : Nat) => (listGet (0 : BitVec 4) lpdRates p).toNat
    let here := (List.range 32).filter (fun p => h.pkgIn.getLsbD p)
    let good := here.filter (fun p => bitOf (rates p) 0)
    let pkgs : BitVec 32 := BitVec.ofNat 32 (good.foldl (fun v p => v + 2 ^ p) 0)
    let rate := (commonBit 4 (good.map rates)).getD 0
    let s1 := (here.filter (fun p => !good.contains p)).foldl (fun t p => t.listFault 2 p) s
    let s2 := s1.updHearth (fun y =>
      if pkgs = y.pkgIn then y else { y with pkgIn := pkgs, bands := bandTable pkgs, degraded := true })
    let s3 := good.foldl (fun (t : State) p =>
      t.updMc (ctlOfKey p) (fun c => { c with chUp := 15, inService := true, rate := BitVec.ofNat 3 rate })) s2
    let listed := fun (c : Nat) => h.faultList.contains (5, c)
    let inc := fun (n : Nat) => if h.plrIn.getLsbD n then channelsIn spds ddrTrained listed n else []
    let spd := fun (n c : Nat) => listGet noSpd spds (6 * n + c)
    let all := (inc 0).map (spd 0) ++ (inc 1).map (spd 1)
    let d := s3.drawBits
    let dr := (commonBit 9 (all.map (fun x => x.rates.toNat))).getD (bitsOf d.1.toNat 0 4)
    let bits := fun (p : Nat → Bool) => BitVec.ofNat 6 ((List.range 6).foldl (fun v c => if p c then v + 2 ^ c else v) 0)
    let plr := fun (t : State) (n : Fin 2) =>
      let x := spd n.val
      t.updParlour n (fun p =>
        { p with chPresent := bits (fun c => (x c).present), chSpdOk := bits (fun c => spdListed (x c)),
                 chIn := bits (fun c => (inc n.val).contains c), chTrained := bits (fun c => ddrTrained.getLsbD (6 * n.val + c)),
                 chRate := BitVec.ofNat 4 dr, chCap := (List.range 6).map (fun c => (c, (x c).capGib.toNat)),
                 chRanks2 := bits (fun c => (x c).ranks2), chStack := (List.range 6).map (fun c => (c, (x c).stack)),
                 chX8 := bits (fun c => (x c).x8) })
    let s4 := (List.finRange 2).foldl plr (if (commonBit 9 (all.map (fun x => x.rates.toNat))).isSome then s3 else d.2)
    let ddr := (inc 0).map (fun c => 32 + c) ++ (inc 1).map (fun c => 38 + c)
    let s5 := ddr.foldl (fun (t : State) k => t.updMc (ctlOfKey k) (fun c => { c with chUp := 1, inService := true })) s4
    if ddr = [] then .next (s5.stopStartup 6) else .next (s5.enterStep 6 2)

/-! ## Steps 7 to 11 -/

/-- STARTUP_WIPE: step 7: every controller in service starts a full wipe, and every SRAM that can hold a Suite's data is
wiped (R386). -/
def execStartupWipe (s : State) : Out :=
  if !s.on || s.hearth.step ≠ 6 then .next s
  else
    let s1 := (List.range 44).foldl (fun (t : State) k =>
      if (t.mc (ctlOfKey k)).inService then t.updMc (ctlOfKey k) Mc.startFull else t) s
    let s2 : State :=
      { s1 with lines := [], dirs := [], misses := [], evicted := [], partials := [], snoops := [], cores := [],
                rooms := Table.mapVals (fun _ (x : Room) => { x with mem := [], poison := [] }) s1.rooms,
                parlours := Table.mapVals (fun _ (p : Parlour) => { p with l3 := [] }) s1.parlours }
    .next (s2.enterStep 7 3)

/-- Every controller of these that is in service has reported DONE. -/
def State.wipesDone (s : State) (keys : List Nat) : Bool :=
  keys.all (fun k => !(s.mc (ctlOfKey k)).inService || (s.mc (ctlOfKey k)).wipeDone)

/-- The monitor's slice: 16 k + 1 for the lowest Cellar k of the configuration (R440). -/
def Hearth.monitorSlice (h : Hearth) : Nat := 16 * (((List.range 8).find? (fun k => h.wingIn.getLsbD k)).getD 0) + 1

/-- The monitor's memory: code in common region 15, data in 128 pages under Suite ID 255 and key slot 127 (R440). -/
def State.placeMonitor (s : State) : State :=
  let slice := s.hearth.monitorSlice
  let s1 := (s.updSuite 255 (fun _ => { Suite.reset with slices := BitVec.ofNat 128 (2 ^ slice), keyIdx := 127 })).passSlices 255 true [slice]
  let s2 := (List.range 128).foldl (fun (t : State) i =>
    t.setPage (512 + i) { PageEntry.reset with owner := 255, valid := true, keyIdx := 127 } |>.wipeAll (pageBase (512 + i) / 2 ^ 21)) s1
  let r := s2.pickPages .global ((s.hearth.monLen + 2 ^ 21 - 1) / 2 ^ 21)
  let code := r.1.getD []
  let s3 := code.foldl (fun (t : State) i =>
    t.setPage i { PageEntry.reset with owner := 255, valid := true, keyIdx := 17, common := true, cid := 15 } |>.wipeAll (pageBase i / 2 ^ 21)) r.2
  let region : CommonRegion :=
    { CommonRegion.reset with
      valid := true, publisher := 255, pages4k := BitVec.ofNat 32 ((s.hearth.monLen + 4095) / 4096), readers := BitVec.allOnes 256, pages := code }
  s3.updHearth (fun h => { h with commons := Table.set h.commons 15 region })

/-- STARTUP_MONITOR_LOAD: step 8, once every LPDDR6 controller reports DONE. A configuration copy is chosen; a stage 4 that does
not match its digest abandons the image copy, and verification starts again with the other (R437). -/
def execStartupMonitorLoad (a b : ConfigCopy) (monitorDigest : Digest) (s : State) : Out :=
  let h := s.hearth
  if !s.on || h.step ≠ 7 || !s.wipesDone (List.range 32) then .next s
  else
    let okA := !h.flashBad.contains 2 && configOk a
    let okB := !h.flashBad.contains 3 && configOk b
    let s0 := s.updHearth (fun y => { y with cfgValid := some (okA, okB) })
    match chooseCopy a.version b.version okA okB with
    | none => .next (s0.stopStartup 3)
    | some useB =>
      if monitorDigest ≠ h.monDigest then
        .next ((s0.updHearth (fun y => { y with imgBad := addOnce (if h.imageB then 1 else 0) y.imgBad })).enterStep 3 1)
      else
        let c := if useB then b else a
        let k := s0.drawKey
        let s1 := ([0, 1, 17, 127].foldl State.drawSlot k.2).updHearth (fun y =>
          { y with ak := k.1, opKey := c.opKey, modes := c.modes, bootLen := c.bootLen.toNat, cfgCopy := some c, configB := useB })
        .next (s1.placeMonitor.enterStep 8 3)

/-- HRT_DIE_MAP (R30). -/
def Hearth.dieMap (h : Hearth) : Nat :=
  h.wingIn.toNat + h.plrIn.toNat * 2 ^ 8 + h.porchIn.toNat * 2 ^ 10 + natOfBool h.hearthPorch * 2 ^ 12
    + natOfBool h.identityOk * 2 ^ 13 + natOfBool h.degraded * 2 ^ 14 + h.pkgIn.toNat * 2 ^ 16

/-- HRT_MGMT_STATUS (R450). -/
def Hearth.mgmtStatus (h : Hearth) : Nat :=
  h.phase.toNat + h.fault.toNat * 2 ^ 4 + natOfBool h.imageB * 2 ^ 12 + natOfBool h.configB * 2 ^ 13
    + natOfBool h.degraded * 2 ^ 14 + natOfBool h.ready * 2 ^ 15 + h.lastReset.toNat * 2 ^ 16 + h.resets.toNat * 2 ^ 32

/-- PLR_DDR_CH of a channel (R282). -/
def Parlour.ddrCh (p : Parlour) (c : Nat) : Nat :=
  let b := fun (v : BitVec 6) => natOfBool (v.getLsbD c)
  b p.chPresent + b p.chSpdOk * 2 + b p.chIn * 4 + b p.chTrained * 8 + p.chRate.toNat * 2 ^ 8 + Table.get 0 p.chCap c * 2 ^ 16
    + b p.chRanks2 * 2 ^ 25 + (Table.get 0 p.chStack c).toNat * 2 ^ 26 + b p.chX8 * 2 ^ 28

/-- Where Suite 0's boot image lies: the base of the lowest DDR5 half with an included channel; and the block after it (R441). -/
def State.bootPlace (s : State) : Nat × Nat :=
  let base := if (s.parlour 0).included ≠ [] then ddrBase 0 else ddrBase 1
  (base, base + (s.hearth.bootLen + 4095) / 4096 * 4096)

/-- The words of the boot-information block. -/
def State.bootInfo (s : State) : List Byte :=
  leBytes 8 s.hearth.dieMap ++ leBytes 8 s.hearth.mgmtStatus
    ++ (List.finRange 2).flatMap (fun n => (List.range 6).flatMap (fun c => leBytes 8 ((s.parlour n).ddrCh c)))

/-- The harts of the Parlours in the configuration. -/
def Hearth.hartsIn (h : Hearth) : BitVec 128 :=
  BitVec.ofNat 128 ((if h.plrIn.getLsbD 0 then 2 ^ 64 - 1 else 0) + (if h.plrIn.getLsbD 1 then (2 ^ 64 - 1) * 2 ^ 64 else 0))

/-- Suite 0 at start-up (R360): slice 0 of every Cellar in the configuration, every hart, every DDR5 page; key slot 18; a mail slot
as a Suite without Rooms (R187); the operator key in place of a TPK (R371). Its pages are given by R368, so they are wiped under its
keys and read as zeros (DEDUCED, log 185). -/
def State.createSuite0 (s : State) : State :=
  let h := s.hearth
  let slices := ((List.range 8).filter (fun k => h.wingIn.getLsbD k)).map (fun k => 16 * k)
  let lead := s.spareSlot.getD (0, 12)
  let x : Suite :=
    { Suite.reset with
      state := .active, gen := 1, keyIdx := 18, slices := BitVec.ofNat 128 (slices.foldl (fun v i => v + 2 ^ i) 0), harts := h.hartsIn,
      tpk := h.opKey }
  let s1 := ((s.updSuite 0 (fun _ => x)).passSlices 0 true slices).passHarts 0 1 h.hartsIn
  let s2 := (s1.updHearth (fun y => { y with ddrToZero := true })).drawSlot 18
  let ddr := (List.range 12).map (fun c => ctlKey (.ddr (Fin.ofNat 12 c)))
  let s3 := { s2 with ctlKeys := ddr.foldl (fun t c => Table.set t c (Table.get 0 s2.hearth.keys 18)) s2.ctlKeys }
  s3.updGsuite 0 (fun _ => { GSuite.reset with leadWing := lead.1, slotNo := lead.2, hasSlot := true })

/-- The defaults of R448. -/
def State.applyModes (s : State) : State :=
  let m := s.hearth.modes.toNat
  let s1 := (List.finRange 8).foldl (fun (t : State) k => t.updWing k (fun w => { w with fenceMode := bitOf m 0 })) s
  let s2 := (List.range 44).foldl (fun (t : State) k =>
    t.updMc (ctlOfKey k) (fun c => { c with calMode := bitOf m (if k < 32 then 3 else 4) })) s1
  let s3 := s2.updHearth (fun h => { h with repairMode := bitOf m 1 })
  { s3 with power := { s3.power with capMode := bitOf m 2 } }

/-- Step 10: the harts leave reset in M-mode, mtime starts at 0, and the monitor starts the lowest hart of Suite 0; the others wait. -/
def State.startHarts (s : State) : State :=
  let ins := s.hearth.hartsIn
  let hs := (List.finRange 128).filter (fun h => ins.getLsbD h.val)
  let s1 := hs.foldl (fun (t : State) h => t.updHart h (fun x => { x with inReset := false, mxsuite := 255 })) s
  let s2 := (List.finRange 2).foldl (fun (t : State) n =>
    if t.hearth.plrIn.getLsbD n.val then t.updParlour n (fun p => { p with mtime := 0, refLocked := true }) else t) s1
  match hs with
  | [] => s2
  | h :: rest =>
    let s3 := s2.updHart h (fun x =>
      (({ x with started := true, mxsuite := 0 } : Hart).setReg 10 (BitVec.ofNat 64 h.val)).setReg 11 (BitVec.ofNat 64 s.bootPlace.2))
    s3.updHearth (fun y => { y with hsmWaiting := rest.map (fun r => r.val) })

/-- Step 11: the ports of the Porches in the configuration begin training. -/
def State.startPorts (s : State) : State :=
  let ports := (List.finRange 4).map Port.by ++ (List.finRange 6).map Port.bz
  (ports.filter (fun p => s.hearth.porchIn.getLsbD (porchOf p).val)).foldl (fun t p => t.updLink p Link.fresh) s

/-- STARTUP_READY: step 9, once steps 7 and 8 are complete, with steps 10 and 11 behind it. -/
def execStartupReady (s : State) : Out :=
  let h := s.hearth
  if !s.on || h.step ≠ 8 || !s.wipesDone (List.range 44) then .next s
  else
    let s1 := s.updHearth (fun y => { y with phase := 4 })
    let place := s1.bootPlace
    let image := ((h.cfgCopy.map (fun c => c.boot)).getD []).take h.bootLen
    let s2 := (s1.createSuite0.putExt place.1 image).putExt place.2 s1.bootInfo
    let s3 := s2.applyModes.updHearth (fun y => { y with ready := true, step := 0 })
    .next s3.startHarts.startPorts

/-- The faults that the step under way can find (R438); its row enters it when it is done. -/
def stepFaults (done : Nat) : List Nat :=
  match done with
  | 1 => [7, 8]
  | 2 => [1]
  | 3 => [2]
  | 4 => [4, 5]
  | 5 => [6]
  | 7 => [2, 3]
  | _ => []

/-- STARTUP_STEP_OVERRUN: a step overruns its limit: with the fault that it finds, or none (R438, R439). -/
def execStartupStepOverrun (fault : BitVec 8) (s : State) : Out :=
  if !s.on || s.hearth.step = 0 || !(fault = 0 || (stepFaults s.hearth.step).contains fault.toNat) then .next s
  else .next (s.stopStartup fault)

end Sys2Proof.Machine
end

