-- ==== Sys2Proof/Machine/Power.lean ====
section
/-! DEFINITION. The power controller (chapter 15): evaluations, droop, heat, caps, throttle records, energy and jobs, and the
gust limiter and power gates of the cores. Units are 0 to 7 Wings, 8 and 9 Parlours, 10 to 15 Breezeway ports. -/

namespace Sys2Proof.Machine

/-! ## Units and records -/

/-- A unit's limits. -/
def State.unit (s : State) (u : Nat) : UnitPwr := Table.get (UnitPwr.reset u) s.power.units u

/-- Change a unit's limits. -/
def State.updUnit (s : State) (u : Nat) (f : UnitPwr → UnitPwr) : State :=
  { s with power := { s.power with units := Table.set s.power.units u (f (s.unit u)) } }

/-- The lowest step: 4 for a Wing, 8 for a Parlour (R390). -/
def floorStep (u : Nat) : Nat := if u < 8 then 4 else 8

/-- The highest step: 32 for a Wing, 38 for a Parlour. -/
def topStep (u : Nat) : Nat := if u < 8 then 32 else 38

/-- One step down, not below the floor. -/
def stepDown (u n : Nat) : Nat := max (floorStep u) (n - 1)

/-- One step up, not above the top. -/
def stepUp (u n : Nat) : Nat := min (topStep u) (n + 1)

/-- A value taken into a range. -/
def clamp (lo hi n : Nat) : Nat := max lo (min hi n)

/-- The key of the record of a unit and reason. -/
def thrKey (u r : Nat) : Nat := 8 * u + r

/-- The record of a unit and reason. -/
def State.thr (s : State) (u r : Nat) : ThrRec := Table.get ThrRec.reset s.power.recs (thrKey u r)

/-- Change a record. -/
def State.updThr (s : State) (u r : Nat) (f : ThrRec → ThrRec) : State :=
  { s with power := { s.power with recs := Table.upd ThrRec.reset s.power.recs (thrKey u r) f } }

/-- A reason becomes active or inactive at an edge of the power-management island: an episode starts at the first edge at which it is
active (R41, R402). -/
def ThrRec.set (y : ThrRec) (now : W64) (active : Bool) : ThrRec :=
  if active then
    (if y.running then { y with active := true, edgePm := now }
     else { y with active := true, running := true, startPm := now, edgePm := now, endPm := now, pm := 0 })
  else { y with active := false, endPm := now, pm := y.pm + (now - y.edgePm) }

/-- As `ThrRec.set`, of the record of a unit and reason. -/
def State.setReason (s : State) (u r : Nat) (active : Bool) : State :=
  if (s.thr u r).active = active then s else s.updThr u r (fun y => y.set s.power.pmCycles active)

/-- The cores of a Wing. -/
def coresOfWing (k : Nat) : List CoreId := (roomsOfWing k).flatMap (fun r => (List.finRange 6).map (fun c => ⟨r, c⟩))

/-! ## Droop (R34, R394, R395) -/

/-- R394 at one evaluation: counts of periods with no stretched cycle, and with at least 1/64 of the powered cores stretched. -/
def UnitPwr.droopStep (x : UnitPwr) (u powered stretched : Nat) : UnitPwr :=
  let many := decide (0 < stretched) && decide (powered ≤ 64 * stretched)
  let no := if stretched = 0 then min 4 (x.noDroop + 1) else 0
  let is_ := if many then min 4 (x.isDroop + 1) else 0
  let lim := if is_ = 4 then stepDown u x.droop else if no = 4 then stepUp u x.droop else x.droop
  { x with noDroop := no, isDroop := is_, droop := lim }

/-- The droop limit is the one that binds. -/
def UnitPwr.droopBinds (x : UnitPwr) (u : Nat) : Bool := x.droop = x.step && decide (x.droop < topStep u)

/-- DROOP of a Wing: a core of it is stretched, or its droop limit binds. -/
def State.wingDroop (s : State) (k : Nat) : Bool :=
  (coresOfWing k).any (fun c => (s.core c).stretched) || (s.unit k).droopBinds k

/-- SUPPLY_DROOP: a core's cycles stretch, or it has recovered (R34). -/
def execSupplyDroop (c : CoreId) (stretched : Bool) (s : State) : Out :=
  if !s.on then .next s
  else
    let s1 := s.updCore c (fun x => { x with stretched := stretched })
    let k := (wingOfRoom c.room).val
    .next (s1.setReason k 4 (s1.wingDroop k))

/-- VOLTAGE_AVERAGE: undervoltage holds from an average below 39.0 V until it has stayed at or above 40.0 V for 4,096 cycles; every
droop limit is then the floor step (R395). -/
def execVoltageAverage (mv : Nat) (s : State) : Out :=
  if !s.on then .next s
  else
    let p := { s.power with vinAvg := mv }
    if mv < 39000 then
      let s1 := { s with power := { p with uv := true, uvCalm := 0 } }
      .next ((List.range 10).foldl (fun t u => t.updUnit u (fun x => { x with droop := floorStep u })) s1)
    else if !p.uv then .next { s with power := p }
    else if mv < 40000 then .next { s with power := { p with uvCalm := 0 } }
    else if 4096 ≤ p.uvCalm + 64 then .next { s with power := { p with uv := false, uvCalm := 0 } }
    else .next { s with power := { p with uvCalm := p.uvCalm + 64 } }

/-! ## Heat (R396 to R398); temperatures in units of 0.25 °C -/

/-- A Wing's compute die and Cellar, or a Parlour: throttle, release and limit points of the two dies (a Parlour has one). -/
structure HeatPoints where
  dieThrottle    : Nat
  dieRelease     : Nat
  dieLimit       : Nat
  cellarThrottle : Nat
  cellarRelease  : Nat
  cellarLimit    : Nat
deriving DecidableEq, Repr

/-- The points of R396. -/
def heatPoints (u : Nat) : HeatPoints :=
  if u < 8 then { dieThrottle := 404, dieRelease := 392, dieLimit := 420, cellarThrottle := 364, cellarRelease := 352, cellarLimit := 380 }
  else { dieThrottle := 384, dieRelease := 372, dieLimit := 400, cellarThrottle := 364, cellarRelease := 352, cellarLimit := 380 }

/-- R397 at one evaluation. A Parlour has no Cellar: its Cellar reading is 0. -/
def UnitPwr.heatStep (x : UnitPwr) (u die cellar : Nat) : UnitPwr :=
  let q := heatPoints u
  let hotDie := decide (q.dieThrottle ≤ die)
  let hotCellar := decide (q.cellarThrottle ≤ cellar)
  let atLimit := decide (q.dieLimit ≤ die) || decide (q.cellarLimit ≤ cellar)
  let cool := decide (die ≤ q.dieRelease) && decide (cellar ≤ q.cellarRelease)
  { x with
    dieT := die, cellarT := cellar,
    thermal := if atLimit then floorStep u else if hotDie || hotCellar then stepDown u x.thermal
      else if cool then stepUp u x.thermal else x.thermal,
    hotZero := if atLimit then true else x.hotZero && (hotDie || hotCellar),
    thDie := hotDie || (x.thDie && decide (q.dieRelease < die)),
    thCellar := hotCellar || (x.thCellar && decide (q.cellarRelease < cellar)) }

/-- Some die reads at or above its trip point (R396). -/
def sensorsTrip (x : Sensors) : Bool :=
  x.wingDie.any (fun t => decide (440 ≤ t)) || x.wingCellar.any (fun t => decide (400 ≤ t))
    || x.plrDie.any (fun t => decide (440 ≤ t)) || x.porchDie.any (fun t => decide (440 ≤ t))

/-! ## Caps (R399, R400) -/

/-- R399 for one limit: the module rule, then the unit's own. -/
def capRule (u lim power cap modPower modCap : Nat) : Nat :=
  let byModule := if modCap < modPower then stepDown u lim else if 100 * modPower < 97 * modCap then stepUp u lim else lim
  if cap < power then stepDown u byModule
  else if 100 * power < 97 * cap && !decide (modCap < modPower) then stepUp u byModule
  else byModule

/-- The module rule of R399 alone. -/
def moduleRule (u lim modPower modCap : Nat) : Nat :=
  if modCap < modPower then stepDown u lim else if 100 * modPower < 97 * modCap then stepUp u lim else lim

/-- The cap limit in force: CAP_STEP in host-assisted mode, unless the controller is forcing. -/
def Power.capOf (p : Power) (x : UnitPwr) : Nat := if p.capNow && !p.forcing then x.capStep else x.capLim

/-- The step of a unit: the least of its limits (R391). -/
def Power.effective (p : Power) (u : Nat) (throt : Bool) (x : UnitPwr) : Nat :=
  let least := min (topStep u) (min x.thermal (min x.droop (p.capOf x)))
  if throt then floorStep u else least

/-- The mode written takes effect: CAP_STEP starts from the cap limits, and the cap limits go on from CAP_STEP (R400). -/
def State.switchCaps (s : State) : State :=
  let p := s.power
  if p.capMode = p.capNow then s
  else
    let s1 := { s with power := { p with capNow := p.capMode, overCycles := 0, forcing := false } }
    (List.range 10).foldl (fun t u =>
      t.updUnit u (fun x => if p.capMode then { x with capStep := x.capLim } else { x with capLim := x.capStep })) s1

/-- One MSI of the power controller. -/
def State.capMsiSend (s : State) : State := s.msiFrom s.power.capMsi

/-- R400 for the module: its OVER bit, and the forcing after 2^18 cycles above the cap. -/
def State.modCapAssist (s : State) (modPower : Nat) : State :=
  let p := s.power
  let high := decide (p.capModule < modPower)
  let cycles := if high then p.overCycles + 4096 else 0
  let force := (high && decide (2 ^ 18 ≤ cycles)) || (p.forcing && decide (p.capModule ≤ modPower))
  let starts := force && !p.forcing
  let s1 := { s with
    power := { p with modOver := p.modOver || high, overCycles := cycles, forcing := force,
                      forced := if starts then sat16 p.forced 1 else p.forced } }
  let s2 := if starts then (List.range 10).foldl (fun t u => t.updUnit u (fun x => { x with capLim := x.capStep })) s1 else s1
  let s3 := if force then
      (List.range 10).foldl (fun t u => t.updUnit u (fun x => { x with capLim := moduleRule u x.capLim modPower p.capModule })) s2
    else s2
  if high && !p.modOver then s3.capMsiSend else s3

/-- R400 for one unit: its OVER bit, with an MSI on its rise. -/
def State.unitCapAssist (s : State) (u power : Nat) : State :=
  let x := s.unit u
  if x.cap < power && !x.overBit then (s.updUnit u (fun y => { y with overBit := true })).capMsiSend else s

/-- Power of a unit at an evaluation. -/
def sensorsPower (x : Sensors) (u : Nat) : Nat := if u < 8 then listGet 0 x.wingPower u else listGet 0 x.plrPower (u - 8)

/-- The caps at an evaluation. -/
def State.caps (s : State) (x : Sensors) : State :=
  let s1 := s.switchCaps
  let modCap := s1.power.capModule
  if s1.power.capNow then
    (List.range 10).foldl (fun t u => t.unitCapAssist u (sensorsPower x u)) (s1.modCapAssist x.modulePower)
  else
    (List.range 10).foldl (fun t u =>
      t.updUnit u (fun y => { y with capLim := capRule u y.capLim (sensorsPower x u) y.cap x.modulePower modCap })) s1

/-! ## Reasons (R401) -/

/-- PEER_WAIT of a Breezeway port: a running collective slot reading it through PREV_SESS has not all it needs (R401). -/
def State.peerWait (s : State) (i : Fin 6) : Bool :=
  let porch := porchOf (.bz i)
  (List.range 8).any (fun n =>
    let x := s.coll porch n
    x.busy && x.started && x.op ≠ 5 && !x.dstDone && (s.sess porch x.prevSess.toNat).port porch = i)

/-- Set a unit's reasons after an evaluation. -/
def State.evalReasons (s : State) (u : Nat) : State :=
  let x := s.unit u
  let p := s.power
  let binds := fun (lim : Nat) => lim = x.step && decide (lim < topStep u)
  let s1 := s.setReason u 0 (x.thDie && binds x.thermal)
  let s2 := if u < 8 then s1.setReason u 1 (x.thCellar && binds x.thermal) else s1
  let s3 := s2.setReason u 2 (binds (p.capOf x))
  let s4 := s3.setReason u 4 (if u < 8 then s3.wingDroop u else x.droopBinds u)
  s4.setReason u 6 s.pins.throt

/-- Set a port's reason after an evaluation. -/
def State.evalPort (s : State) (i : Fin 6) : State := s.setReason (10 + i.val) 5 (s.peerWait i)

/-- POWER_EVALUATION: every sensor is read, the limits of droop, heat and caps are updated, and each unit takes its new step; two
evaluations in a row at a trip point turn the module off (R390 to R400). -/
def execPowerEvaluation (x : Sensors) (s : State) : Out :=
  if !s.on then .next s
  else
    let trips := if sensorsTrip x then s.power.tripCount + 1 else 0
    if 2 ≤ trips then
      let t := s.powerOff
      .next { t with pins := { t.pins with thermtrip := true } }
    else
      let s0 := { s with power := { s.power with tripCount := trips, watts := x.modulePower, porchT := x.porchDie },
                         pins := { s.pins with throt := x.throtLow } }
      let heat := fun (t : State) (u : Nat) =>
        let die := if u < 8 then listGet 0 x.wingDie u else listGet 0 x.plrDie (u - 8)
        let cellar := if u < 8 then listGet 0 x.wingCellar u else 0
        let powered := if u < 8 then listGet 0 x.wingPowered u else listGet 0 x.plrPowered (u - 8)
        let stretch := if u < 8 then listGet 0 x.wingStretch u else listGet 0 x.plrStretch (u - 8)
        t.updUnit u (fun y =>
          let y1 := y.heatStep u die cellar
          if t.power.uv then { y1.droopStep u powered stretch with droop := floorStep u } else y1.droopStep u powered stretch)
      let s1 := ((List.range 10).foldl heat s0).caps x
      let s2 := (List.range 10).foldl (fun t u => t.updUnit u (fun y => { y with step := t.power.effective u t.pins.throt y })) s1
      let s3 := (List.range 10).foldl State.evalReasons s2
      .next ((List.finRange 6).foldl State.evalPort s3)

/-- The effective step of a core: the least of its Room's request and its Wing's step (R391). -/
def State.coreStep (s : State) (c : CoreId) : Nat :=
  min (bitsOf (s.room c.room).pwr.toNat 0 6) (s.unit (wingOfRoom c.room).val).step

/-- THROTTLE_EPISODE_END: a reason has been inactive for 64 cycles: its four registers change together (R402). -/
def execThrottleEpisodeEnd (u : Fin 16) (r : Fin 7) (ownCycles : Nat) (s : State) : Out :=
  let x := s.thr u.val r.val
  if !s.on || !x.running || x.active then .next s
  else
    let s1 := s.stepStamp .power
    .next (s1.updThr u.val r.val (fun y =>
      { y with totalPm := y.totalPm + y.pm, lastPm := BitVec.ofNat 32 (min (y.endPm - y.startPm).toNat (2 ^ 32 - 1)),
               episodes := BitVec.ofNat 32 (satAdd 32 y.episodes.toNat 1), lastOwn := BitVec.ofNat 64 ownCycles,
               lastEnd := s1.stamp .power, running := false, pm := 0 }))

/-! ## The gust limiter (R392, R393) -/

/-- GUST_WINDOW: a window of 256 core cycles ends that wanted the MAC pipe for some cycles: the ceiling grants what it allows, idle-fill
makes up the floor, and A follows. -/
def execGustWindow (c : CoreId) (wanted : Nat) (s : State) : Out :=
  if !s.on then .next s
  else
    let x := s.core c
    let k := (wingOfRoom c.room).val
    let ceiling := if (s.unit k).hotZero then 0 else 4 * (x.gustA + 1)
    let want := if x.powered && !x.fenced then min wanted 256 else 0
    let real := min want ceiling
    let floor := 4 * (x.gustA - 4)
    let busy := max real floor
    let s1 := s.updCore c (fun y =>
      { y with gustA := busy / 4, gustWin := y.gustWin + 1, gustBusy := real, gustFill := busy - real, gustHeld := decide (real < want) })
    .next (s1.setReason k 3 ((coresOfWing k).any (fun d => (s1.core d).gustHeld)))

/-! ## Energy and jobs (R403, R404) -/

/-- Exclusive tenancy of a Suite (R404). -/
def State.exclusive (s : State) (n : Nat) : Bool :=
  n ≠ 0 && s.liveSuites.contains n && s.liveSuites.all (fun m => m = 0 || m = n)
    && ((List.range 96).map roomOfKey).all (fun r =>
      !(s.wing (wingOfRoom r)).included || (s.room r).ownerSuite.map (fun p => p.1.toNat) = some n)

/-- Exclusive tenancy is judged again while a job runs. -/
def State.judgeTenancy (s : State) : State :=
  if s.power.jobRun && s.power.jobExcl && !s.exclusive s.power.jobSuite.toNat then { s with power := { s.power with jobExcl := false } } else s

/-- ENERGY_SAMPLE: mV × 10 mA over 16 cycles (40 ns) is mv × tenMa / 2,500,000 µJ. -/
def execEnergySample (mv tenMa : Nat) (s : State) : Out :=
  if !s.on then .next s
  else
    let p := s.power
    let sum := p.energyFrac + mv * tenMa
    .next { s with
      power := { p with iin := tenMa, energy := p.energy + BitVec.ofNat 64 (sum / 2500000), energyFrac := sum % 2500000,
                        pmCycles := p.pmCycles + 16 } }.judgeTenancy

/-- Who may write PWR_JOB_CTL, and the Suite it records: a Suite with exclusive tenancy, Suite 0, the Hearth. -/
def State.jobWriter (s : State) (a : Agent) : Option (BitVec 8) :=
  match a with
  | .hearth => some 0
  | .suite n => if n = 0 || s.exclusive n.toNat then some n else none
  | .mmode _ => none
  | .bmc => none

/-- START of PWR_JOB_CTL. -/
def State.jobBegin (s : State) (n : BitVec 8) : State :=
  { s with
    power := { s.power with jobRun := true, jobSuite := n, jobE0 := s.power.energy, jobPm0 := s.power.pmCycles,
                            jobExcl := s.exclusive n.toNat } }

/-- STOP of PWR_JOB_CTL. -/
def State.jobEnd (s : State) : State :=
  let p := s.judgeTenancy.power
  if !p.jobRun then s
  else
    { s with
      power := { p with jobRun := false, jobValid := p.jobExcl, jobEnergy := if p.jobExcl then p.energy - p.jobE0 else 0,
                        jobPm := if p.jobExcl then p.pmCycles - p.jobPm0 else 0 } }

/-- A permitted write of PWR_JOB_CTL; one with both bits set is ignored. -/
def State.jobWrite (s : State) (n : BitVec 8) (v : W64) : State :=
  let a := bitOf v.toNat 0
  let b := bitOf v.toNat 1
  if a && b then s else if a then s.jobBegin n else if b then s.jobEnd else s

/-- A write of PWR_JOB_CTL. -/
def jobRow (agent : Agent) (value : W64) (s : State) : Out :=
  if !s.on then .next s
  else
    match s.jobWriter agent with
    | none => .next (s.ctlExchange (agentEndpoint agent) .power State.refusedAccess)
    | some n => .next (s.ctlExchange (agentEndpoint agent) .power (fun t => t.acceptedAccess.jobWrite n value))

/-- JOB_START. -/
def execJobStart (agent : Agent) (value : W64) (s : State) : Out := jobRow agent value s

/-- JOB_STOP. -/
def execJobStop (agent : Agent) (value : W64) (s : State) : Out := jobRow agent value s

/-! ## Power gates (R405) -/

/-- CORE_POWER_GATE: a core of an owned Room whose GATE is 1 has had every slot FREE for 2^14 cycles. The idle-fill that its floor
requires completes first (R393): while A is above 4 there is some. -/
def execCorePowerGate (c : CoreId) (s : State) : Out :=
  let x := s.core c
  let r := s.room c.room
  if !x.powered || !bitOf r.pwr.toNat 6 || r.ownerSuite = none || x.resident ≠ [] || decide (4 < x.gustA) then
    .next s
  else .next (s.updCore c (fun y => { y with powered := false, gustFill := 0 }))

/-- CORE_POWER_READY: a launch has waited 2,048 cycles on a gated core, and proceeds. -/
def execCorePowerReady (c : CoreId) (s : State) : Out :=
  if (s.core c).powerWait then .next (s.updCore c (fun x => { x with powered := true, powerWait := false })) else .next s

end Sys2Proof.Machine
end

