-- ==== Sys2Proof/Machine/XlatOps.lean ====
section
/-! DEFINITION. The translation operations of a Suite's graph block (R449). -/

namespace Sys2Proof.Machine

/-- SIZE of GRAPH_XLAT_VA. -/
def GSuite.xsize (g : GSuite) : Nat := bitsOf g.xva.toNat 0 2

/-- The address of GRAPH_XLAT_VA. -/
def GSuite.xaddr (g : GSuite) : Nat := bitsOf g.xva.toNat 12 36 * 4096

/-- A permitted write of GRAPH_XLAT_VA: ignored while BUSY is 1. -/
def GSuite.writeXva (g : GSuite) (v : W64) : GSuite :=
  if g.xbusy then g else { g with xva := BitVec.ofNat 64 (bitsOf v.toNat 0 4 + bitsOf v.toNat 12 36 * 4096) }

/-- A permitted write of GRAPH_XLAT_PTE starts the OP in GRAPH_XLAT_VA; ignored while BUSY is 1. OP 0 is none. -/
def GSuite.writeXpte (g : GSuite) (v : W64) : GSuite :=
  let op := bitsOf g.xva.toNat 2 2
  if g.xbusy || op = 0 then g else { g with xbusy := true, xop := BitVec.ofNat 2 op, xpte := v, xdone := false }

/-- A permitted write of GRAPH_XLAT_CTL: the mode changes and INVAL_ALL is performed; ignored while BUSY is 1. -/
def GSuite.writeWalk (g : GSuite) (v : W64) : GSuite :=
  if g.xbusy then g else { g with walkMode := bitOf v.toNat 0, xbusy := true, xop := 3, xdone := true, xlats := [] }

/-- The operation in progress is carried out in every translation cache of the Suite. -/
def xlatRow (op : BitVec 2) (f : GSuite → GSuite) (suite : BitVec 8) (s : State) : Out :=
  let g := s.gsuite suite
  if !g.xbusy || g.xdone || g.xop ≠ op then .next s else .next (s.updGsuite suite (fun x => { f x with xdone := true }))

/-- FILL: a leaf that is not a valid Sv48 leaf of the SIZE given has no effect; else it takes the place of what covered its page. -/
def execFill (suite : BitVec 8) (s : State) : Out :=
  xlatRow 1 (fun g =>
    let size := g.xsize
    let e : Xlat := { va := BitVec.ofNat 64 (g.xaddr / xlatBytes size * xlatBytes size), size := BitVec.ofNat 2 size, pte := g.xpte }
    if size = 3 || !leafValid size g.xpte.toNat then g
    else { g with xlats := g.xlats.filter (fun x => !x.covers e.va.toNat && !e.covers x.va.toNat) ++ [e] }) suite s

/-- INVAL_VA: every entry covering the address is dropped. -/
def execInvalVa (suite : BitVec 8) (s : State) : Out :=
  xlatRow 2 (fun g => { g with xlats := g.xlats.filter (fun x => !x.covers g.xaddr) }) suite s

/-- INVAL_ALL: every entry of the Suite is dropped. -/
def execInvalAll (suite : BitVec 8) (s : State) : Out := xlatRow 3 (fun g => { g with xlats := [] }) suite s

/-- WALK_MODE_WRITE: a write of WALK_MODE by the Suite or the Hearth. -/
def execWalkModeWrite (agent : Agent) (suite : BitVec 8) (value : W64) (s : State) : Out :=
  s.regCommand agent (.dispatcher (s.gsuite suite).leadWing) (graphWriter agent suite) (fun t => t.updGsuite suite (fun g => g.writeWalk value))

/-- Room DMA of a Suite holds pages pinned that an operation invalidates (R172, R449). -/
def State.pinned (s : State) (suite : BitVec 8) (hit : Nat × Nat → Bool) : Bool :=
  s.cores.any (fun e => e.2.dma.any (fun d => (s.slot d.g).suite = suite && d.pages.any hit))

/-- XLAT_OP_COMPLETE: every cache has performed the operation, no page it invalidates is pinned, and BUSY clears. -/
def execXlatOpComplete (suite : BitVec 8) (s : State) : Out :=
  let g := s.gsuite suite
  let hit := fun (p : Nat × Nat) => g.xop = 3 || (g.xop = 2 && g.xaddr / xlatBytes p.2 = p.1 / xlatBytes p.2)
  if !g.xbusy || !g.xdone || s.pinned suite hit then .next s
  else .next (s.updGsuite suite (fun x => { x with xbusy := false, xop := 0, xdone := false }))

end Sys2Proof.Machine
end

