-- ==== Sys2Proof/Machine/Calls.lean ====
section
/-! DEFINITION. Hearth calls: how they come in and are answered (R374 to R376), and the life of a Suite (R360 to R365, R378). -/

namespace Sys2Proof.Machine

/-! ## Calls and answers (R372, R374, R375) -/

/-- Bytes 0 to 31 of a call. -/
def callHead (call arglen : Nat) (suite : BitVec 8) (gen : BitVec 16) (auth : Bool) (seqno : W64) : List Byte :=
  leBytes 8 (call + arglen * 2 ^ 16 + suite.toNat * 2 ^ 32 + gen.toNat * 2 ^ 40 + natOfBool auth * 2 ^ 56)
    ++ leBytes 8 seqno.toNat ++ leBytes 16 0

/-- Bytes 0 to 31 of an answer. -/
def answerHead (a : Answer) (auth : Bool) : List Byte :=
  leBytes 8 (a.call.toNat + a.status.toNat * 2 ^ 8 + a.result.length * 2 ^ 16 + a.suite.toNat * 2 ^ 32 + a.gen.toNat * 2 ^ 40
      + natOfBool auth * 2 ^ 56)
    ++ leBytes 8 a.seqno.toNat ++ leBytes 8 a.stamp.toNat ++ leBytes 8 0

/-- The SEQNO of a call. -/
def viaSeq : CallVia → W64
  | .inModule _ q => q
  | .beyfy _ _ _ _ q _ _ => q

/-- An in-module call of a Suite. -/
def viaInModule (n : BitVec 8) : CallVia → Bool
  | .inModule m _ => m = n
  | .beyfy _ _ _ _ _ _ _ => false

/-- An in-module call of the Suite runs. -/
def State.callRuns (s : State) (n : BitVec 8) : Bool := s.hearth.running.any (fun r => viaInModule n r.via)

/-- What the Hearth makes of a call that arrives: nothing, a refusal, or a caller. -/
inductive Door where
  | drop
  | refuse (status : Nat)
  | enter (caller : Option (BitVec 8))
deriving DecidableEq, Repr

/-- Take a call in (R375): in the module the writer's Suite calls, one call at a time; over Beyfy the session calls, its tag under
the command key and its SEQNO checked (R372). Session 0 has only the calls that R375 opens to it. -/
def State.door (s : State) (via : CallVia) (call : Nat) (suite : BitVec 8) (gen : BitVec 16) (open0 : Bool) : Door × State :=
  match via with
  | .inModule n _ =>
    if (s.suite n).state = .absent then (.drop, s)
    else if s.callRuns n then (.drop, s.updSuite n (fun x => { x with refused := sat16 x.refused 1 }))
    else (.enter (some n), s.updSuite n (fun x => { x with callBusy := true }))
  | .beyfy port xtag session auth seqno body tag =>
    if (s.byPort port).link.state ≠ .active then (.drop, s)
    else if (s.byPort port).link.partner = 2 || (s.byPort port).hostTags.contains xtag || decide (464 < body.length) then
      (.drop, s.discardMsg port)
    else if !auth then
      if session ≠ 0 then (.refuse 2, s) else if open0 then (.enter none, s) else (.refuse 3, s)
    else
      match Table.find s.hearth.sessions session.toNat with
      | none => (.refuse 2, s)
      | some x =>
        let good := (gcmOpen x.cmdKey (cmdNonce 5 session seqno) (callHead call body.length suite gen true seqno) body tag).isSome
        if !good || decide (seqno.toNat ≤ x.lastSeq) then (.refuse 2, s)
        else
          let use := fun (k : Nat) (y : Session) => if k = session.toNat then { y with lastSeq := seqno.toNat } else y
          (.enter (some x.suite), s.updHearth (fun h => { h with sessions := Table.mapVals use h.sessions }))

/-- Give an in-module answer: bytes 8 to 511 at offset 512 of the call buffer, then bytes 0 to 7. -/
def State.answerIn (s : State) (n : BitVec 8) (a : Answer) : State :=
  let body := answerHead a false ++ a.result
  let bs := body ++ List.replicate (512 - body.length) 0
  let s1 := match (s.suite n).callBuf with
    | none => s
    | some buf => (((s.gWrite n (buf.toNat + 520) (bs.drop 8)).2).gWrite n (buf.toNat + 512) (bs.take 8)).2
  s1.updSuite n (fun x => { x with callBusy := false, lastStat := a.status, callBuf := none })

/-- Give an answer by a Beyfy port: encrypted and tagged under the session's command key; with no tag where the call failed its own
or its session is gone. On a port that is not ACTIVE it is lost (R316). -/
def State.answerOut (s : State) (port : Fin 4) (xtag : BitVec 16) (session : BitVec 12) (auth : Bool) (a : Answer) : State :=
  let s1 := s.updByPort port (fun p => { p with hostTags := p.hostTags.filter (fun t => t ≠ xtag) })
  let key := if auth && a.status ≠ 2 then (Table.find s.hearth.sessions session.toNat).map (fun x => x.cmdKey) else none
  let data := match key with
    | none => answerHead a false ++ a.result
    | some k =>
      let q := gcmSeal k (cmdNonce 6 session a.seqno) (answerHead a true) a.result
      answerHead a true ++ q.1 ++ leBytes 16 q.2.toNat
  if (s.byPort port).link.state ≠ .active then s1
  else s1.beyfySend port
    { type := 5, suite := a.suite, gen := a.gen, session := session, status := 0, tag := xtag, addr := 0, arg := 0, data := data }

/-- Answer a call with a status and a result. -/
def State.answerCall (s : State) (via : CallVia) (call status : Nat) (suite : BitVec 8) (result : List Byte) : State :=
  let s1 := s.stepStamp .hearth
  let a : Answer :=
    { call := BitVec.ofNat 8 call, status := BitVec.ofNat 8 status, suite := suite, gen := s1.genOf suite, seqno := viaSeq via,
      stamp := s1.stamp .hearth, result := result }
  let s2 := s1.updHearth (fun h => { h with answers := a :: h.answers })
  match via with
  | .inModule n _ => s2.answerIn n a
  | .beyfy port xtag session auth _ _ _ => s2.answerOut port xtag session auth a

/-- How a call ends: answered now, answered by the row that completes it, or not taken yet. -/
inductive CallEnd where
  | now (status : Nat) (result : List Byte)
  | later (pages : List Nat)
  | wait
deriving DecidableEq, Repr

/-- Keep a call that is answered later; its transaction tag stays outstanding. -/
def State.keepCall (s : State) (r : Running) : State :=
  let s1 := s.updHearth (fun h => { h with running := h.running ++ [r] })
  match r.via with
  | .inModule _ _ => s1
  | .beyfy port xtag _ _ _ _ _ => s1.updByPort port (fun p => { p with hostTags := p.hostTags ++ [xtag] })

/-- A call: taken in, run for its caller, and answered. One that is not taken yet has no effect (log 5). -/
def hearthCall (via : CallVia) (call : Nat) (suite : BitVec 8) (gen : BitVec 16) (open0 : Bool)
    (run : Option (BitVec 8) → State → CallEnd × State) (s : State) : Out :=
  let d := s.door via call suite gen open0
  match d.1 with
  | .drop => .next d.2
  | .refuse st => .next (d.2.answerCall via call st suite [])
  | .enter who =>
    let r := run who d.2
    match r.1 with
    | .now st res => .next (r.2.answerCall via call st suite res)
    | .later pages => .next (r.2.keepCall { call := call, suite := suite, via := via, pages := pages })
    | .wait => .next s

/-- Answered with a status, nothing changed. -/
def failCall (st : Nat) (s : State) : CallEnd × State := (.now st [], s)

/-- A call by the operator, which is Suite 0 (R377). -/
def operatorCall (via : CallVia) (call : Nat) (suite : BitVec 8) (gen : BitVec 16) (run : State → CallEnd × State) (s : State) : Out :=
  hearthCall via call suite gen false (fun who t => if who ≠ some 0 then failCall 3 t else run t) s

/-- Calls that name one Suite are carried out one at a time (R362): one of the Suite runs. SELFTEST (0x16) names none. -/
def State.suiteBusy (s : State) (n : BitVec 8) : Bool :=
  (s.suite n).state ≠ .active || s.hearth.running.any (fun r => r.suite = n && r.call ≠ 0x16)

/-- The named Suite is there at the generation named; Suite ID 255 is no Suite (R440). -/
def State.namedOk (s : State) (n : BitVec 8) (gen : BitVec 16) : Nat :=
  if n = 255 then 1 else if (s.suite n).state = .absent || s.genOf n ≠ gen || (s.suite n).staleAll then 4 else 0

/-- A call that names a Suite, by a caller that `may` make it. It waits while another call of the Suite runs. -/
def suiteCall (via : CallVia) (call : Nat) (suite : BitVec 8) (gen : BitVec 16) (may : BitVec 8 → Bool)
    (run : State → CallEnd × State) (s : State) : Out :=
  hearthCall via call suite gen false (fun who t =>
    match who with
    | none => failCall 3 t
    | some c =>
      if suite = 255 then failCall 1 t
      else if !may c then failCall 3 t
      else if t.namedOk suite gen ≠ 0 then failCall (t.namedOk suite gen) t
      else if t.suiteBusy suite then (.wait, t)
      else run t) s

/-- A call by the tenant: the named Suite (R377). -/
def tenantCall (via : CallVia) (call : Nat) (suite : BitVec 8) (gen : BitVec 16) (run : State → CallEnd × State) (s : State) : Out :=
  suiteCall via call suite gen (fun c => c = suite) run s

/-- Answer every running call of a Suite that passes a test. -/
def State.answerRunning (s : State) (n : BitVec 8) (p : Running → Bool) (status : Nat) (result : List Byte) : State :=
  let hit := fun (r : Running) => r.suite = n && p r
  let s1 := s.updHearth (fun h => { h with running := h.running.filter (fun r => !hit r) })
  (s.hearth.running.filter hit).foldl (fun t r => t.answerCall r.via r.call status n result) s1

/-! ## Resource blocks (R378) -/

/-- The rectangle of a block: `none` where its bytes form none, `some none` for all 0xFF. -/
def resBlockRect (b : ResBlock) : Option (Option Rect) :=
  if b.rowLo = 255 && b.rowHi = 255 && b.colLo = 255 && b.colHi = 255 then some none
  else if b.rowLo.toNat ≤ b.rowHi.toNat && decide (b.rowHi.toNat ≤ 5) && decide (b.colLo.toNat ≤ b.colHi.toNat)
      && decide (b.colHi.toNat ≤ 15) then
    some (some { rowLo := b.rowLo.toNat, rowHi := b.rowHi.toNat, colLo := b.colLo.toNat, colHi := b.colHi.toNat })
  else none

/-- The form of a block: reserved bytes 0, a rectangle, no Window beyond BY3, eight page counts. -/
def resBlockFormOk (b : ResBlock) : Bool :=
  b.rsvd = 0 && decide (b.win.toNat < 16) && decide (b.ctx.toNat ≤ 1024) && b.lpdLocal.length = 8 && (resBlockRect b).isSome

/-- No pages are asked for. -/
def resBlockNoPages (b : ResBlock) : Bool := b.lpdGlobal = 0 && b.ddrPages = 0 && b.lpdLocal.all (fun n => n = 0)

/-- Every page that a block asks for, with those in global bands apart: `none` where not enough are free. -/
def State.pickAll (s : State) (b : ResBlock) : Option (List Nat × List Nat) × State :=
  let add := fun (acc : Option (List Nat) × State) (k : PageKind) (n : Nat) =>
    let r := acc.2.pickPages k n
    ((match acc.1, r.1 with | some xs, some ys => some (xs ++ ys) | _, _ => none), r.2)
  let g := s.pickPages .global b.lpdGlobal.toNat
  let l := (List.range 8).foldl (fun acc k => add acc (.wingLocal k) (listGet (0 : BitVec 32) b.lpdLocal k).toNat) (some [], g.2)
  let d := add l .ddr b.ddrPages.toNat
  ((match g.1, d.1 with | some xs, some ys => some (xs, ys) | _, _ => none), d.2)

/-- A change under way gives a slice to its Suite (R227). -/
def State.sliceClaimed (s : State) (i : Nat) : Bool :=
  s.suitesNow.any (fun e => match e.2.change with | some c => c.slices.getLsbD i | none => false)

/-- Rooms, slices, engines, Windows and harts that a block names are free: owned by no Suite, a hart by none but Suite 0, and on a
die of the configuration. -/
def State.unitsFree (s : State) (rooms : List RoomId) (b : ResBlock) : Bool :=
  rooms.all (fun r => s.roomFree r)
    && (sliceList b.slices).all (fun i => !(s.slice i).owned && !s.sliceClaimed i && (s.wing (cellarOf i)).included && !(s.wing (cellarOf i)).lost)
    && (List.finRange 32).all (fun e =>
      !b.cpy.getLsbD e.val || ((s.engine e).owner.isNone && s.hearth.porchIn.getLsbD (enginePorch e).val))
    && (List.finRange 4).all (fun i =>
      !b.win.getLsbD i.val || (!bitOf (s.byPort i).winCtl.toNat 16 && s.hearth.porchIn.getLsbD (porchOf (.by i)).val))
    && (List.finRange 128).all (fun h => !b.harts.getLsbD h.val || (s.hearth.hartsIn.getLsbD h.val && (s.hart h).owner = 0))

/-- The quotas of all Suites stay within 1,024 contexts, and within 416 and 96 reserved entries (R213, R294, R306). -/
def State.quotasFit (s : State) (n : BitVec 8) (ctx lpd ddr : Nat) : Bool :=
  let others := s.suitesNow.filter (fun e => e.1 ≠ n.toNat)
  decide (others.foldl (fun a e => a + e.2.ctx.toNat) 0 + ctx ≤ 1024) && decide (s.reservedBy n true + lpd ≤ 416)
    && decide (s.reservedBy n false + ddr ≤ 96)

/-- Harts move between Suite 0 and another Suite, in the owner registers and in the records of both. -/
def State.moveHarts (s : State) (n : BitVec 8) (toSuite : Bool) (hs : BitVec 128) : State :=
  let s1 := s.passHarts (if toSuite then n else 0) (if toSuite then s.genOf n else s.genOf 0) hs
  if n = 0 then s1
  else s1.updSuite 0 (fun x => { x with harts := if toSuite then x.harts &&& ~~~hs else x.harts ||| hs })

/-- The lowest free key slot of 18 to 126 (R369). -/
def Hearth.freeKeySlot (h : Hearth) : Option Nat := ((List.range 109).map (fun i => 18 + i)).find? (fun k => (Table.find h.keys k).isNone)

/-- The quota in GRAPH_CTX. -/
def GSuite.setQuota (g : GSuite) (q : BitVec 16) : GSuite :=
  { g with ctxReg := BitVec.ofNat 64 (putBits g.ctxReg.toNat 0 11 q.toNat) }

/-! ## Giving everything back -/

/-- Every unit and page of a Suite returns to free: Rooms, slices, engines, Windows, credits, harts, pages and the key slot (R363,
R365, R369). -/
def State.releaseAll (s : State) (n : BitVec 8) : State :=
  let x := s.suite n
  let rooms := ((List.range 96).map roomOfKey).filter (fun r => (s.room r).ownerSuite.map (fun o => o.1) = some n)
  let s1 := rooms.foldl (fun (t : State) r => t.setRect r 0) s
  let s2 := s1.passSlices 0 false ((List.range 128).filter (fun i => (s.slice i).owned && (s.slice i).suite = n))
  let engines : BitVec 32 :=
    BitVec.ofNat 32 (((List.finRange 32).filter (fun e => (s.engine e).owner = some n)).foldl (fun v e => v + 2 ^ e.val) 0)
  let wins : BitVec 8 := BitVec.ofNat 8 (((List.finRange 4).filter (fun i =>
    bitOf (s.byPort i).winCtl.toNat 16 && bitsOf (s.byPort i).winCtl.toNat 8 8 = n.toNat)).foldl (fun v i => v + 2 ^ i.val) 0)
  let s3 := (((s2.passEngines 0 false engines).passWindows 0 false wins).setCredits n 0 0).moveHarts n false x.harts
  let pages := s3.suitePages n
  let s4 := (pages.foldl (fun t i => t.freePage i) s3).endChanges pages
  s4.updHearth (fun h => { h with keys := Table.erase h.keys x.keyIdx.toNat })

/-- A Suite is ABSENT: its generation stays, and at 0xFFFF the ID is retired (R361). -/
def State.suiteGone (s : State) (n : BitVec 8) : State :=
  (s.updSuite n (fun x =>
    { Suite.reset with gen := x.gen, retired := x.gen = 0xFFFF, staleAll := x.gen = 0xFFFF })).updGsuite n (fun _ => GSuite.reset)

/-! ## SUITE_CREATE (R360 to R362) -/

/-- Claim everything for a Suite that is built: owner fields, credits, the key slot, the pages and their wipes. -/
def State.claim (s : State) (n : BitVec 8) (b : ResBlock) (q : Option Rect) (key : Nat) (lead : Fin 8 × Nat)
    (globals others : List Nat) : State :=
  let gen := s.genOf n
  let root := globals.foldl (fun a i => if a = 0 || decide (i < a) then i else a) 0
  let rec_ := fun (x : Suite) =>
    { x with
      state := .building, keyIdx := BitVec.ofNat 7 key, rect := q, slices := b.slices, cpy := b.cpy, win := b.win, harts := b.harts,
      ctx := b.ctx, resLpd := b.resLpd, resDdr := b.resDdr, rootPage := root, tpk := b.tpk }
  let s1 := (s.updSuite n rec_).drawSlot key
  let s2 : State := match q with
    | none => s1
    | some x => x.rooms.foldl (fun (t : State) r => t.setRect r (rectWord x n gen)) s1
  let s3 := ((s2.passSlices n true (sliceList b.slices)).passEngines n true b.cpy).passWindows n true b.win
  let s4 := (s3.moveHarts n true b.harts).setCredits n b.resLpd b.resDdr
  let s5 := s4.updGsuite n (fun _ => { GSuite.reset with leadWing := lead.1, slotNo := lead.2, hasSlot := true }.setQuota b.ctx)
  s5.givePages n (BitVec.ofNat 7 key) (globals ++ others)

/-- SUITE_CREATE, past the checks of its form: the generation advances first, then the resources are checked and claimed. -/
def State.createSuite (s : State) (n : BitVec 8) (b : ResBlock) (q : Option Rect) : CallEnd × State :=
  let s1 := s.updSuite n (fun x => { x with gen := x.gen + 1 })
  let fail := fun (t : State) => failCall 5 (t.suiteGone n)
  let live := (s1.suitesNow.filter (fun e => e.1 ≠ 0)).length
  let rooms := rectRooms q
  let fits := match q with | none => true | some x => s1.edgesUp x
  if decide (96 ≤ live) || !fits || !s1.unitsFree rooms b || !s1.quotasFit n b.ctx.toNat b.resLpd.toNat b.resDdr.toNat then fail s1
  else
    let p := s1.pickAll b
    match p.1, s1.hearth.freeKeySlot, s1.leadFor q with
    | some (globals, others), some key, some lead =>
      if s1.hearth.strict && !s1.strictOk (some (n.toNat, b.resLpd.toNat, b.resDdr.toNat, globals ++ others)) then fail p.2
      else (.later (globals ++ others), p.2.claim n b q key lead globals others)
    | _, _, _ => fail p.2

/-- SUITE_CREATE: by the operator, in FIELD and with debug closed (R385, R387). -/
def execSuiteCreate (via : CallVia) (suite : BitVec 8) (b : ResBlock) (s : State) : Out :=
  operatorCall via 0x10 suite 0 (fun t =>
    if t.hearth.life ≠ .field || t.hearth.debugOpen then failCall 8 t
    else if suite = 255 || !resBlockFormOk b || b.slices = 0 then failCall 1 t
    else if (t.suite suite).state ≠ .absent then failCall 4 t
    else if (t.suite suite).retired then failCall 10 t
    else
      match resBlockRect b with
      | none => failCall 1 t
      | some q => t.createSuite suite b q) s

/-- SUITE_BUILD_COMPLETE: every Room and page is wiped and every owner field written: the Suite is ACTIVE, and the call is answered
with GEN and the PA of the root page. A wipe that fails gives everything back. -/
def execSuiteBuildComplete (suite : BitVec 8) (wipeFailed : Bool) (s : State) : Out :=
  let x := s.suite suite
  if x.state ≠ .building then .next s
  else if wipeFailed then
    .next (((s.releaseAll suite).suiteGone suite).answerRunning suite (fun r => r.call = 0x10) 5 [])
  else
    let pages := (s.hearth.running.filter (fun r => r.suite = suite)).flatMap (fun r => r.pages)
    if (rectRooms x.rect).any (fun r => (s.room r).wiping) || !s.pagesWiped pages then .next s
    else
      let s1 := (s.endChanges pages).updSuite suite (fun y => { y with state := .active })
      let s2 := (s1.writeRoot suite).refillSlots.judgeTenancy
      .next (s2.answerRunning suite (fun r => r.call = 0x10) 0
        (leBytes 8 x.gen.toNat ++ leBytes 8 (if x.rootPage = 0 then 0 else pageBase x.rootPage)))

/-! ## SUITE_GROW and SUITE_SHRINK (R364) -/

/-- A rectangle lies within another. -/
def Rect.within (a b : Rect) : Bool :=
  decide (b.rowLo ≤ a.rowLo) && decide (a.rowHi ≤ b.rowHi) && decide (b.colLo ≤ a.colLo) && decide (a.colHi ≤ b.colHi)

/-- The same with no rectangle as the empty one. -/
def rectWithin (a b : Option Rect) : Bool :=
  match a, b with
  | none, _ => true
  | some _, none => false
  | some x, some y => x.within y

/-- Where the mail slot must move for a new rectangle: `none` where no slot is free; `some none` where it stays. -/
def State.newLead (s : State) (n : BitVec 8) (q : Option Rect) : Option (Option (Fin 8 × Nat)) :=
  let g := s.gsuite n
  if q.isNone && (s.suite n).rect.isNone then some none
  else
    match s.leadFor q with
    | none => none
    | some l => if l.1 = g.leadWing && l.2 = g.slotNo then some none else some (some l)

/-- The lead Wing changes while graphs are installed or contexts resident (R364). -/
def State.leadHeld (s : State) (n : BitVec 8) (q : Option Rect) (lead : Option (Fin 8 × Nat)) : Bool :=
  let g := s.gsuite n
  let moves := match lead with
    | none => false
    | some l => l.1 ≠ g.leadWing || q.isNone != (s.suite n).rect.isNone
  moves && (g.graphs ≠ [] || g.ctxs ≠ [])

/-- A graph entry of the Suite is placed on one of these Rooms. -/
def State.placedOn (s : State) (n : BitVec 8) (rs : List RoomId) : Bool :=
  (List.finRange 8).any (fun k => (s.disp k).tasks.any (fun e => e.2.suite = n && rs.contains e.2.room))

/-- The call has begun: the Suite is CHANGING, and its mail slot takes nothing while it moves. -/
def State.beginChange (s : State) (n : BitVec 8) (c : Change) : State :=
  (s.updSuite n (fun x => { x with state := .changing, change := some c })).updGsuite n (fun g => { g with moving := c.lead.isSome })

/-- SUITE_GROW, past the checks of its form. -/
def State.growSuite (s : State) (n : BitVec 8) (b : ResBlock) (q : Option Rect) : CallEnd × State :=
  let x := s.suite n
  let added := (rectRooms q).filter (fun r => !(rectRooms x.rect).contains r)
  let ctx := x.ctx.toNat + b.ctx.toNat
  let lpd := x.resLpd.toNat + b.resLpd.toNat
  let ddr := x.resDdr.toNat + b.resDdr.toNat
  let fits := match q with | none => true | some y => s.edgesUp y
  match s.newLead n q with
  | none => failCall 5 s
  | some lead =>
    if s.leadHeld n q lead then failCall 4 s
    else if !fits || !s.unitsFree added b || !s.quotasFit n ctx lpd ddr || decide (255 < lpd) then failCall 5 s
    else
      let p := s.pickAll b
      match p.1 with
      | none => failCall 5 p.2
      | some (globals, others) =>
        let pages := globals ++ others
        if s.hearth.strict && !s.strictOk (some (n.toNat, lpd, ddr, pages)) then failCall 5 p.2
        else
          let c : Change :=
            { rect := q, dropped := [], added := added, slices := x.slices ||| b.slices, cpy := x.cpy ||| b.cpy, win := x.win ||| b.win,
              harts := x.harts ||| b.harts, ctx := BitVec.ofNat 16 ctx, resLpd := BitVec.ofNat 8 lpd, resDdr := BitVec.ofNat 8 ddr,
              newPages := pages, killed := false, lead := lead }
          let s1 := p.2.updSuite n (fun y =>
            { y with cpy := c.cpy, win := c.win, harts := c.harts, ctx := c.ctx, resLpd := c.resLpd, resDdr := c.resDdr })
          let s2 : State := match q with
            | none => s1
            | some y => added.foldl (fun (t : State) r => t.setRect r (rectWord y n x.gen)) s1
          let s3 := (s2.passEngines n true b.cpy).passWindows n true b.win
          let s4 := (s3.moveHarts n true b.harts).setCredits n c.resLpd c.resDdr
          (.later pages, (s4.beginChange n c).givePages n x.keyIdx pages)

/-- SUITE_GROW: the new rectangle contains the old one (R364). -/
def execSuiteGrow (via : CallVia) (suite : BitVec 8) (gen : BitVec 16) (b : ResBlock) (s : State) : Out :=
  suiteCall via 0x11 suite gen (fun c => c = 0) (fun t =>
    match resBlockRect b with
    | none => failCall 1 t
    | some q =>
      if !resBlockFormOk b || b.tpk ≠ 0 || !rectWithin (t.suite suite).rect q then failCall 1 t else t.growSuite suite b q) s

/-- SUITE_SHRINK, past the checks of its form. -/
def State.shrinkSuite (s : State) (n : BitVec 8) (b : ResBlock) (q : Option Rect) : CallEnd × State :=
  let x := s.suite n
  let dropped := (rectRooms x.rect).filter (fun r => !(rectRooms q).contains r)
  match s.newLead n q with
  | none => failCall 5 s
  | some lead =>
    if s.placedOn n dropped || decide (x.ctx.toNat - b.ctx.toNat < (s.gsuite n).ctxs.length) then failCall 6 s
    else if s.leadHeld n q lead then failCall 4 s
    else
      (.later [], s.beginChange n
        { rect := q, dropped := dropped, added := [], slices := x.slices &&& ~~~b.slices, cpy := x.cpy &&& ~~~b.cpy,
          win := x.win &&& ~~~b.win, harts := x.harts &&& ~~~b.harts, ctx := x.ctx - b.ctx, resLpd := x.resLpd - b.resLpd,
          resDdr := x.resDdr - b.resDdr, newPages := [], killed := false, lead := lead })

/-- What a SUITE_SHRINK takes away is the Suite's, and leaves it a slice. -/
def State.shrinkFormOk (s : State) (n : BitVec 8) (b : ResBlock) : Bool :=
  let x := s.suite n
  b.slices &&& ~~~x.slices = 0 && x.slices &&& ~~~b.slices ≠ 0 && b.cpy &&& ~~~x.cpy = 0 && b.win &&& ~~~x.win = 0
    && b.harts &&& ~~~x.harts = 0 && decide (b.ctx.toNat ≤ x.ctx.toNat) && decide (b.resLpd.toNat ≤ x.resLpd.toNat)
    && decide (b.resDdr.toNat ≤ x.resDdr.toNat)

/-- SUITE_SHRINK: the new rectangle lies inside the old one, and no pages are named (R364). -/
def execSuiteShrink (via : CallVia) (suite : BitVec 8) (gen : BitVec 16) (b : ResBlock) (s : State) : Out :=
  suiteCall via 0x12 suite gen (fun c => c = 0) (fun t =>
    match resBlockRect b with
    | none => failCall 1 t
    | some q =>
      if !resBlockFormOk b || b.tpk ≠ 0 || !resBlockNoPages b || !rectWithin q (t.suite suite).rect || !t.shrinkFormOk suite b then
        failCall 1 t
      else t.shrinkSuite suite b q) s

/-- No group of the Suite is left on any core. -/
def State.groupsGone (s : State) (n : BitVec 8) : Bool :=
  s.cores.all (fun e => e.2.slots.all (fun x => x.2.state = .free || x.2.suite ≠ n))

/-- QUIESCE_TIMEOUT: groups left on the Rooms to be removed, or on any Room where slices change, are killed (R227, R364, R79). -/
def execQuiesceTimeout (suite : BitVec 8) (s : State) : Out :=
  match (s.suite suite).change with
  | none => .next s
  | some c =>
    let rooms := if c.slices = (s.suite suite).slices then c.dropped else (List.range 96).map roomOfKey
    let quiet := if c.slices = (s.suite suite).slices then s.roomsQuiet c.dropped else s.groupsGone suite
    if (s.suite suite).state ≠ .changing || c.killed || quiet then .next s
    else .next ((s.killOn suite rooms).updSuite suite (fun x => { x with change := some { c with killed := true } }))

/-- The mail slot stands at its new place. -/
def State.placeSlot (s : State) (n : BitVec 8) : State :=
  match (s.suite n).change with
  | none => s
  | some c =>
    match c.lead with
    | none => s
    | some l =>
      (s.updSuite n (fun x => { x with change := some { c with lead := none } })).updGsuite n (fun g =>
        { g with leadWing := l.1, slotNo := l.2, moving := false })

/-- MAIL_SLOT_MOVE: once no entry of the slot is in use it moves to the new lead dispatcher; senders keep their limits (R364). -/
def execMailSlotMove (suite : BitVec 8) (s : State) : Out :=
  let g := s.gsuite suite
  if !g.moving || g.mail ≠ [] || g.senders.any (fun r => r.inUse ≠ 0) then .next s else .next (s.placeSlot suite)

/-- Requests of a Suite are under way to its homes, or one of its slices has something in flight. -/
def State.homesBusy (s : State) (n : BitVec 8) : Bool :=
  s.reqs.any (fun e => e.2.suite = n && e.2.room.isNone && e.2.stage ≠ .answered && !e.2.gone)
    || (sliceList (s.suite n).slices).any (fun i => (s.sliceBusyLines i) ≠ [])

/-- Everything that a change waits for has come: Rooms quiet, engines idle, pages and Rooms wiped, the mail slot moved; where slices
change, the whole Suite quiet: no group, no busy engine, nothing under way at its homes (R227, R364). -/
def State.changeReady (s : State) (n : BitVec 8) (c : Change) : Bool :=
  let x := s.suite n
  c.lead.isNone && s.roomsQuiet c.dropped && s.pagesWiped c.newPages && !c.added.any (fun r => (s.room r).wiping)
    && (List.finRange 32).all (fun e => !(x.cpy &&& ~~~c.cpy).getLsbD e.val || !(s.engine e).busy)
    && (c.slices = x.slices || (!s.homesBusy n && s.groupsGone n
          && (List.finRange 32).all (fun e => !x.cpy.getLsbD e.val || !(s.engine e).busy)))

/-- Make the change: dropped Rooms are cleared and wiped, the others learn the rectangle; the slice set changes in the order of
R227; what is removed passes on; the root page and the slot maps are rewritten. -/
def State.applyChange (s : State) (n : BitVec 8) (c : Change) : State :=
  let x := s.suite n
  let s1 := c.dropped.foldl (fun (t : State) r => t.setRect r 0) s
  let s2 : State := match c.rect with
    | none => s1
    | some q => q.rooms.foldl (fun (t : State) r =>
        if (t.room r).ownerSuite.map (fun o => o.1) = some n then t.reRect q n x.gen r else t) s1
  let s3 := if c.slices = x.slices then s2 else s2.mntSlices 3 (sliceList x.slices)
  let s4 := (s3.passSlices 0 false (sliceList (x.slices &&& ~~~c.slices))).passSlices n true (sliceList (c.slices &&& ~~~x.slices))
  let s5 := ((s4.passEngines 0 false (x.cpy &&& ~~~c.cpy)).passWindows 0 false (x.win &&& ~~~c.win)).moveHarts n false (x.harts &&& ~~~c.harts)
  let s6 := (s5.setCredits n c.resLpd c.resDdr).updSuite n (fun y =>
    { y with
      rect := c.rect, slices := c.slices, cpy := c.cpy, win := c.win, harts := c.harts, ctx := c.ctx, resLpd := c.resLpd,
      resDdr := c.resDdr, change := none, maps := if c.slices = x.slices then y.maps else [] })
  (((s6.updGsuite n (fun g => g.setQuota c.ctx)).endChanges c.newPages).writeRoot n).refillSlots.judgeTenancy

/-! ## SUITE_RESET and SUITE_REMOVE (R363) -/

/-- The monitor stops a virtual hart and zeroes it: the hart that ran it returns to HS-mode with every register zero, but a1, whose
value no rule gives, and with mxsuite 0. -/
def State.stopVhart (s : State) (handle : Nat) : State :=
  let on := (List.finRange 128).filter (fun h => (s.hart h).vhart = some (BitVec.ofNat 64 handle))
  let file := ((Table.find s.hearth.vharts handle).map (fun v => v.file)).getD 0
  let s1 := on.foldl (fun (t : State) h =>
    let d := t.drawBits
    d.2.updHart h (fun y => ({ y.cleared file with wait := .none, mail := none, lateTrap := none } : Hart).setReg 11 d.1)) s
  s1.updHearth (fun h => { h with vharts := Table.erase h.vharts handle })

/-- A Suite is no longer a reader of any common region. -/
def State.endReading (s : State) (n : BitVec 8) : State :=
  s.updHearth (fun h =>
    { h with commons := Table.mapVals (fun c r => if c = 15 then r else { r with readers := r.readers &&& ~~~(BitVec.ofNat 256 (2 ^ n.toNat)) }) h.commons })

/-- Steps 4 and 5 of a reset, once every group is gone: the change in progress is made, each Room is wiped and the slices run
CLEAN_INVAL. -/
def State.resetSteps (s : State) (n : BitVec 8) : State :=
  if (s.suite n).wiped || !s.groupsGone n then s
  else
    let s0 := s.placeSlot n
    let ready := match (s0.suite n).change with | none => true | some c => s0.changeReady n c
    if !ready then s0
    else
      let s1 := match (s0.suite n).change with | none => s0 | some c => s0.applyChange n c
      let rooms := (rectRooms (s1.suite n).rect).filter (fun r => (s1.room r).ownerSuite.map (fun o => o.1) = some n)
      let s2 := rooms.foldl (fun (t : State) r => t.rewipe r) s1
      (s2.mntSlices 3 (sliceList (s2.suite n).slices)).updSuite n (fun x => { x with wiped := true })

/-- Steps 4 to 7 of a removal, once every group is gone and, its virtual harts stopped and zeroed, its homes are quiet: Rooms wiped,
slices INVAL, harts to Suite 0, pages free, mappings cleared, the key slot zeroised. -/
def State.removeSteps (s : State) (n : BitVec 8) : State :=
  if (s.suite n).wiped || !s.groupsGone n then s
  else
    let owned := (List.range 128).filter (fun i => (s.slice i).owned && (s.slice i).suite = n)
    let handles := (s.hearth.vharts.filter (fun e => e.2.suite = n)).map (fun e => e.1)
    let s0 := handles.foldl (fun (t : State) h => t.stopVhart h) s
    if s0.homesBusy n then s0
    else
      let s2 := ((s0.mntSlices 2 owned).releaseAll n).endReading n
      s2.updSuite n (fun x => { x with wiped := true, regions := [], maps := [] })

/-- A removal begins (R363 steps 1 to 3). -/
def State.beginRemove (s : State) (n : BitVec 8) : State :=
  let s1 := (s.silence n true).updSuite n (fun x => { x with state := .removing, afterRemove := false, wiped := false })
  s1.removeSteps n

/-- The call before it has ended: a SUITE_REMOVE that waited acts (R362). -/
def State.thenRemove (s : State) (n : BitVec 8) : State := if (s.suite n).afterRemove then s.beginRemove n else s

/-- SUITE_CHANGE_COMPLETE: a grow or shrink is made, the Suite is ACTIVE and the call is answered. -/
def execSuiteChangeComplete (suite : BitVec 8) (s : State) : Out :=
  match (s.suite suite).change with
  | none => .next s
  | some c =>
    if (s.suite suite).state ≠ .changing || !s.changeReady suite c then .next s
    else
      let s1 := (s.applyChange suite c).updSuite suite (fun x => { x with state := .active })
      .next ((s1.answerRunning suite (fun r => r.call = 0x11 || r.call = 0x12) 0 []).thenRemove suite)

/-- A call of the Suite runs other than a change. -/
def State.otherCall (s : State) (n : BitVec 8) : Bool := s.hearth.running.any (fun r => r.suite = n && r.call ≠ 0x11 && r.call ≠ 0x12 && r.call ≠ 0x16)

/-- SUITE_RESET: from ACTIVE or CHANGING, by the operator or the tenant (R362, R363). -/
def execSuiteReset (via : CallVia) (suite : BitVec 8) (gen : BitVec 16) (s : State) : Out :=
  hearthCall via 0x13 suite gen false (fun who t =>
    let st := t.namedOk suite gen
    if suite = 255 then failCall 1 t
    else if who ≠ some 0 && who ≠ some suite then failCall 3 t
    else if st ≠ 0 then failCall st t
    else if !((t.suite suite).state = .active || (t.suite suite).state = .changing) || t.otherCall suite || (t.suite suite).afterRemove then
      (.wait, t)
    else if t.genOf suite = 0xFFFF then failCall 10 t
    else
      let t1 := (t.silence suite false).updSuite suite (fun x => { x with state := .resetting, wiped := false })
      (.later [], t1.resetSteps suite)) s

/-- SUITE_RESET_COMPLETE: the actions of R363 are complete and the Suite is ACTIVE at its new generation. -/
def execSuiteResetComplete (suite : BitVec 8) (s : State) : Out :=
  if (s.suite suite).state ≠ .resetting then .next s
  else
    let s1 := s.resetSteps suite
    if !(s1.suite suite).wiped || (rectRooms (s1.suite suite).rect).any (fun r => (s1.room r).wiping) then .next s1
    else
      let s2 := (s1.updSuite suite (fun x => { x with state := .active, wiped := false })).refillSlots
      .next ((s2.answerRunning suite (fun r => r.call ≠ 0x14 && r.call ≠ 0x16) 0 []).thenRemove suite)

/-- SUITE_REMOVE: by the operator, never of Suite 0; taken while a reset or a change runs it acts when that ends (R362, R377). -/
def execSuiteRemove (via : CallVia) (suite : BitVec 8) (gen : BitVec 16) (s : State) : Out :=
  hearthCall via 0x14 suite gen false (fun who t =>
    let st := t.namedOk suite gen
    let x := t.suite suite
    if suite = 255 then failCall 1 t
    else if who ≠ some 0 then failCall 3 t
    else if suite = 0 then failCall 4 t
    else if st ≠ 0 then failCall st t
    else if x.state = .building || x.state = .removing || x.afterRemove then (.wait, t)
    else if x.state = .changing || x.state = .resetting then (.later [], t.updSuite suite (fun y => { y with afterRemove := true }))
    else if t.suiteBusy suite then (.wait, t)
    else (.later [], t.beginRemove suite)) s

/-- SUITE_REMOVE_COMPLETE: the actions are complete and the Suite is ABSENT; at generation 0xFFFF the ID is retired. -/
def execSuiteRemoveComplete (suite : BitVec 8) (s : State) : Out :=
  if (s.suite suite).state ≠ .removing then .next s
  else
    let s1 := s.removeSteps suite
    let x := s1.suite suite
    let rooms := rectRooms x.rect ++ (match x.change with | none => [] | some c => c.added)
    if !x.wiped || rooms.any (fun r => (s1.room r).wiping && !bitOf (s1.room r).rect.toNat 40) then .next s1
    else .next ((s1.suiteGone suite).refillSlots.answerRunning suite (fun _ => true) 0 [])

end Sys2Proof.Machine
end

