-- ==== Sys2Proof/Machine/Services.lean ====
section
/-! DEFINITION. The Hearth's other calls: identity and attestation (R377 to R380), sessions (R371, R373), life cycle and debug (R385,
R387), senders, regions and pages (R188, R229, R368), common regions (R381 to R383), virtual harts and self-test (R430). -/

namespace Sys2Proof.Machine

/-! ## Identity (R379) -/

/-- The AK statement of 208 B. -/
def Hearth.akStatement (h : Hearth) : List Byte :=
  keyBytes h.ak ++ digestBytes h.fwDigest ++ digestBytes h.monDigest ++ leBytes 8 Config.modid.toNat ++ leBytes 1 h.debugCount ++ leBytes 7 0

/-- The code of a life-cycle state (R388). -/
def lifeCode : Life → Nat
  | .blank => 0
  | .provisioned => 1
  | .field => 2
  | .return_ => 3
  | .scrapped => 4

/-- GET_ID: MODID, life cycle, DEBUG_COUNT, the DIK public key and the AK statement with its signature, in that order. -/
def execGetId (via : CallVia) (s : State) : Out :=
  hearthCall via 0x01 0 0 true (fun _ t =>
    let h := t.hearth
    (.now 0 (leBytes 8 Config.modid.toNat ++ leBytes 1 (lifeCode h.life) ++ leBytes 1 h.debugCount ++ keyBytes Config.dikPublic
      ++ h.akStatement ++ keyBytes (Config.ecdsaSign Config.dikPublic h.akStatement)), t)) s

/-- NONCE: a token nonce of 32 B, kept until it is used or the next module reset; over session 0 the caller names itself by no key
(R375). -/
def execNonce (via : CallVia) (s : State) : Out :=
  hearthCall via 0x03 0 0 true (fun who t =>
    if who ≠ none && who ≠ some 0 then failCall 3 t
    else
      let k := t.drawKey
      let n : BitVec 256 := k.1.setWidth 256
      (.now 0 (leBytes 32 n.toNat), k.2.updHearth (fun h => { h with nonces := n :: h.nonces }))) s

/-! ## Beyfy sessions (R371) -/

/-- What a tenant signs to open a session. -/
def openText (suite : BitVec 8) (gen : BitVec 16) (qt : BitVec 768) (nt : BitVec 256) : List Byte :=
  leBytes 1 1 ++ leBytes 8 Config.modid.toNat ++ leBytes 1 suite.toNat ++ leBytes 2 gen.toNat ++ keyBytes qt ++ leBytes 32 nt.toNat

/-- A session key's info: label, SUITE, GEN and SESSION. -/
def sessionInfo (label : List Byte) (suite : BitVec 8) (gen : BitVec 16) (session : Nat) : List Byte :=
  label ++ leBytes 1 suite.toNat ++ leBytes 2 gen.toNat ++ leBytes 2 session

/-- Open a session: the Hearth draws its key pair and nonce, derives the three keys, and answers with the session number, its public
key, its nonce and its signature. Which free number a session takes is a free choice. -/
def State.openSession (s : State) (n : BitVec 8) (qt : BitVec 768) (nt : BitVec 256) : CallEnd × State :=
  let gen := s.genOf n
  let free := (List.range 4096).filter (fun i => i ≠ 0 && (Table.find s.hearth.sessions i).isNone)
  let d := s.drawBits
  let num := listGet 1 free (d.1.toNat % free.length)
  let sec := d.2.drawKey
  let qh := sec.2.drawKey
  let no := qh.2.drawKey
  let nh : BitVec 256 := no.1.setWidth 256
  let salt := leBytes 32 nt.toNat ++ leBytes 32 nh.toNat
  let key := fun (label : List Byte) => Config.deriveKey sec.1 qt salt (sessionInfo label n gen num)
  let x : Session :=
    { suite := n, gen := gen, cmdKey := key [0x63, 0x6D, 0x64], h2mKey := key [0x68, 0x32, 0x6D], m2hKey := key [0x6D, 0x32, 0x68],
      lastSeq := 0, cpySeq := 0, dseqIn := 0, dseqOut := 0 }
  let text := leBytes 1 2 ++ digestBytes (Config.sha384 (openText n gen qt nt)) ++ leBytes 2 num ++ keyBytes qh.1 ++ leBytes 32 nh.toNat
  (.now 0 (leBytes 8 num ++ keyBytes qh.1 ++ leBytes 32 nh.toNat ++ keyBytes (Config.ecdsaSign s.hearth.ak text)),
    no.2.updHearth (fun h => { h with sessions := Table.set h.sessions num x }))

/-- SESSION_OPEN: by the holder of the Suite's TPK; at most 16 sessions a Suite; refused for Suites other than 0 while debug is
open (R387). -/
def execSessionOpen (via : CallVia) (suite : BitVec 8) (gen : BitVec 16) (qt : BitVec 768) (nt : BitVec 256) (sig : BitVec 768)
    (s : State) : Out :=
  hearthCall via 0x02 suite gen true (fun who t =>
    let st := t.namedOk suite gen
    if suite = 255 then failCall 1 t
    else if who ≠ none && who ≠ some 0 && who ≠ some suite then failCall 3 t
    else if t.hearth.debugOpen && suite ≠ 0 then failCall 8 t
    else if st ≠ 0 then failCall st t
    else if t.suiteBusy suite then (.wait, t)
    else if !Config.ecdsaVerify (t.suite suite).tpk (openText suite gen qt nt) sig then failCall 2 t
    else if 16 ≤ (t.hearth.sessions.filter (fun e => e.2.suite = suite)).length then failCall 5 t
    else t.openSession suite qt nt) s

/-- SESSION_CLOSE: ends a session of the Suite; its keys are zeroised. -/
def execSessionClose (via : CallVia) (suite : BitVec 8) (gen : BitVec 16) (session : BitVec 12) (s : State) : Out :=
  tenantCall via 0x21 suite gen (fun t =>
    match Table.find t.hearth.sessions session.toNat with
    | none => failCall 4 t
    | some x => if x.suite ≠ suite then failCall 3 t else (.now 0 [], t.endSession suite session.toNat)) s

/-! ## Mail senders (R188) -/

/-- SENDER_SET: registers a session or a hart of the Suite with a limit, or removes it with 0. The limits of a slot sum to at most
32. -/
def execSenderSet (via : CallVia) (suite : BitVec 8) (gen : BitVec 16) (isHart : Bool) (sender : BitVec 12) (limit : BitVec 8)
    (s : State) : Out :=
  tenantCall via 0x22 suite gen (fun t =>
    let who : Sender := if isHart then .hart sender.toNat else .session sender
    let own := if isHart then decide (sender.toNat < 128) && (t.hart (Fin.ofNat 128 sender.toNat)).owner = suite
      else (Table.find t.hearth.sessions sender.toNat).any (fun x => x.suite = suite)
    let g := t.gsuite suite
    let others := (g.senders.filter (fun r => r.sender ≠ who)).foldl (fun a r => a + r.limit) 0
    if 32 < limit.toNat then failCall 1 t
    else if !own then failCall 3 t
    else if limit = 0 then (.now 0 [], t.updGsuite suite (fun x => { x with senders := x.senders.filter (fun r => r.sender ≠ who) }))
    else if 32 < others + limit.toNat then failCall 5 t
    else if g.senders.any (fun r => r.sender = who) then
      (.now 0 [], t.updGsuite suite (fun x => x.updSender who (fun r => { r with limit := limit.toNat })))
    else
      let r : SenderReg := { sender := who, limit := limit.toNat, inUse := 0, lastSeq := 0, owed := 0, port := 0 }
      (.now 0 [], t.updGsuite suite (fun x => { x with senders := x.senders ++ [r] }))) s

/-! ## Regions and the translation root (R229) -/

/-- Two valid entries share an address. -/
def regionsMeet (a b : RegionWords) : Bool :=
  let size := fun (e : RegionWords) => bitsOf e.w1.toNat 0 27 * 2 ^ 21
  bitOf a.w2.toNat 4 && bitOf b.w2.toNat 4 && decide (a.w0.toNat < b.w0.toNat + size b) && decide (b.w0.toNat < a.w0.toNat + size a)

/-- The form of an entry (R229); an entry with VALID 0 has only its reserved bits to keep at 0. -/
def regionFormOk (e : RegionWords) : Bool :=
  let w2 := e.w2.toNat
  let size := bitsOf e.w1.toNat 0 27
  let red := bitsOf w2 0 4 = 5
  bitsOf e.w1.toNat 27 37 = 0 && bitsOf w2 20 44 = 0 && !bitOf w2 7
    && (!bitOf w2 4
      || (e.w0.toNat % 2 ^ 21 = 0 && canonical48 e.w0.toNat && decide (1 ≤ size) && canonical48 (e.w0.toNat + size * 2 ^ 21 - 1)
        && e.w0.toNat / 2 ^ 47 = (e.w0.toNat + size * 2 ^ 21 - 1) / 2 ^ 47 && decide (bitsOf w2 0 4 ≤ 6)
        && (if red then e.w3.toNat % 4096 = 0 else bitsOf w2 8 12 = 0 && e.w3 = 0)))

/-- An entry meets another valid entry of the Suite. -/
def Suite.regionTaken (x : Suite) (index : Nat) (e : RegionWords) : Bool :=
  x.regions.any (fun p => p.1 ≠ index && regionsMeet p.2 e)

/-- REGION_SET: writes an entry of the region table (R229). -/
def execRegionSet (via : CallVia) (suite : BitVec 8) (gen : BitVec 16) (index : BitVec 8) (e : RegionWords) (s : State) : Out :=
  tenantCall via 0x23 suite gen (fun t =>
    if 64 ≤ index.toNat || !regionFormOk e then failCall 1 t
    else if (t.suite suite).regionTaken index.toNat e then failCall 6 t
    else (.now 0 [], t.updSuite suite (fun x => { x with regions := Table.set x.regions index.toNat e }))) s

/-- A page of external memory is the Suite's own. -/
def State.ownPage (s : State) (n : BitVec 8) (pa : Nat) : Bool :=
  rangeOf pa ≠ .control && s.memBacked pa && decide (2 ^ 30 ≤ pa) && (s.page pa).valid && !(s.page pa).common && (s.page pa).owner = n

/-- ROOT_SET: the accelerator translation root, a table in the Suite's own page. -/
def execRootSet (via : CallVia) (suite : BitVec 8) (gen : BitVec 16) (pa : W64) (s : State) : Out :=
  tenantCall via 0x24 suite gen (fun t =>
    if pa.toNat % 4096 ≠ 0 then failCall 1 t
    else if !t.ownPage suite pa.toNat then failCall 3 t
    else (.now 0 [], t.updGsuite suite (fun g => { g with root := pa }))) s

/-! ## Pages (R368) -/

/-- The pages that a call names: up to 56, each at its own 2 MiB boundary. -/
def pageListOk (pages : List W64) : Bool :=
  pages ≠ [] && decide (pages.length ≤ 56) && pages.all (fun p => p.toNat % 2 ^ 21 = 0) && pages.dedup.length = pages.length

/-- PAGE_RELEASE: the Suite's own pages become free; the root page is rewritten, and there is none once it is released. -/
def execPageRelease (via : CallVia) (suite : BitVec 8) (gen : BitVec 16) (pages : List W64) (s : State) : Out :=
  tenantCall via 0x25 suite gen (fun t =>
    if !pageListOk pages then failCall 1 t
    else if !pages.all (fun p => t.ownPage suite p.toNat) then failCall 3 t
    else
      let idx := pages.map (fun p => pageIndex p.toNat)
      let t1 := idx.foldl (fun (u : State) i => u.freePage i) t
      let t2 := t1.updSuite suite (fun x => { x with rootPage := if idx.contains x.rootPage then 0 else x.rootPage })
      (.now 0 [], t2.writeRoot suite)) s

/-- PAGE_SHARE: SHARED and KEY_IDX of the Suite's own pages change, to slot 1 or back to its own; the answer waits for the wipes. -/
def execPageShare (via : CallVia) (suite : BitVec 8) (gen : BitVec 16) (on : Bool) (pages : List W64) (s : State) : Out :=
  tenantCall via 0x26 suite gen (fun t =>
    if !pageListOk pages then failCall 1 t
    else if !pages.all (fun p => t.ownPage suite p.toNat) then failCall 3 t
    else
      let idx := pages.map (fun p => pageIndex p.toNat)
      let key : BitVec 7 := if on then 1 else (t.suite suite).keyIdx
      let t1 := idx.foldl (fun (u : State) i => u.changePage i 3 { u.pageAt i with shared := on, keyIdx := key }) t
      (.later idx, t1.kickWipes)) s

/-- PAGE_CHANGE_COMPLETE: every controller has reported the wipe of a call's pages DONE: the change is complete and the call is
answered. -/
def execPageChangeComplete (s : State) : Out :=
  let ready := s.hearth.running.filter (fun r => r.call = 0x26 && s.pagesWiped r.pages)
  .next (ready.foldl (fun (t : State) r =>
    ((t.endChanges r.pages).writeRoot r.suite).answerRunning r.suite (fun q => q.call = 0x26) 0 []) s)

/-! ## Attestation (R380) -/

/-- Pages of a Suite of each kind: in global bands, in Wing-local bands, in DDR5. -/
def State.pageCount (s : State) (n : BitVec 8) (p : Nat → Bool) : Nat := ((s.suitePages n).filter p).length

/-- A rectangle as bytes 0 to 3 of a resource block. -/
def rectBytes (q : Option Rect) : List Byte :=
  match q with
  | none => List.replicate 4 0xFF
  | some x => leBytes 1 x.rowLo ++ leBytes 1 x.rowHi ++ leBytes 1 x.colLo ++ leBytes 1 x.colHi

/-- The resource block filled with what a Suite holds. -/
def State.filledBlock (s : State) (n : BitVec 8) : List Byte :=
  let x := s.suite n
  let isLocal := fun (k i : Nat) => s.pageOfKind i (.wingLocal k)
  rectBytes x.rect ++ leBytes 16 x.slices.toNat ++ leBytes 4 x.cpy.toNat ++ leBytes 1 x.win.toNat ++ leBytes 1 x.resLpd.toNat
    ++ leBytes 2 x.ctx.toNat ++ leBytes 16 x.harts.toNat ++ leBytes 4 (s.pageCount n (fun i => s.pageOfKind i .global))
    ++ (List.range 8).flatMap (fun k => leBytes 4 (s.pageCount n (isLocal k)))
    ++ leBytes 4 (s.pageCount n (fun i => decide (2097152 ≤ i))) ++ leBytes 1 x.resDdr.toNat ++ leBytes 3 0 ++ keyBytes x.tpk

/-- CONFIG_DIGEST: the filled block, the 64 region entries, the root, and each mapped CID (one byte) with its root. -/
def State.configDigest (s : State) (n : BitVec 8) : Digest :=
  let x := s.suite n
  let entry := fun (i : Nat) =>
    match Table.find x.regions i with
    | none => leBytes 32 0
    | some e => leBytes 8 e.w0.toNat ++ leBytes 8 e.w1.toNat ++ leBytes 8 e.w2.toNat ++ leBytes 8 e.w3.toNat
  let commons := (s.hearth.commons.filter (fun c => c.1 ≠ 15 && c.2.valid && c.2.readers.getLsbD n.toNat)).flatMap (fun c =>
    leBytes 1 c.1 ++ digestBytes c.2.root)
  Config.sha384 (s.filledBlock n ++ (List.range 64).flatMap entry ++ leBytes 8 (s.gsuite n).root.toNat ++ commons)

/-- Some peer session of the Suite uses a port that no other Suite uses. -/
def State.dedicatedPort (s : State) (n : BitVec 8) : Bool :=
  (List.finRange 2).any (fun porch =>
    let all := ((s.sessNumbers porch).map (fun p => s.sess porch p.toNat)).filter (fun x => x.valid)
    all.any (fun x => x.suite = n && all.all (fun y => y.port porch ≠ x.port porch || y.suite = n)))

/-- Bytes 0 to 351 of the report. -/
def State.reportText (s : State) (n : BitVec 8) (nonce : BitVec 384) : List Byte :=
  let x := s.suite n
  let h := s.hearth
  leBytes 2 1 ++ leBytes 2 448 ++ leBytes 1 (lifeCode h.life)
    ++ leBytes 1 (natOfBool h.degraded + 2 * natOfBool h.strict + 4 * natOfBool (s.dedicatedPort n)) ++ leBytes 2 h.debugCount
    ++ leBytes 8 Config.modid.toNat ++ leBytes 1 n.toNat ++ leBytes 1 0 ++ leBytes 2 x.gen.toNat ++ rectBytes x.rect
    ++ leBytes 16 x.slices.toNat ++ leBytes 8 (s.pageCount n (fun i => decide (i < 2097152)))
    ++ leBytes 8 (s.pageCount n (fun i => decide (2097152 ≤ i))) ++ leBytes 4 x.cpy.toNat ++ leBytes 16 x.harts.toNat
    ++ leBytes 2 x.ctx.toNat ++ leBytes 2 0 ++ digestBytes h.fwDigest ++ digestBytes h.monDigest ++ digestBytes (s.configDigest n)
    ++ digestBytes (Config.sha384 (keyBytes x.tpk)) ++ digestBytes nonce ++ leBytes 32 0

/-- ATTEST: the report of R380; refused in RETURN and while debug is open (R385, R387). -/
def execAttest (via : CallVia) (suite : BitVec 8) (gen : BitVec 16) (nonce : BitVec 384) (s : State) : Out :=
  tenantCall via 0x20 suite gen (fun t =>
    if t.hearth.life = .return_ || t.hearth.life = .blank || t.hearth.life = .scrapped || t.hearth.debugOpen then failCall 8 t
    else
      let text := t.reportText suite nonce
      (.now 0 (text ++ keyBytes (Config.ecdsaSign t.hearth.ak text)), t)) s

/-! ## Strict isolation and self-test (R298, R430, R431) -/

/-- STRICT_SET. -/
def execStrictSet (via : CallVia) (strict : Bool) (s : State) : Out :=
  operatorCall via 0x15 0 0 (fun t =>
    if strict && !t.strictOk none then failCall 5 t
    else (.now 0 [], (t.updHearth (fun h => { h with strict := strict })).fillSlots)) s

/-- The Room of a unit that a self-test names: a core's, or a Hall's own. -/
def testRoom (unit : BitVec 16) : Option RoomId :=
  match coreOfId unit.toNat with
  | some c => some c.room
  | none => hallOfId unit.toNat

/-- The cores that a self-test tests. -/
def testCores (unit : BitVec 16) : List CoreId :=
  match coreOfId unit.toNat, hallOfId unit.toNat with
  | some c, _ => [c]
  | none, some r => (List.finRange 6).map (fun c => ⟨r, c⟩)
  | none, none => []

/-- SELFTEST: of a core or a Room that belongs to no Suite; the unit is powered, and the Hearth owns it until the test ends. -/
def execSelftest (via : CallVia) (unit : BitVec 16) (s : State) : Out :=
  operatorCall via 0x16 0 0 (fun t =>
    match testRoom unit with
    | none => failCall 1 t
    | some r =>
      if bitOf (t.room r).rect.toNat 40 then failCall 9 t
      else if t.roomTested r || !(t.wing (wingOfRoom r)).included then failCall 4 t
      else
        let t1 := (testCores unit).foldl (fun (u : State) c => u.updCore c (fun x => { x with powered := true })) t
        (.later [], t1.updHearth (fun h => { h with selftests := h.selftests ++ [(unit, via)] }))) s

/-- The result word of R430. -/
def testResult (v : W64) : Nat := if bitOf v.toNat 0 then 1 else bitsOf v.toNat 0 7

/-- SELFTEST_COMPLETE: a failing core is fenced and a failing Room lost; the Room tested is wiped; the record and the answer
follow. -/
def execSelftestComplete (unit : BitVec 16) (result : W64) (s : State) : Out :=
  match s.hearth.selftests.find? (fun e => e.1 = unit), testRoom unit with
  | some e, some r =>
    let v := testResult result
    let part := bitsOf v 1 3
    let cores := testCores unit
    let bad : Option CoreId := if bitOf v 0 then none else if cores.length = 1 then cores[0]? else if part = 6 || part = 7 then none
      else cores[bitsOf v 4 3]?
    let lose := !bitOf v 0 && cores.length ≠ 1 && (part = 6 || part = 7)
    let s1 := if cores.length = 1 then s else s.updRoom r (fun x => { x with mem := [], poison := [] })
    let s2 := match bad with | none => s1 | some c => (s1.fenceCore c 3).settleAll
    let s3 := if lose then s2.loseRoom r 4 else s2
    let s4 := cores.foldl (fun (t : State) c => t.updCore c (fun x => { x with powered := false })) s3
    let s5 := s4.updHearth (fun h => { h with selftests := h.selftests.filter (fun y => y.1 ≠ unit),
                                              running := h.running.filter (fun q => !(q.call = 0x16 && q.via = e.2)) })
    let s6 := s5.report .hearth { RasRep.zero with cause := 0x0D, subject := unit, detail := BitVec.ofNat 32 v }
    .next (s6.answerCall e.2 0x16 0 0 (leBytes 8 v))
  | _, _ => .next s

/-! ## Life cycle and debug (R385 to R387) -/

/-- A token is right: its action, MODID, a nonce not yet used, and the authorisation key's signature over its first 42 bytes. -/
def State.tokenOk (s : State) (tok : Token) (action : Nat) : Bool :=
  tok.action = Config.tokenAction action && tok.modid = Config.modid && s.hearth.nonces.contains tok.nonce
    && Config.ecdsaVerify Config.authorisationKey
      (leBytes 2 tok.action.toNat ++ leBytes 8 tok.modid.toNat ++ leBytes 32 tok.nonce.toNat) tok.sig

/-- The life-cycle state of a code. -/
def lifeOf (code : Nat) : Option Life :=
  match code with
  | 0 => some .blank
  | 1 => some .provisioned
  | 2 => some .field
  | 3 => some .return_
  | 4 => some .scrapped
  | _ => none

/-- LIFECYCLE: one step forward with a token, or SCRAPPED from any state without one; it takes effect through a module reset. -/
def execLifecycle (via : CallVia) (target : BitVec 3) (tok : Token) (s : State) : Out :=
  operatorCall via 0x17 0 0 (fun t =>
    match lifeOf target.toNat with
    | none => failCall 1 t
    | some l =>
      let step := (t.hearth.life = .blank && l = .provisioned) || (t.hearth.life = .provisioned && l = .field)
        || (t.hearth.life = .field && l = .return_)
      if l ≠ .scrapped && !step then failCall 8 t
      else if l ≠ .scrapped && !t.tokenOk tok target.toNat then failCall 2 t
      else
        let used := if l = .scrapped then t.hearth.nonces else t.hearth.nonces.filter (fun n => n ≠ tok.nonce)
        (.now 0 [], (t.updHearth (fun h =>
          { h with life := l, nonces := used, seedGone := h.seedGone || l = .return_ })).requestReset 4)) s

/-- The Hearth after DEBUG_OPEN: it does not restart, so its configuration stays; keys, Suites and sessions are gone (R386, R387). -/
def Hearth.debugged (h : Hearth) : Hearth :=
  { h.fresh with
    debugOpen := true, debugCount := min (h.debugCount + 1) 255, sealed := true, tapOpen := true, fwDigest := h.fwDigest,
    monDigest := h.monDigest, monLen := h.monLen, bands := h.bands, wingIn := h.wingIn, plrIn := h.plrIn, porchIn := h.porchIn,
    identityOk := h.identityOk, degraded := h.degraded, pkgIn := h.pkgIn, routes := h.routes, routeTable := h.routeTable, phase := 2, step := 6, imageB := h.imageB,
    imgBad := h.imgBad, imgValid := h.imgValid, lastReset := 4, resets := sat16 h.resets 1 }

/-- The module after DEBUG_OPEN: everything but the Hearth stands as after a module reset, with the configuration that training
found; step 7 is next. -/
def State.debugReset (s : State) : State :=
  { State.reset with
    pending := s.pending, freeCtr := s.freeCtr, on := true, pins := s.pins, i3cAddr := s.i3cAddr, tap := s.tap, power := s.power.afterReset,
    hearth := s.hearth.debugged, hopsOut := s.hopsOut,
    wings := Table.mapVals (fun _ (w : Wing) =>
      { Wing.reset with wpos := w.wpos, strapOk := w.strapOk, included := w.included, portUp := w.portUp, porchUp := w.porchUp, lost := w.lost })
      s.wings,
    rooms := Table.mapVals (fun _ (x : Room) => { Room.reset with portsUp := x.portsUp, lost := x.lost, routerOk := x.routerOk }) s.rooms,
    cores := Table.mapVals (fun _ (c : Core) => { Core.reset with fenced := c.fenced }) s.cores,
    mcs := Table.mapVals (fun _ (c : Mc) =>
      { Mc.reset with chUp := c.chUp, inService := c.inService, failed := c.failed, rate := c.rate }) s.mcs,
    parlours := Table.mapVals (fun _ (p : Parlour) =>
      { Parlour.reset with
        chPresent := p.chPresent, chSpdOk := p.chSpdOk, chIn := p.chIn, chTrained := p.chTrained, chRate := p.chRate, chCap := p.chCap,
        chRanks2 := p.chRanks2, chStack := p.chStack, chX8 := p.chX8 }) s.parlours }

/-- DEBUG_OPEN: in FIELD, with a token. Every Suite goes, everything is wiped, the seed is sealed, DEBUG_COUNT advances and the test
access port opens (R387). No session is left to take the answer. -/
def execDebugOpen (via : CallVia) (tok : Token) (s : State) : Out :=
  operatorCall via 0x18 0 0 (fun t =>
    if t.hearth.life ≠ .field || t.hearth.debugOpen then failCall 8 t
    else if !t.tokenOk tok 5 then failCall 2 t
    else (.now 0 [], t.debugReset)) s

/-! ## Common regions (R381 to R383) -/

/-- The PA of a 4 KiB page of a common region. -/
def CommonRegion.pagePa (c : CommonRegion) (i : Nat) : Nat := pageBase (listGet 0 c.pages (i / 512)) + i % 512 * 4096

/-- Zero a page and give it to a common region under the region's key slot. -/
def State.commonPage (s : State) (n : BitVec 8) (cid i : Nat) : State :=
  ((s.dropPage i 2).setPage i
    { PageEntry.reset with
      owner := n, valid := true, keyIdx := BitVec.ofNat 7 (2 + cid), common := true, cid := BitVec.ofNat 4 cid,
      ddr5 := decide (2097152 ≤ i) }).wipeAll (pageBase i / 2 ^ 21)

/-- Write an image over the pages of a region, straight to memory. -/
def State.writeImage (s : State) (pages : List Nat) (image : List Byte) : State :=
  (pages.zipIdx).foldl (fun (t : State) p =>
    t.putExt (pageBase p.1) ((image.drop (2 ^ 21 * p.2)).take (2 ^ 21))) s

/-- Install a region whose image and list have passed their checks. -/
def State.installCommon (s : State) (n : BitVec 8) (count : Nat) (image : List Byte) (digests : List Digest) (root : Digest)
    (backed : Bool) : CallEnd × State :=
  let cid := (List.range 15).find? (fun c => !(Table.get CommonRegion.reset s.hearth.commons c).valid)
  let p := s.pickPages .global ((count + 511) / 512)
  let q := if backed then p.2.pickPages .ddr ((count + 511) / 512) else (some [], p.2)
  match cid, p.1, q.1 with
  | some c, some pages, some backing =>
    let s1 := (pages ++ backing).foldl (fun (t : State) i => t.commonPage n c i) (q.2.drawSlot (2 + c))
    let s2 := (s1.writeImage pages image).writeImage backing image
    let r : CommonRegion :=
      { valid := true, backed := backed, publisher := n, pages4k := BitVec.ofNat 32 count, readers := 0, pages := pages,
        backing := backing, digests := digests, root := root, repairing := [] }
    (.now 0 (leBytes 8 c), s2.updHearth (fun h => { h with commons := Table.set h.commons c r }))
  | _, _, _ => failCall 5 q.2

/-- COMMON_INSTALL: the list's root is signed by the TPK and every page matches its digest; any mismatch installs nothing. -/
def execCommonInstall (via : CallVia) (suite : BitVec 8) (gen : BitVec 16) (image : W64) (count : BitVec 32) (list : W64)
    (sig : BitVec 768) (backed : Bool) (s : State) : Out :=
  tenantCall via 0x27 suite gen (fun t =>
    if count = 0 then failCall 1 t
    else
      let l := t.gRead suite list.toNat (48 * count.toNat)
      match l.1 with
      | none => failCall 1 l.2
      | some lb =>
        let root := Config.sha384 lb
        if !Config.ecdsaVerify (t.suite suite).tpk (digestBytes root) sig then failCall 2 l.2
        else
          let m := l.2.gRead suite image.toNat (4096 * count.toNat)
          match m.1 with
          | none => failCall 1 m.2
          | some ib =>
            let digests := (List.range count.toNat).map (fun i => BitVec.ofNat 384 (leNat ((lb.drop (48 * i)).take 48)))
            let match_ := (List.range count.toNat).all (fun i =>
              Config.sha384 ((ib.drop (4096 * i)).take 4096) = listGet (0 : Digest) digests i)
            if !match_ then failCall 7 m.2 else m.2.installCommon suite count.toNat ib digests root backed) s

/-- The region entry of a mapping: read-only, COMMON, over the region's pages. -/
def commonEntry (c : CommonRegion) (va : W64) : RegionWords :=
  { w0 := va, w1 := BitVec.ofNat 64 c.pages.length, w2 := BitVec.ofNat 64 (4 + 16 + 128), w3 := 0 }

/-- COMMON_MAP: with the expected root equal to the installed one, sets the caller's reader bit and writes its region entry. -/
def execCommonMap (via : CallVia) (suite : BitVec 8) (gen : BitVec 16) (cid : BitVec 4) (root : Digest) (index : BitVec 8) (va : W64)
    (s : State) : Out :=
  tenantCall via 0x28 suite gen (fun t =>
    let c := Table.get CommonRegion.reset t.hearth.commons cid.toNat
    let e := commonEntry c va
    if cid = 15 || !c.valid then failCall 4 t
    else if c.root ≠ root then failCall 7 t
    else if 64 ≤ index.toNat || !regionFormOk { e with w2 := BitVec.ofNat 64 (4 + 16) } then failCall 1 t
    else if (t.suite suite).regionTaken index.toNat e then failCall 6 t
    else
      let t1 := t.updHearth (fun h =>
        { h with commons := Table.set h.commons cid.toNat { c with readers := c.readers ||| BitVec.ofNat 256 (2 ^ suite.toNat) } })
      (.now 0 [], t1.updSuite suite (fun x => { x with regions := Table.set x.regions index.toNat e }))) s

/-- A call by the publisher of a common region. -/
def publisherCall (via : CallVia) (call : Nat) (suite : BitVec 8) (gen : BitVec 16) (cid : BitVec 4)
    (run : CommonRegion → State → CallEnd × State) (s : State) : Out :=
  tenantCall via call suite gen (fun t =>
    let c := Table.get CommonRegion.reset t.hearth.commons cid.toNat
    if !c.valid then failCall 4 t else if c.publisher ≠ suite then failCall 3 t else run c t) s

/-- COMMON_REMOVE: by the publisher, once no reader remains; its pages are free. -/
def execCommonRemove (via : CallVia) (suite : BitVec 8) (gen : BitVec 16) (cid : BitVec 4) (s : State) : Out :=
  publisherCall via 0x29 suite gen cid (fun c t =>
    if c.readers ≠ 0 then failCall 6 t
    else
      let t1 := (c.pages ++ c.backing).foldl (fun (u : State) i => u.freePage i) t
      (.now 0 [], t1.updHearth (fun h =>
        { h with commons := Table.set h.commons cid.toNat CommonRegion.reset, keys := Table.erase h.keys (2 + cid.toNat) }))) s

/-- The Suites that read a common region. -/
def State.readersOf (s : State) (c : CommonRegion) : List Nat := s.liveSuites.filter (fun n => c.readers.getLsbD n)

/-- A notice of a repair in every reader's sink. -/
def State.repairNotes (s : State) (cid : Nat) (c : CommonRegion) (code : Nat) (pa : Nat) : State :=
  (s.readersOf c).foldl (fun (t : State) n => t.hearthNote (BitVec.ofNat 8 n) code cid (BitVec.ofNat 64 pa)) s

/-- Steps 4 to 6 of R383: every copy of the page is dropped, the page is written and its poison clears, and PAGE_REINSTALLED goes to
the Halls of the readers' Rooms and into their sinks. -/
def State.reinstall (s : State) (cid i : Nat) (c : CommonRegion) (bytes : List Byte) : State :=
  let pa := c.pagePa i
  let here := (s.pageLines (pageIndex pa)).filter (fun q => q.2 / 32 = pa / 4096)
  let s1 := here.foldl (fun (t : State) q => t.mntLine 2 q.1 q.2) s
  let s2 := { s1 with extPoison := s1.extPoison.filter (fun l => l / 32 ≠ pa / 4096) }.putExt pa bytes
  let s3 := s2.updHearth (fun h => { h with commons := Table.set h.commons cid { c with repairing := dropAll i c.repairing } })
  let rooms := ((List.range 96).map roomOfKey).filter (fun r =>
    match (s3.room r).ownerSuite with | none => false | some o => c.readers.getLsbD o.1.toNat)
  let s4 := rooms.foldl (fun (t : State) r =>
    match (t.room r).ownerSuite with
    | none => t
    | some o => t.send .hearth (.hall r) o.1 o.2 (.reinstalled (pa / 4096) (BitVec.ofNat 16 cid))) s3
  s4.repairNotes cid c 0x30 pa

/-- A page's repair has failed: it stays poisoned. -/
def State.repairFailed (s : State) (cid i : Nat) (c : CommonRegion) : State :=
  (s.updHearth (fun h => { h with commons := Table.set h.commons cid { c with repairing := dropAll i c.repairing } })).repairNotes cid c 0x32
    (c.pagePa i)

/-- COMMON_PAGE_REPAIR: a poisoned page of a common region is repaired from its backing copy in hardware mode, the monitor's from the
flash; else it waits for the publisher. A source that fails its digest, or an error that comes again, ends it with REPAIR_FAILED. -/
def execCommonPageRepair (cid : BitVec 4) (index : BitVec 32) (lastingAgain : Bool) (s : State) : Out :=
  let c := Table.get CommonRegion.reset s.hearth.commons cid.toNat
  let i := index.toNat
  let pa := c.pagePa i
  if !c.valid || decide (c.pages4k.toNat ≤ i) || !s.extPoison.any (fun l => l / 32 = pa / 4096) then .next s
  else if cid = 15 then .next (if lastingAgain then s.repairFailed 15 i c else s.reinstall 15 i c (s.extBytes pa 4096))
  else if s.hearth.repairMode || !c.backed then
    .next (s.updHearth (fun h => { h with commons := Table.set h.commons cid.toNat { c with repairing := addOnce i c.repairing } }))
  else
    let src := pageBase (listGet 0 c.backing (i / 512)) + i % 512 * 4096
    let bytes := s.extBytes src 4096
    let bad := (List.range 32).any (fun k => s.extBad (src / 128 + k)) || Config.sha384 bytes ≠ listGet (0 : Digest) c.digests i
    .next (if bad || lastingAgain then s.repairFailed cid.toNat i c else s.reinstall cid.toNat i c bytes)

/-- COMMON_REPAIR: the publisher supplies the source of a page that waits for one. -/
def execCommonRepair (via : CallVia) (suite : BitVec 8) (gen : BitVec 16) (cid : BitVec 4) (index : BitVec 32) (src : W64)
    (s : State) : Out :=
  publisherCall via 0x2A suite gen cid (fun c t =>
    if !c.repairing.contains index.toNat then failCall 4 t
    else
      let r := t.gRead suite src.toNat 4096
      match r.1 with
      | none => failCall 1 r.2
      | some bs =>
        if Config.sha384 bs ≠ listGet (0 : Digest) c.digests index.toNat then (.now 7 [], r.2.repairFailed cid.toNat index.toNat c)
        else (.now 0 [], r.2.reinstall cid.toNat index.toNat c bs)) s

/-! ## Virtual harts (R377) -/

/-- VHART_CREATE: a virtual hart on a hart of the Suite, up to 256 a Suite; answers its handle. Its vsstatus.VS starts at Initial
(DESIGN CHOICE, log 190). -/
def execVhartCreate (via : CallVia) (suite : BitVec 8) (gen : BitVec 16) (hart : BitVec 8) (entry root a0 : W64) (s : State) : Out :=
  tenantCall via 0x2B suite gen (fun t =>
    let h := t.hearth
    if 128 ≤ hart.toNat || root.toNat % 4096 ≠ 0 then failCall 1 t
    else if (t.hart (Fin.ofNat 128 hart.toNat)).owner ≠ suite then failCall 3 t
    else if 256 ≤ (h.vharts.filter (fun e => e.2.suite = suite)).length then failCall 5 t
    else
      let v : VHart :=
        { suite := suite, hart := hart.toNat, entry := entry, root := root, a0 := a0, started := false, lastTime := 0, delta := 0,
          kicked := false, file := 0, die := hart.toNat / 64, regs := [], fregs := [], vregs := [], vscsr := [(0x200, 0x200)], vsxerr := false }
      (.now 0 (leBytes 8 h.nextHandle),
        t.updHearth (fun y => { y with vharts := Table.set y.vharts y.nextHandle v, nextHandle := y.nextHandle + 1 }))) s

/-- VHART_DESTROY: the monitor stops and zeroes a virtual hart of the Suite. -/
def execVhartDestroy (via : CallVia) (suite : BitVec 8) (gen : BitVec 16) (handle : W64) (s : State) : Out :=
  tenantCall via 0x2C suite gen (fun t =>
    match Table.find t.hearth.vharts handle.toNat with
    | none => failCall 4 t
    | some v => if v.suite ≠ suite then failCall 3 t else (.now 0 [], t.stopVhart handle.toNat)) s

/-! ## Peer sessions (R373) -/

/-- A module's identity: the AK statement, its signature by the DIK, the DIK and its certificate. -/
def Hearth.identity (h : Hearth) : List Byte :=
  h.akStatement ++ keyBytes (Config.ecdsaSign Config.dikPublic h.akStatement) ++ keyBytes Config.dikPublic ++ keyBytes Config.dikCert

/-- A field of a blob as a number. -/
def blobField (bs : List Byte) (at_ n : Nat) : Nat := leNat ((bs.drop at_).take n)

/-- An offer or answer blob of 776 B: identity, public key, nonce, PSESS, Suite and generation, TPK digest, and the AK's signature
over all of it. -/
def State.peerBlob (s : State) (n : BitVec 8) (p : BitVec 8) (q : BitVec 768) (nonce : BitVec 256) : List Byte :=
  let text := s.hearth.identity ++ keyBytes q ++ leBytes 32 nonce.toNat ++ leBytes 1 p.toNat ++ leBytes 1 n.toNat
    ++ leBytes 2 (s.genOf n).toNat ++ leBytes 4 0 ++ digestBytes (Config.sha384 (keyBytes (s.suite n).tpk))
  text ++ keyBytes (Config.ecdsaSign s.hearth.ak text)

/-- The check of a peer's blob: the chain from the Kilaris root key to the AK's signature (AUTH), then the TPK digest (DIGEST). -/
def State.blobStatus (s : State) (n : BitVec 8) (bs : List Byte) : Nat :=
  let key := fun (at_ : Nat) => BitVec.ofNat 768 (blobField bs at_ 96)
  let chain := Config.ecdsaVerify Config.rootKey ((bs.drop 304).take 96 ++ (bs.drop 192).take 8) (key 400)
    && Config.ecdsaVerify (key 304) (bs.take 208) (key 208) && Config.ecdsaVerify (key 0) (bs.take 680) (key 680)
  if bs.length ≠ 776 || !chain then 2
  else if blobField bs 632 48 ≠ (Config.sha384 (keyBytes (s.suite n).tpk)).toNat then 7
  else 0

/-- Register word 0 of a session bound to a Suite and a port. -/
def sessWord (n : BitVec 8) (gen : BitVec 16) (port : Fin 6) (valid : Bool) : W64 :=
  BitVec.ofNat 64 (natOfBool valid + port.val % 3 * 2 + n.toNat * 2 ^ 4 + gen.toNat * 2 ^ 12)

/-- Bind one side of a session to what a peer's blob says: `first` is the side that offered, whose messages go under D 0x01. -/
def State.bindPeer (s : State) (n : BitVec 8) (port : Fin 6) (p : BitVec 8) (secret : BitVec 768) (own : BitVec 256) (first : Bool)
    (bs : List Byte) : State :=
  let q : BitVec 768 := BitVec.ofNat 768 (blobField bs 496 96)
  let theirs := (bs.drop 592).take 32
  let mine := leBytes 32 own.toNat
  let salt := if first then mine ++ theirs else theirs ++ mine
  let key := fun (d : Byte) => Config.deriveKey secret q salt [0x62, 0x7A, 0x77, p, d]
  s.updSess (porchOf (.bz port)) p.toNat (fun _ =>
    { PeerSess.reset with
      lo := sessWord n (s.genOf n) port true, peer := BitVec.ofNat 64 (blobField bs 192 8), peerSuite := BitVec.ofNat 8 (blobField bs 625 1),
      peerGen := BitVec.ofNat 16 (blobField bs 626 2), rxKey := key (if first then 2 else 1), txKey := key (if first then 1 else 2) })

/-- A PSESS is taken on a Porch: bound, or offered and not yet finished. -/
def State.psessTaken (s : State) (porch : Fin 2) (p : BitVec 8) : Bool :=
  (s.sess porch p.toNat).valid || (s.sess porch p.toNat).offered

/-- A call that only an agent in the module may make. -/
def innerCall (via : CallVia) (call : Nat) (suite : BitVec 8) (gen : BitVec 16) (run : State → CallEnd × State) (s : State) : Out :=
  tenantCall via call suite gen (fun t => if viaInModule suite via then run t else failCall 3 t) s

/-- PEER_OFFER: the offer blob goes into the caller's buffer. -/
def execPeerOffer (via : CallVia) (suite : BitVec 8) (gen : BitVec 16) (port : Fin 6) (psess : BitVec 8) (modid buf : W64)
    (s : State) : Out :=
  innerCall via 0x2D suite gen (fun t =>
    let porch := porchOf (.bz port)
    if psess = 0 then failCall 1 t
    else if t.psessTaken porch psess then failCall 6 t
    else
      let sec := t.drawKey
      let q := sec.2.drawKey
      let no := q.2.drawKey
      let nonce : BitVec 256 := no.1.setWidth 256
      let w := no.2.gWrite suite buf.toNat (no.2.peerBlob suite psess q.1 nonce)
      if !w.1 then failCall 1 w.2
      else
        (.now 0 [], w.2.updSess porch psess.toNat (fun _ =>
          { PeerSess.reset with
            lo := sessWord suite (w.2.genOf suite) port false, peer := modid, offered := true, secret := sec.1, nonce := nonce }))) s

/-- PEER_ACCEPT: the offer is checked, the answer blob written and this side bound. -/
def execPeerAccept (via : CallVia) (suite : BitVec 8) (gen : BitVec 16) (port : Fin 6) (offer answer : W64) (s : State) : Out :=
  innerCall via 0x2E suite gen (fun t =>
    let r := t.gRead suite offer.toNat 776
    match r.1 with
    | none => failCall 1 r.2
    | some bs =>
      let p : BitVec 8 := BitVec.ofNat 8 (blobField bs 624 1)
      let st := t.blobStatus suite bs
      if st ≠ 0 then failCall st r.2
      else if p = 0 then failCall 1 r.2
      else if t.psessTaken (porchOf (.bz port)) p then failCall 6 r.2
      else
        let sec := r.2.drawKey
        let q := sec.2.drawKey
        let no := q.2.drawKey
        let nonce : BitVec 256 := no.1.setWidth 256
        let w := no.2.gWrite suite answer.toNat (no.2.peerBlob suite p q.1 nonce)
        if !w.1 then failCall 1 w.2 else (.now 0 [], w.2.bindPeer suite port p sec.1 nonce false bs)) s

/-- PEER_FINISH: the answer to an offer of the Suite is checked, against the MODID that the offer named as well, and the offering side
is bound. -/
def execPeerFinish (via : CallVia) (suite : BitVec 8) (gen : BitVec 16) (answer : W64) (s : State) : Out :=
  innerCall via 0x2F suite gen (fun t =>
    let r := t.gRead suite answer.toNat 776
    match r.1 with
    | none => failCall 1 r.2
    | some bs =>
      let p : BitVec 8 := BitVec.ofNat 8 (blobField bs 624 1)
      let st := t.blobStatus suite bs
      let here := (List.finRange 2).find? (fun porch => (t.sess porch p.toNat).offered && (t.sess porch p.toNat).suite = suite)
      match here with
      | none => failCall 4 r.2
      | some porch =>
        let x := t.sess porch p.toNat
        if st ≠ 0 then failCall st r.2
        else if blobField bs 192 8 ≠ x.peer.toNat then failCall 2 r.2
        else (.now 0 [], r.2.bindPeer suite (x.port porch) p x.secret x.nonce true bs)) s

/-- PEER_CLOSE: ends a peer session of the Suite (R355); an offer not finished is withdrawn. -/
def execPeerClose (via : CallVia) (suite : BitVec 8) (gen : BitVec 16) (porch : Fin 2) (psess : BitVec 8) (s : State) : Out :=
  tenantCall via 0x30 suite gen (fun t =>
    let x := t.sess porch psess.toNat
    if psess = 0 || !t.psessTaken porch psess then failCall 4 t
    else if x.suite ≠ suite then failCall 3 t
    else if !x.valid then (.now 0 [], t.updSess porch psess.toNat (fun _ => PeerSess.reset))
    else (.now 0 [], t.endPeer suite porch psess)) s

end Sys2Proof.Machine
end

