-- ==== Sys2Proof/Machine/RegMap.lean ====
section
/-! DEFINITION. The control registers by block and offset (R12, and the register maps of the chapters). -/

namespace Sys2Proof.Machine

/-! ## The registers -/

/-- Registers of a Wing block (R29, R43, R185, R257, R433). -/
inductive WingReg where
  | id
  | portMap
  | stamp
  | bwStatus
  | sliceCtl (i : Fin 16)
  | sliceEcc (i : Fin 16)
  | sliceCnt (i : Fin 16)
  | mntGo
  | mntStat (n : Fin 8)
  | faultCtl
  | fenceCmd
  | faultCnt
deriving DecidableEq, Repr

/-- Registers of a memory controller's block (R309, R310). -/
inductive McReg where
  | status
  | ecc
  | cal
  | calMsi
  | bw
  | add
  | wipe
  | slotCtl
  | slotMap (i : Fin 8)
  | credMap (i : Fin 32)
deriving DecidableEq, Repr

/-- Registers of a core block (R82, R257). -/
inductive CoreReg where
  | status
  | groupState
  | groupCmd
  | faultCtl
  | ecc
  | roc
deriving DecidableEq, Repr

/-- Registers of a Room block (R185, R406). -/
inductive RoomReg where
  | status
  | rect
  | ecc
  | meshCnt
  | pwr
deriving DecidableEq, Repr

/-- Registers of a Parlour block (R29, R47, R282). -/
inductive ParReg where
  | id
  | timebase
  | ddrCh (c : Fin 6)
  | mtimecmp (c : Fin 64)
deriving DecidableEq, Repr

/-- Registers of a graph block (R223, R450). -/
inductive GraphReg where
  | mode
  | sink
  | sinkPtr
  | ctx
  | mail
  | count
  | xlatCtl
  | xlatVa
  | xlatPte
deriving DecidableEq, Repr

/-- Registers of a region block (R257). -/
inductive RegionReg where
  | entry (e : Fin 64) (w : Fin 4)
  | hmap (i : Fin 16)
  | wmap (k : Fin 8) (hi : Bool)
deriving DecidableEq, Repr

/-- Registers of the Hearth block (R29, R388, R433, R450). -/
inductive HrtReg where
  | status
  | modid
  | mode
  | callGo
  | callStat
  | dieMap
  | mgmtStatus
  | mgmtCmd
  | mgmtFw
  | suite (n : BitVec 8)
  | hartOwn (h : Fin 128)
  | common (c : Fin 16) (w : Fin 5)
  | rasRing
  | rasPtr
  | rasCnt
deriving DecidableEq, Repr

/-- Registers of a Beyfy port (R335). -/
inductive ByReg where
  | status
  | ctl
  | cnt
  | msgCnt
  | winCtl
  | winCnt
deriving DecidableEq, Repr

/-- Registers of an engine page (R335). -/
inductive CpyReg where
  | status
  | go
  | ctl
  | msiAddr
  | msiData
  | cur
  | own
  | desc (w : Fin 8)
deriving DecidableEq, Repr

/-- Registers of a Breezeway port (R356). -/
inductive BzReg where
  | status
  | peer
  | peer2
  | ctl
  | cnt
  | msgCnt
deriving DecidableEq, Repr

/-- Registers of the power block (R406): units 0 to 7 are Wings, 8 and 9 Parlours, 10 to 15 Breezeway ports. -/
inductive PwrReg where
  | status
  | own
  | ctl
  | capModule
  | cap (u : Fin 10)
  | capStep (u : Fin 10)
  | capEvt
  | capMsi
  | temp (u : Fin 10)
  | ref (u : Fin 10)
  | energy
  | jobCtl
  | jobEnergy
  | jobPm
  | thr (u : Fin 16) (r : Fin 7) (w : Fin 4)
deriving DecidableEq, Repr

/-- A control register. -/
inductive Reg where
  | wing (k : Fin 8) (r : WingReg)
  | mc (m : Ctl) (r : McReg)
  | core (c : CoreId) (r : CoreReg)
  | room (r : RoomId) (x : RoomReg)
  | parlour (n : Fin 2) (r : ParReg)
  | graph (n : BitVec 8) (r : GraphReg)
  | region (n : BitVec 8) (r : RegionReg)
  | band (b : Fin 4096)
  | hearth (r : HrtReg)
  | byPort (i : Fin 4) (r : ByReg)
  | cpy (e : Fin 32) (r : CpyReg)
  | bzPort (i : Fin 6) (r : BzReg)
  | cuGo (n : Fin 2)
  | cuStat (n : Fin 2) (i : Fin 8)
  | sess (n : Fin 2) (p : BitVec 8) (hi : Bool)
  | power (r : PwrReg)
deriving DecidableEq, Repr

/-! ## Offsets -/

/-- The index of an offset in a run of registers: base, distance and number. -/
def runIndex (o base step n : Nat) : Option Nat :=
  if base ≤ o && o < base + step * n && (o - base) % step = 0 then some ((o - base) / step) else none

/-- The first of a list of offsets that is the one asked for. -/
def atOffset {α : Type} (o : Nat) (l : List (Nat × α)) : Option α := (l.find? (fun e => e.1 = o)).map (fun e => e.2)

/-- Take the first register found. -/
def orElse {α : Type} : Option α → Option α → Option α
  | some a, _ => some a
  | none, b => b

/-- A register of a controller block by its offset; a DDR5 channel has no ADD. -/
def mcRegOf (ddr : Bool) (o : Nat) : Option McReg :=
  let fixed : List (Nat × McReg) :=
    [(0x00, .status), (0x08, .ecc), (0x10, .cal), (0x18, .calMsi), (0x20, .bw), (0x30, .wipe), (0x38, .slotCtl)]
      ++ (if ddr then [] else [(0x28, .add)])
  orElse (atOffset o fixed)
    (orElse ((runIndex o 0x40 8 8).map (fun i => .slotMap (Fin.ofNat 8 i))) ((runIndex o 0x100 8 32).map (fun i => .credMap (Fin.ofNat 32 i))))

/-- A register of a Wing block; controllers have their blocks at 0x2000 + 0x200 j. -/
def wingRegOf (k : Fin 8) (o : Nat) : Option Reg :=
  let fixed : List (Nat × WingReg) :=
    [(0x0000, .id), (0x0008, .portMap), (0x0010, .stamp), (0x0018, .bwStatus), (0x1800, .mntGo), (0x3000, .faultCtl),
     (0x3008, .fenceCmd), (0x3010, .faultCnt)]
  let slices : Option WingReg :=
    orElse ((runIndex o 0x1000 0x40 16).map (fun i => .sliceCtl (Fin.ofNat 16 i)))
      (orElse ((runIndex o 0x1008 0x40 16).map (fun i => .sliceEcc (Fin.ofNat 16 i)))
        ((runIndex o 0x1010 0x40 16).map (fun i => .sliceCnt (Fin.ofNat 16 i))))
  let own := orElse (atOffset o fixed) (orElse slices ((runIndex o 0x1808 8 8).map (fun n => .mntStat (Fin.ofNat 8 n))))
  match own with
  | some r => some (.wing k r)
  | none =>
    if 0x2000 ≤ o && o < 0x2800 then
      (mcRegOf false ((o - 0x2000) % 0x200)).map (fun r => .mc (.lpd (Fin.ofNat 32 (4 * k.val + (o - 0x2000) / 0x200))) r)
    else none

/-- A register of a Room block or of one of its six core blocks. -/
def roomRegOf (r : RoomId) (o : Nat) : Option Reg :=
  if o < 0xC000 then
    let regs : List (Nat × CoreReg) :=
      [(0x00, .status), (0x08, .groupState), (0x10, .groupCmd), (0x18, .faultCtl), (0x20, .ecc), (0x28, .roc)]
    (atOffset (o % 0x2000) regs).map (fun x => .core ⟨r, Fin.ofNat 6 (o / 0x2000)⟩ x)
  else
    let regs : List (Nat × RoomReg) :=
      [(0xC000, .status), (0xC008, .rect), (0xC010, .ecc), (0xC018, .meshCnt), (0xC020, .pwr)]
    (atOffset o regs).map (fun x => .room r x)

/-- A register of a Parlour block; DDR5 channels have their blocks at 0x2000 + 0x200 c. -/
def parlourRegOf (n : Fin 2) (o : Nat) : Option Reg :=
  if 0x2000 ≤ o && o < 0x2C00 then
    (mcRegOf true ((o - 0x2000) % 0x200)).map (fun r => .mc (.ddr (Fin.ofNat 12 (6 * n.val + (o - 0x2000) / 0x200))) r)
  else
    let own : Option ParReg :=
      orElse (atOffset o [(0x0000, .id), (0x0010, .timebase)])
        (orElse ((runIndex o 0x0100 8 6).map (fun c => .ddrCh (Fin.ofNat 6 c)))
          ((runIndex o 0x1000 8 64).map (fun c => .mtimecmp (Fin.ofNat 64 c))))
    own.map (fun r => .parlour n r)

/-- A register of a graph block. -/
def graphRegOf (o : Nat) : Option GraphReg :=
  atOffset o
    [(0x000, .mode), (0x008, .sink), (0x010, .sinkPtr), (0x018, .ctx), (0x020, .mail), (0x028, .count), (0x030, .xlatCtl),
     (0x038, .xlatVa), (0x040, .xlatPte)]

/-- A register of a region block. -/
def regionRegOf (o : Nat) : Option RegionReg :=
  orElse ((runIndex o 0 8 256).map (fun i => .entry (Fin.ofNat 64 (i / 4)) (Fin.ofNat 4 (i % 4))))
    (orElse ((runIndex o 0x800 8 16).map (fun i => .hmap (Fin.ofNat 16 i)))
      ((runIndex o 0x880 8 16).map (fun i => .wmap (Fin.ofNat 8 (i / 2)) (decide (i % 2 = 1)))))

/-- A register of the Hearth block. -/
def hearthRegOf (o : Nat) : Option HrtReg :=
  let fixed : List (Nat × HrtReg) :=
    [(0x0000, .status), (0x0008, .modid), (0x0010, .mode), (0x0018, .callGo), (0x0020, .callStat), (0x0100, .dieMap),
     (0x0200, .mgmtStatus), (0x0208, .mgmtCmd), (0x0210, .mgmtFw), (0x3000, .rasRing), (0x3008, .rasPtr), (0x3010, .rasCnt)]
  let common : Option HrtReg :=
    if 0x2000 ≤ o && o < 0x2400 && o % 8 = 0 && o % 0x40 < 0x28 then
      some (.common (Fin.ofNat 16 ((o - 0x2000) / 0x40)) (Fin.ofNat 5 (o % 0x40 / 8)))
    else none
  orElse (atOffset o fixed)
    (orElse ((runIndex o 0x1000 8 256).map (fun n => .suite (BitVec.ofNat 8 n)))
      (orElse ((runIndex o 0x1800 8 128).map (fun h => .hartOwn (Fin.ofNat 128 h))) common))

/-- A register of a Porch block: engine pages at 0x10_0000, Beyfy ports, Breezeway ports, the collective unit, sessions. -/
def porchRegOf (n : Fin 2) (o : Nat) : Option Reg :=
  if 0x100000 ≤ o && o < 0x110000 then
    let e := (o - 0x100000) / 0x1000
    let eng : Fin 32 := Fin.ofNat 32 (if e < 8 then 8 * n.val + e else 16 + 8 * n.val + (e - 8))
    let fixed : List (Nat × CpyReg) :=
      [(0x00, .status), (0x08, .go), (0x10, .ctl), (0x18, .msiAddr), (0x20, .msiData), (0x28, .cur), (0x30, .own)]
    let r := orElse (atOffset (o % 0x1000) fixed) ((runIndex (o % 0x1000) 0x40 8 8).map (fun w => .desc (Fin.ofNat 8 w)))
    r.map (fun x => .cpy eng x)
  else if o < 0x2000 then
    let regs : List (Nat × ByReg) :=
      [(0x00, .status), (0x08, .ctl), (0x10, .cnt), (0x18, .msgCnt), (0x20, .winCtl), (0x28, .winCnt)]
    (atOffset (o % 0x1000) regs).map (fun x => .byPort (Fin.ofNat 4 (2 * n.val + o / 0x1000)) x)
  else if o < 0x5000 then
    let regs : List (Nat × BzReg) :=
      [(0x00, .status), (0x08, .peer), (0x10, .peer2), (0x18, .ctl), (0x20, .cnt), (0x28, .msgCnt)]
    (atOffset (o % 0x1000) regs).map (fun x => .bzPort (Fin.ofNat 6 (3 * n.val + (o - 0x2000) / 0x1000)) x)
  else if o = 0x8000 then some (.cuGo n)
  else
    orElse ((runIndex o 0x8008 8 8).map (fun i => .cuStat n (Fin.ofNat 8 i)))
      ((runIndex o 0x9010 8 510).map (fun i => .sess n (BitVec.ofNat 8 (1 + i / 2)) (decide (i % 2 = 1))))

/-- A register of the power block. -/
def powerRegOf (o : Nat) : Option PwrReg :=
  let fixed : List (Nat × PwrReg) :=
    [(0x0000, .status), (0x0008, .own), (0x0010, .ctl), (0x0018, .capModule), (0x00C0, .capEvt), (0x00C8, .capMsi),
     (0x0200, .energy), (0x0208, .jobCtl), (0x0210, .jobEnergy), (0x0218, .jobPm)]
  let units : Option PwrReg :=
    orElse ((runIndex o 0x0020 8 10).map (fun u => .cap (Fin.ofNat 10 u)))
      (orElse ((runIndex o 0x0070 8 10).map (fun u => .capStep (Fin.ofNat 10 u)))
        (orElse ((runIndex o 0x0100 8 10).map (fun u => .temp (Fin.ofNat 10 u))) ((runIndex o 0x0180 8 10).map (fun u => .ref (Fin.ofNat 10 u)))))
  let recs : Option PwrReg :=
    if 0x1000 ≤ o && o < 0x2000 && o % 8 = 0 && o % 0x100 < 0xE0 then
      some (.thr (Fin.ofNat 16 ((o - 0x1000) / 0x100)) (Fin.ofNat 7 (o % 0x100 / 0x20)) (Fin.ofNat 4 (o % 0x20 / 8)))
    else none
  orElse (atOffset o fixed) (orElse units recs)

/-- The register at an 8-byte-aligned address of the control space, if there is one. -/
def regOf (pa : Nat) : Option Reg :=
  let o := pa - 0xF00000000000
  if pa < 0xF00000000000 then none
  else if o < 0x08000000 then wingRegOf (Fin.ofNat 8 (o / 0x1000000)) (o % 0x1000000)
  else if 0x10000000 ≤ o && o < 0x10600000 then
    let i := (o - 0x10000000) / 0x10000
    roomRegOf ⟨Fin.ofNat 6 (i / 16), Fin.ofNat 16 (i % 16)⟩ (o % 0x10000)
  else if 0x20000000 ≤ o && o < 0x22000000 then parlourRegOf (Fin.ofNat 2 ((o - 0x20000000) / 0x1000000)) (o % 0x1000000)
  else if 0x30000000 ≤ o && o < 0x300FF000 then
    (graphRegOf (o % 0x1000)).map (fun r => .graph (BitVec.ofNat 8 ((o - 0x30000000) / 0x1000)) r)
  else if 0x31000000 ≤ o && o < 0x310FF000 then
    (regionRegOf (o % 0x1000)).map (fun r => .region (BitVec.ofNat 8 ((o - 0x31000000) / 0x1000)) r)
  else if 0x40000000 ≤ o && o < 0x41000000 then (hearthRegOf (o - 0x40000000)).map (fun r => .hearth r)
  else if 0x41000000 ≤ o && o < 0x41008000 then (runIndex o 0x41000000 8 4096).map (fun b => .band (Fin.ofNat 4096 b))
  else if 0x50000000 ≤ o && o < 0x52000000 then porchRegOf (Fin.ofNat 2 ((o - 0x50000000) / 0x1000000)) (o % 0x1000000)
  else if 0x60000000 ≤ o && o < 0x60010000 then (powerRegOf (o - 0x60000000)).map (fun r => .power r)
  else none

/-- Registers that hold a WO field, which a 32-bit write does not reach (R9). -/
def Reg.hasWo : Reg → Bool
  | .wing _ .mntGo => true
  | .wing _ .fenceCmd => true
  | .mc _ .cal => true
  | .mc _ .wipe => true
  | .core _ .groupCmd => true
  | .core _ .roc => true
  | .graph _ .xlatPte => true
  | .hearth .callGo => true
  | .hearth .mgmtCmd => true
  | .byPort _ .ctl => true
  | .cpy _ .go => true
  | .bzPort _ .ctl => true
  | .cuGo _ => true
  | .power .jobCtl => true
  | _ => false

/-- Registers that the board management controller reaches over I3C (R443). -/
def Reg.overI3c (r : Reg) (write : Bool) : Bool :=
  match r with
  | .hearth .mgmtStatus => !write
  | .hearth .mgmtFw => !write
  | .hearth .mgmtCmd => write
  | .power .status => !write
  | .power .energy => !write
  | .power (.temp _) => !write
  | _ => false

end Sys2Proof.Machine
end

