-- ==== Sys2Proof/Machine/RegRead.lean ====
section
/-! DEFINITION. Reads of control registers: who may read, the value, and the RC fields that a read clears (R9, R11). -/

namespace Sys2Proof.Machine

/-! ## Readers -/

/-- The agent carries a Suite's tag. -/
def agentIs (a : Agent) (n : BitVec 8) : Bool := a = .suite n

/-- Suites that own a Room of a Wing, a hart of a Parlour, or a session bound to a Breezeway port (R406). -/
def State.ownsUnit (s : State) (n : BitVec 8) (u : Nat) : Bool :=
  if u < 8 then (roomsOfWing u).any (fun r => (s.room r).ownerSuite.map (fun p => p.1) = some n)
  else if u < 10 then s.harts.any (fun e => e.1 / 64 + 8 = u && e.2.owner = n)
  else s.sessions.any (fun e => e.2.valid && e.2.suite = n && (e.2.port (Fin.ofNat 2 (e.1 / 256))).val + 10 = u)

/-- Reader of a unit's temperature and records. -/
def State.unitReader (s : State) (a : Agent) (u : Nat) : Bool :=
  match a with
  | .suite n => s.ownsUnit n u
  | .mmode _ => false
  | .hearth => false
  | .bmc => false

/-- Reader of PWR_ENERGY and the job registers. -/
def State.jobReader (s : State) (a : Agent) : Bool :=
  match a with
  | .suite n => s.exclusive n.toNat
  | .mmode _ => false
  | .hearth => false
  | .bmc => false

/-- Whether an agent may read a register; a read by any other is refused. -/
def State.readable (s : State) (a : Agent) (r : Reg) : Bool :=
  let top := suite0OrHearth a
  if a = .bmc then s.pins.modOn && r.overI3c false
  else
    match r with
    | .wing _ x =>
      (match x with
       | .stamp => top
       | .bwStatus => top
       | .faultCtl => top
       | .fenceCmd => top
       | .faultCnt => top
       | _ => true)
    | .mc _ _ => top
    | .core c _ => top || s.roomWriter a c.room
    | .room x _ => top || s.roomWriter a x
    | .parlour n x =>
      (match x with
       | .ddrCh _ => top
       | .mtimecmp _ => (match a with | .mmode h => parlourOf h = n | _ => false)
       | _ => true)
    | .graph n _ => top || graphWriter a n
    | .region n _ => graphWriter a n
    | .band _ => true
    | .hearth x =>
      (match x with
       | .mode => top
       | .suite n => top || agentIs a n
       | .hartOwn h => top || agentIs a (s.hart h).owner || (match a with | .mmode _ => true | _ => false)
       | .common _ _ => top
       | .rasRing => top
       | .rasPtr => top
       | .rasCnt => top
       | _ => true)
    | .byPort i x => top || (x = .winCtl && bitOf (s.byPort i).winCtl.toNat 16 && agentIs a (BitVec.ofNat 8 (bitsOf (s.byPort i).winCtl.toNat 8 8)))
    | .cpy e _ => top || s.engineWriter a e
    | .bzPort _ x =>
      (match x with
       | .status => true
       | .peer => true
       | .peer2 => true
       | _ => top)
    | .cuGo _ => true
    | .cuStat _ _ => true
    | .sess n p _ => a = .hearth || agentIs a (s.sess n p.toNat).suite
    | .power x =>
      top || (match x with
        | .temp u => s.unitReader a u.val
        | .thr u _ _ => s.unitReader a u.val
        | .energy => s.jobReader a
        | .jobCtl => s.jobReader a
        | .jobEnergy => s.jobReader a
        | .jobPm => s.jobReader a
        | _ => false)

/-- Who sees a slice's registers; the others read 0 (R257). -/
def State.sliceReader (s : State) (a : Agent) (slice : Nat) : Bool := suite0OrHearth a || s.sliceWriter a slice

/-! ## Values -/

/-- A value at a bit position. -/
def at_ (v i : Nat) : Nat := v * 2 ^ i

/-- A truth value at a bit position. -/
def flagAt (b : Bool) (i : Nat) : Nat := natOfBool b * 2 ^ i

/-- Training states by code. -/
def portCode : PortState → Nat
  | .down => 0
  | .detect => 1
  | .eq => 2
  | .align => 3
  | .config => 4
  | .active => 5

/-- States of a slot by code. -/
def slotCode : SlotState → Nat
  | .free => 0
  | .active => 1
  | .parked => 2
  | .draining => 3

/-- States of a Suite by code. -/
def suiteCode : SuiteState → Nat
  | .absent => 0
  | .building => 1
  | .active => 2
  | .changing => 3
  | .resetting => 4
  | .removing => 5

/-- One port field of WING_PORT_MAP: direction (0 north, 1 east, 2 south, 3 west), kind, peer, UP. -/
def portField (dir kind peer : Nat) (up : Bool) : Nat := dir + at_ kind 2 + at_ peer 4 + flagAt up 7

/-- WING_PORT_MAP (R29): die-local east is physical west of a rotated Wing, and its south is physical north. REV_S is of the straps. -/
def Wing.portMap (w : Wing) (k : Nat) : Nat :=
  let rot := decide (4 ≤ k)
  let c := k % 4
  let east := if c = 3 then (2, 1) else (1, k + 1)
  let west := if c = 0 then (2, 0) else (1, k - 1)
  let e := if rot then west else east
  let v := if rot then east else west
  portField (if rot then 3 else 1) e.1 e.2 (w.portUp.getLsbD 0) + at_ (portField (if rot then 1 else 3) v.1 v.2 (w.portUp.getLsbD 1)) 8
    + at_ (portField (if rot then 0 else 2) 1 (if rot then k - 4 else k + 4) (w.portUp.getLsbD 2)) 16
    + flagAt (decide (4 ≤ w.wpos.toNat)) 24 + flagAt w.porchUp 25

/-- Wing registers. -/
def State.wingValue (s : State) (a : Agent) (k : Fin 8) (r : WingReg) : Nat :=
  let w := s.wing k
  let n := w.wpos.toNat
  let sl := fun (i : Fin 16) => 16 * k.val + i.val
  let seen := fun (i : Fin 16) (v : Nat) => if s.sliceReader a (sl i) then v else 0
  match r with
  | .id =>
    n + flagAt (decide (4 ≤ n)) 3 + flagAt w.strapOk 4 + at_ (if n < 4 then 0 else 3) 8 + at_ (4 * (n % 4)) 12
      + at_ (bitsOf (Config.wingRev k.val).toNat 0 16) 16 + at_ (bitsOf (Config.wingRev k.val).toNat 16 8 % 217) 32
  | .portMap => w.portMap k.val
  | .stamp => (s.stamp (.dispatcher k)).toNat
  | .bwStatus => w.staleGen.toNat + at_ w.noEndp.toNat 16 + at_ w.resent.toNat 32
  | .sliceCtl i =>
    let x := s.slice (sl i)
    seen i (flagAt x.enable 0 + flagAt x.cleanState 1 + flagAt x.refused 2 + flagAt x.powered 3 + at_ x.suite.toNat 8 + flagAt x.owned 16)
  | .sliceEcc i =>
    let x := s.slice (sl i)
    seen i (x.corrected.toNat + at_ x.transient.toNat 16 + at_ x.poisoned.toNat 32)
  | .sliceCnt i =>
    let x := s.slice (sl i)
    seen i (x.offerDecl.toNat + at_ x.dirRecalls.toNat 16 + at_ x.timeouts.toNat 32)
  | .mntGo => 0
  | .mntStat i =>
    let x := s.maint k i.val
    let full := suite0OrHearth a || agentIs a x.owner
    flagAt x.busy 0 + (if full then at_ x.owner.toNat 8 + at_ x.status.toNat 16 + flagAt x.byHearth 24 else 0)
  | .faultCtl => flagAt w.fenceMode 0
  | .fenceCmd => 0
  | .faultCnt => w.cfabRetry.toNat + at_ w.snpRetry.toNat 16 + at_ w.fencedN 32 + at_ w.roomsLost 48 + at_ w.ignored.toNat 56

/-- The slot map as last written. -/
def Mc.mapWritten (c : Mc) : Bool × Table W64 := c.nextMap.getD (c.strict, c.slotMap)

/-- Controller registers. -/
def Mc.value (c : Mc) (ddr : Bool) (r : McReg) : Nat :=
  let ch := if ddr then 1 else 4
  match r with
  | .status =>
    bitsOf c.chUp.toNat 0 ch + flagAt c.inService 4 + flagAt c.wiping 5
      + (if ddr then 0 else at_ c.rate.toNat 8 + at_ c.refMult.toNat 16)
  | .ecc => c.corrected.toNat + at_ c.transient.toNat 16 + at_ c.poisoned.toNat 32 + at_ c.integrity.toNat 48
  | .cal => flagAt c.calMode 0 + at_ (bitsOf c.due.toNat 0 ch) 4 + at_ c.forced.toNat 16 + at_ c.calDone.toNat 32
  | .calMsi => c.calMsi.toNat
  | .bw => c.bursts.toNat
  | .add => c.applied.toNat + at_ c.merged.toNat 16 + at_ c.poisDrop.toNat 32
  | .wipe => flagAt c.wipeDone 3 + at_ c.progress.toNat 32
  | .slotCtl => flagAt c.mapWritten.1 0
  | .slotMap i => (Table.get 0 c.mapWritten.2 i.val).toNat
  | .credMap i => (Table.get 0 c.credMap i.val).toNat

/-- Core registers. -/
def State.coreValue (s : State) (c : CoreId) (r : CoreReg) : Nat :=
  let x := s.core c
  match r with
  | .status =>
    let parked := (x.resident.filter (fun e => e.2.state = .parked)).length
    flagAt x.fenced 0 + flagAt (s.room c.room).ownerSuite.isSome 1 + at_ x.resident.length 2 + at_ (4096 - x.total Slot.halfRows) 8
      + at_ (16 - x.total (fun y => y.ntiles)) 21 + at_ (4 - x.total (fun y => y.naccs)) 26 + at_ parked 32 + at_ x.staleCmds.toNat 48
  | .groupState => (List.range 32).foldl (fun v i => v + at_ (slotCode (Table.get Slot.reset x.slots i).state) (2 * i)) 0
  | .groupCmd => 0
  | .faultCtl => flagAt x.replayMode 0
  | .ecc => x.corrected.toNat + at_ x.uncorr.toNat 16
  | .roc => flagAt x.rocEnable 0 + flagAt x.rocClean 1 + flagAt x.rocRefused 2

/-- PORTS_OPEN (R178). -/
def State.portsOpen (s : State) (r : RoomId) : Nat :=
  (List.range 4).foldl (fun v d => v + flagAt (s.portOpen r d) d) 0

/-- Room registers. -/
def State.roomValue (s : State) (r : RoomId) (q : RoomReg) : Nat :=
  let x := s.room r
  match q with
  | .status =>
    flagAt (bitOf x.rect.toNat 40) 0 + flagAt x.lost 1 + flagAt x.routerOk 2 + flagAt x.wiping 3 + at_ x.portsUp.toNat 4
      + at_ (s.portsOpen r) 8 + at_ (bitsOf x.rect.toNat 16 24) 16
  | .rect => x.rect.toNat
  | .ecc => x.corrected.toNat + at_ x.transient.toNat 16 + at_ x.poisoned.toNat 32
  | .meshCnt => x.discard.toNat + at_ x.laneRetry.toNat 16
  | .pwr => x.pwr.toNat

/-- Parlour registers. -/
def State.parlourValue (s : State) (n : Fin 2) (r : ParReg) : Nat :=
  let p := s.parlour n
  match r with
  | .id =>
    let f := s.hearth.fuses
    let num := (f.plrNum.getLsbD n.val).toNat
    num + flagAt (f.plrLock.getLsbD n.val) 1 + at_ (Config.plrRev n.val).toNat 8 + at_ (64 * num) 16
  | .timebase => 100000000 + flagAt p.refLocked 32
  | .ddrCh c => p.ddrCh c.val
  | .mtimecmp c => (Table.get (BitVec.allOnes 64) p.mtimecmp c.val).toNat

/-- Graph-block registers. -/
def State.graphValue (s : State) (n : BitVec 8) (r : GraphReg) : Nat :=
  let g := s.gsuite n
  let each := fun (f : Dispatcher → Nat) => (List.finRange 8).foldl (fun v k => v + f (s.disp k)) 0
  match r with
  | .mode => g.mode.toNat
  | .sink => g.sink.toNat
  | .sinkPtr => g.wr.toNat + at_ g.rd.toNat 32
  | .ctx => g.ctxReg.toNat
  | .mail => (32 - g.mail.length) + at_ g.leadWing.val 8 + at_ g.accepted.toNat 16 + at_ g.discarded.toNat 32
  | .count =>
    each (fun d => (d.tasks.filter (fun e => e.2.suite = n)).length)
      + at_ (each (fun d => (d.edges.filter (fun e => e.2.suite = n)).length)) 20 + at_ g.sinkLost.toNat 40
  | .xlatCtl => flagAt g.walkMode 0 + flagAt g.xbusy 1
  | .xlatVa => g.xva.toNat
  | .xlatPte => 0

/-- Eight entries of a map, a byte each. -/
def mapWord (f : Nat → Nat) (first : Nat) : Nat := (List.range 8).foldl (fun v j => v + at_ (f (first + j)) (8 * j)) 0

/-- Region-block registers. -/
def Suite.regionValue (x : Suite) (r : RegionReg) : Nat :=
  match r with
  | .entry e w =>
    let q := Table.get (⟨0, 0, 0, 0⟩ : RegionWords) x.regions e.val
    (match w.val with
     | 0 => q.w0
     | 1 => q.w1
     | 2 => q.w2
     | _ => q.w3).toNat
  | .hmap i => mapWord x.hmapEntry (8 * i.val)
  | .wmap k hi => mapWord (x.wmapEntry k.val) (if hi then 8 else 0)

/-- The Suite whose call registers an agent sees. -/
def callSuite : Agent → Option (BitVec 8)
  | .suite n => some n
  | .mmode _ => some 255
  | .hearth => none
  | .bmc => none

/-- Hearth registers. -/
def State.hearthValue (s : State) (a : Agent) (r : HrtReg) : Nat :=
  let h := s.hearth
  match r with
  | .status =>
    lifeCode h.life + flagAt h.debugOpen 3 + flagAt h.strict 4 + flagAt h.ready 5 + at_ h.debugCount 8
      + at_ (s.suitesNow.filter (fun e => e.1 ≠ 0)).length 16
  | .modid => Config.modid.toNat
  | .mode => flagAt h.repairMode 0
  | .callGo => 0
  | .callStat =>
    (match callSuite a with
     | none => 0
     | some n => flagAt (s.suite n).callBusy 0 + at_ (s.suite n).lastStat.toNat 8 + at_ (s.suite n).refused.toNat 16)
  | .dieMap => h.dieMap
  | .mgmtStatus => h.mgmtStatus
  | .mgmtCmd => 0
  | .mgmtFw => h.fwState.toNat + flagAt h.fwTarget 3 + flagAt h.fwCopyB 4 + at_ h.fwWritten.toNat 8
  | .suite n =>
    let x := s.suite n
    suiteCode x.state + flagAt x.retired 3 + at_ x.keyIdx.toNat 8 + at_ x.gen.toNat 16
  | .hartOwn q => (s.hart q).owner.toNat + at_ (s.hart q).ownerGen.toNat 8
  | .common c w =>
    let x := Table.get CommonRegion.reset h.commons c.val
    if w.val = 0 then flagAt x.valid 0 + flagAt x.backed 1 + at_ x.publisher.toNat 8 + at_ x.pages4k.toNat 16
    else bitsOf x.readers.toNat (64 * (w.val - 1)) 64
  | .rasRing => h.ringReg.toNat
  | .rasPtr => h.rasWr.toNat + at_ h.rasRd.toNat 32
  | .rasCnt => h.rasQueue.length + at_ h.rasLost.toNat 16

/-- STATE, WIDTH and RETRAINS of a port. -/
def Link.statusValue (l : Link) : Nat := portCode l.state + flagAt l.narrow 3 + at_ l.retrains.toNat 8

/-- The counters of a port. -/
def Link.cntValue (l : Link) : Nat := l.fecCorr.toNat + at_ l.replays.toNat 32 + at_ l.lasting.toNat 48

/-- Beyfy port registers. -/
def ByPort.value (p : ByPort) (r : ByReg) : Nat :=
  match r with
  | .status => p.link.statusValue + at_ p.link.partner.toNat 4
  | .ctl => 0
  | .cnt => p.link.cntValue
  | .msgCnt => p.discarded.toNat + at_ p.staleGen.toNat 16
  | .winCtl => p.winCtl.toNat
  | .winCnt => p.winRef.toNat + at_ p.winPois.toNat 16 + at_ p.winTime.toNat 32

/-- Engine-page registers. -/
def CopyEngine.value (x : CopyEngine) (r : CpyReg) : Nat :=
  match r with
  | .status => flagAt x.busy 0 + flagAt x.goRefused 1 + at_ x.lastStatus.toNat 8
  | .go => 0
  | .ctl => x.ctl.toNat
  | .msiAddr => x.msiAddr.toNat
  | .msiData => x.msiData.toNat
  | .cur => x.cur.toNat
  | .own => x.own.toNat
  | .desc w => (Table.get 0 x.descReg w.val).toNat

/-- Breezeway port registers. -/
def BzPort.value (p : BzPort) (r : BzReg) : Nat :=
  match r with
  | .status => p.link.statusValue
  | .peer => p.modid.toNat
  | .peer2 => p.peerPort.toNat
  | .ctl => 0
  | .cnt => p.link.cntValue
  | .msgCnt => p.discarded.toNat + at_ p.authFail.toNat 16

/-- Power registers. -/
def State.powerValue (s : State) (r : PwrReg) : Nat :=
  let p := s.power
  match r with
  | .status => bitsOf p.vinAvg 0 16 + at_ (bitsOf p.iin 0 16) 16 + at_ (bitsOf p.watts 0 16) 32 + flagAt s.pins.throt 48 + flagAt p.uv 49
  | .own => p.owner.toNat
  | .ctl => flagAt p.capMode 0
  | .capModule => p.capModule
  | .cap u => (s.unit u.val).cap
  | .capStep u => (s.unit u.val).capStep
  | .capEvt => (List.range 10).foldl (fun v u => v + flagAt (s.unit u).overBit u) 0 + flagAt p.modOver 10 + at_ p.forced.toNat 16
  | .capMsi => p.capMsi.toNat
  | .temp u =>
    let x := s.unit u.val
    bitsOf x.dieT 0 12 + at_ (if u.val < 8 then bitsOf x.cellarT 0 12 else 0) 12 + at_ (bitsOf x.step 0 6) 24
      + (List.range 7).foldl (fun v q => v + flagAt (s.thr u.val q).active (32 + q)) 0
  | .ref u => (s.unit u.val).ref.toNat
  | .energy => p.energy.toNat
  | .jobCtl => flagAt p.jobRun 2 + flagAt p.jobValid 3 + at_ p.jobSuite.toNat 8
  | .jobEnergy => if p.jobValid then p.jobEnergy.toNat else 0
  | .jobPm => if p.jobValid then p.jobPm.toNat else 0
  | .thr u q w =>
    let x := s.thr u.val q.val
    (match w.val with
     | 0 => x.totalPm.toNat
     | 1 => x.lastPm.toNat + at_ x.episodes.toNat 32
     | 2 => x.lastOwn.toNat
     | _ => x.lastEnd.toNat)

/-- The value that an agent reads. -/
def State.regValue (s : State) (a : Agent) (r : Reg) : Nat :=
  match r with
  | .wing k x => s.wingValue a k x
  | .mc m x => (s.mc m).value (isDdr m) x
  | .core c x => s.coreValue c x
  | .room q x => s.roomValue q x
  | .parlour n x => s.parlourValue n x
  | .graph n x => s.graphValue n x
  | .region n x => (s.suite n).regionValue x
  | .band b => (Table.get 0 s.hearth.bands b.val).toNat
  | .hearth x => s.hearthValue a x
  | .byPort i x => (s.byPort i).value x
  | .cpy e x => (s.engine e).value x
  | .bzPort i x => (s.bzPort i).value x
  | .cuGo _ => 0
  | .cuStat n i =>
    let x := s.coll n i.val
    flagAt x.busy 0 + (if suite0OrHearth a || agentIs a x.owner then at_ x.owner.toNat 8 + at_ x.status.toNat 16 else 0)
  | .sess n p hi => (if hi then (s.sess n p.toNat).hi else (s.sess n p.toNat).lo).toNat
  | .power x => s.powerValue x

/-! ## RC fields (R9, R11) -/

/-- The part of a read: the halves that it returns, and what the hardware adds in the same cycle. -/
structure RcRead where
  lo    : Bool
  hi    : Bool
  added : Nat

/-- An RC field of a width at a position: a read that returns it leaves what was added, any other adds it. -/
def RcRead.field (q : RcRead) (pos width : Nat) {w : Nat} (v : BitVec w) : BitVec w :=
  let n := bitsOf q.added pos width
  if (if pos < 32 then q.lo else q.hi) then BitVec.ofNat w n else BitVec.ofNat w (satAdd width v.toNat n)

/-- The counters of a port after a read. -/
def RcRead.linkCnt (q : RcRead) (l : Link) : Link :=
  { l with fecCorr := q.field 0 32 l.fecCorr, replays := q.field 32 16 l.replays, lasting := q.field 48 16 l.lasting }

/-- What a read does to a register's RC fields. -/
def State.regCount (s : State) (a : Agent) (r : Reg) (q : RcRead) : State :=
  match r with
  | .wing k .bwStatus =>
    s.updWing k (fun w => { w with staleGen := q.field 0 16 w.staleGen, noEndp := q.field 16 16 w.noEndp, resent := q.field 32 16 w.resent })
  | .wing k .faultCnt =>
    s.updWing k (fun w =>
      { w with cfabRetry := q.field 0 16 w.cfabRetry, snpRetry := q.field 16 16 w.snpRetry, ignored := q.field 56 8 w.ignored })
  | .wing k (.sliceEcc i) =>
    let q1 := if s.sliceReader a (16 * k.val + i.val) then q else { q with lo := false, hi := false }
    s.updSlice (16 * k.val + i.val) (fun x =>
      { x with corrected := q1.field 0 16 x.corrected, transient := q1.field 16 16 x.transient, poisoned := q1.field 32 16 x.poisoned })
  | .wing k (.sliceCnt i) =>
    let q1 := if s.sliceReader a (16 * k.val + i.val) then q else { q with lo := false, hi := false }
    s.updSlice (16 * k.val + i.val) (fun x =>
      { x with offerDecl := q1.field 0 16 x.offerDecl, dirRecalls := q1.field 16 16 x.dirRecalls, timeouts := q1.field 32 16 x.timeouts })
  | .mc m .ecc =>
    s.updMc m (fun c =>
      { c with corrected := q.field 0 16 c.corrected, transient := q.field 16 16 c.transient, poisoned := q.field 32 16 c.poisoned,
               integrity := q.field 48 16 c.integrity })
  | .mc m .cal => s.updMc m (fun c => { c with forced := q.field 16 16 c.forced, calDone := q.field 32 16 c.calDone })
  | .mc m .add =>
    s.updMc m (fun c => { c with applied := q.field 0 16 c.applied, merged := q.field 16 16 c.merged, poisDrop := q.field 32 16 c.poisDrop })
  | .core c .status => s.updCore c (fun x => { x with staleCmds := q.field 48 16 x.staleCmds })
  | .core c .ecc => s.updCore c (fun x => { x with corrected := q.field 0 16 x.corrected, uncorr := q.field 16 16 x.uncorr })
  | .room x .ecc =>
    s.updRoom x (fun y =>
      { y with corrected := q.field 0 16 y.corrected, transient := q.field 16 16 y.transient, poisoned := q.field 32 16 y.poisoned })
  | .room x .meshCnt => s.updRoom x (fun y => { y with discard := q.field 0 16 y.discard, laneRetry := q.field 16 16 y.laneRetry })
  | .graph n .mail => s.updGsuite n (fun g => { g with accepted := q.field 16 16 g.accepted, discarded := q.field 32 16 g.discarded })
  | .graph n .count => s.updGsuite n (fun g => { g with sinkLost := q.field 40 16 g.sinkLost })
  | .hearth .callStat =>
    (match callSuite a with
     | none => s
     | some n => s.updSuite n (fun x => { x with refused := q.field 16 16 x.refused }))
  | .hearth .rasCnt => s.updHearth (fun h => { h with rasLost := q.field 16 16 h.rasLost })
  | .byPort i .cnt => s.updByPort i (fun p => { p with link := q.linkCnt p.link })
  | .byPort i .msgCnt => s.updByPort i (fun p => { p with discarded := q.field 0 16 p.discarded, staleGen := q.field 16 16 p.staleGen })
  | .byPort i .winCnt =>
    s.updByPort i (fun p => { p with winRef := q.field 0 16 p.winRef, winPois := q.field 16 16 p.winPois, winTime := q.field 32 16 p.winTime })
  | .bzPort i .cnt => s.updBzPort i (fun p => { p with link := q.linkCnt p.link })
  | .bzPort i .msgCnt => s.updBzPort i (fun p => { p with discarded := q.field 0 16 p.discarded, authFail := q.field 16 16 p.authFail })
  | .power .capEvt => { s with power := { s.power with forced := q.field 16 16 s.power.forced } }
  | _ => s

/-! ## The read -/

/-- The form of an access (R8): the halves it covers, or none where it is refused. -/
def accessForm (addr size : Nat) : Option (Bool × Bool) :=
  if size = 8 && addr % 8 = 0 then some (true, true)
  else if size = 4 && addr % 8 = 0 then some (true, false)
  else if size = 4 && addr % 8 = 4 then some (false, true)
  else none

/-- The interrupt files' own rule: aligned 32-bit accesses. -/
def imsicForm (addr size : Nat) : Bool := size = 4 && addr % 4 = 0

/-- The endpoint that serves a register: that of the unit its block belongs to (log 187). -/
def State.regEndpoint (s : State) (r : Reg) : Endpoint :=
  match r with
  | .wing k .stamp => .dispatcher k
  | .wing k _ => .cellar k
  | .mc m _ => ctlEndpoint m
  | .core c _ => .core c
  | .room x _ => .hall x
  | .parlour n _ => .parlour n
  | .graph n _ => .dispatcher (s.gsuite n).leadWing
  | .region _ _ => .hearth
  | .band _ => .hearth
  | .hearth _ => .hearth
  | .byPort i _ => .porch (porchOf (.by i))
  | .cpy e _ => .porch (enginePorch e)
  | .bzPort i _ => .porch (porchOf (.bz i))
  | .cuGo n => .porch n
  | .cuStat n _ => .porch n
  | .sess n _ _ => .porch n
  | .power _ => .power

/-- A read of the control space by an agent at an endpoint: refused, or its value, with what it does to RC fields. A read of
an interrupt file returns 0. -/
def State.accessRead (s : State) (reader : Endpoint) (a : Agent) (addr size added : Nat) : State :=
  if (imsicFile addr).isSome then
    if a ≠ .bmc && imsicForm addr size then { s with lastOk := true, lastRead := 0 } else s.refusedAccess
  else
    match accessForm addr size, regOf (addr / 8 * 8) with
    | some (lo, hi), some r =>
      let target := if a = .bmc then reader else s.regEndpoint r
      if !s.readable a r || (a = .bmc && size ≠ 8) then
        s.ctlExchange reader target (fun t => (t.regCount a r ⟨false, false, added⟩).refusedAccess)
      else
        let t := s.ctlAsk reader target
        let n := t.regValue a r
        let v := if lo && hi then n else if lo then n % 2 ^ 32 else bitsOf n 32 32
        { (t.regCount a r ⟨lo, hi, added⟩).ctlAsk target reader with lastOk := true, lastRead := BitVec.ofNat 64 v }
    | _, _ => s.refusedAccess

/-- RC_FIELD_READ: a read of a control register. `added` is what the hardware adds to the register's RC fields in the same cycle:
the read returns the value before it, and the field then holds only that (R11). -/
def execRcFieldRead (agent : Agent) (addr : PA) (size : Nat) (added : W64) (s : State) : Out :=
  if !s.on then .next s else .next (s.accessRead (agentEndpoint agent) agent addr.toNat size added.toNat)

end Sys2Proof.Machine
end

