-- ==== Sys2Proof/Machine/RegWrite.lean ====
section
/-! DEFINITION. Writes of control registers: who may write, and what each register does with a value (R8 to R11). -/

namespace Sys2Proof.Machine

/-! ## Writers -/

/-- Whether an agent may write a register. -/
def State.writable (s : State) (a : Agent) (r : Reg) : Bool :=
  let top := suite0OrHearth a
  let suite := match a with | .suite _ => true | _ => false
  let hearth := decide (a = .hearth)
  if a = .bmc then s.pins.modOn && r.overI3c true
  else
    match r with
    | .wing k (.sliceCtl i) => s.sliceWriter a (16 * k.val + i.val)
    | .wing _ .mntGo => suite || hearth
    | .wing _ .faultCtl => top
    | .wing _ .fenceCmd => top
    | .wing _ _ => false
    | .mc _ .cal => top
    | .mc _ .calMsi => top
    | .mc _ .wipe => hearth
    | .mc _ .slotCtl => hearth
    | .mc _ (.slotMap _) => hearth
    | .mc _ (.credMap _) => hearth
    | .mc _ _ => false
    | .core c .groupCmd => s.roomWriter a c.room
    | .core c .faultCtl => s.roomWriter a c.room
    | .core c .roc => s.roomWriter a c.room
    | .core _ _ => false
    | .room _ .rect => hearth
    | .room q .pwr => s.roomWriter a q
    | .room _ _ => false
    | .parlour n (.mtimecmp _) => (match a with | .mmode h => parlourOf h = n | _ => false)
    | .parlour _ _ => false
    | .graph _ .mail => false
    | .graph _ .count => false
    | .graph n _ => graphWriter a n
    | .region _ _ => hearth
    | .band _ => hearth
    | .hearth .mode => top
    | .hearth .callGo => true
    | .hearth .mgmtCmd => (s.mgmtWriter a).isSome
    | .hearth .rasRing => top
    | .hearth .rasPtr => top
    | .hearth _ => false
    | .byPort _ .ctl => top
    | .byPort i .winCtl =>
      hearth || (bitOf (s.byPort i).winCtl.toNat 16 && agentIs a (BitVec.ofNat 8 (bitsOf (s.byPort i).winCtl.toNat 8 8)))
    | .byPort _ _ => false
    | .cpy _ .cur => false
    | .cpy _ .own => hearth
    | .cpy e _ => s.engineWriter a e
    | .bzPort _ .ctl => top
    | .bzPort _ _ => false
    | .cuGo _ => suite || hearth
    | .cuStat _ _ => false
    | .sess _ _ _ => hearth
    | .power .own => hearth
    | .power .jobCtl => (s.jobWriter a).isSome
    | .power x =>
      (hearth || agentIs a s.power.owner)
        && (match x with
            | .ctl => true
            | .capModule => true
            | .cap _ => true
            | .capStep _ => true
            | .capEvt => true
            | .capMsi => true
            | .ref _ => true
            | _ => false)

/-! ## Values -/

/-- A write: the halves it writes, and the value with the halves not written zero. -/
structure RegWrite where
  lo : Bool
  hi : Bool
  v  : Nat

/-- A register's new value where the bits of a mask are its RW fields: the half not written keeps its value (R9). -/
def RegWrite.put (q : RegWrite) (old : W64) (mask : Nat) : W64 :=
  let o := old.toNat
  let lo := if q.lo then q.v % 2 ^ 32 else o % 2 ^ 32
  let hi := if q.hi then q.v / 2 ^ 32 else o / 2 ^ 32
  BitVec.ofNat 64 ((lo + hi * 2 ^ 32) &&& mask)

/-- The RW bits of an MSI register: MSI_EN, ADDR and EIID. -/
def msiMask : Nat := 0x00FFFFFFFFFFF001

/-- UC_SLICE_CTL: the Hearth's SUITE and OWNED first, then ENABLE_REFUSED, then ENABLE (R246, R257). -/
def State.writeSlice (s : State) (slice : Nat) (hearth : Bool) (q : RegWrite) : State :=
  if !q.lo then s
  else
    let x := s.slice slice
    let n := BitVec.ofNat 8 (bitsOf q.v 8 8)
    let owned := bitOf q.v 16
    let s1 := if hearth && (x.suite ≠ n || x.owned ≠ owned) then s.passSlices n owned [slice] else s
    let s2 := if bitOf q.v 2 then s1.updSlice slice (fun y => { y with refused := false }) else s1
    if bitOf q.v 0 then s2.updSlice slice SliceReg.turnOn else s2.turnOff slice

/-- CORE_ROC_CTL: ENABLE is judged on CLEAN_STATE as it stood before the write's own INVAL (R247). -/
def State.writeRoc (s : State) (c : CoreId) (v : Nat) : State :=
  let s1 := if bitOf v 2 then s.updCore c (fun x => { x with rocRefused := false }) else s
  let s2 := if bitOf v 0 then s1.updCore c Core.rocOn else s1.updCore c (fun x => { x with rocEnable := false })
  if bitOf v 3 then s2.rocInvalidate c else s2

/-- LPD_WIPE and DDR_WIPE: FULL of a unit in service, PAGE; other commands are ignored (R307, R308). -/
def Mc.wipeCmd (c : Mc) (v : Nat) : Mc :=
  match bitsOf v 0 2 with
  | 1 => if c.inService then c.startFull else c
  | 2 => c.startPage (bitsOf v 5 27)
  | _ => c

/-- The bits of a slot map that hold something. -/
def slotMask : Nat := 0x01FF01FF01FF01FF

/-- Controller registers. -/
def State.writeMc (s : State) (m : Ctl) (r : McReg) (q : RegWrite) : State :=
  match r with
  | .cal => s.updMc m (fun c => ({ c with calMode := bitOf q.v 0 } : Mc).go m (BitVec.ofNat 4 (bitsOf q.v 8 4)))
  | .calMsi => s.updMc m (fun c => { c with calMsi := q.put c.calMsi msiMask })
  | .wipe => s.updMc m (fun c => c.wipeCmd q.v)
  | .slotCtl => s.updMc m (fun c => { c with nextMap := some (if q.lo then bitOf q.v 0 else c.mapWritten.1, c.mapWritten.2) })
  | .slotMap i =>
    s.updMc m (fun c =>
      let w := q.put (Table.get 0 c.mapWritten.2 i.val) slotMask
      { c with nextMap := some (c.mapWritten.1, Table.set c.mapWritten.2 i.val w) })
  | .credMap i => s.updMc m (fun c => { c with credMap := Table.set c.credMap i.val (q.put (Table.get 0 c.credMap i.val) (2 ^ 64 - 1)) })
  | _ => s

/-- CORE_GROUP_CMD: REPLAY or DISCARD; any other command is ignored (R82). -/
def State.groupCmd (s : State) (c : CoreId) (v : Nat) : State :=
  match bitsOf v 5 3 with
  | 1 => s.replayCmd c (BitVec.ofNat 64 v)
  | 2 => s.discardCmd c (BitVec.ofNat 64 v)
  | _ => s

/-- ROOM_PWR: STEP_REQ is taken into 4 to 32 (R406). -/
def pwrClamped (v : W64) : W64 := BitVec.ofNat 64 (clamp 4 32 (bitsOf v.toNat 0 6) + bitsOf v.toNat 6 1 * 64)

/-- GRAPH_CTX: BASE is not written while any context is resident (R223). -/
def GSuite.writeCtx (g : GSuite) (q : RegWrite) : GSuite :=
  if g.ctxs ≠ [] then g
  else { g with ctxReg := BitVec.ofNat 64 (bitsOf g.ctxReg.toNat 0 11 + bitsOf (q.put g.ctxReg (2 ^ 64 - 1)).toNat 12 52 * 4096) }

/-- The bits of a ring register: SIZE_LOG2 and BASE. -/
def ringMask : Nat := 0xFFFFFFFFFFFFF01F

/-- Graph-block registers. -/
def State.writeGraph (s : State) (n : BitVec 8) (r : GraphReg) (q : RegWrite) : State :=
  match r with
  | .mode => if q.lo then s.setGraphMode n (bitOf q.v 0) else s
  | .sink => s.updGsuite n (fun g => { g with sink := q.put g.sink ringMask })
  | .sinkPtr => if q.hi then s.updGsuite n (fun g => { g with rd := BitVec.ofNat 32 (q.v / 2 ^ 32) }) else s
  | .ctx => s.updGsuite n (fun g => g.writeCtx q)
  | .mail => s
  | .count => s
  | .xlatCtl => if q.lo then s.updGsuite n (fun g => g.writeWalk (BitVec.ofNat 64 q.v)) else s
  | .xlatVa => s.updGsuite n (fun g => g.writeXva (q.put g.xva (2 ^ 64 - 1)))
  | .xlatPte => s.updGsuite n (fun g => g.writeXpte (BitVec.ofNat 64 q.v))

/-- A map register that the Hearth writes over the round-robin fill of R226 (R257). -/
def Suite.setMap (x : Suite) (key : Nat) (r : RegionReg) (q : RegWrite) : Suite :=
  { x with maps := Table.set x.maps key (q.put (BitVec.ofNat 64 (x.regionValue r)) 0x7F7F7F7F7F7F7F7F) }

/-- A word of a region-table entry or of a map (R229, R257). -/
def Suite.writeRegion (x : Suite) (r : RegionReg) (q : RegWrite) : Suite :=
  match r with
  | .entry e w =>
    let old := Table.get (⟨0, 0, 0, 0⟩ : RegionWords) x.regions e.val
    let new : RegionWords :=
      match w.val with
      | 0 => { old with w0 := q.put old.w0 (2 ^ 64 - 1) }
      | 1 => { old with w1 := q.put old.w1 (2 ^ 27 - 1) }
      | 2 => { old with w2 := q.put old.w2 (2 ^ 20 - 1) }
      | _ => { old with w3 := q.put old.w3 (2 ^ 64 - 1) }
    { x with regions := Table.set x.regions e.val new }
  | .hmap i => x.setMap i.val (.hmap i) q
  | .wmap k hi => x.setMap (16 + 2 * k.val + natOfBool hi) (.wmap k hi) q

/-- HRT_CALL_GO: announces a call in a buffer; with one in flight it is ignored and counted (R375). -/
def Suite.callGo (x : Suite) (v : Nat) : Suite :=
  if x.callBusy then { x with refused := sat16 x.refused 1 }
  else { x with callBusy := true, callBuf := some (BitVec.ofNat 64 (bitsOf v 10 38 * 1024)) }

/-- HRT_MGMT_CMD (R444): commands 3 to 5 act only over I3C. -/
def State.mgmtCmd (s : State) (a : Agent) (v : Nat) : State :=
  let key := BitVec.ofNat 16 (bitsOf v 16 16)
  let fw := fun (f : Hearth → Hearth) => if a = .bmc && !s.hearth.lifeHalt then s.updHearth f else s
  match bitsOf v 0 8, s.mgmtWriter a with
  | 1, some cause => s.resetCmd cause key
  | 2, some _ => s.clearCmd key
  | 3, some _ => fw (fun h => h.openWrite (bitOf v 8))
  | 4, some _ => fw Hearth.closeWrite
  | 5, some _ => fw Hearth.abortWrite
  | _, _ => s

/-- Hearth registers. -/
def State.writeHearth (s : State) (a : Agent) (r : HrtReg) (q : RegWrite) : State :=
  match r with
  | .mode => if q.lo then s.updHearth (fun h => { h with repairMode := bitOf q.v 0 }) else s
  | .callGo => (match callSuite a with | some n => s.updSuite n (fun x => x.callGo q.v) | none => s)
  | .mgmtCmd => s.mgmtCmd a q.v
  | .rasRing => s.updHearth (fun h => { h with ringReg := q.put h.ringReg ringMask })
  | .rasPtr => if q.hi then s.updHearth (fun h => { h with rasRd := BitVec.ofNat 32 (q.v / 2 ^ 32) }) else s
  | _ => s

/-- BYL_WIN_CTL: the Hearth writes SUITE and OWNED, a Window that changes owner starts afresh; the owner writes ENABLE and BASE
(R335). -/
def State.writeWindow (s : State) (i : Fin 4) (hearth : Bool) (q : RegWrite) : State :=
  let old := (s.byPort i).winCtl
  if hearth then
    let new := q.put old 0x1FF00
    let n := BitVec.ofNat 8 (bitsOf new.toNat 8 8)
    if new.toNat = (old.toNat &&& 0x1FF00) then s
    else
      (s.passWindows n true (BitVec.ofNat 8 (2 ^ i.val))).updByPort i (fun p => { p with winCtl := new })
  else s.updByPort i (fun p => { p with winCtl := (q.put old 0xFFFFFFE00001) ||| (old &&& 0x1FF00) })

/-- Engine-page registers. Writes of MODE and of CPY_DESC while the engine is busy are ignored (R331), as is one of CPY_OWN
(R335). -/
def State.writeEngine (s : State) (e : Fin 32) (r : CpyReg) (q : RegWrite) : State :=
  let x := s.engine e
  match r with
  | .status => if bitOf q.v 1 then s.updEngine e (fun y => { y with goRefused := false }) else s
  | .go => s.copyGo e (BitVec.ofNat 64 q.v)
  | .ctl => if x.busy then s else s.updEngine e (fun y => { y with ctl := q.put y.ctl 1 })
  | .msiAddr => s.updEngine e (fun y => { y with msiAddr := q.put y.msiAddr (2 ^ 64 - 1) })
  | .msiData => s.updEngine e (fun y => { y with msiData := q.put y.msiData (2 ^ 35 - 1) })
  | .cur => s
  | .own =>
    let new := q.put x.own 0x1FF
    if x.busy || new = x.own then s else s.updEngine e (fun _ => { CopyEngine.reset with own := new })
  | .desc w => if x.busy then s else s.updEngine e (fun y => { y with descReg := Table.set y.descReg w.val (q.put (Table.get 0 y.descReg w.val) (2 ^ 64 - 1)) })

/-- Power registers. Caps take the nearest value in their range (R399). -/
def State.writePower (s : State) (a : Agent) (r : PwrReg) (q : RegWrite) : State :=
  let num := fun (old lo n : Nat) => bitsOf (q.put (BitVec.ofNat 64 old) (2 ^ 64 - 1)).toNat lo n
  match r with
  | .own => { s with power := { s.power with owner := BitVec.ofNat 8 (num s.power.owner.toNat 0 8) } }
  | .ctl => if q.lo then { s with power := { s.power with capMode := bitOf q.v 0 } } else s
  | .capModule => { s with power := { s.power with capModule := clamp 500 2500 (num s.power.capModule 0 12) } }
  | .cap u =>
    s.updUnit u.val (fun x => { x with cap := if u.val < 8 then clamp 40 300 (num x.cap 0 12) else clamp 30 200 (num x.cap 0 12) })
  | .capStep u => s.updUnit u.val (fun x => { x with capStep := clamp (floorStep u.val) (topStep u.val) (num x.capStep 0 6) })
  | .capEvt =>
    let s1 := (List.range 10).foldl (fun t u => if bitOf q.v u then t.updUnit u (fun x => { x with overBit := false }) else t) s
    if bitOf q.v 10 then { s1 with power := { s1.power with modOver := false } } else s1
  | .capMsi => { s with power := { s.power with capMsi := q.put s.power.capMsi msiMask } }
  | .ref u => s.updUnit u.val (fun x => { x with ref := q.put x.ref 0x3FF })
  | .jobCtl => (match s.jobWriter a with | some n => s.jobWrite n (BitVec.ofNat 64 q.v) | none => s)
  | _ => s

/-- An accepted write of a register. -/
def State.regWrite (s : State) (a : Agent) (r : Reg) (q : RegWrite) : State :=
  match r with
  | .wing k (.sliceCtl i) => s.writeSlice (16 * k.val + i.val) (decide (a = .hearth)) q
  | .wing k .mntGo => s.mntGo k a (BitVec.ofNat 64 q.v)
  | .wing k .faultCtl => if q.lo then s.updWing k (fun w => { w with fenceMode := bitOf q.v 0 }) else s
  | .wing k .fenceCmd => s.fenceCmd k (BitVec.ofNat 64 q.v)
  | .wing _ _ => s
  | .mc m x => s.writeMc m x q
  | .core c .groupCmd => s.groupCmd c q.v
  | .core c .faultCtl => if q.lo then s.updCore c (fun x => { x with replayMode := bitOf q.v 0 }) else s
  | .core c .roc => s.writeRoc c q.v
  | .core _ _ => s
  | .room x .rect =>
    if (List.finRange 6).any (fun c => (s.core ⟨x, c⟩).resident != []) then s
    else s.setRect x (q.put (s.room x).rect roomRectMask)
  | .room x .pwr => s.updRoom x (fun y => { y with pwr := pwrClamped (q.put y.pwr 0x7F) })
  | .room _ _ => s
  | .parlour n (.mtimecmp c) =>
    s.setMtimecmp n c (q.put (Table.get (BitVec.allOnes 64) (s.parlour n).mtimecmp c.val) (2 ^ 64 - 1))
  | .parlour _ _ => s
  | .graph n x => s.writeGraph n x q
  | .region n x => s.updSuite n (fun y => y.writeRegion x q)
  | .band b =>
    s.updHearth (fun h => { h with bands := Table.set h.bands b.val (q.put (Table.get 0 h.bands b.val) (2 ^ 22 - 1)) })
  | .hearth x => s.writeHearth a x q
  | .byPort i .ctl => if bitOf q.v 0 then s.retrainPort (.by i) else s
  | .byPort i .winCtl => s.writeWindow i (decide (a = .hearth)) q
  | .byPort _ _ => s
  | .cpy e x => s.writeEngine e x q
  | .bzPort i .ctl => if bitOf q.v 0 then s.retrainPort (.bz i) else s
  | .bzPort _ _ => s
  | .cuGo n => s.cuGo n (match a with | .suite k => k | _ => 0) (BitVec.ofNat 64 q.v)
  | .cuStat _ _ => s
  | .sess n p hi =>
    s.updSess n p.toNat (fun x =>
      if hi then { x with hi := q.put x.hi 0xFFFFFFE00000 } else { x with lo := q.put x.lo 0xFFFF00000FFFFFFF })
  | .power x => s.writePower a x q

/-! ## The write -/

/-- The Suite tag of an agent's accesses. -/
def agentTag : Agent → BitVec 8
  | .suite n => n
  | .mmode _ => 255
  | .hearth => 0
  | .bmc => 0

/-- A write of the control space by an agent at an endpoint: refused with no effect, or applied field by field. A 32-bit write of a register with
a WO field is refused (R9). -/
def State.accessWrite (s : State) (writer : Endpoint) (a : Agent) (addr size value : Nat) : State :=
  if (imsicFile addr).isSome then
    if a ≠ .bmc && imsicForm addr size then s.acceptedAccess.msiTo (agentTag a) addr (BitVec.ofNat 32 value) else s.refusedAccess
  else
    match accessForm addr size, regOf (addr / 8 * 8) with
    | some (lo, hi), some r =>
      let target := if a = .bmc then writer else s.regEndpoint r
      if !s.writable a r || (r.hasWo && !(lo && hi)) || (a = .bmc && size ≠ 8) then s.ctlExchange writer target State.refusedAccess
      else
        let v := if lo && hi then value % 2 ^ 64 else if lo then value % 2 ^ 32 else value % 2 ^ 32 * 2 ^ 32
        s.ctlExchange writer target (fun t => t.acceptedAccess.regWrite a r ⟨lo, hi, v⟩)
    | _, _ => s.refusedAccess

/-- CONTROL_REGISTER_WRITE: checked for size, alignment and writer, and applied field by field (R8). -/
def execControlRegisterWrite (agent : Agent) (addr : PA) (size : Nat) (value : W64) (s : State) : Out :=
  if !s.on then .next s else .next (s.accessWrite (agentEndpoint agent) agent addr.toNat size value.toNat)

end Sys2Proof.Machine
end

