-- ==== Sys2Proof/Machine/CopyRun.lean ====
section
/-! DEFINITION. Copy engines at work: module sides, host requests and answers, GCM records, atomics (R325 to R330). -/

namespace Sys2Proof.Machine

/-! ## Module sides (R326) -/

/-- A Porch reaches a home slice. -/
def State.porchReaches (s : State) (porch : Fin 2) (slice : Nat) : Bool :=
  !s.homeLost slice && !s.dieCutOff porch.val 1 (cellarOf slice).val

/-- Bytes of one access at a virtual address: up to the end of the line, or one register access in a DEV region. -/
def State.copyUnit (s : State) (suite : BitVec 8) (va n : Nat) : Nat :=
  let dev := match s.regionOf suite va with | some r => r.attr = .dev | none => false
  if !dev then min n (128 - va % 128)
  else if va % 8 = 0 && 8 ≤ n then 8
  else if va % 4 = 0 && 4 ≤ n then 4
  else 1

/-- A range cut into accesses, in ascending order: offset and length of each. -/
def State.copyUnits (s : State) (suite : BitVec 8) (va n : Nat) : Nat → Nat → List (Nat × Nat)
  | 0, _ => []
  | fuel + 1, off =>
    if n ≤ off then [] else
      let u := max 1 (s.copyUnit suite (va + off) (n - off))
      (off, u) :: State.copyUnits s suite va n fuel (off + u)

/-- A report of a failed access of a copy engine. -/
def State.copyReport (s : State) (e : Fin 32) (suite : BitVec 8) (cause : BitVec 8) (outcome : BitVec 4) (pa reason : Nat) : State :=
  s.reportHeld (.porch (enginePorch e))
    { RasRep.zero with
      cause := cause, outcome := outcome, suite := suite, gen := s.genOf suite, addr := BitVec.ofNat 64 pa,
      detail := BitVec.ofNat 32 reason }

/-- Read one access: `none` is FAULT; else the bytes and whether they are poisoned. A refused or lost source counts as poisoned
(R8, R174). -/
def State.copyRead1 (s : State) (e : Fin 32) (suite : BitVec 8) (va n : Nat) : Option (List Byte × Bool) × State :=
  let r := s.locate suite va false false
  match r.1 with
  | none => (none, r.2)
  | some l =>
    if l.region.attr = .red then (none, r.2)
    else if rangeOf l.pa = .control then
      let t := r.2.accessRead (.porch (enginePorch e)) (.suite suite) l.pa n 0
      if t.lastOk then (some (leBytes n t.lastRead.toNat, false), t)
      else (some (List.replicate n 0, true), t.copyReport e suite 14 1 l.pa 3)
    else if !r.2.rangeAllows suite l.pa n true then (none, r.2)
    else if !r.2.porchReaches (enginePorch e) (r.2.homeOf suite l.pa) then
      (some (List.replicate n 0, true), r.2.copyReport e suite 14 1 l.pa 1)
    else
      let d := r.2.sysRead suite l.pa n l.region.attr
      (some d.1, d.2)

/-- Write one access: 0, 1 FAULT, or 4 TIMEOUT where it is dropped (R421). -/
def State.copyWrite1 (s : State) (e : Fin 32) (suite : BitVec 8) (va : Nat) (bs : List Byte) (mark : Bool) : Nat × State :=
  let r := s.locate suite va true false
  match r.1 with
  | none => (1, r.2)
  | some l =>
    if l.region.attr = .red || l.region.attr = .ro || l.region.common then (1, r.2)
    else if rangeOf l.pa = .control then
      let t := if mark then r.2.refusedAccess else r.2.accessWrite (.porch (enginePorch e)) (.suite suite) l.pa bs.length (leNat bs)
      if t.lastOk then (0, t) else (4, t.copyReport e suite 6 2 l.pa 3)
    else if !r.2.rangeAllows suite l.pa bs.length false then (1, r.2)
    else if !r.2.porchReaches (enginePorch e) (r.2.homeOf suite l.pa) then (4, r.2.copyReport e suite 6 2 l.pa 1)
    else if r.2.pkgLost (l.pa / 128) then (4, r.2.copyReport e suite 6 2 l.pa (r.2.lostReason (l.pa / 128)).toNat)
    else (0, r.2.sysWrite suite l.pa bs l.region.attr mark)

/-- What a read of a range gave: the bytes up to a fault, the poisoned parts, and where a fault stopped it. -/
structure CopyData where
  bytes : List Byte
  bad   : List (Nat × Nat)
  fault : Option Nat

/-- Read a range of a module side. -/
def State.copyGather (s : State) (e : Fin 32) (suite : BitVec 8) (va n : Nat) : CopyData × State :=
  (s.copyUnits suite va n n 0).foldl (fun (acc : CopyData × State) u =>
    if acc.1.fault.isSome then acc
    else
      let r := acc.2.copyRead1 e suite (va + u.1) u.2
      match r.1 with
      | none => ({ acc.1 with fault := some u.1 }, r.2)
      | some d => ({ acc.1 with bytes := acc.1.bytes ++ d.1, bad := if d.2 then acc.1.bad ++ [u] else acc.1.bad }, r.2))
    (⟨[], [], none⟩, s)

/-- Write a range of a module side: the offset and status of the first access that failed; nothing after it is written. -/
def State.copyScatter (s : State) (e : Fin 32) (suite : BitVec 8) (va : Nat) (bs : List Byte) (bad : List (Nat × Nat)) :
    Option (Nat × Nat) × State :=
  (s.copyUnits suite va bs.length bs.length 0).foldl (fun (acc : Option (Nat × Nat) × State) u =>
    if acc.1.isSome then acc
    else
      let mark := bad.any (fun b => decide (b.1 < u.1 + u.2) && decide (u.1 < b.1 + b.2))
      let r := acc.2.copyWrite1 e suite (va + u.1) ((bs.drop u.1).take u.2) mark
      (if r.1 = 0 then none else some (u.1, r.1), r.2)) (none, s)

/-! ## Host sides -/

/-- A host range cut into requests: at most 512 B, none across a 4 KiB page (R319): offset and length of each. -/
def hostPieces (ha n : Nat) : Nat → Nat → List (Nat × Nat)
  | 0, _ => []
  | fuel + 1, off =>
    if n ≤ off then [] else
      let u := min (min 512 (n - off)) (4096 - (ha + off) % 4096)
      (off, u) :: hostPieces ha n fuel (off + u)

/-- Send host requests of a kind for a range, whose bytes lie at a position of the transfer; a tag read stands at its record's. -/
def State.hostSendAll (s : State) (e : Fin 32) (kind : BitVec 2) (ha pos n : Nat) (data : List Byte) : State :=
  (hostPieces ha n (n + 1) 0).foldl (fun t u =>
    t.hostSend e
      { tag := 0, kind := kind, pos := if kind = 3 then pos else pos + u.1, len := u.2, addr := BitVec.ofNat 64 (ha + u.1), data := (data.drop u.1).take u.2,
        again := false }) s

/-- Room for a number of requests on the engine's port (R321). -/
def State.hostRoom (s : State) (e : Fin 32) (n : Nat) : Bool := decide (s.hostOpen (s.engine e).port + n ≤ 512)

/-! ## GCM records (R328) -/

/-- The nonce of record r. -/
def recordNonce (x : CopyEngine) (r : Nat) : List Byte :=
  leBytes 1 (if x.srcHost then 2 else 1) ++ leBytes 3 r ++ leBytes 8 (x.word 4)

/-- The additional data of a record of a length. -/
def recordAad (x : CopyEngine) (suite : BitVec 8) (gen : BitVec 16) (n : Nat) : List Byte :=
  leBytes 1 suite.toNat ++ leBytes 2 gen.toNat ++ leBytes 1 (if x.srcHost then 2 else 1) ++ leBytes 4 n ++ leBytes 8 x.len

/-- The transport key of the descriptor's session in its direction. -/
def State.copyKey (s : State) (x : CopyEngine) : Option (BitVec 256) :=
  (s.sessionOf x.session (x.owner.getD 0) (s.genOf (x.owner.getD 0))).map (fun y => if x.srcHost then y.h2mKey else y.m2hKey)

/-- Where a record's tag stands among what has come of it. -/
def tagKey : Nat := 2 ^ 41

/-- The record in hand has come: it is verified, and written only if its tag is right; a failed one is read again once, then
ends the descriptor with AUTH. -/
def State.recordCome (s : State) (e : Fin 32) : State :=
  let x := s.engine e
  let suite := x.owner.getD 0
  let n := min 4096 (x.len - x.next)
  let cipher := (x.gcmBuf.filter (fun p => decide (p.1 < tagKey))).flatMap (fun p => p.2)
  let tag := (x.gcmBuf.filter (fun p => decide (tagKey ≤ p.1))).flatMap (fun p => p.2)
  let clear := match s.copyKey x with
    | none => none
    | some k => gcmOpen k (recordNonce x (x.next / 4096)) (recordAad x suite (s.genOf suite) n) cipher (BitVec.ofNat 128 (leNat tag))
  match clear with
  | some d =>
    let s1 := s.updEngine e (fun y => { y with gcmBuf := [], gcmAgain := false, next := x.next + n })
    let r := s1.copyScatter e suite (x.word 1 + x.next) d []
    match r.1 with
    | none => r.2
    | some f => r.2.updEngine e (fun y => y.failAt (BitVec.ofNat 8 f.2) (x.next + f.1))
  | none =>
    if x.gcmAgain then s.updEngine e (fun y => { y.failAt 2 x.next with gcmBuf := [] })
    else s.updEngine e (fun y => { y with gcmBuf := [], gcmAgain := true })

/-- Send the tags of records already sent, from the first not yet sent (R328). -/
def State.sendTags (s : State) (e : Fin 32) (records : Nat) : State :=
  let x := s.engine e
  let n := x.tags.length
  if n = 0 then s
  else
    (s.updEngine e (fun y => { y with tags := [] })).hostSendAll e 1 (x.word 5 + 16 * records - n) x.len n x.tags

/-- The next record of an outbound transfer: read, sealed and sent; its tag is kept until a request's worth has come. -/
def State.recordOut (s : State) (e : Fin 32) : State :=
  let x := s.engine e
  let suite := x.owner.getD 0
  let n := min 4096 (x.len - x.next)
  let zero := x.op = 2
  let g : CopyData × State :=
    if zero then (⟨List.replicate n 0, [], none⟩, s) else s.copyGather e suite (x.word 0 + x.next) n
  let done := x.next / 4096
  let stop := fun (st : BitVec 8) => ((g.2.updEngine e (fun y => y.failAt st x.next)).sendTags e done)
  match g.1.fault, g.1.bad, g.2.copyKey x with
  | some _, _, _ => stop 1
  | none, _ :: _, _ => stop 3
  | none, [], none => stop 2
  | none, [], some k =>
    let c := gcmSeal k (recordNonce x done) (recordAad x suite (g.2.genOf suite) n) g.1.bytes
    let s1 := g.2.updEngine e (fun y => { y with next := x.next + n, tags := y.tags ++ leBytes 16 c.2.toNat })
    let s2 := s1.hostSendAll e 1 (x.word 1 + x.next) x.next n c.1
    let full := decide (512 ≤ (s2.engine e).tags.length) || decide (x.len ≤ x.next + n)
    if full then s2.sendTags e (done + 1) else s2

/-- The next record of an inbound transfer is asked for, with its tag. -/
def State.recordIn (s : State) (e : Fin 32) : State :=
  let x := s.engine e
  let n := min 4096 (x.len - x.next)
  (s.hostSendAll e 0 (x.word 0 + x.next) x.next n []).hostSendAll e 3 (x.word 5 + 16 * (x.next / 4096)) x.next 16 []

/-! ## The operations -/

/-- The next piece of a transfer: at most 512 B, none across a 4 KiB page of either side. -/
def CopyEngine.piece (x : CopyEngine) : Nat :=
  min (min 512 (x.len - x.next))
    (min (if x.op = 2 then 512 else 4096 - (x.word 0 + x.next) % 4096) (4096 - (x.word 1 + x.next) % 4096))

/-- Bytes from a module side to a module side, or to the host, where they stop at a poisoned line (R329). -/
def State.copyPiece (s : State) (e : Fin 32) : State :=
  let x := s.engine e
  let suite := x.owner.getD 0
  let n := x.piece
  let g : CopyData × State :=
    if x.op = 2 then (⟨List.replicate n 0, [], none⟩, s) else s.copyGather e suite (x.word 0 + x.next) n
  let d := g.1
  let s1 := g.2.updEngine e (fun y => { y with next := x.next + n })
  let faulted := fun (t : State) => match d.fault with
    | some f => t.updEngine e (fun y => y.failAt 1 (x.next + f))
    | none => t
  if x.dstHost then
    match d.bad with
    | b :: _ =>
      let s2 := if b.1 = 0 then s1 else s1.hostSendAll e 1 (x.word 1 + x.next) x.next b.1 (d.bytes.take b.1)
      s2.updEngine e (fun y => y.failAt 3 (x.next + b.1))
    | [] =>
      let k := d.bytes.length
      faulted (if k = 0 then s1 else s1.hostSendAll e 1 (x.word 1 + x.next) x.next k d.bytes)
  else
    let s2 := match d.bad with
      | [] => s1
      | b :: _ =>
        let at_ := x.next + b.1
        s1.updEngine e (fun y =>
          { y with status := if y.status = 0 then 3 else y.status, failPos := some (match y.failPos with | none => at_ | some p => min p at_) })
    let w := s2.copyScatter e suite (x.word 1 + x.next) d.bytes d.bad
    match w.1 with
    | some f => w.2.updEngine e (fun y => y.failAt (BitVec.ofNat 8 f.2) (x.next + f.1))
    | none => faulted w.2

/-- One move of a COPY or ZERO descriptor in hand: the next piece or record. It waits while the port has no room for its requests,
and for the record in hand. -/
def copyMove (op : Nat) (e : Fin 32) (s : State) : Out :=
  let x := s.engine e
  let going := x.busy && x.words.isSome && x.op = op && decide (x.next < x.len) && (x.status = 0 || x.status = 3) && x.owner.isSome
  if !going then .next s
  else
    let s1 := s.updEngine e (fun y => { y with moved := true })
    if x.gcm then
      if x.srcHost then
        if x.open_ ≠ [] || !s.hostRoom e 12 then .next s else .next (s1.recordIn e)
      else if !s.hostRoom e 12 then .next s else .next (s1.recordOut e)
    else if x.srcHost then
      let n := min (min 512 (x.len - x.next)) (4096 - (x.word 0 + x.next) % 4096)
      if !s.hostRoom e 1 then .next s
      else .next ((s1.updEngine e (fun y => { y with next := x.next + n })).hostSendAll e 0 (x.word 0 + x.next) x.next n [])
    else if x.dstHost && !s.hostRoom e 1 then .next s
    else .next (s1.copyPiece e)

/-- COPY: the descriptor's next piece (R325, R326). -/
def execCopy (engine : Fin 32) (s : State) : Out := copyMove 1 engine s

/-- COPY_ZERO: as COPY, with zeros as the source. -/
def execCopyZero (engine : Fin 32) (s : State) : Out := copyMove 2 engine s

/-- An atomic of a copy engine at the word's home (R245): the old value becomes RESULT. A poisoned word is not updated (R419); a
word in the control space is a FAULT (R230). -/
def copyAtomic (op : Nat) (new : CopyEngine → Nat → Nat) (e : Fin 32) (s : State) : Out :=
  let x := s.engine e
  let suite := x.owner.getD 0
  let going := x.busy && x.words.isSome && x.op = op && decide (x.next < x.len) && x.status = 0 && x.owner.isSome
  if !going then .next s
  else
    let s1 := s.updEngine e (fun y => { y with moved := true, next := x.len })
    let stop := fun (t : State) (st : BitVec 8) => t.updEngine e (fun y => y.failAt st 0)
    let r := s1.locate suite (x.word 1) true true
    match r.1 with
    | none => .next (stop r.2 1)
    | some l =>
      let t := r.2
      if l.region.attr = .red || l.region.attr = .ro || l.region.common || !t.rangeAllows suite l.pa 8 false then .next (stop t 1)
      else if !t.porchReaches (enginePorch e) (t.homeOf suite l.pa) then .next (stop (t.copyReport e suite 6 2 l.pa 1) 4)
      else if t.pkgLost (l.pa / 128) then .next (stop (t.copyReport e suite 6 2 l.pa (t.lostReason (l.pa / 128)).toNat) 4)
      else
        let d := t.sysRead suite l.pa 8 l.region.attr
        if d.1.2 then .next (stop d.2 3)
        else
          let old := leNat d.1.1
          let w := d.2.sysWrite suite l.pa (leBytes 8 (new x old)) l.region.attr false
          .next (w.updEngine e (fun y => { y with result := BitVec.ofNat 64 old }))

/-- ATOM_ADD64: SRC is added. -/
def execAtomAdd64 (engine : Fin 32) (s : State) : Out := copyAtomic 3 (fun x old => (old + x.word 0) % 2 ^ 64) engine s

/-- ATOM_CAS64: SRC takes the place of CMP. -/
def execAtomCas64 (engine : Fin 32) (s : State) : Out := copyAtomic 4 (fun x old => if old = x.word 7 then x.word 0 else old) engine s

/-! ## Answers from the host (R322, R329, R334) -/

/-- The engine and request that a tag of a port names. -/
def State.hostReqOf (s : State) (port : Fin 4) (tag : BitVec 16) (read : Bool) : Option (Fin 32 × HostReq) :=
  (List.finRange 32).findSome? (fun e =>
    let x := s.engine e
    if x.words.isSome && x.port = port then
      (x.open_.find? (fun q => q.tag = tag && (q.type = 0x20) = read)).map (fun q => (e, q))
    else none)

/-- A request leaves those outstanding. -/
def CopyEngine.close (x : CopyEngine) (tag : BitVec 16) : CopyEngine := { x with open_ := x.open_.filter (fun q => q.tag ≠ tag) }

/-- Where a failure of a request stands in the transfer: of an inbound record nothing is written, so at its start. -/
def CopyEngine.failPosOf (x : CopyEngine) (q : HostReq) : Nat := if x.gcm && x.srcHost then min q.pos x.next else q.pos

/-- An error answer: the request is reissued once, then ends the descriptor with HOST_ERR. -/
def State.hostError (s : State) (e : Fin 32) (q : HostReq) : State :=
  let s1 := s.updEngine e (fun x => x.close q.tag)
  if !q.again then s1.hostSend e { q with again := true } else s1.updEngine e (fun x => x.failAt 7 (x.failPosOf q))

/-- Once nothing is outstanding, a record that has come is taken, or dropped where the descriptor has failed. -/
def State.recordSettle (s : State) (e : Fin 32) : State :=
  let x := s.engine e
  if x.open_ ≠ [] || !x.gcm || !x.srcHost then s
  else if x.status ≠ 0 then s.updEngine e (fun y => { y with gcmBuf := [] })
  else if x.gcmBuf = [] then s
  else s.recordCome e

/-- Read data takes its place: in the module, or in the record in hand. Data past a failure is dropped. -/
def State.hostData (s : State) (e : Fin 32) (q : HostReq) (data : List Byte) : State :=
  let s1 := s.updEngine e (fun x => x.close q.tag)
  let x := s1.engine e
  if x.gcm then
    let key := if q.kind = 3 then tagKey + (q.addr.toNat - (x.word 5 + 16 * (q.pos / 4096))) else q.pos
    (s1.updEngine e (fun y => { y with gcmBuf := Table.set y.gcmBuf key data })).recordSettle e
  else if (match x.failPos with | some p => decide (p ≤ q.pos) | none => false) then s1
  else
    let w := s1.copyScatter e (x.owner.getD 0) (x.word 1 + q.pos) data []
    match w.1 with
    | none => w.2
    | some f => w.2.updEngine e (fun y => y.failAt (BitVec.ofNat 8 f.2) (q.pos + f.1))

/-- Units of 16 B that a number of bytes fills. -/
def unitBytes (n : Nat) : Nat := (n + 15) / 16 * 16

/-- DMA_RDATA: an answer with an old generation, or a tag no longer outstanding, is discarded and counted (R334). -/
def execDmaRdata (port : Fin 4) (hdr : BeyfyHdr) (data : List Byte) (s : State) : Out :=
  let n := hdr.count.toNat
  if (s.byPort port).link.state ≠ .active then .next s
  else if !(hdr.status ≠ 0 && hdr.len = 0 && s.msgFormOk port hdr 0x21 0 (some 512) false)
      && !(data.length = unitBytes n && s.msgFormOk port hdr 0x21 (unitBytes n) (some 512) false) then .next (s.discardMsg port)
  else if !s.current hdr.suite hdr.gen then .next (s.staleGen port)
  else
    match s.hostReqOf port hdr.tag true with
    | none => .next (s.staleGen port)
    | some (e, q) =>
      if (s.engine e).owner ≠ some hdr.suite then .next (s.staleGen port)
      else if hdr.status ≠ 0 then .next ((s.hostError e q).recordSettle e)
      else if n ≠ q.len then .next (s.discardMsg port)
      else .next (s.hostData e q (data.take n))

/-- DMA_WACK: the write is visible in host memory (R322). -/
def execDmaWack (port : Fin 4) (hdr : BeyfyHdr) (s : State) : Out :=
  if (s.byPort port).link.state ≠ .active then .next s
  else if !s.msgFormOk port hdr 0x23 0 none false then .next (s.discardMsg port)
  else if !s.current hdr.suite hdr.gen then .next (s.staleGen port)
  else
    match s.hostReqOf port hdr.tag false with
    | none => .next (s.staleGen port)
    | some (e, q) =>
      if (s.engine e).owner ≠ some hdr.suite then .next (s.staleGen port)
      else if hdr.status ≠ 0 then .next (s.hostError e q)
      else .next (s.updEngine e (fun x => x.close hdr.tag))

/-- COPY_HOST_TIMEOUT: the request is given up, and the descriptor ends with TIMEOUT. -/
def execCopyHostTimeout (engine : Fin 32) (tag : BitVec 16) (s : State) : Out :=
  match (s.engine engine).open_.find? (fun q => q.tag = tag) with
  | none => .next s
  | some q => .next ((s.updEngine engine (fun x => (x.close tag).failAt 4 (x.failPosOf q))).recordSettle engine)

end Sys2Proof.Machine
end

