-- ==== Sys2Proof/Machine/HomeRow.lean ====
section
/-! DEFINITION. HOME_REQUEST: requests taken by homes and by the targets of the control space (R159, R233, R269); and the host's
Window accesses (R332 to R334). -/

namespace Sys2Proof.Machine

/-! ## Control-space targets (R8, R12) -/

/-- The agent of a request to the control space: M-mode of a hart (R282), else its Suite. -/
def Req.agent (r : Req) : Agent :=
  match r.owner with
  | .hart h => if r.mmode then .mmode h else .suite r.suite
  | _ => .suite r.suite

/-- A control register or an interrupt file takes a request. A refusal is the hart's access fault, or a failure after issue of any
other requester (R8, R421). -/
def State.controlServe (s : State) (k : Nat) (r : Req) : State :=
  let refuse := fun (t : State) => match r.owner with
    | .hart _ => t.hartRefused k
    | _ => t.refuse k 3 0
  match r.kind with
  | .read =>
    let t := s.accessRead r.owner.endpoint r.agent r.addr r.size 0
    if !t.lastOk then refuse t
    else t.answerRead k r 0 (List.replicate (r.addr % 128) 0 ++ leBytes r.size t.lastRead.toNat) false
  | .write =>
    let t := if r.mark then s.refusedAccess else s.accessWrite r.owner.endpoint r.agent r.addr r.size (leNat r.data)
    if (Table.find t.reqs k).isNone then t else if !t.lastOk then refuse t else t.wroteReq k r
  | _ => refuse s

/-- HOME_REQUEST: a request to external memory is taken at its home's serialising point (R233), one to the control space at its
target's; requests keep the orders of R146, R159, R173, R269 and R333. -/
def execHomeRequest (req : Nat) (ecc : Ecc) (s : State) : Out :=
  match Table.find s.reqs req with
  | none => .next s
  | some r =>
    if r.par ≠ .none || !r.waiting || r.room.isSome || r.router.isSome || !s.mayServe req r then .next s
    else if rangeOf r.addr = .control then .next (s.controlServe req r)
    else .next (s.homeTake req r ecc)

/-! ## The Window (R332, R333) -/

/-- The Suite that owns a port's Window. -/
def ByPort.winOwner (p : ByPort) : Option (BitVec 8) :=
  if bitOf p.winCtl.toNat 16 then some (BitVec.ofNat 8 (bitsOf p.winCtl.toNat 8 8)) else none

/-- The address a Window access reaches; `none` where it is refused: ENABLE 0, another Suite's header, an offset outside the Window,
no translation, a region that is not HOST_SHARED, a RED region, or a write into an RO or COMMON one. -/
def State.winTarget (s : State) (port : Fin 4) (hdr : BeyfyHdr) (write : Bool) : Option Located × State :=
  let p := s.byPort port
  let va := bitsOf p.winCtl.toNat 21 27 * 2 ^ 21 + hdr.addr.toNat
  if !bitOf p.winCtl.toNat 0 || p.winOwner ≠ some hdr.suite || decide (2 ^ 28 < hdr.addr.toNat + hdr.count.toNat) then (none, s)
  else
    let r := s.locate hdr.suite va write false
    match r.1 with
    | none => (none, r.2)
    | some l =>
      let g := l.region
      if !g.hostShared || g.attr = .red || (write && (g.attr = .ro || g.common)) then (none, r.2) else (some l, r.2)

/-- The request that a Window access becomes, under the owner's tag. -/
def State.winReq (s : State) (port : Fin 4) (hdr : BeyfyHdr) (l : Located) (k : ReqKind) (data : List Byte) : State :=
  let r := Req.blank (.window port hdr.tag) k hdr.suite hdr.gen
  s.addReqs [{ r with addr := l.pa, va := BitVec.ofNat 64 l.pa, size := hdr.count.toNat, attr := l.region.attr, data := data }]

/-- A Window access lies within one 128 B line (R319). -/
def winLineOk (hdr : BeyfyHdr) : Bool := decide (hdr.addr.toNat % 128 + hdr.count.toNat ≤ 128)

/-- WIN_RD: refused reads are answered at once, with zeros; the others go to their home and are answered from there. At most 256
are outstanding (R321). -/
def execWinRd (port : Fin 4) (hdr : BeyfyHdr) (s : State) : Out :=
  if (s.byPort port).link.state ≠ .active then .next s
  else if !s.msgFormOk port hdr 0x10 0 (some 128) true || !winLineOk hdr then .next (s.discardMsg port)
  else if !s.current hdr.suite hdr.gen then .next (s.staleGen port)
  else
    let r := s.winTarget port hdr false
    match r.1 with
    | none =>
      let s1 := r.2.updByPort port (fun p => { p with winRef := sat16 p.winRef 1 })
      .next (s1.beyfySend port (beyfyAnswer 0x12 hdr 1 (List.replicate hdr.count.toNat 0)))
    | some l =>
      let s1 := r.2.updByPort port (fun p => { p with hostTags := p.hostTags ++ [hdr.tag] })
      .next (s1.winReq port hdr l .read [])

/-- WIN_WR: refused writes are counted and have no effect; the others go to their home in the order received. -/
def execWinWr (port : Fin 4) (hdr : BeyfyHdr) (data : List Byte) (s : State) : Out :=
  let n := hdr.count.toNat
  if (s.byPort port).link.state ≠ .active then .next s
  else if data.length ≠ unitBytes n || !s.msgFormOk port hdr 0x11 (unitBytes n) (some 128) true || !winLineOk hdr then
    .next (s.discardMsg port)
  else if !s.current hdr.suite hdr.gen then .next (s.staleGen port)
  else
    let r := s.winTarget port hdr true
    match r.1 with
    | none => .next (r.2.updByPort port (fun p => { p with winRef := sat16 p.winRef 1 }))
    | some l => .next (r.2.winReq port hdr l .write (data.take n))

/-- WINDOW_TIMEOUT: a read not answered in time is answered TIMEOUT, a write is dropped; both are counted (R333, R421). -/
def execWindowTimeout (port : Fin 4) (write : Bool) (tag : BitVec 16) (s : State) : Out :=
  match s.reqs.find? (fun e => e.2.owner = .window port tag && (e.2.kind = .write) = write) with
  | none => .next s
  | some (k, r) => if write then .next (s.dropWrite k 0 0) else .next (s.winAnswer k r 3 [])

end Sys2Proof.Machine
end

