-- ==== Sys2Proof/Machine/Dispatch.lean ====
section
/-! DEFINITION. The meaning of each command: one direct call per constructor of `Instr`. -/

namespace Sys2Proof.Machine

def exec (i : Instr) (s : State) : Host.Outcome State Fault Refusal :=
  match i with
  | .powerUp vinMv en ref0 ref1 => Sys2Proof.Machine.execPowerUp vinMv en ref0 ref1 s
  | .inrushComplete => Sys2Proof.Machine.execInrushComplete s
  | .enableDeassert => Sys2Proof.Machine.execEnableDeassert s
  | .powerLoss => Sys2Proof.Machine.execPowerLoss s
  | .refclkLoss porch => Sys2Proof.Machine.execRefclkLoss porch s
  | .brownOut => Sys2Proof.Machine.execBrownOut s
  | .resetInput widthNs => Sys2Proof.Machine.execResetInput widthNs s
  | .moduleReset agent key => Sys2Proof.Machine.execModuleReset agent key s
  | .hearthRomStart entropyOk => Sys2Proof.Machine.execHearthRomStart entropyOk s
  | .dieIdentityCheck straps => Sys2Proof.Machine.execDieIdentityCheck straps s
  | .firmwareVerify a b => Sys2Proof.Machine.execFirmwareVerify a b s
  | .linkTrainingBoot corridors parlourLinks porchLinks stairs => Sys2Proof.Machine.execLinkTrainingBoot corridors parlourLinks porchLinks stairs s
  | .memoryTraining lpdRates spds ddrTrained => Sys2Proof.Machine.execMemoryTraining lpdRates spds ddrTrained s
  | .startupWipe => Sys2Proof.Machine.execStartupWipe s
  | .startupMonitorLoad a b monitorDigest => Sys2Proof.Machine.execStartupMonitorLoad a b monitorDigest s
  | .startupReady => Sys2Proof.Machine.execStartupReady s
  | .startupStepOverrun fault => Sys2Proof.Machine.execStartupStepOverrun fault s
  | .controlRegisterWrite agent addr size value => Sys2Proof.Machine.execControlRegisterWrite agent addr size value s
  | .rcFieldRead agent addr size added => Sys2Proof.Machine.execRcFieldRead agent addr size added s
  | .heartbeat source => Sys2Proof.Machine.execHeartbeat source s
  | .bellwireMessageReceive index crc => Sys2Proof.Machine.execBellwireMessageReceive index crc s
  | .wingStampRead reader agent wing => Sys2Proof.Machine.execWingStampRead reader agent wing s
  | .mtimeTick parlour => Sys2Proof.Machine.execMtimeTick parlour s
  | .mtimecmpWrite agent parlour core value => Sys2Proof.Machine.execMtimecmpWrite agent parlour core value s
  | .launch c => Sys2Proof.Machine.execLaunch c s
  | .nop g w l => Sys2Proof.Machine.execNop g w l s
  | .br g w l => Sys2Proof.Machine.execBr g w l s
  | .brany g w l => Sys2Proof.Machine.execBrany g w l s
  | .brnone g w l => Sys2Proof.Machine.execBrnone g w l s
  | .brd g w l => Sys2Proof.Machine.execBrd g w l s
  | .join g w l => Sys2Proof.Machine.execJoin g w l s
  | .jmpr g w l => Sys2Proof.Machine.execJmpr g w l s
  | .call g w l => Sys2Proof.Machine.execCall g w l s
  | .exit g w l => Sys2Proof.Machine.execExit g w l s
  | .trap g w l => Sys2Proof.Machine.execTrap g w l s
  | .mxbegin g w l => Sys2Proof.Machine.execMxbegin g w l s
  | .mxend g w l => Sys2Proof.Machine.execMxend g w l s
  | .efence g w l => Sys2Proof.Machine.execEfence g w l s
  | .efenceComplete g => Sys2Proof.Machine.execEfenceComplete g s
  | .rbar g w l => Sys2Proof.Machine.execRbar g w l s
  | .rbarArrival g => Sys2Proof.Machine.execRbarArrival g s
  | .spawn g w l => Sys2Proof.Machine.execSpawn g w l s
  | .spawnAnswer c => Sys2Proof.Machine.execSpawnAnswer c s
  | .twait g w l => Sys2Proof.Machine.execTwait g w l s
  | .gsr g w l => Sys2Proof.Machine.execGsr g w l s
  | .sadd g w l => Sys2Proof.Machine.execSadd g w l s
  | .ssub g w l => Sys2Proof.Machine.execSsub g w l s
  | .smul g w l => Sys2Proof.Machine.execSmul g w l s
  | .sand g w l => Sys2Proof.Machine.execSand g w l s
  | .sor g w l => Sys2Proof.Machine.execSor g w l s
  | .sxor g w l => Sys2Proof.Machine.execSxor g w l s
  | .sshl g w l => Sys2Proof.Machine.execSshl g w l s
  | .sshr g w l => Sys2Proof.Machine.execSshr g w l s
  | .ssra g w l => Sys2Proof.Machine.execSsra g w l s
  | .smin g w l => Sys2Proof.Machine.execSmin g w l s
  | .smax g w l => Sys2Proof.Machine.execSmax g w l s
  | .sminu g w l => Sys2Proof.Machine.execSminu g w l s
  | .smaxu g w l => Sys2Proof.Machine.execSmaxu g w l s
  | .sslt g w l => Sys2Proof.Machine.execSslt g w l s
  | .ssltu g w l => Sys2Proof.Machine.execSsltu g w l s
  | .saddImm g w l => Sys2Proof.Machine.execSaddImm g w l s
  | .ssubImm g w l => Sys2Proof.Machine.execSsubImm g w l s
  | .smulImm g w l => Sys2Proof.Machine.execSmulImm g w l s
  | .sandImm g w l => Sys2Proof.Machine.execSandImm g w l s
  | .sorImm g w l => Sys2Proof.Machine.execSorImm g w l s
  | .sxorImm g w l => Sys2Proof.Machine.execSxorImm g w l s
  | .sshlImm g w l => Sys2Proof.Machine.execSshlImm g w l s
  | .sshrImm g w l => Sys2Proof.Machine.execSshrImm g w l s
  | .ssraImm g w l => Sys2Proof.Machine.execSsraImm g w l s
  | .sminImm g w l => Sys2Proof.Machine.execSminImm g w l s
  | .smaxImm g w l => Sys2Proof.Machine.execSmaxImm g w l s
  | .sminuImm g w l => Sys2Proof.Machine.execSminuImm g w l s
  | .smaxuImm g w l => Sys2Proof.Machine.execSmaxuImm g w l s
  | .ssltImm g w l => Sys2Proof.Machine.execSsltImm g w l s
  | .ssltuImm g w l => Sys2Proof.Machine.execSsltuImm g w l s
  | .sli g w l => Sys2Proof.Machine.execSli g w l s
  | .vadd g w l => Sys2Proof.Machine.execVadd g w l s
  | .vsub g w l => Sys2Proof.Machine.execVsub g w l s
  | .vmul g w l => Sys2Proof.Machine.execVmul g w l s
  | .vfma g w l => Sys2Proof.Machine.execVfma g w l s
  | .vmin g w l => Sys2Proof.Machine.execVmin g w l s
  | .vmax g w l => Sys2Proof.Machine.execVmax g w l s
  | .vand g w l => Sys2Proof.Machine.execVand g w l s
  | .vor g w l => Sys2Proof.Machine.execVor g w l s
  | .vxor g w l => Sys2Proof.Machine.execVxor g w l s
  | .vshl g w l => Sys2Proof.Machine.execVshl g w l s
  | .vshr g w l => Sys2Proof.Machine.execVshr g w l s
  | .vcvt g w l => Sys2Proof.Machine.execVcvt g w l s
  | .vcmp g w l => Sys2Proof.Machine.execVcmp g w l s
  | .vsel g w l => Sys2Proof.Machine.execVsel g w l s
  | .vmov g w l => Sys2Proof.Machine.execVmov g w l s
  | .vshfl g w l => Sys2Proof.Machine.execVshfl g w l s
  | .vsfu g w l => Sys2Proof.Machine.execVsfu g w l s
  | .pand g w l => Sys2Proof.Machine.execPand g w l s
  | .por g w l => Sys2Proof.Machine.execPor g w l s
  | .pxor g w l => Sys2Proof.Machine.execPxor g w l s
  | .pandn g w l => Sys2Proof.Machine.execPandn g w l s
  | .pnot g w l => Sys2Proof.Machine.execPnot g w l s
  | .pfroms g w l => Sys2Proof.Machine.execPfroms g w l s
  | .sfromp g w l => Sys2Proof.Machine.execSfromp g w l s
  | .pcnt g w l => Sys2Proof.Machine.execPcnt g w l s
  | .sld g w l => Sys2Proof.Machine.execSld g w l s
  | .sst g w l => Sys2Proof.Machine.execSst g w l s
  | .acq g w l => Sys2Proof.Machine.execAcq g w l s
  | .acqRo g w l => Sys2Proof.Machine.execAcqRo g w l s
  | .rel g w l => Sys2Proof.Machine.execRel g w l s
  | .relStoreIssue g => Sys2Proof.Machine.execRelStoreIssue g s
  | .vld g w l => Sys2Proof.Machine.execVld g w l s
  | .vst g w l => Sys2Proof.Machine.execVst g w l s
  | .vatom g w l => Sys2Proof.Machine.execVatom g w l s
  | .vredadd g w l => Sys2Proof.Machine.execVredadd g w l s
  | .tld g w l => Sys2Proof.Machine.execTld g w l s
  | .tst g w l => Sys2Proof.Machine.execTst g w l s
  | .mxred g w l => Sys2Proof.Machine.execMxred g w l s
  | .mma g w l => Sys2Proof.Machine.execMma g w l s
  | .mmas g w l => Sys2Proof.Machine.execMmas g w l s
  | .aclr g w l => Sys2Proof.Machine.execAclr g w l s
  | .acvt g w l => Sys2Proof.Machine.execAcvt g w l s
  | .aflg g w l => Sys2Proof.Machine.execAflg g w l s
  | .tmov g w l => Sys2Proof.Machine.execTmov g w l s
  | .dmaq g w l => Sys2Proof.Machine.execDmaq g w l s
  | .loadDataReturn g op => Sys2Proof.Machine.execLoadDataReturn g op s
  | .tokenSignal g op => Sys2Proof.Machine.execTokenSignal g op s
  | .groupPark g => Sys2Proof.Machine.execGroupPark g s
  | .replay agent c value => Sys2Proof.Machine.execReplay agent c value s
  | .discard agent c value => Sys2Proof.Machine.execDiscard agent c value s
  | .automaticReplay c => Sys2Proof.Machine.execAutomaticReplay c s
  | .registerFileUe g idleFill => Sys2Proof.Machine.execRegisterFileUe g idleFill s
  | .groupFree g => Sys2Proof.Machine.execGroupFree g s
  | .roomMemoryAccess r req ecc => Sys2Proof.Machine.execRoomMemoryAccess r req ecc s
  | .roomRectWrite agent r value => Sys2Proof.Machine.execRoomRectWrite agent r value s
  | .roomWipeComplete r => Sys2Proof.Machine.execRoomWipeComplete r s
  | .dmaReadReturn c req => Sys2Proof.Machine.execDmaReadReturn c req s
  | .dmaWriteAck c req => Sys2Proof.Machine.execDmaWriteAck c req s
  | .dmaRequestTimeout c req => Sys2Proof.Machine.execDmaRequestTimeout c req s
  | .meshPacketForward req => Sys2Proof.Machine.execMeshPacketForward req s
  | .roomLaneBeat r dir crc => Sys2Proof.Machine.execRoomLaneBeat r dir crc s
  | .routerFailure r => Sys2Proof.Machine.execRouterFailure r s
  | .mail port hdr msg => Sys2Proof.Machine.execMail port hdr msg s
  | .mailCredit suite session => Sys2Proof.Machine.execMailCredit suite session s
  | .submit suite => Sys2Proof.Machine.execSubmit suite s
  | .token suite => Sys2Proof.Machine.execToken suite s
  | .credit suite => Sys2Proof.Machine.execCredit suite s
  | .admitCtxs suite => Sys2Proof.Machine.execAdmitCtxs suite s
  | .retire suite => Sys2Proof.Machine.execRetire suite s
  | .retireComplete suite => Sys2Proof.Machine.execRetireComplete suite s
  | .endGraph suite => Sys2Proof.Machine.execEndGraph suite s
  | .resubmit suite => Sys2Proof.Machine.execResubmit suite s
  | .order suite => Sys2Proof.Machine.execOrder suite s
  | .firing wing => Sys2Proof.Machine.execFiring wing s
  | .launchRefuse wing => Sys2Proof.Machine.execLaunchRefuse wing s
  | .freed wing => Sys2Proof.Machine.execFreed wing s
  | .done wing => Sys2Proof.Machine.execDone wing s
  | .spillComplete suite c => Sys2Proof.Machine.execSpillComplete suite c s
  | .tokenAdd wing => Sys2Proof.Machine.execTokenAdd wing s
  | .creditReturn wing => Sys2Proof.Machine.execCreditReturn wing s
  | .graphStall suite => Sys2Proof.Machine.execGraphStall suite s
  | .streamChunkIssue wing stream => Sys2Proof.Machine.execStreamChunkIssue wing stream s
  | .streamChunkDelivered wing stream member => Sys2Proof.Machine.execStreamChunkDelivered wing stream member s
  | .slotDone wing => Sys2Proof.Machine.execSlotDone wing s
  | .pageReinstalledReport r => Sys2Proof.Machine.execPageReinstalledReport r s
  | .eventRecord wing => Sys2Proof.Machine.execEventRecord wing s
  | .sinkQueueDrain wing suite => Sys2Proof.Machine.execSinkQueueDrain wing suite s
  | .graphModeWrite agent suite value => Sys2Proof.Machine.execGraphModeWrite agent suite value s
  | .homeRequest req ecc => Sys2Proof.Machine.execHomeRequest req ecc s
  | .rdS req ecc => Sys2Proof.Machine.execRdS req ecc s
  | .rdX req ecc => Sys2Proof.Machine.execRdX req ecc s
  | .upg req ecc => Sys2Proof.Machine.execUpg req ecc s
  | .wbD parlour tag line => Sys2Proof.Machine.execWbD parlour tag line s
  | .offerC parlour tag line => Sys2Proof.Machine.execOfferC parlour tag line s
  | .snoopAnswer snoop ecc => Sys2Proof.Machine.execSnoopAnswer snoop ecc s
  | .snpSh snoop => Sys2Proof.Machine.execSnpSh snoop s
  | .snpInv snoop => Sys2Proof.Machine.execSnpInv snoop s
  | .memoryFill slice line sector => Sys2Proof.Machine.execMemoryFill slice line sector s
  | .evictionAck slice line => Sys2Proof.Machine.execEvictionAck slice line s
  | .homeResponseTimeout slice line => Sys2Proof.Machine.execHomeResponseTimeout slice line s
  | .redContribution req => Sys2Proof.Machine.execRedContribution req s
  | .adderPartial slice line => Sys2Proof.Machine.execAdderPartial slice line s
  | .adderRmwComplete pkg line ecc => Sys2Proof.Machine.execAdderRmwComplete pkg line ecc s
  | .tallyAdd index => Sys2Proof.Machine.execTallyAdd index s
  | .sliceEnable agent slice => Sys2Proof.Machine.execSliceEnable agent slice s
  | .sliceDisable agent slice => Sys2Proof.Machine.execSliceDisable agent slice s
  | .rocEnable agent c => Sys2Proof.Machine.execRocEnable agent c s
  | .rocInval agent c => Sys2Proof.Machine.execRocInval agent c s
  | .clean wing slot => Sys2Proof.Machine.execClean wing slot s
  | .inval wing slot => Sys2Proof.Machine.execInval wing slot s
  | .cleanInval wing slot => Sys2Proof.Machine.execCleanInval wing slot s
  | .zero wing slot => Sys2Proof.Machine.execZero wing slot s
  | .prefetch wing slot => Sys2Proof.Machine.execPrefetch wing slot s
  | .last wing slot => Sys2Proof.Machine.execLast wing slot s
  | .maintenanceComplete wing slot => Sys2Proof.Machine.execMaintenanceComplete wing slot s
  | .lr h a rd => Sys2Proof.Machine.execLr h a rd s
  | .sc h a rd rs2 spurious => Sys2Proof.Machine.execSc h a rd rs2 spurious s
  | .lrHoldExpiry h => Sys2Proof.Machine.execLrHoldExpiry h s
  | .amo h a op rd rs2 => Sys2Proof.Machine.execAmo h a op rd rs2 s
  | .cboClean h a => Sys2Proof.Machine.execCboClean h a s
  | .cboFlush h a => Sys2Proof.Machine.execCboFlush h a s
  | .cboInval h a => Sys2Proof.Machine.execCboInval h a s
  | .cboZero h a => Sys2Proof.Machine.execCboZero h a s
  | .mxsuiteWrite h mmode value => Sys2Proof.Machine.execMxsuiteWrite h mmode value s
  | .hartDevStoreTimeout h req => Sys2Proof.Machine.execHartDevStoreTimeout h req s
  | .hartDevLoadTimeout h req => Sys2Proof.Machine.execHartDevLoadTimeout h req s
  | .msend h insn => Sys2Proof.Machine.execMsend h insn s
  | .msendAnswer h => Sys2Proof.Machine.execMsendAnswer h s
  | .kmonVersion c => Sys2Proof.Machine.execKmonVersion c s
  | .kmonHartOwner h => Sys2Proof.Machine.execKmonHartOwner h s
  | .kmonRun h => Sys2Proof.Machine.execKmonRun h s
  | .vmExit h cause passed => Sys2Proof.Machine.execVmExit h cause passed s
  | .kmonMove h => Sys2Proof.Machine.execKmonMove h s
  | .kmonKick h => Sys2Proof.Machine.execKmonKick h s
  | .sbiHsmStart h => Sys2Proof.Machine.execSbiHsmStart h s
  | .sbiSrst h => Sys2Proof.Machine.execSbiSrst h s
  | .msiWrite tag addr data => Sys2Proof.Machine.execMsiWrite tag addr data s
  | .controllerReadRequest slice line sector => Sys2Proof.Machine.execControllerReadRequest slice line sector s
  | .sectorBurstReturn slice line sector first retry => Sys2Proof.Machine.execSectorBurstReturn slice line sector first retry s
  | .refresh m channel bank => Sys2Proof.Machine.execRefresh m channel bank s
  | .calibrationPause m channel idle => Sys2Proof.Machine.execCalibrationPause m channel idle s
  | .calibrationDue m channel => Sys2Proof.Machine.execCalibrationDue m channel s
  | .calibrationGo agent m mask => Sys2Proof.Machine.execCalibrationGo agent m mask s
  | .calibrationDeadline m channel => Sys2Proof.Machine.execCalibrationDeadline m channel s
  | .calibrationDone m channel => Sys2Proof.Machine.execCalibrationDone m channel s
  | .slotMapApply m => Sys2Proof.Machine.execSlotMapApply m s
  | .fullWipe agent m => Sys2Proof.Machine.execFullWipe agent m s
  | .pageWipe agent m page => Sys2Proof.Machine.execPageWipe agent m page s
  | .wipeDone m => Sys2Proof.Machine.execWipeDone m s
  | .packageFailure m trigger => Sys2Proof.Machine.execPackageFailure m trigger s
  | .beyfyFlit port f => Sys2Proof.Machine.execBeyfyFlit port f s
  | .nak port ackseq again retrainOk => Sys2Proof.Machine.execNak port ackseq again retrainOk s
  | .trainingDetectLock port => Sys2Proof.Machine.execTrainingDetectLock port s
  | .trainingEqReport port passed => Sys2Proof.Machine.execTrainingEqReport port passed s
  | .trainingAlign port => Sys2Proof.Machine.execTrainingAlign port s
  | .trainingConfig port partner modid peerPort bufA bufB => Sys2Proof.Machine.execTrainingConfig port partner modid peerPort bufA bufB s
  | .trainingStateTimeout port => Sys2Proof.Machine.execTrainingStateTimeout port s
  | .portRetrain agent port => Sys2Proof.Machine.execPortRetrain agent port s
  | .cpyGo agent engine value => Sys2Proof.Machine.execCpyGo agent engine value s
  | .cpyStart port hdr seqno zero8 tag => Sys2Proof.Machine.execCpyStart port hdr seqno zero8 tag s
  | .copy engine => Sys2Proof.Machine.execCopy engine s
  | .copyZero engine => Sys2Proof.Machine.execCopyZero engine s
  | .atomAdd64 engine => Sys2Proof.Machine.execAtomAdd64 engine s
  | .atomCas64 engine => Sys2Proof.Machine.execAtomCas64 engine s
  | .dmaRdata port hdr data => Sys2Proof.Machine.execDmaRdata port hdr data s
  | .dmaWack port hdr => Sys2Proof.Machine.execDmaWack port hdr s
  | .copyDescriptorEnd engine => Sys2Proof.Machine.execCopyDescriptorEnd engine s
  | .copyHostTimeout engine tag => Sys2Proof.Machine.execCopyHostTimeout engine tag s
  | .winRd port hdr => Sys2Proof.Machine.execWinRd port hdr s
  | .winWr port hdr data => Sys2Proof.Machine.execWinWr port hdr data s
  | .windowTimeout port write tag => Sys2Proof.Machine.execWindowTimeout port write tag s
  | .breezewayFlit port f hdr payload => Sys2Proof.Machine.execBreezewayFlit port f hdr payload s
  | .lctl port hdr => Sys2Proof.Machine.execLctl port hdr s
  | .pwr port hdr data => Sys2Proof.Machine.execPwr port hdr data s
  | .pwack port hdr => Sys2Proof.Machine.execPwack port hdr s
  | .peerWriteTimeout port hdr => Sys2Proof.Machine.execPeerWriteTimeout port hdr s
  | .allreduce porch slot => Sys2Proof.Machine.execAllreduce porch slot s
  | .reduceScatter porch slot => Sys2Proof.Machine.execReduceScatter porch slot s
  | .allgather porch slot => Sys2Proof.Machine.execAllgather porch slot s
  | .broadcast porch slot => Sys2Proof.Machine.execBroadcast porch slot s
  | .put porch slot => Sys2Proof.Machine.execPut porch slot s
  | .collHdr port hdr payload => Sys2Proof.Machine.execCollHdr port hdr payload s
  | .collData port hdr payload => Sys2Proof.Machine.execCollData port hdr payload s
  | .collDone port hdr payload => Sys2Proof.Machine.execCollDone port hdr payload s
  | .collectiveComplete porch slot => Sys2Proof.Machine.execCollectiveComplete porch slot s
  | .abort port hdr payload => Sys2Proof.Machine.execAbort port hdr payload s
  | .prog port hdr => Sys2Proof.Machine.execProg port hdr s
  | .progSend porch psess => Sys2Proof.Machine.execProgSend porch psess s
  | .peerLost porch psess => Sys2Proof.Machine.execPeerLost porch psess s
  | .getId via => Sys2Proof.Machine.execGetId via s
  | .sessionOpen via suite gen qt nt sig => Sys2Proof.Machine.execSessionOpen via suite gen qt nt sig s
  | .nonce via => Sys2Proof.Machine.execNonce via s
  | .suiteCreate via suite b => Sys2Proof.Machine.execSuiteCreate via suite b s
  | .suiteBuildComplete suite wipeFailed => Sys2Proof.Machine.execSuiteBuildComplete suite wipeFailed s
  | .suiteGrow via suite gen b => Sys2Proof.Machine.execSuiteGrow via suite gen b s
  | .suiteShrink via suite gen b => Sys2Proof.Machine.execSuiteShrink via suite gen b s
  | .suiteChangeComplete suite => Sys2Proof.Machine.execSuiteChangeComplete suite s
  | .quiesceTimeout suite => Sys2Proof.Machine.execQuiesceTimeout suite s
  | .mailSlotMove suite => Sys2Proof.Machine.execMailSlotMove suite s
  | .suiteReset via suite gen => Sys2Proof.Machine.execSuiteReset via suite gen s
  | .suiteResetComplete suite => Sys2Proof.Machine.execSuiteResetComplete suite s
  | .suiteRemove via suite gen => Sys2Proof.Machine.execSuiteRemove via suite gen s
  | .suiteRemoveComplete suite => Sys2Proof.Machine.execSuiteRemoveComplete suite s
  | .strictSet via strict => Sys2Proof.Machine.execStrictSet via strict s
  | .selftest via unit => Sys2Proof.Machine.execSelftest via unit s
  | .selftestComplete unit result => Sys2Proof.Machine.execSelftestComplete unit result s
  | .lifecycle via target tok => Sys2Proof.Machine.execLifecycle via target tok s
  | .debugOpen via tok => Sys2Proof.Machine.execDebugOpen via tok s
  | .attest via suite gen nonce => Sys2Proof.Machine.execAttest via suite gen nonce s
  | .sessionClose via suite gen session => Sys2Proof.Machine.execSessionClose via suite gen session s
  | .senderSet via suite gen isHart sender limit => Sys2Proof.Machine.execSenderSet via suite gen isHart sender limit s
  | .regionSet via suite gen index e => Sys2Proof.Machine.execRegionSet via suite gen index e s
  | .rootSet via suite gen pa => Sys2Proof.Machine.execRootSet via suite gen pa s
  | .pageRelease via suite gen pages => Sys2Proof.Machine.execPageRelease via suite gen pages s
  | .pageShare via suite gen on pages => Sys2Proof.Machine.execPageShare via suite gen on pages s
  | .pageChangeComplete => Sys2Proof.Machine.execPageChangeComplete s
  | .commonInstall via suite gen image count list sig backed => Sys2Proof.Machine.execCommonInstall via suite gen image count list sig backed s
  | .commonMap via suite gen cid root index va => Sys2Proof.Machine.execCommonMap via suite gen cid root index va s
  | .commonRemove via suite gen cid => Sys2Proof.Machine.execCommonRemove via suite gen cid s
  | .commonRepair via suite gen cid index src => Sys2Proof.Machine.execCommonRepair via suite gen cid index src s
  | .commonPageRepair cid index lastingAgain => Sys2Proof.Machine.execCommonPageRepair cid index lastingAgain s
  | .vhartCreate via suite gen hart entry root a0 => Sys2Proof.Machine.execVhartCreate via suite gen hart entry root a0 s
  | .vhartDestroy via suite gen handle => Sys2Proof.Machine.execVhartDestroy via suite gen handle s
  | .peerOffer via suite gen port psess modid buf => Sys2Proof.Machine.execPeerOffer via suite gen port psess modid buf s
  | .peerAccept via suite gen port offer answer => Sys2Proof.Machine.execPeerAccept via suite gen port offer answer s
  | .peerFinish via suite gen answer => Sys2Proof.Machine.execPeerFinish via suite gen answer s
  | .peerClose via suite gen porch psess => Sys2Proof.Machine.execPeerClose via suite gen porch psess s
  | .powerEvaluation x => Sys2Proof.Machine.execPowerEvaluation x s
  | .voltageAverage mv => Sys2Proof.Machine.execVoltageAverage mv s
  | .energySample mv tenMa => Sys2Proof.Machine.execEnergySample mv tenMa s
  | .gustWindow c wanted => Sys2Proof.Machine.execGustWindow c wanted s
  | .throttleEpisodeEnd u r ownCycles => Sys2Proof.Machine.execThrottleEpisodeEnd u r ownCycles s
  | .jobStart agent value => Sys2Proof.Machine.execJobStart agent value s
  | .jobStop agent value => Sys2Proof.Machine.execJobStop agent value s
  | .corePowerGate c => Sys2Proof.Machine.execCorePowerGate c s
  | .corePowerReady c => Sys2Proof.Machine.execCorePowerReady c s
  | .rasReport => Sys2Proof.Machine.execRasReport s
  | .rasQueueDrain => Sys2Proof.Machine.execRasQueueDrain s
  | .rasSuppressionWindow page subject => Sys2Proof.Machine.execRasSuppressionWindow page subject s
  | .writeDropped req reason => Sys2Proof.Machine.execWriteDropped req reason s
  | .errorCountWindow c bank => Sys2Proof.Machine.execErrorCountWindow c bank s
  | .wingFenceCmdCore agent wing value => Sys2Proof.Machine.execWingFenceCmdCore agent wing value s
  | .wingFenceCmdRoom agent wing value => Sys2Proof.Machine.execWingFenceCmdRoom agent wing value s
  | .wingLoss wing trigger => Sys2Proof.Machine.execWingLoss wing trigger s
  | .cellarLinkFailure link crc => Sys2Proof.Machine.execCellarLinkFailure link crc s
  | .faultClear agent key => Sys2Proof.Machine.execFaultClear agent key s
  | .fwOpen agent config => Sys2Proof.Machine.execFwOpen agent config s
  | .fwEraseComplete => Sys2Proof.Machine.execFwEraseComplete s
  | .fwData agent bytes => Sys2Proof.Machine.execFwData agent bytes s
  | .fwClose agent => Sys2Proof.Machine.execFwClose agent s
  | .fwVerifyComplete ok => Sys2Proof.Machine.execFwVerifyComplete ok s
  | .fwAbort agent => Sys2Proof.Machine.execFwAbort agent s
  | .fill suite => Sys2Proof.Machine.execFill suite s
  | .invalVa suite => Sys2Proof.Machine.execInvalVa suite s
  | .invalAll suite => Sys2Proof.Machine.execInvalAll suite s
  | .walkModeWrite agent suite value => Sys2Proof.Machine.execWalkModeWrite agent suite value s
  | .xlatOpComplete suite => Sys2Proof.Machine.execXlatOpComplete suite s
  | .supplyDroop c stretched => Sys2Proof.Machine.execSupplyDroop c stretched s
  | .deviceRegionLoadTimeout g req => Sys2Proof.Machine.execDeviceRegionLoadTimeout g req s
  | .hartLoad h a rd signed => Sys2Proof.Machine.execHartLoad h a rd signed s
  | .hartStore h a rs2 => Sys2Proof.Machine.execHartStore h a rs2 s
  | .hallFailure r trigger => Sys2Proof.Machine.execHallFailure r trigger s
  | .hallLaneFailure c => Sys2Proof.Machine.execHallLaneFailure c s

end Sys2Proof.Machine
end

