-- ==== Sys2Proof/Safety.lean ====
section
/-! DEFINITION. What a safe run is, and the terms that claims about every command are stated in. -/

namespace Sys2Proof.Machine

/-- An outcome that is a next state. -/
def completes (o : Host.Outcome State Fault Refusal) : Prop := ∃ t, o = .next t

/-- A run is safe for a number of steps when no step of it stops. -/
def safeFor : Nat → State → Prop
  | 0, _ => True
  | n + 1, s => ∃ t, step s = .next t ∧ safeFor n t

/-- The place of a life-cycle state in the order of R385. -/
def Life.rank : Life → Nat
  | .blank => 0
  | .provisioned => 1
  | .field => 2
  | .return_ => 3
  | .scrapped => 4

/-- What no command undoes: the waiting commands stay as they are, the free values already drawn are not drawn again, external
memory keeps its canonical form, the life cycle only moves forward and a sealed seed stays sealed (R385), and the DEBUG_COUNT fuse
never goes back (R387). -/
structure State.Follows (s t : State) : Prop where
  queue  : t.pending = s.pending
  draws  : s.freeCtr ≤ t.freeCtr
  memory : s.ext.wf = true → t.ext.wf = true
  life   : s.hearth.life.rank ≤ t.hearth.life.rank
  seed   : s.hearth.seedGone = true → t.hearth.seedGone = true
  debug  : s.hearth.debugCount ≤ 255 → s.hearth.debugCount ≤ t.hearth.debugCount ∧ t.hearth.debugCount ≤ 255

/-- An outcome that, where it is a next state, is one that follows. -/
def outFollows (s : State) (o : Host.Outcome State Fault Refusal) : Prop := ∀ t, o = .next t → s.Follows t

/-- The standing invariant: external memory is in its canonical form and DEBUG_COUNT is one a fuse of 255 steps can hold (R387). -/
def State.Inv (s : State) : Prop := s.ext.wf = true ∧ s.hearth.debugCount ≤ 255

/-- The state after a number of steps, where none of them stops. -/
def State.run : Nat → State → Option State
  | 0, s => some s
  | n + 1, s =>
    match step s with
    | .next t => State.run n t
    | .fault _ => none
    | .refused _ => none

/-! ## Instructions of a group -/

/-- What lets an instruction of a group take its effect: the group can issue (R62), the fetch lies in the kernel's code (R53), the
word is legal (R85), its registers are free (R62) and carry no poison it would meet (R73). -/
structure State.Issues (s : State) (g : GroupRef) (w l : W64) (legal : Bool) (u : Use) : Prop where
  can   : (s.slot g).canIssue = true
  code  : (s.slot g).fetchOk (Insn.mk w.toNat l.toNat).units.toNat = true
  opc   : assignedOpcode ((Insn.mk w.toNat l.toNat).bits 0 8) = true
  form  : legal = true
  ready : (s.slot g).ready u = true
  clean : (s.slot g).poisonHit u = none

/-- Only one group slot changed: everything but the cores is as it was, and so are the other cores, the rest of this core and its
other slots. -/
structure State.OnlyGroup (s t : State) (g : GroupRef) : Prop where
  rest  : { t with cores := s.cores } = s
  cores : ∀ c, c ≠ g.core → t.core c = s.core c
  core  : { t.core g.core with slots := (s.core g.core).slots } = s.core g.core
  slots : ∀ i, i ≠ g.slot → t.slot ⟨g.core, i⟩ = s.slot ⟨g.core, i⟩

/-- A group's state apart from its scalar registers, its program counter and its poison marks is unchanged, and so is every scalar
register but one. -/
structure Slot.OnlyScalar (a b : Slot) (rd : Nat) : Prop where
  regs : ∀ r, r ≠ rd → b.sreg r = a.sreg r
  rest : { b with s := a.s, pc := a.pc, marks := a.marks } = a

/-- A group's state apart from its vector registers, its program counter and its poison marks is unchanged; of the vector
registers only `rd` (and `rd + 1` of a pair) changed, and only for the threads of a mask. -/
structure Slot.OnlyVector (a b : Slot) (wide : Bool) (rd : Nat) (m : BitVec 128) : Prop where
  others  : ∀ r t, t < 128 → r ≠ rd → (wide = true → r ≠ rd + 1) → b.greg r t = a.greg r t
  threads : ∀ r t, t < 128 → inMask m t = false → b.greg r t = a.greg r t
  rest    : { b with g := a.g, pc := a.pc, marks := a.marks } = a

/-- A group's state apart from its mask registers, its program counter and its poison marks is unchanged, and so is every mask
register but one. -/
structure Slot.OnlyMask (a b : Slot) (rd : Nat) : Prop where
  regs : ∀ r, r ≠ rd → b.mask r = a.mask r
  rest : { b with p := a.p, pc := a.pc, marks := a.marks } = a

/-- The instruction of a word and its extension word. -/
abbrev insn (w l : W64) : Insn := ⟨w.toNat, l.toNat⟩

/-- An instruction that can issue writes one scalar register, goes on to the next instruction, and changes nothing else. -/
def RunsScalar (c : GroupRef → W64 → W64 → Instr) (legal : Insn → Slot → Bool) (use : Insn → Slot → Use) (rd : Insn → Nat)
    (value : Insn → Slot → W64) : Prop :=
  ∀ (s : State) (g : GroupRef) (w l : W64), s.Issues g w l (legal (insn w l) (s.slot g)) (use (insn w l) (s.slot g)) →
    ∃ t, exec (c g w l) s = .next t ∧ s.OnlyGroup t g
      ∧ (t.slot g).sreg (rd (insn w l)) = value (insn w l) (s.slot g)
      ∧ (t.slot g).pc = (s.slot g).pc + (insn w l).units
      ∧ (s.slot g).OnlyScalar (t.slot g) (rd (insn w l))

/-- An instruction that can issue moves the program counter and changes nothing else. -/
def RunsControl (c : GroupRef → W64 → W64 → Instr) (legal : Insn → Slot → Bool) (use : Insn → Slot → Use)
    (next : Insn → Slot → W32) : Prop :=
  ∀ (s : State) (g : GroupRef) (w l : W64), s.Issues g w l (legal (insn w l) (s.slot g)) (use (insn w l) (s.slot g)) →
    ∃ t, exec (c g w l) s = .next t ∧ s.OnlyGroup t g ∧ t.slot g = { s.slot g with pc := next (insn w l) (s.slot g) }

/-- An instruction that can issue, on operands that it finds no fault with, leaves its group in a given state and changes nothing
else. -/
def RunsGroup (c : GroupRef → W64 → W64 → Instr) (legal : Insn → Slot → Bool) (use : Insn → Slot → Use)
    (good : Insn → Slot → Bool) (after : Insn → Slot → Slot) : Prop :=
  ∀ (s : State) (g : GroupRef) (w l : W64), s.Issues g w l (legal (insn w l) (s.slot g)) (use (insn w l) (s.slot g)) →
    good (insn w l) (s.slot g) = true →
    ∃ t, exec (c g w l) s = .next t ∧ s.OnlyGroup t g ∧ t.slot g = after (insn w l) (s.slot g)

/-- An instruction that can issue writes one vector register, or a pair, for the active threads, goes on to the next instruction,
and changes nothing else. -/
def RunsVector (c : GroupRef → W64 → W64 → Instr) (legal : Insn → Slot → Bool) (use : Insn → Slot → Use) (wide : Insn → Bool)
    (value : Insn → Slot → Nat → Nat) : Prop :=
  ∀ (s : State) (g : GroupRef) (w l : W64), (s.slot g).width ≤ 128 →
    s.Issues g w l (legal (insn w l) (s.slot g)) (use (insn w l) (s.slot g)) →
    ∃ t, exec (c g w l) s = .next t ∧ s.OnlyGroup t g
      ∧ (∀ n, n < (s.slot g).width → inMask ((s.slot g).active (insn w l)) n = true →
          (t.slot g).gval (wide (insn w l)) (insn w l).rd n
            = value (insn w l) (s.slot g) n % (if wide (insn w l) then 2 ^ 64 else 2 ^ 32))
      ∧ (t.slot g).pc = (s.slot g).pc + (insn w l).units
      ∧ (s.slot g).OnlyVector (t.slot g) (wide (insn w l)) (insn w l).rd ((s.slot g).active (insn w l))

/-- An instruction that can issue writes one mask register, goes on to the next instruction, and changes nothing else; inside a
matrix region it may write p0 only with the mask of all threads (R68). -/
def RunsMask (c : GroupRef → W64 → W64 → Instr) (legal : Insn → Slot → Bool) (use : Insn → Slot → Use)
    (value : Insn → Slot → BitVec 128) : Prop :=
  ∀ (s : State) (g : GroupRef) (w l : W64), s.Issues g w l (legal (insn w l) (s.slot g)) (use (insn w l) (s.slot g)) →
    ((s.slot g).inMx = true → (insn w l).rd = 0 → value (insn w l) (s.slot g) &&& (s.slot g).full = (s.slot g).full) →
    ∃ t, exec (c g w l) s = .next t ∧ s.OnlyGroup t g
      ∧ (t.slot g).mask (insn w l).rd = value (insn w l) (s.slot g) &&& (s.slot g).full
      ∧ (t.slot g).pc = (s.slot g).pc + (insn w l).units
      ∧ (s.slot g).OnlyMask (t.slot g) (insn w l).rd

/-- A group's memory operation is under way: it stands last among the group's operations (one with no request and no token to signal is
over at once), each of its requests waits to be served under the next request number, and external memory is as it was. -/
structure State.Launched (s t : State) (g : GroupRef) (nx : Slot) (o : MemOp) (rs : List Req) : Prop where
  slot   : t.slot g = if rs = [] ∧ o.token = none then nx else { nx with ops := nx.ops ++ [o] }
  sent   : ∀ n r, rs[n]? = some r → Table.find t.reqs (s.nextReq + n) = some { r with seq := s.nextReq + n }
  next   : t.nextReq = s.nextReq + rs.length
  id     : o.id = (s.core g.core).nextOp
  replay : o.replay = rs
  memory : t.ext = s.ext

/-- A memory instruction that can issue, and whose accesses all pass their checks, sends one request for each of them. -/
def RunsMemory (c : GroupRef → W64 → W64 → Instr) (legal : Insn → Slot → Bool) (use : Insn → Slot → Use) (good : Insn → Slot → Bool)
    (kind : AccKind) (k : ReqKind) (size : Insn → Nat) (accesses : Insn → Slot → List (Nat × Nat))
    (fill : State → GroupRef → Insn → Slot → Req → Req) (op : Insn → MemOp) : Prop :=
  ∀ (s : State) (g : GroupRef) (w l : W64) (ts : List (Nat × Nat × Target)) (s1 : State),
    let i := insn w l
    let sl := s.slot g
    s.Issues g w l (legal i sl) (use i sl) → good i sl = true →
    s.checkAll g sl (i.sp = 1) kind (size i) (accesses i sl) = (.ok ts, s1) →
    ∃ (t : State) (rs : List Req) (o : MemOp), exec (c g w l) s = .next t
      ∧ s1.Launched t g { sl.clearMarks (use i sl) with pc := sl.pc + i.units } o rs
      ∧ rs.length = ts.length
      ∧ (∀ (n : Nat) (e : Nat × Nat × Target), ts[n]? = some e → ∃ lane, rs[n]? = some (fill s1 g i sl
          { Req.blank (.group g o.id) k sl.suite sl.gen with
            room := e.2.2.room, addr := e.2.2.addr, va := BitVec.ofNat 64 e.2.1, size := size i, attr := e.2.2.attr, index := e.1,
            lane := lane }))
      ∧ { o with id := 0, open_ := 0, replay := [] } = op i
      ∧ o.open_ = (if k = .read then 0 else ts.length)

/-- The rows of the instructions of a group (R93). -/
def groupRows : List (GroupRef → W64 → W64 → Instr) :=
  [Instr.nop, Instr.br, Instr.brany, Instr.brnone, Instr.brd, Instr.join, Instr.jmpr, Instr.call, Instr.exit, Instr.trap,
       Instr.mxbegin, Instr.mxend, Instr.efence, Instr.rbar]
    ++ [Instr.spawn, Instr.twait, Instr.gsr, Instr.sadd, Instr.ssub, Instr.smul, Instr.sand, Instr.sor, Instr.sxor, Instr.sshl,
       Instr.sshr, Instr.ssra, Instr.smin, Instr.smax]
    ++ [Instr.sminu, Instr.smaxu, Instr.sslt, Instr.ssltu, Instr.saddImm, Instr.ssubImm, Instr.smulImm, Instr.sandImm,
       Instr.sorImm, Instr.sxorImm, Instr.sshlImm, Instr.sshrImm, Instr.ssraImm, Instr.sminImm]
    ++ [Instr.smaxImm, Instr.sminuImm, Instr.smaxuImm, Instr.ssltImm, Instr.ssltuImm, Instr.sli, Instr.vadd, Instr.vsub,
       Instr.vmul, Instr.vfma, Instr.vmin, Instr.vmax, Instr.vand, Instr.vor]
    ++ [Instr.vxor, Instr.vshl, Instr.vshr, Instr.vcvt, Instr.vcmp, Instr.vsel, Instr.vmov, Instr.vshfl, Instr.vsfu, Instr.pand,
       Instr.por, Instr.pxor, Instr.pandn, Instr.pnot]
    ++ [Instr.pfroms, Instr.sfromp, Instr.pcnt, Instr.sld, Instr.sst, Instr.acq, Instr.acqRo, Instr.rel, Instr.vld, Instr.vst,
       Instr.vatom, Instr.vredadd, Instr.tld, Instr.tst]
    ++ [Instr.mxred, Instr.mma, Instr.mmas, Instr.aclr, Instr.acvt, Instr.aflg, Instr.tmov, Instr.dmaq]

/-! ## Requests at a home -/

/-- A request stands at its home and nothing there holds it back: it is sent and open, no other request waits for its line and no snoop
or miss entry of it is out, its home and its memory are not lost and can be reached, its page may be accessed, and no die needs to be
snooped for it (R233, R240, R367, R428). -/
structure State.HomeServes (s : State) (k : Nat) (r : Req) : Prop where
  found  : Table.find s.reqs k = some r
  sent   : r.stage = .sent
  here   : r.gone = false
  queue  : s.lineQueue (s.reqHome r) (r.addr / 128) = []
  quiet  : s.lineBusy (s.reqHome r) (r.addr / 128) = false
  miss   : Table.find s.misses (lineKey (s.reqHome r) (r.addr / 128)) = none
  home   : s.homeLost (s.reqHome r) = false
  route  : s.unreachable r (s.reqHome r) (r.addr / 128) = false
  mem    : s.pkgLost (r.addr / 128) = false
  backed : s.memBacked (128 * (r.addr / 128)) = true
  page   : s.pageAllows r.suite (128 * (r.addr / 128)) r.onlyReads = true
  snoops : r.snoopsOf (s.dir (s.reqHome r) (r.addr / 128)) = []

/-! ## Hearth calls -/

/-- The state once an in-module call of a Suite has entered (R375). -/
def State.entered (s : State) (n : BitVec 8) : State := s.updSuite n (fun x => { x with callBusy := true })

/-- A Suite whose in-module call the Hearth takes: it exists, and none of its in-module calls runs (R375). -/
def State.mayCall (s : State) (n : BitVec 8) : Prop := (s.suite n).state ≠ .absent ∧ s.callRuns n = false

/-- A Suite that a call may name: it is there at that generation, and no call of it runs (R362). -/
def State.mayName (s : State) (n : BitVec 8) (gen : BitVec 16) : Prop := n ≠ 255 ∧ s.namedOk n gen = 0 ∧ s.suiteBusy n = false

/-- How an in-module call ends: it is answered, or kept until its work is complete, or it has to wait. -/
def CallEnds (c : CallVia → Instr) (call : Nat) (suite caller : BitVec 8) (s : State) (r : CallEnd × State) : Prop :=
  ∀ q : W64, exec (c (.inModule caller q)) s = .next (match r.1 with
    | .now st res => r.2.answerCall (.inModule caller q) call st suite res
    | .later pages => r.2.keepCall { call := call, suite := suite, via := .inModule caller q, pages := pages }
    | .wait => s)

end Sys2Proof.Machine
end

