-- ==== Sys2Proof/WellFormed.lean ====
section
/-! DEFINITION. Well-formed commands: the operands that their types do not already hold to what the hardware can carry. -/

namespace Sys2Proof

/-- A line number of the 48-bit physical address space. -/
def lineOk (line : Nat) : Bool := decide (line < 2 ^ 41)

/-- The size of a control-register access: a power of two up to 8 bytes. -/
def accessSizeOk (n : Nat) : Bool := n = 1 || n = 2 || n = 4 || n = 8

/-- A message's payload is whole units of 16 B and at most 512 B (R318). -/
def payloadOk (data : List Byte) : Bool := data.length % 16 = 0 && decide (data.length ≤ 512)

/-- A mail-slot message carries as many blocks of 64 B as LEN says (R190). -/
def MailMsg.wf (m : MailMsg) : Bool := m.payload.length = 64 * m.len.toNat

/-- A hart access of 1 to 32 bytes whose addresses lie in the 56 bits that a leaf PTE can give. -/
def HartAcc.wf (a : HartAcc) : Bool :=
  decide (1 ≤ a.size.val) && decide (a.pa.toNat < 2 ^ 56) && decide (a.pa2.toNat < 2 ^ 56)

/-- A resource block names eight LPD_LOCAL counts (R378). -/
def ResBlock.wf (b : ResBlock) : Bool := b.lpdLocal.length = 8

/-- The header of an image copy names four stages (R435). -/
def ImageCopy.wf (c : ImageCopy) : Bool :=
  c.stageOff.length = 4 && c.stageLen.length = 4 && c.digests.length = 4 && c.actual.length = 4

/-- One reading for each Wing, Parlour and Porch. -/
def Sensors.wf (x : Sensors) : Bool :=
  [x.wingDie, x.wingCellar, x.wingPower, x.wingPowered, x.wingStretch].all (fun l => l.length = 8)
    && [x.plrDie, x.porchDie, x.plrPower, x.plrPowered, x.plrStretch].all (fun l => l.length = 2)

/-- What one read attempt gives of a line: at most four code words. -/
def Burst.wf (b : Burst) : Bool := decide (b.sectors.length ≤ 4)

/-- The opcode of a group instruction's row (R93) and its instruction word. -/
def Instr.opcodeWord : Instr → Option (Nat × W64)
  | .nop _ w _ => some (0x01, w)
  | .br _ w _ => some (0x02, w)
  | .brany _ w _ => some (0x03, w)
  | .brnone _ w _ => some (0x04, w)
  | .brd _ w _ => some (0x05, w)
  | .join _ w _ => some (0x06, w)
  | .jmpr _ w _ => some (0x07, w)
  | .call _ w _ => some (0x08, w)
  | .exit _ w _ => some (0x09, w)
  | .trap _ w _ => some (0x0A, w)
  | .mxbegin _ w _ => some (0x0B, w)
  | .mxend _ w _ => some (0x0C, w)
  | .efence _ w _ => some (0x0D, w)
  | .rbar _ w _ => some (0x0E, w)
  | .spawn _ w _ => some (0x0F, w)
  | .twait _ w _ => some (0x10, w)
  | .gsr _ w _ => some (0x11, w)
  | .sadd _ w _ => some (0x20, w)
  | .ssub _ w _ => some (0x21, w)
  | .smul _ w _ => some (0x22, w)
  | .sand _ w _ => some (0x23, w)
  | .sor _ w _ => some (0x24, w)
  | .sxor _ w _ => some (0x25, w)
  | .sshl _ w _ => some (0x26, w)
  | .sshr _ w _ => some (0x27, w)
  | .ssra _ w _ => some (0x28, w)
  | .smin _ w _ => some (0x29, w)
  | .smax _ w _ => some (0x2A, w)
  | .sminu _ w _ => some (0x2B, w)
  | .smaxu _ w _ => some (0x2C, w)
  | .sslt _ w _ => some (0x2D, w)
  | .ssltu _ w _ => some (0x2E, w)
  | .saddImm _ w _ => some (0x30, w)
  | .ssubImm _ w _ => some (0x31, w)
  | .smulImm _ w _ => some (0x32, w)
  | .sandImm _ w _ => some (0x33, w)
  | .sorImm _ w _ => some (0x34, w)
  | .sxorImm _ w _ => some (0x35, w)
  | .sshlImm _ w _ => some (0x36, w)
  | .sshrImm _ w _ => some (0x37, w)
  | .ssraImm _ w _ => some (0x38, w)
  | .sminImm _ w _ => some (0x39, w)
  | .smaxImm _ w _ => some (0x3A, w)
  | .sminuImm _ w _ => some (0x3B, w)
  | .smaxuImm _ w _ => some (0x3C, w)
  | .ssltImm _ w _ => some (0x3D, w)
  | .ssltuImm _ w _ => some (0x3E, w)
  | .sli _ w _ => some (0x3F, w)
  | .vadd _ w _ => some (0x40, w)
  | .vsub _ w _ => some (0x41, w)
  | .vmul _ w _ => some (0x42, w)
  | .vfma _ w _ => some (0x43, w)
  | .vmin _ w _ => some (0x44, w)
  | .vmax _ w _ => some (0x45, w)
  | .vand _ w _ => some (0x46, w)
  | .vor _ w _ => some (0x47, w)
  | .vxor _ w _ => some (0x48, w)
  | .vshl _ w _ => some (0x49, w)
  | .vshr _ w _ => some (0x4A, w)
  | .vcvt _ w _ => some (0x4B, w)
  | .vcmp _ w _ => some (0x4C, w)
  | .vsel _ w _ => some (0x4D, w)
  | .vmov _ w _ => some (0x4E, w)
  | .vshfl _ w _ => some (0x4F, w)
  | .vsfu _ w _ => some (0x50, w)
  | .pand _ w _ => some (0x58, w)
  | .por _ w _ => some (0x59, w)
  | .pxor _ w _ => some (0x5A, w)
  | .pandn _ w _ => some (0x5B, w)
  | .pnot _ w _ => some (0x5C, w)
  | .pfroms _ w _ => some (0x5D, w)
  | .sfromp _ w _ => some (0x5E, w)
  | .pcnt _ w _ => some (0x5F, w)
  | .sld _ w _ => some (0x80, w)
  | .sst _ w _ => some (0x81, w)
  | .acq _ w _ => some (0x82, w)
  | .acqRo _ w _ => some (0x83, w)
  | .rel _ w _ => some (0x84, w)
  | .vld _ w _ => some (0x88, w)
  | .vst _ w _ => some (0x89, w)
  | .vatom _ w _ => some (0x8A, w)
  | .vredadd _ w _ => some (0x8B, w)
  | .tld _ w _ => some (0x90, w)
  | .tst _ w _ => some (0x91, w)
  | .mxred _ w _ => some (0x92, w)
  | .mma _ w _ => some (0xA0, w)
  | .mmas _ w _ => some (0xA1, w)
  | .aclr _ w _ => some (0xA2, w)
  | .acvt _ w _ => some (0xA3, w)
  | .aflg _ w _ => some (0xA4, w)
  | .tmov _ w _ => some (0xA5, w)
  | .dmaq _ w _ => some (0xC0, w)
  | _ => none

/-- Whether OPC of a group instruction's word, its bits 7:0 (R84), is the opcode of its row or one that no row has (R85, R93). -/
def Instr.opcodeOk (i : Instr) : Bool :=
  match i.opcodeWord with
  | none => true
  | some (opc, w) => w.toNat % 256 = opc || !assignedOpcode (w.toNat % 256)

/-- Whether a command's operands are such as the hardware can be given. Every operand of a command not listed is held to its
width by its type. -/
def Instr.operandsOk : Instr → Bool
  | .dieIdentityCheck straps => straps.length = 8
  | .firmwareVerify a b => a.wf && b.wf
  | .memoryTraining rates spds _ => rates.length = 32 && spds.length = 12
  | .controlRegisterWrite _ _ size _ => accessSizeOk size
  | .rcFieldRead _ _ size _ => accessSizeOk size
  | .mail _ _ m => m.wf
  | .wbD _ _ line => lineOk line
  | .offerC _ _ line => lineOk line
  | .memoryFill _ line _ => lineOk line
  | .evictionAck _ line => lineOk line
  | .homeResponseTimeout _ line => lineOk line
  | .adderPartial _ line => lineOk line
  | .adderRmwComplete _ line _ => lineOk line
  | .controllerReadRequest _ line _ => lineOk line
  | .sectorBurstReturn _ line _ first retry => lineOk line && first.wf && retry.wf
  | .lr _ a _ => a.wf
  | .sc _ a _ _ _ => a.wf
  | .amo _ a _ _ _ => a.wf
  | .cboClean _ a => a.wf
  | .cboFlush _ a => a.wf
  | .cboInval _ a => a.wf
  | .cboZero _ a => a.wf
  | .hartLoad _ a _ _ => a.wf
  | .hartStore _ a _ => a.wf
  | .vmExit _ _ passed => decide (passed.length ≤ 4)
  | .dmaRdata _ _ data => payloadOk data
  | .winWr _ _ data => payloadOk data
  | .suiteCreate _ _ b => b.wf
  | .suiteGrow _ _ _ b => b.wf
  | .suiteShrink _ _ _ b => b.wf
  | .powerEvaluation x => x.wf
  | .fwData _ bytes => decide (1 ≤ bytes.length) && decide (bytes.length ≤ 256)
  | _ => true

/-- A well-formed command: its operands are in range, and a group instruction's word carries its row's opcode or one that
no row has. -/
def Instr.wf (i : Instr) : Bool := i.operandsOk && i.opcodeOk

end Sys2Proof
end

