-- ==== Sys2Proof/Certificates/Slice0/Obligations.lean ====
section
/-! DEFINITION. The statements about the machine that the provers are asked for. -/

open Sys2Proof Sys2Proof.Machine

/-! ## The machine as a whole -/

/-- One step takes the command at the front of the queue and runs it on the rest; on an empty queue the block idles (the model's
choice, log 1). -/
def Obligations.StepTakesFront : Prop :=
  (∀ (s : State) (c : Instr) (rest : List Instr), step { s with pending := c :: rest } = exec c { s with pending := rest })
  ∧ (∀ s : State, s.pending = [] → step s = .next s)

/-- No command ends in a fault or a refusal: each answers a next state, in every state and with all operands. -/
def Obligations.EveryCommandCompletes : Prop := ∀ (c : Instr) (s : State), completes (exec c s)

/-- The queue drains: as many steps as commands are waiting leave it empty, and none of them stops. -/
def Obligations.QueueDrains : Prop := ∀ s : State, ∃ t, State.run s.pending.length s = some t ∧ t.pending = []

/-- What no command undoes. The waiting commands stay as they are; the life cycle only moves forward and a sealed seed stays sealed
(R385); DEBUG_COUNT never falls (R387); external memory keeps its canonical form and no free value is drawn twice (the model's own,
logs 1 and 2). -/
def Obligations.EveryCommandFollows : Prop := ∀ (c : Instr) (s : State), outFollows s (exec c s)

/-- Every step keeps the invariant. -/
def Obligations.StepKeepsInv : Prop := ∀ s t : State, s.Inv → step s = .next t → t.Inv

/-- The state after reset: no command waits, the module is off and holds nothing but a life cycle
in FIELD (the model's choice, log 3), and the invariant holds. -/
def Obligations.ResetState : Prop :=
  State.reset.Inv ∧ State.reset.pending = [] ∧ State.reset.on = false ∧ State.reset.cores = [] ∧ State.reset.rooms = []
    ∧ State.reset.ext = [] ∧ State.reset.reqs = [] ∧ State.reset.harts = [] ∧ State.reset.hearth.life = .field
    ∧ State.reset.hearth.debugCount = 0 ∧ State.reset.hearth.ready = false

/-! ## Instructions of a group (R93) -/

/-- The scalar instructions of format R: sRD ← sRA op sRB, or L. -/
def Obligations.ScalarRegisterForms : Prop :=
  let run := fun (c : GroupRef → W64 → W64 → Instr) (f : W64 → W64 → W64) =>
    RunsScalar c (fun i _ => i.okR 63 63 63 0)
      (fun i _ => { engine := .scalar, reads := [.sreg i.ra] ++ (if i.x then [] else [.sreg i.rb]), writes := [.sreg i.rd], part := false })
      Insn.rd (fun i sl => f (sl.sreg i.ra) (if i.x then BitVec.ofNat 64 i.l else sl.sreg i.rb))
  run .sadd (fun a b => BitVec.ofNat 64 (a.toNat + b.toNat))
    ∧ run .ssub (fun a b => BitVec.ofInt 64 ((a.toNat : Int) - b.toNat))
    ∧ run .smul (fun a b => BitVec.ofNat 64 (a.toNat * b.toNat))
    ∧ run .sand (fun a b => a &&& b)
    ∧ run .sor (fun a b => a ||| b)
    ∧ run .sxor (fun a b => a ^^^ b)
    ∧ run .sshl (fun a b => BitVec.ofNat 64 (a.toNat * 2 ^ (b.toNat % 64)))
    ∧ run .sshr (fun a b => BitVec.ofNat 64 (a.toNat / 2 ^ (b.toNat % 64)))
    ∧ run .ssra (fun a b => BitVec.ofInt 64 (a.toInt / 2 ^ (b.toNat % 64)))
    ∧ run .smin (fun a b => BitVec.ofInt 64 (min a.toInt b.toInt))
    ∧ run .smax (fun a b => BitVec.ofInt 64 (max a.toInt b.toInt))
    ∧ run .sminu (fun a b => BitVec.ofNat 64 (min a.toNat b.toNat))
    ∧ run .smaxu (fun a b => BitVec.ofNat 64 (max a.toNat b.toNat))
    ∧ run .sslt (fun a b => if a.toInt < b.toInt then 1 else 0)
    ∧ run .ssltu (fun a b => if a.toNat < b.toNat then 1 else 0)

/-- The scalar instructions of format I: sRD ← sRA op IMM, or L, with IMM sign-extended; and `SLI`. -/
def Obligations.ScalarImmediateForms : Prop :=
  let imm := fun (i : Insn) => if i.x then BitVec.ofNat 64 i.l else (BitVec.ofNat 32 i.imm).signExtend 64
  let run := fun (c : GroupRef → W64 → W64 → Instr) (f : W64 → W64 → W64) =>
    RunsScalar c (fun i _ => i.okI 63 63)
      (fun i _ => { engine := .scalar, reads := [.sreg i.ra], writes := [.sreg i.rd], part := false })
      Insn.rd (fun i sl => f (sl.sreg i.ra) (imm i))
  run .saddImm (fun a b => BitVec.ofNat 64 (a.toNat + b.toNat))
    ∧ run .ssubImm (fun a b => BitVec.ofInt 64 ((a.toNat : Int) - b.toNat))
    ∧ run .smulImm (fun a b => BitVec.ofNat 64 (a.toNat * b.toNat))
    ∧ run .sandImm (fun a b => a &&& b)
    ∧ run .sorImm (fun a b => a ||| b)
    ∧ run .sxorImm (fun a b => a ^^^ b)
    ∧ run .sshlImm (fun a b => BitVec.ofNat 64 (a.toNat * 2 ^ (b.toNat % 64)))
    ∧ run .sshrImm (fun a b => BitVec.ofNat 64 (a.toNat / 2 ^ (b.toNat % 64)))
    ∧ run .ssraImm (fun a b => BitVec.ofInt 64 (a.toInt / 2 ^ (b.toNat % 64)))
    ∧ run .sminImm (fun a b => BitVec.ofInt 64 (min a.toInt b.toInt))
    ∧ run .smaxImm (fun a b => BitVec.ofInt 64 (max a.toInt b.toInt))
    ∧ run .sminuImm (fun a b => BitVec.ofNat 64 (min a.toNat b.toNat))
    ∧ run .smaxuImm (fun a b => BitVec.ofNat 64 (max a.toNat b.toNat))
    ∧ run .ssltImm (fun a b => if a.toInt < b.toInt then 1 else 0)
    ∧ run .ssltuImm (fun a b => if a.toNat < b.toNat then 1 else 0)
    ∧ RunsScalar .sli (fun i _ => i.okI 63 0)
      (fun i _ => { engine := .scalar, reads := [], writes := [.sreg i.rd], part := false }) Insn.rd (fun i _ => imm i)

/-- Moves of a whole group's program counter: `NOP`, `BR`, `BRANY`, `BRNONE` and `JMPR` (R94): the condition of each CC code, from the
branch's own place; the masks of `BRANY` and `BRNONE`; code 7, and code 6 with a field that must be 0, are ILLEGAL. -/
def Obligations.UniformBranches : Prop :=
  let none_ : Insn → Slot → Use := fun _ _ => { engine := .scalar, reads := [], writes := [], part := false }
  let holds := fun (i : Insn) (sl : Slot) =>
    let a := sl.sreg i.sa
    let b : W64 := if i.cz then 0 else sl.sreg i.sb
    if i.cc = 0 then decide (a = b) else if i.cc = 1 then decide (a ≠ b) else if i.cc = 2 then decide (a.toInt < b.toInt)
    else if i.cc = 3 then decide (b.toInt ≤ a.toInt) else if i.cc = 4 then decide (a.toNat < b.toNat)
    else if i.cc = 5 then decide (b.toNat ≤ a.toNat) else true
  RunsControl .nop (fun i _ => i.okN) none_ (fun i sl => sl.pc + i.units)
    ∧ RunsControl .br (fun i _ => brLegal i)
        (fun i _ => { engine := .scalar,
                      reads := if i.cc = 6 then [] else [.sreg i.sa] ++ (if i.cz then [] else [.sreg i.sb]), writes := [], part := false })
        (fun i sl => if holds i sl then sl.pc + i.toff else sl.pc + 1)
    ∧ RunsControl .brany (fun i _ => brMaskLegal i) none_
        (fun i sl => if sl.mask 0 &&& sl.mask i.ps = 0 then sl.pc + 1 else sl.pc + i.toff)
    ∧ RunsControl .brnone (fun i _ => brMaskLegal i) none_
        (fun i sl => if sl.mask 0 &&& sl.mask i.ps = 0 then sl.pc + i.toff else sl.pc + 1)
    ∧ RunsControl .jmpr (fun i _ => i.okR 0 63 0 0)
        (fun i _ => { engine := .scalar, reads := [.sreg i.ra], writes := [], part := false })
        (fun i sl => (sl.sreg i.ra).setWidth 32)
    ∧ (∀ (s : State) (g : GroupRef) (w l : W64), (s.slot g).canIssue = true →
        ((insn w l).cc = 7 ∨ ((insn w l).cc = 6 ∧ ((insn w l).sa ≠ 0 ∨ (insn w l).sb ≠ 0 ∨ (insn w l).cz = true))) →
        exec (.br g w l) s = .next (s.updSlot g (fun x => x.park .illegal 0)))

/-- `BRD` and `JOIN` (R66, R67): a branch that divides the group takes the threads of pPS and leaves the others pending, and raises
STACK_OVERFLOW on a full stack; at the join the pending threads run, then all of them go on. Inside a matrix region a branch that
divides, or a join that would leave p0 without some thread, raises DIVERGENCE. -/
def Obligations.DivergenceAndJoin : Prop :=
  let none_ : Insn → Slot → Use := fun _ _ => { engine := .scalar, reads := [], writes := [], part := false }
  let always : Insn → Slot → Bool := fun _ _ => true
  let taken := fun (i : Insn) (sl : Slot) => sl.mask 0 &&& sl.mask i.ps
  let fall := fun (i : Insn) (sl : Slot) => sl.mask 0 &&& ~~~(sl.mask i.ps)
  RunsGroup .brd (fun i _ => i.headerOk false && !i.x) none_ always
      (fun i sl =>
        if fall i sl = 0 then { sl with pc := sl.pc + i.toff2 }
        else if taken i sl = 0 then { sl with pc := sl.pc + 1 }
        else if sl.inMx = true then { sl with fault := some { cause := .divergence, addr := 0 } }
        else if 16 ≤ sl.stack.length then { sl with fault := some { cause := .stackOverflow, addr := 0 } }
        else
          { sl.setP 0 (taken i sl) with
            pc := sl.pc + i.toff2,
            stack := { join := sl.pc + i.joff2, all := sl.mask 0, pend := fall i sl, pc := sl.pc + 1 } :: sl.stack })
    ∧ RunsGroup .join (fun i _ => i.okN) none_ always
      (fun _ sl => match sl.stack with
        | [] => { sl with pc := sl.pc + 1 }
        | e :: rest =>
          let m := if e.pend = 0 then e.all else e.pend
          if e.join ≠ sl.pc then { sl with pc := sl.pc + 1 }
          else if sl.inMx = true ∧ m &&& sl.full ≠ sl.full then { sl with fault := some { cause := .divergence, addr := 0 } }
          else if e.pend = 0 then { sl.setP 0 e.all with pc := sl.pc + 1, stack := rest }
          else { sl.setP 0 e.pend with pc := e.pc, stack := { e with pend := 0 } :: rest })

/-- `CALL`, `EXIT`, `TRAP`, `MXBEGIN`, `MXEND`, `TWAIT` and `GSR` (R93): the link register (R95), the end of the group (R97), the park with cause
TRAP and the immediate as its address (R98), the matrix region (R114), a token that has come (R102), the group status (R109). -/
def Obligations.GroupControl : Prop :=
  let none_ : Insn → Slot → Use := fun _ _ => { engine := .scalar, reads := [], writes := [], part := false }
  let always : Insn → Slot → Bool := fun _ _ => true
  let imm := fun (i : Insn) => if i.x then i.l else i.imm
  let sets := fun (sl : Slot) (r : Nat) (v : W64) =>
    { sl with s := Table.set sl.s r v, marks := sl.marks.filter (fun m => decide (m.place ≠ Place.sreg r)) }
  RunsGroup .call (fun i _ => i.okB1 && i.ps = 0 && i.sb = 0 && i.cc = 0 && !i.cz)
      (fun i _ => { engine := .scalar, reads := [], writes := [.sreg i.sa], part := false }) always
      (fun i sl => { sets sl i.sa (BitVec.ofNat 64 (sl.pc + 1).toNat) with pc := sl.pc + i.toff })
    ∧ RunsGroup .exit (fun i sl => i.okN && !sl.inMx) none_ always
      (fun i sl => { sl with pc := sl.pc + i.units, state := .draining, exited := true })
    ∧ RunsGroup .trap (fun i _ => i.okI 0 0) none_ always
      (fun i sl => { sl with fault := some { cause := .trap, addr := BitVec.ofNat 64 (imm i) } })
    ∧ RunsGroup .mxbegin (fun i sl => i.okN && !sl.inMx) none_ (fun _ sl => sl.mask 0 = sl.full)
      (fun i sl => { sl with pc := sl.pc + i.units, inMx := true })
    ∧ RunsGroup .mxend (fun i sl => i.okN && sl.inMx) none_ always (fun i sl => { sl with pc := sl.pc + i.units, inMx := false })
    ∧ RunsGroup .twait (fun i _ => i.okI 7 0 && decide (1 ≤ imm i) && decide (imm i ≤ 65535)) none_
      (fun i sl => decide (imm i ≤ (Table.get 0 sl.tokens i.rd).toNat))
      (fun i sl =>
        { sl with pc := sl.pc + i.units,
                  tokens := Table.set sl.tokens i.rd (Table.get 0 sl.tokens i.rd - BitVec.ofNat 16 (imm i)) })
    ∧ RunsGroup .gsr (fun i _ => i.okR 63 0 0 1)
      (fun i _ => { engine := .scalar, reads := [], writes := [.sreg i.rd], part := false }) always
      (fun i sl =>
        { sets sl i.rd (BitVec.ofNat 64 ((if sl.fenceErr then 1 else 0) + (if sl.tokenOvf then 2 else 0))) with
          pc := sl.pc + i.units, fenceErr := sl.fenceErr && i.fn ≠ 1, tokenOvf := sl.tokenOvf && i.fn ≠ 1 })

/-- `EFENCE` waits for the operations of its source engines not yet performed at its scope: at ROOM and MODULE scope it changes nothing
else, at CORE scope the awaited writes enter the core's port (R108, R150). `EFENCE_COMPLETE` opens a fence all of whose operations are
performed; `RBAR` waits at its barrier (R110). -/
def Obligations.FencesAndBarriers : Prop :=
  let none_ : Insn → Slot → Use := fun _ _ => { engine := .scalar, reads := [], writes := [], part := false }
  let always : Insn → Slot → Bool := fun _ _ => true
  let form := fun (i : Insn) => i.okF && i.bits 16 4 ≠ 0 && i.bits 20 4 ≠ 0 && i.bits 24 2 ≠ 3 && i.bits 32 8 = 0
  let after := fun (core : Bool) (i : Insn) (sl : Slot) =>
    let await := sl.outstanding core (BitVec.ofNat 4 (i.bits 16 4))
    { sl with pc := sl.pc + 1,
              fences := if await = [] then sl.fences else sl.fences ++ [{ core := core, dst := BitVec.ofNat 4 (i.bits 20 4), await := await }] }
  RunsGroup .efence (fun i _ => form i && i.bits 24 2 ≠ 0) none_ always (after false)
    ∧ (∀ (s : State) (g : GroupRef) (w l : W64),
        let i := insn w l
        let sl := s.slot g
        s.Issues g w l (form i) (none_ i sl) → i.bits 24 2 = 0 →
        ∃ t, exec (.efence g w l) s = .next t ∧ t.slot g = after true i sl ∧ (∀ h, h ≠ g → t.slot h = s.slot h) ∧ t.ext = s.ext
          ∧ (∀ k r op o, Table.find s.reqs k = some r → r.kind = .write → r.owner = .group g op → o ∈ sl.ops → o.id = op →
              (BitVec.ofNat 4 (i.bits 16 4)).getLsbD (engineBit o.engine) = true → Table.find t.reqs k = some { r with ported := true }))
    ∧ RunsGroup .rbar
      (fun i _ => i.okF && i.bits 20 4 = 0 && i.bits 24 2 = 0 && decide (1 ≤ i.bits 32 8) && decide (i.bits 32 8 ≤ 192)) none_ always
      (fun i sl => { sl with pc := sl.pc + 1, wait := .rbar (i.bits 16 4) (i.bits 32 8) })
    ∧ (∀ (s : State) (g : GroupRef) (a b : List Fence) (f : Fence), (s.slot g).fences = a ++ f :: b →
        (∀ x ∈ a, ∃ o ∈ x.await, o ∈ (s.slot g).outstanding x.core 15) → (∀ o ∈ f.await, o ∉ (s.slot g).outstanding f.core 15) →
        ∃ t, exec (.efenceComplete g) s = .next t ∧ s.OnlyGroup t g ∧ t.slot g = { s.slot g with fences := a ++ b })

/-- `RBAR_ARRIVAL` (R110): a group whose earlier operations have completed arrives; the last arrival opens the barrier, advances its
phase and lets every waiting group of the Room go on; an earlier one waits. -/
def Obligations.BarrierArrival : Prop :=
  ∀ (s : State) (g : GroupRef) (bar count : Nat) (b : Barrier), (s.slot g).wait = .rbar bar count →
    (s.slot g).outstanding false 15 = [] → Table.get { count := 0, want := 0, phase := 0 } (s.room g.core.room).barriers bar = b →
    (b.count = 0 ∨ b.want = count) →
    (b.count + 1 = count →
      ∃ t, exec (.rbarArrival g) s = .next t
        ∧ Table.get { count := 0, want := 0, phase := 0 } (t.room g.core.room).barriers bar = { count := 0, want := 0, phase := b.phase + 1 }
        ∧ (t.slot g).wait = .none
        ∧ (∀ h : GroupRef, h.core.room = g.core.room → (s.slot h).wait = .atBarrier bar → (t.slot h).wait = .none))
    ∧ (b.count + 1 ≠ count →
      exec (.rbarArrival g) s
        = .next ((s.updRoom g.core.room (fun x =>
            { x with barriers := Table.set x.barriers bar { count := b.count + 1, want := count, phase := b.phase } })).updSlot g
              (fun x => { x with wait := .atBarrier bar })))

/-- `SPAWN` waits for its answer once its descriptor has been read, and counts it; `SPAWN_ANSWER` gives the answer that was recorded
for this ordinal before, or the one the dispatcher gives now (R112, R113). -/
def Obligations.Spawn : Prop :=
  (∀ (s : State) (g : GroupRef) (w l : W64) (x : Option Located),
    let i := insn w l
    let u : Use := { engine := .scalar, reads := [.sreg i.ra], writes := [.sreg i.rd], part := false }
    s.Issues g w l (i.okR 63 63 0 1) u →
    (s.checkAccess (s.slot g).suite (i.fn = 1) .load ((s.slot g).sreg i.ra).toNat 64).1 = .ok x →
    ∃ t, exec (.spawn g w l) s = .next t
      ∧ (t.slot g).wait = .spawn (i.fn = 1) ((s.slot g).sreg i.ra) i.rd ∧ (t.slot g).spawns = (s.slot g).spawns + 1
      ∧ (t.slot g).pc = (s.slot g).pc + 1)
  ∧ (∀ (s : State) (g : GroupRef) (room : Bool) (addr : W64) (rd : Nat), (s.slot g).wait = .spawn room addr rd →
      (s.slot g).outstanding false 15 = [] → (∀ d ∈ (s.core g.core).dma, d.g ≠ g) →
      (room = true → (s.room g.core.room).wiping = false) → ∀ ecc : Ecc,
      let sl := s.slot g
      let key := (65536 * sl.wing.val + sl.taskIdx, sl.groupIdx, sl.spawns)
      let q := s.installSpawn g sl room addr ecc
      let ends := fun (u : State) (v : W64) => (u.updSlot g (fun x => { x.setS rd v with wait := .none })).settleAll
      (∀ v, (s.gsuite sl.suite).spawned.find? (fun e => e.1 = key) = some (key, v) → exec (.spawnAnswer ⟨g, ecc⟩) s = .next (ends s v))
      ∧ ((s.gsuite sl.suite).spawned.find? (fun e => e.1 = key) = none →
          exec (.spawnAnswer ⟨g, ecc⟩) s = .next (ends (if q.1.toNat % 256 = 0
            then q.2.updGsuite sl.suite (fun x => { x with spawned := x.spawned ++ [(key, q.1)] }) else q.2) q.1)))

/-- The vector instructions of one operation on three operands: gD ← the value for each active thread, in its type's bits (R90, R93). -/
def Obligations.VectorArithmetic : Prop :=
  let run := fun (c : GroupRef → W64 → W64 → Instr) (useB useC : Bool) (tys : Nat → Bool) (f : Nat → Nat → Nat → Nat → Nat) =>
    RunsVector c
      (fun i sl => tys i.ty && i.fn = 0 && vecSrcLegal i sl useB useC (tyWide i.ty) && dstLegal sl (tyWide i.ty) i.rd)
      (fun i sl => vecUse useB useC (tyWide i.ty) (tyWide i.ty) i sl) (fun i => tyWide i.ty)
      (fun i sl t => f i.ty (sl.opA i (tyWide i.ty) t) (sl.opB i (tyWide i.ty) t) (sl.opC i (tyWide i.ty) t) % 2 ^ tyWidth i.ty)
  let held := fun (t : Nat) => decide (t ≤ 6)
  let whole := fun (t : Nat) => t = 0 || t = 1 || t = 5 || t = 6
  let count := fun (ty b : Nat) => b % (if ty = 5 || ty = 6 then 64 else 32)
  run .vadd true false held (vArith 0) ∧ run .vsub true false held (vArith 1) ∧ run .vmul true false held (vArith 2)
    ∧ run .vfma true true held (vArith 3)
    ∧ run .vmin true false held (fun ty a b _ => vMinMax false ty a b) ∧ run .vmax true false held (fun ty a b _ => vMinMax true ty a b)
    ∧ run .vand true false whole (fun _ a b _ => a &&& b) ∧ run .vor true false whole (fun _ a b _ => a ||| b)
    ∧ run .vxor true false whole (fun _ a b _ => a ^^^ b)
    ∧ run .vshl true false whole (fun ty a b _ => a * 2 ^ count ty b)
    ∧ run .vshr true false whole (fun ty a b _ => wrapInt (tyWidth ty) (tyInt ty a / (2 ^ count ty b : Nat)))
    ∧ run .vmov false false held (fun _ a _ _ => a)

/-- What the integer operations of the vector engine give: the low half of the sum, the difference, the product and the fused product
(R93), whatever the signs of the operands. -/
def Obligations.VectorIntegerValues : Prop :=
  ∀ (ty a b c : Nat), (ty = 0 ∨ ty = 1 ∨ ty = 5 ∨ ty = 6) → a < 2 ^ tyWidth ty → b < 2 ^ tyWidth ty → c < 2 ^ tyWidth ty →
    vArith 0 ty a b c = (a + b) % 2 ^ tyWidth ty
      ∧ vArith 1 ty a b c = (a + (2 ^ tyWidth ty - b)) % 2 ^ tyWidth ty
      ∧ vArith 2 ty a b c = (a * b) % 2 ^ tyWidth ty
      ∧ vArith 3 ty a b c = (a * b + c) % 2 ^ tyWidth ty
      ∧ tyWidth ty = (if ty = 5 ∨ ty = 6 then 64 else 32)

/-- The other vector instructions that write g registers: `VCVT`, `VSEL`, `VSHFL` and `VSFU` (R93). -/
def Obligations.VectorMoves : Prop :=
  RunsVector .vcvt
      (fun i sl => i.ty ≤ 8 && i.fn % 16 ≤ 8 && i.fn < 128 && vecSrcLegal i sl false false (tyWide i.ty)
        && (!(tyWide i.ty || tyWide (i.fn % 16)) || ((bitOf i.sk 0 || i.ra % 2 = 0) && i.rd % 2 = 0)) && dstLegal sl (tyWide (i.fn % 16)) i.rd)
      (fun i sl => vecUse false false (tyWide i.ty) (tyWide (i.fn % 16)) i sl) (fun i => tyWide (i.fn % 16))
      (fun i sl t => vcvtValue i.ty (i.fn % 16) (bitOf i.fn 4) (Rnd.ofCode (bitsOf i.fn 5 2)) (sl.opA i (tyWide i.ty) t))
    ∧ RunsVector .vsel
      (fun i sl => i.ty ≤ 6 && i.fn = 0 && i.rc ≤ 15 && !bitOf i.sk 2
        && vecSrcLegal { i with w := putBits i.w 40 8 0 } sl true false (tyWide i.ty) && dstLegal sl (tyWide i.ty) i.rd)
      (fun i sl => vecUse true false (tyWide i.ty) (tyWide i.ty) i sl) (fun i => tyWide i.ty)
      (fun i sl t => (if inMask (sl.mask i.rc) t then sl.opA i (tyWide i.ty) t else sl.opB i (tyWide i.ty) t) % 2 ^ tyWidth i.ty)
    ∧ RunsVector .vshfl
      (fun i sl => i.ty ≤ 6 && i.fn = 0 && vecSrcLegal i sl true false (tyWide i.ty) && dstLegal sl (tyWide i.ty) i.rd)
      (fun i sl => vecUse true false (tyWide i.ty) (tyWide i.ty) i sl) (fun i => tyWide i.ty)
      (fun i sl t => sl.opA i (tyWide i.ty) (sl.opB i (tyWide i.ty) t % sl.width) % 2 ^ tyWidth i.ty)
    ∧ RunsVector .vsfu
      (fun i sl => i.ty = 2 && i.fn ≤ 4 && vecSrcLegal i sl false false false && dstLegal sl false i.rd)
      (fun i sl => vecUse false false false false i sl) (fun _ => false)
      (fun i sl t => vsfuValue i.fn (sl.opA i false t))

/-- The instructions on mask registers, and `VCMP`: a bit for each active thread whose comparison holds (R90, R93). -/
def Obligations.MasksAndCompare : Prop :=
  (let use : Insn → Slot → Use := fun _ _ => { engine := .vector, reads := [], writes := [], part := false }
   let run := fun (c : GroupRef → W64 → W64 → Instr) (rb : Nat) (f : BitVec 128 → BitVec 128 → BitVec 128) =>
     RunsMask c (fun i _ => i.okR 15 15 rb 0) use
       (fun i sl => f (sl.mask i.ra) (if i.x then BitVec.ofNat 128 (i.l % 2 ^ 64) else sl.mask i.rb))
   run .pand 15 (fun a b => a &&& b) ∧ run .por 15 (fun a b => a ||| b) ∧ run .pxor 15 (fun a b => a ^^^ b)
     ∧ run .pandn 15 (fun a b => a &&& ~~~b) ∧ run .pnot 0 (fun a _ => ~~~a)
     ∧ RunsMask .pfroms (fun i _ => i.okR 15 63 63 0)
       (fun i _ => { engine := .vector, reads := [.sreg i.ra] ++ (if i.x then [] else [.sreg i.rb]), writes := [], part := false })
       (fun i sl => (if i.x then BitVec.ofNat 64 i.l else sl.sreg i.rb) ++ sl.sreg i.ra)
     ∧ RunsScalar .sfromp (fun i _ => i.okR 63 15 0 1)
       (fun i _ => { engine := .vector, reads := [], writes := [.sreg i.rd], part := false }) Insn.rd
       (fun i sl => (sl.mask i.ra).extractLsb' (if i.fn = 1 then 64 else 0) 64)
     ∧ RunsScalar .pcnt (fun i _ => i.okR 63 15 0 0)
       (fun i _ => { engine := .vector, reads := [], writes := [.sreg i.rd], part := false }) Insn.rd
       (fun i sl => BitVec.ofNat 64 (((List.range 128).filter (fun t => (sl.mask i.ra).getLsbD t)).length)))
  ∧ (∀ (s : State) (g : GroupRef) (w l : W64),
       let i := insn w l
       let sl := s.slot g
       let wide := tyWide i.ty
       s.Issues g w l (i.ty ≤ 6 && i.fn ≤ 7 && (i.fn ≤ 5 || !tyInteger i.ty) && vecSrcLegal i sl true false wide && i.rd ≤ 15)
         { vecUse true false wide false i sl with writes := [], part := false } →
       (sl.inMx = true → i.rd ≠ 0) → sl.width ≤ 128 →
       ∃ t, exec (.vcmp g w l) s = .next t ∧ s.OnlyGroup t g ∧ sl.OnlyMask (t.slot g) i.rd ∧ (t.slot g).pc = sl.pc + i.units
         ∧ (∀ n, n < sl.width →
             ((t.slot g).mask i.rd).getLsbD n
               = if inMask (sl.active i) n then vCompare i.fn i.ty (sl.opA i wide n) (sl.opB i wide n) else (sl.mask i.rd).getLsbD n))

/-- The matrix and accumulator instructions (R93, R114 to R138): what each writes, and what it leaves. -/
def Obligations.MatrixInstructions : Prop :=
  (let always : Insn → Slot → Bool := fun _ _ => true
   RunsGroup .mma (mmaLegal false) (mmaUse false) always
       (fun i sl => { sl with pc := sl.pc + 1, accs := Table.set sl.accs i.dt ((sl.acc i.dt).addAll (sl.denseProducts i)) })
     ∧ RunsGroup .mmas (mmaLegal true) (mmaUse true) always
       (fun i sl => { sl with pc := sl.pc + 1, accs := Table.set sl.accs i.dt ((sl.acc i.dt).addAll (sl.sparseProducts i)) })
     ∧ RunsGroup .aclr
       (fun i sl => mxLegal i sl && i.dt < sl.naccs && i.xsa = 0 && i.xsb = 0 && i.xsm = 0 && i.fa = 0 && i.fb = 0 && i.mod = 0)
       (fun i _ => { engine := .matrix, reads := [.sreg i.ss], writes := [], part := false }) always
       (fun i sl =>
         { sl with
           pc := sl.pc + 1,
           accs := Table.set sl.accs i.dt
             { elems := [], anchor := (sl.sreg i.ss).setWidth 12, fp32 := (sl.sreg i.ss).getLsbD 16, inexact := false, wrap := false } })
     ∧ RunsGroup .tmov
       (fun i sl => mxLegal i sl && i.dt < sl.ntiles && i.xsa < sl.ntiles && i.xsb = 0 && i.xsm = 0 && i.fa = 0 && i.fb = 0
         && i.ss = 0 && i.mod = 0)
       (fun i _ => { engine := .matrix, reads := pTile i.xsa, writes := pTile i.dt, part := false }) always
       (fun i sl =>
         { sl.clearMarks { engine := .matrix, reads := pTile i.xsa, writes := pTile i.dt, part := false } with
           pc := sl.pc + 1,
           tiles := (sl.tiles.clear (tileKey i.dt 0 0) 4096).writeN (tileKey i.dt 0 0) (sl.tiles.readN (tileKey i.xsa 0 0) 4096) })
     ∧ RunsGroup .aflg
       (fun i sl => mxLegal i sl && i.dt = 0 && i.xsa < sl.naccs && i.xsb = 0 && i.xsm = 0 && i.fa = 0 && i.fb = 0 && i.mod ≤ 1)
       (fun i _ => { engine := .matrix, reads := [], writes := [.sreg i.ss], part := false }) always
       (fun i sl =>
         let a := sl.acc i.xsa
         let x := { sl.setS i.ss a.flagsWord with pc := sl.pc + 1 }
         if i.mod = 1 then { x with accs := Table.set x.accs i.xsa a.clearFlags } else x))
  ∧ (RunsGroup .acvt
       (fun i sl => mxLegal i sl && i.dt < sl.ntiles && i.xsa < sl.naccs && i.xsb = 0 && i.xsm = 0 && i.fb = 0 && i.ss = 0
         && (acvtFmt i.fa).isSome && i.mod < 8 && (!bitOf i.mod 0 || i.fa = 8) && (!bitOf i.mod 1 || i.fa ≤ 1))
       (fun i _ => { engine := .matrix, reads := [], writes := acvtRows i, part := false }) (fun _ _ => true)
       (fun i sl =>
         { sl.clearMarks { engine := .matrix, reads := [], writes := acvtRows i, part := false } with
           pc := sl.pc + 1,
           tiles := accKeys.foldl (fun m k =>
             match acvtPlace i.fa (bitsOf i.mod 0 1) (bitsOf i.mod 1 1) (k / 64) (k % 64) with
             | none => m
             | some (r, b, n) =>
               m.writeN (tileKey i.dt r b) (leBytes n ((sl.acc i.xsa).convert ((acvtFmt i.fa).getD fp32) (bitOf i.mod 2) k))) sl.tiles }))

/-! ## Memory instructions -/

/-- The loads (R99 to R104, R106, R107): one request to read for each access, an acquire load never from the read-only cache. -/
def Obligations.Loads : Prop :=
  let always : Insn → Slot → Bool := fun _ _ => true
  let load := fun (acquire roInval : Bool) =>
    fun (i : Insn) =>
      { MemOp.blank 0 .scalar with
        load := true, acquire := acquire, roInval := roInval, dest := .sreg i.rd, size := 2 ^ i.sz, signed := i.sx }
  let scalar := fun (c : GroupRef → W64 → W64 → Instr) (acquire roInval : Bool) =>
    RunsMemory c (scalarMemLegal false true)
      (fun i _ => { engine := .scalar, reads := [.sreg i.base], writes := [.sreg i.rd], part := false }) always .load .read
      (fun i => 2 ^ i.sz) (fun i sl => [(0, sl.scalarAddr i)]) (fun s g _ _ r => if acquire then r else s.serveRoc g r)
      (load acquire roInval)
  scalar .sld false false ∧ scalar .acq true false ∧ scalar .acqRo true true
    ∧ RunsMemory .vld (vecMemLegal false true)
      (fun i sl => { engine := .vector, reads := indexPlaces i, writes := pG (i.sz = 3) i.rd, part := sl.active i != sl.full }) always
      .load .read (fun i => 2 ^ i.sz) (fun i sl => sl.threadAccesses i (2 ^ i.sz) false) (fun s g _ _ r => s.serveRoc g r)
      (fun i => { MemOp.blank 0 .vector with
        load := true, dest := if i.sz = 3 then .pair i.rd else .greg i.rd, size := 2 ^ i.sz, signed := i.sx })
    ∧ RunsMemory .tld (tileMemLegal false)
      (fun i _ => { engine := .matrix, reads := tileAddrPlaces i, writes := pTile i.rd, part := false }) (fun i sl => sl.strideOk i 64)
      .load .read (fun _ => 64) (fun i sl => sl.tileRows i) (fun s g _ _ r => s.serveRoc g r)
      (fun i => { MemOp.blank 0 .matrix with load := true, dest := .tile i.rd, size := 64 })

/-- Stores send one write for each active thread or element; `REL` also waits for the group's earlier operations (R103 to R107). -/
def Obligations.StoresAndRelease : Prop :=
  (let always : Insn → Slot → Bool := fun _ _ => true
   RunsMemory .sst (scalarMemLegal true false)
       (fun i _ => { engine := .scalar, reads := [.sreg i.base] ++ [.sreg i.rd], writes := [], part := false }) always .store .write
       (fun i => 2 ^ i.sz) (fun i sl => [(0, sl.scalarAddr i)])
       (fun _ _ i sl r => { r with data := leBytes (2 ^ i.sz) (sl.sreg i.rd).toNat })
       (fun i => { MemOp.blank 0 .scalar with size := 2 ^ i.sz, token := i.token })
     ∧ RunsMemory .vst (vecMemLegal true false)
       (fun i _ => { engine := .vector, reads := indexPlaces i ++ pG (i.sz = 3) i.rd, writes := [], part := false }) always .store .write
       (fun i => 2 ^ i.sz) (fun i sl => sl.threadAccesses i (2 ^ i.sz) false)
       (fun _ _ i sl r => { r with data := leBytes (2 ^ i.sz) (sl.gval (i.sz = 3) i.rd r.index) })
       (fun i => { MemOp.blank 0 .vector with size := 2 ^ i.sz, token := i.token })
     ∧ RunsMemory .tst (tileMemLegal true)
       (fun i _ => { engine := .matrix, reads := tileAddrPlaces i ++ pTile i.rd, writes := [], part := false })
       (fun i sl => sl.strideOk i 64) .store .write (fun _ => 64) (fun i sl => sl.tileRows i)
       (fun _ _ i sl r => { r with data := sl.tiles.readN (tileKey i.rd r.index 0) 64 })
       (fun i => { MemOp.blank 0 .matrix with size := 64, token := i.token }))
  ∧ ((∀ (s : State) (g : GroupRef) (w l : W64) (loc : Option Located) (s1 : State),
       let i := insn w l
       let sl := s.slot g
       s.Issues g w l (scalarMemLegal true false i sl)
         { engine := .scalar, reads := [.sreg i.base] ++ [.sreg i.rd], writes := [], part := false } →
       s.checkAccess sl.suite (i.sp = 1) .store (sl.scalarAddr i) (2 ^ i.sz) = (.ok loc, s1) →
       let at_ := targetOf g.core.room (sl.scalarAddr i) loc
       exec (.rel g w l) s = .next (s1.updSlot g (fun _ =>
         { sl with
           pc := sl.pc + i.units,
           wait := .rel at_.room.isSome at_.addr (BitVec.ofNat 64 (sl.scalarAddr i)) (leBytes (2 ^ i.sz) (sl.sreg i.rd).toNat) at_.attr
             i.token })))
     ∧ (∀ (s : State) (g : GroupRef) (room : Bool) (addr : Nat) (va : W64) (data : List Byte) (attr : Attr) (token : Option (Fin 8)),
         (s.slot g).wait = .rel room addr va data attr token → (s.slot g).outstanding false 15 = [] →
         ∃ (t : State) (o : MemOp) (r : Req), exec (.relStoreIssue g) s = .next t
           ∧ t.slot g = { s.slot g with wait := .none, ops := (s.slot g).ops ++ [o] } ∧ Table.find t.reqs s.nextReq = some r
           ∧ r.owner = .group g o.id ∧ r.kind = .write ∧ r.data = data ∧ r.addr = addr ∧ r.attr = attr ∧ r.room = (if room then some g.core.room else none)
           ∧ o.token = token ∧ o.open_ = 1 ∧ o.load = false))

/-- The reductions of the vector engine (R103): a group atomic sends one request for each word its threads name, with their operands,
`VREDADD` one contribution for each active thread; `MXRED` one for each element of its accumulator that lies in the rows (R141). -/
def Obligations.GroupReductions : Prop :=
  (∀ (s : State) (g : GroupRef) (w l : W64) (ts : List (Nat × Nat × Target)) (s1 : State),
    let i := insn w l
    let sl := s.slot g
    let wide := decide (i.sz = 3)
    let u : Use :=
      { engine := .vector,
        reads := indexPlaces i ++ pG wide i.rd ++ (if i.fn % 8 = 7 then pG wide (i.rd + (if wide then 2 else 1)) else []),
        writes := pG wide i.rd, part := sl.active i != sl.full }
    s.Issues g w l (vatomLegal i sl) u →
    s.checkAll g sl (i.sp = 1) .atomic (2 ^ i.sz) (sl.threadAccesses i (2 ^ i.sz) true) = (.ok ts, s1) →
    ∃ (t : State) (o : MemOp) (rs : List Req), exec (.vatom g w l) s = .next t
      ∧ s1.Launched t g { sl.clearMarks u with pc := sl.pc + i.units, sideDone := sl.sideDone || i.sp = 0 } o rs
      ∧ rs.length = (groupWords sl i ts).length
      ∧ (∀ (n : Nat) (e : (Nat × Nat × Target) × List Contribution), (groupWords sl i ts)[n]? = some e →
          ∃ lane, rs[n]? = some { Req.blank (.group g o.id) .atomic sl.suite sl.gen with
            room := e.1.2.2.room, addr := e.1.2.2.addr, va := BitVec.ofNat 64 e.1.2.1, size := 2 ^ i.sz, attr := e.1.2.2.attr,
            index := e.1.1, lane := lane, atomFn := BitVec.ofNat 8 i.fn, contrib := e.2 })
      ∧ { o with id := 0, replay := [] } = { MemOp.blank 0 .vector with
          load := true, dest := if i.sz = 3 then .pair i.rd else .greg i.rd, size := 2 ^ i.sz, token := i.token, open_ := o.open_ }
      ∧ (rs ≠ [] → o.open_ = rs.length))
  ∧ (∀ (s : State) (g : GroupRef) (w l : W64) (ts : List (Nat × Nat × Target × Nat)) (s1 : State),
    let i := insn w l
    let sl := s.slot g
    s.Issues g w l (vredLegal i sl)
      { engine := .vector, reads := indexPlaces i ++ pG false i.rd, writes := [], part := false } →
    s.checkRed g sl (i.sp = 1) (sl.threadAccesses i 16 false) = (.ok ts, s1) →
    ∃ (t : State) (o : MemOp), exec (.vredadd g w l) s = .next t
      ∧ s1.Launched t g { sl with pc := sl.pc + i.units, sideDone := true } o
          (ts.map (fun e => redReq g sl o.id e (some (fp32.value (sl.greg i.rd e.1).toNat))))
      ∧ { o with id := 0, replay := [] } = { MemOp.blank 0 .vector with size := 16, token := i.token, open_ := ts.length })
  ∧ (∀ (s : State) (g : GroupRef) (w l : W64) (rows : List (List (Nat × Target × Nat))) (st : Nat → State),
    let i := insn w l
    let sl := s.slot g
    s.Issues g w l (mxredLegal i sl) { engine := .matrix, reads := tileAddrPlaces i, writes := [], part := false } →
    sl.strideOk i 1024 = true → rows.length = 32 → st 0 = s →
    (∀ n row, rows[n]? = some row → (st n).checkRedRow sl (i.sp = 1) (sl.rowAddr i n) = (.ok row, st (n + 1))) →
    ∃ (t : State) (o : MemOp) (rs : List Req), exec (.mxred g w l) s = .next t
      ∧ (st 32).Launched t g { sl with pc := sl.pc + i.units, sideDone := true } o rs
      ∧ rs = ((List.range 32).zip rows).flatMap (fun p => (List.range p.2.length).zipWith (fun j e =>
          redReq g sl o.id (64 * p.1 + j, e) ((sl.acc i.rd).value (64 * p.1 + j))) p.2)
      ∧ { o with id := 0, replay := [] } = { MemOp.blank 0 .matrix with size := 16, token := i.token, open_ := rs.length })

/-- `DMAQ` puts a descriptor in the core's list and an operation in the group's (R171 to R174); a read's data and a write's
acknowledgement end their request, and a timeout fails a read or drops a write (R421). -/
def Obligations.RoomDma : Prop :=
  (∀ (s : State) (g : GroupRef) (w l : W64) (srcs dsts : List DmaBlock) (pages : List Nat) (s1 : State),
    let i := insn w l
    let sl := s.slot g
    let d : DmaText :=
      { src := (sl.sreg i.ra).toNat, dst := (sl.sreg (i.ra + 1)).toNat, w2 := (sl.sreg (i.ra + 2)).toNat,
        w3 := (sl.sreg (i.ra + 3)).toNat }
    (s.core g.core).dma.length < 16 →
    s.Issues g w l (i.okR 0 60 0 15 && i.ra % 4 = 0 && (bitOf i.fn 3 || i.fn = 0))
      { engine := .dma, reads := (List.range 4).map (fun n => .sreg (i.ra + n)), writes := [], part := false } →
    s.dmaPlan sl.suite g.core.room d = (.ok (srcs, dsts, pages), s1) →
    ∃ (t : State) (o : MemOp) (d : DmaDesc), exec (.dmaq g w l) s = .next t
      ∧ t.slot g = { sl with pc := sl.pc + 1, ops := sl.ops ++ [o] }
      ∧ o.engine = .dma ∧ o.open_ = dsts.length ∧ o.token = (if bitOf i.fn 3 then some (Fin.ofNat 8 i.fn) else none)
      ∧ d ∈ (t.core g.core).dma ∧ d.id = o.id ∧ d.g = g ∧ d.srcs = srcs ∧ d.dsts = dsts)
  ∧ (∀ (s : State) (c : CoreId) (req : Nat) (r : Req) (g : GroupRef) (op n : Nat), Table.find s.reqs req = some r →
      dmaOwner c r.owner = some (g, op, n) → r.stage = .answered → r.back = false → r.gone = false →
      (r.kind = .read → exec (.dmaReadReturn c req) s
        = .next ((((s.dropReq req).updCore c (fun x =>
            { x with dma := x.dma.map (fun d =>
                if d.id = op then { d with got := d.got ++ [(n, r.answer, r.poison || r.failed)] } else d) })).sendReady g op).startDma c))
      ∧ (r.kind = .write → exec (.dmaWriteAck c req) s = .next ((s.dropReq req).dmaWriteEnded g op n)))
  ∧ (∀ (s : State) (c : CoreId) (req : Nat) (r : Req) (g : GroupRef) (op n : Nat), Table.find s.reqs req = some r →
      dmaOwner c r.owner = some (g, op, n) → r.attr = .dev → r.stage ≠ .answered →
      exec (.dmaRequestTimeout c req) s = .next (if r.kind = .read
        then s.failRead req true 0 (match r.room with | some q => endpointId (.hall q) | none => 0)
        else if r.applied then (s.dropReq req).dmaWriteEnded g op n
        else s.dropWrite req 0 (match r.room with | some q => endpointId (.hall q) | none => 0)))

/-! ## The life of a group (R55 to R59, R72 to R82) -/

/-- Data and tokens come back (R73, R102): when every request of a load or an atomic has been answered, its data is written and its
requests end; a token that an operation still owes is signalled once it is performed; a load of a device region that is not answered in
time fails. -/
def Obligations.OperationsComplete : Prop :=
  (∀ (s : State) (g : GroupRef) (op : Nat) (o : MemOp), (s.slot g).ops.find? (fun x => x.id = op) = some o → o.load = true →
      (∀ e ∈ s.opReqs g op, e.2.stage = .answered) →
      ∃ t, exec (.loadDataReturn g op) s = .next t
        ∧ (∀ e ∈ t.reqs, e.2.owner.groupOp ≠ some (g, op)) ∧ (∀ e ∈ s.reqs, e.2.owner.groupOp ≠ some (g, op) → e ∈ t.reqs)
        ∧ t.ext = s.ext)
  ∧ (∀ (s : State) (g : GroupRef) (op : Nat) (o : MemOp) (k : Fin 8), (s.slot g).ops.find? (fun x => x.id = op) = some o →
      o.open_ = 0 → o.token = some k →
      ∃ t, exec (.tokenSignal g op) s = .next t ∧ s.OnlyGroup t g
        ∧ (t.slot g).tokens = ((s.slot g).signal k).tokens ∧ (t.slot g).tokenOvf = ((s.slot g).signal k).tokenOvf
        ∧ (∀ x ∈ (t.slot g).ops, x.id = op → x.token = none))
  ∧ (∀ (s : State) (g : GroupRef) (op req : Nat) (r : Req), Table.find s.reqs req = some r → r.attr = .dev → r.kind = .read →
      r.stage ≠ .answered → r.owner = .group g op → exec (.deviceRegionLoadTimeout g req) s = .next (s.failRead req true 0 0))

/-- A group with a fault parks once its operations are complete (R72, R74, R81); one that has ended frees its slot (R79, R97); an
uncorrectable error of a register file is counted, recorded, and fences its core at the limit (R77, R423). -/
def Obligations.GroupLife : Prop :=
  (∀ (s : State) (g : GroupRef) (f : GroupFault), (s.slot g).fault = some f → (s.slot g).state = .active → (s.slot g).ops = [] →
     ∃ t r, exec (.groupPark g) s = .next t
       ∧ t.slot g = { s.slot g with state := .parked, parkSeq := (s.slot g).parkSeq + 1 }
       ∧ (∀ h, h ≠ g → t.slot h = s.slot h)
       ∧ t.stamp (.core g.core) = s.stamp (.core g.core) + 2
       ∧ (∃ m, t.bw = s.bw ++ [m] ∧ m.src = .core g.core ∧ m.dst = .dispatcher (s.slot g).wing ∧ m.payload = .record r))
  ∧ (∀ (s : State) (g : GroupRef), (s.slot g).state = .draining → s.drained g = true →
       ∃ t, exec (.groupFree g) s = .next t
         ∧ t.slot g = { Slot.reset with parkSeq := (s.slot g).parkSeq }
         ∧ (∀ e ∈ t.reqs, ∀ op, e.2.owner.groupOp ≠ some (g, op))
         ∧ (∃ m ∈ t.bw, m.src = .core g.core ∧ m.dst = .dispatcher (wingOfRoom g.core.room) ∧ m.payload = .freed))
  ∧ (∀ (s : State) (g : GroupRef) (idleFill : Bool), s.on = true →
       let sl := s.slot g
       let own := (s.room g.core.room).ownerSuite
       let s1 := s.updCore g.core (fun x => { x with uncorr := sat16 x.uncorr 1, regUeCount := x.regUeCount + 1 })
       let s2 := s1.report (.core g.core)
         { RasRep.zero with
           cause := 4, suite := (own.map (fun p => p.1)).getD 0, gen := (own.map (fun p => p.2)).getD 0,
           subject := endpointId (.core g.core), detail := if idleFill then 1 else 0 }
       (idleFill = true ∨ sl.state = .free → exec (.registerFileUe g idleFill) s = .next (s2.fenceTest g.core))
       ∧ (idleFill = false → sl.state ≠ .free → exec (.registerFileUe g idleFill) s
           = .next ((s2.updTaskSlots g.core sl (fun x => x.kill (if s2.restartable g.core sl then 3 else 4))).fenceTest g.core)))

/-- `LAUNCH` (R55 to R59): a core that is powered and not fenced, whose kernel header can be read, is possible and fits, starts the
groups of the task, and the dispatcher knows that the task runs and where. -/
def Obligations.Launch : Prop :=
  ∀ (s : State) (c : CoreId) (m : BwMsg) (rest : List BwMsg) (task firing : Nat) (kernel desc : W64) (h : Header)
    (s1 : State),
    s.takeLaunch c = some (m, rest) → m.payload = .launch task firing kernel desc → (s.core c).powered = true →
    (s.core c).fenced = false → State.readHeader { s with delivered := rest } m.suite kernel.toNat = (some h, s1) →
    h.impossible = false → (s1.core c).fits h = true →
    let q : LaunchReq :=
      { suite := m.suite, gen := m.gen, wing := srcWing m.src, task := task, firing := firing, kernel := kernel, desc := desc }
    ∃ t, exec (.launch c) s = .next t ∧ t.core c = (s1.core c).start c q h
      ∧ (∀ d, d ≠ c → t.core d = s1.core d) ∧ t.delivered = s1.delivered
      ∧ Table.find (t.disp q.wing).accepted (roomKey c.room) = some c.core.val

/-- What ends or repeats groups without a command of their own (R76, R393, R405, R423): an automatic replay resumes a group parked for
poison that a notice it took up has repaired, once for each place, and consumes its notices; an error-count window starts its count again,
a lane failure fences its core; a core is gated when idle and without a grant of GUST, and powered again when a launch waits for it. -/
def Obligations.CoreUpkeep : Prop :=
  (∀ (s : State) (c : CoreId), s.on = true →
    ∃ t, exec (.automaticReplay c) s = .next t ∧ (t.core c).reinstalled = []
      ∧ ((s.core c).replayMode = true → t = s.updCore c (fun y => { y with reinstalled := [] }))
      ∧ ((s.core c).replayMode = false → ∀ i : Fin 32, (s.slot ⟨c, i⟩).state = .parked → (s.slot ⟨c, i⟩).autoPc ≠ some (s.slot ⟨c, i⟩).pc →
          (∃ p ∈ (s.core c).reinstalled, s.repairedBy ⟨c, i⟩ p = true) →
          (t.slot ⟨c, i⟩).state = .active ∧ (t.slot ⟨c, i⟩).fault = none ∧ (t.slot ⟨c, i⟩).pc = (s.slot ⟨c, i⟩).pc
            ∧ (t.slot ⟨c, i⟩).autoPc = some (s.slot ⟨c, i⟩).pc ∧ (t.slot ⟨c, i⟩).ops = (s.slot ⟨c, i⟩).toReplay)
      ∧ (∀ i : Fin 32, (s.slot ⟨c, i⟩).state ≠ .parked → t.slot ⟨c, i⟩ = s.slot ⟨c, i⟩))
  ∧ (∀ (s : State) (c : CoreId), s.on = true →
      exec (.errorCountWindow c none) s = .next (s.updCore c (fun x => { x with regUeCount := 0 })))
  ∧ (∀ (s : State) (c : CoreId) (b : Fin 16), s.on = true →
      exec (.errorCountWindow c (some b)) s = .next (s.updRoom c.room (fun x => { x with bankPoison := Table.set x.bankPoison b.val 0 })))
  ∧ (∀ (s : State) (c : CoreId), s.on = true → exec (.hallLaneFailure c) s = .next (s.fenceCore c 2).settleAll)
  ∧ (∀ (s : State) (c : CoreId), (s.core c).powered = true → bitOf (s.room c.room).pwr.toNat 6 = true →
      (s.room c.room).ownerSuite ≠ none → (s.core c).resident = [] → (s.core c).gustA ≤ 4 →
      exec (.corePowerGate c) s = .next (s.updCore c (fun y => { y with powered := false, gustFill := 0 })))
  ∧ (∀ (s : State) (c : CoreId), (s.core c).powerWait = true →
      exec (.corePowerReady c) s = .next (s.updCore c (fun x => { x with powered := true, powerWait := false })))

/-! ## Register commands -/

/-- A command that writes a command register, made by an agent that may: it travels to the register's endpoint and back (R43, R181), the
module accepts the access and the command takes its effect there; of a command that its unit can turn away, what it does where the unit
takes it: a port that is down trains again, a parked group resumes or ends, an idle engine starts its chain, an empty slice or cache is
enabled, a core or a Room of the Wing is fenced (R76, R80, R82, R246, R309, R316, R327, R364, R433). -/
def Obligations.RegisterCommandsAct : Prop :=
  let acts := fun (c : Instr) (a : Agent) (e : State → Endpoint) (may : State → Prop) (effect : State → State) =>
    ∀ s : State, s.on = true → may s →
      exec c s = .next (s.ctlExchange (agentEndpoint a) (e s) (fun t => effect t.acceptedAccess))
  let system := fun (a : Agent) (_ : State) => suite0OrHearth a = true
  let hearth := fun (a : Agent) (_ : State) => a = .hearth
  let lead := fun (n : BitVec 8) (s : State) => Endpoint.dispatcher (s.gsuite n).leadWing
  let group := fun (a : Agent) (c : CoreId) (v : W64) (cmd : Nat) (s : State) =>
    s.roomWriter a c.room = true ∧ (cmdFields v).2.1 = cmd ∧ (s.slot ⟨c, (cmdFields v).1⟩).state = .parked
      ∧ (s.slot ⟨c, (cmdFields v).1⟩).parkSeq = (cmdFields v).2.2
  (∀ a p, acts (.portRetrain a p) a (fun _ => .porch (porchOf p)) (fun s => suite0OrHearth a = true ∧ (s.link p).state = .down)
      (fun t => t.updLink p Link.fresh))
  ∧ (∀ a p, acts (.portRetrain a p) a (fun _ => .porch (porchOf p)) (fun s => suite0OrHearth a = true ∧ (s.link p).state ≠ .down) id)
  ∧ (∀ a m k, acts (.calibrationGo a m k) a (fun _ => ctlEndpoint m) (system a) (fun t => t.updMc m (fun x => x.go m k)))
  ∧ (∀ a m p, acts (.pageWipe a m p) a (fun _ => ctlEndpoint m) (hearth a)
      (fun t => t.updMc m (fun x => { x with wiping := false, wipePage := some p.toNat, wipeDone := false })))
  ∧ (∀ a m, acts (.fullWipe a m) a (fun _ => ctlEndpoint m) (fun s => a = .hearth ∧ (s.mc m).inService = true)
      (fun t => t.updMc m (fun x => { x with wiping := true, wipePage := none, wipeDone := false, progress := 0 })))
  ∧ (∀ a e v n, acts (.cpyGo a e v) a (fun _ => .porch (enginePorch e))
      (fun s => s.engineWriter a e = true ∧ (s.engine e).owner = some n ∧ (s.engine e).busy = false)
      (fun t => t.startChain e n (bitsOf v.toNat 6 42 * 64)))
  ∧ (∀ a e v, acts (.cpyGo a e v) a (fun _ => .porch (enginePorch e))
      (fun s => s.engineWriter a e = true ∧ ((s.engine e).owner = none ∨ (s.engine e).busy = true))
      (fun t => t.updEngine e (fun y => { y with goRefused := true })))
  ∧ (∀ a n v, acts (.graphModeWrite a n v) a (lead n) (fun _ => graphWriter a n = true) (fun t => t.setGraphMode n (v.getLsbD 0)))
  ∧ (∀ a c v, acts (.replay a c v) a (fun _ => .core c) (group a c v 1) (fun t => t.resume ⟨c, (cmdFields v).1⟩))
  ∧ (∀ a c v f, acts (.discard a c v) a (fun _ => .core c)
      (fun s => group a c v 2 s ∧ (s.slot ⟨c, (cmdFields v).1⟩).fault = some f)
      (fun t => (t.updTaskSlots c (t.slot ⟨c, (cmdFields v).1⟩) (fun x => x.endWith (BitVec.ofNat 8 (1 + 16 * causeCode f.cause)))).updSlot
        ⟨c, (cmdFields v).1⟩ (fun x => { x with state := .draining, fault := none, marks := [], kept := [] })))
  ∧ (∀ a c v, acts (.replay a c v) a (fun _ => .core c)
      (fun s => s.roomWriter a c.room = true ∧ (cmdFields v).2.1 = 1 ∧ ¬ group a c v 1 s) (fun t => t.staleCmd c))
  ∧ (∀ a k, acts (.sliceEnable a k) a (fun _ => homeEndpoint k.val)
      (fun s => s.sliceWriter a k.val = true ∧ (s.slice k.val).cleanState = true)
      (fun t => t.updSlice k.val (fun x => { x with enable := true })))
  ∧ (∀ a k, acts (.sliceEnable a k) a (fun _ => homeEndpoint k.val)
      (fun s => s.sliceWriter a k.val = true ∧ (s.slice k.val).cleanState = false)
      (fun t => t.updSlice k.val (fun x => { x with refused := true })))
  ∧ (∀ a k, acts (.sliceDisable a k) a (fun _ => homeEndpoint k.val) (fun s => s.sliceWriter a k.val = true)
      (fun t => (t.emptySlice k.val).updSlice k.val (fun x => { x with enable := false, cleanState := false })))
  ∧ (∀ a c, acts (.rocEnable a c) a (fun _ => .core c) (fun s => s.roomWriter a c.room = true ∧ (s.core c).rocClean = true)
      (fun t => t.updCore c (fun x => { x with rocEnable := true })))
  ∧ (∀ a c, acts (.rocEnable a c) a (fun _ => .core c) (fun s => s.roomWriter a c.room = true ∧ (s.core c).rocClean = false)
      (fun t => t.updCore c (fun x => { x with rocRefused := true })))
  ∧ (∀ a c, acts (.rocInval a c) a (fun _ => .core c) (fun s => s.roomWriter a c.room = true)
      (fun t => (t.dropRoc c).updCore c (fun x => { x with rocClean := true })))
  ∧ (∀ a k v c, acts (.wingFenceCmdCore a k v) a (fun _ => .cellar k)
      (fun s => suite0OrHearth a = true ∧ coreOfId (bitsOf v.toNat 0 16) = some c ∧ wingOfRoom c.room = k ∧ (s.core c).fenced = false)
      (fun t => (t.fenceCore c 4).settleAll))
  ∧ (∀ a k v r, acts (.wingFenceCmdRoom a k v) a (fun _ => .cellar k)
      (fun s => suite0OrHearth a = true ∧ coreOfId (bitsOf v.toNat 0 16) = none ∧ hallOfId (bitsOf v.toNat 0 16) = some r
        ∧ wingOfRoom r = k ∧ (s.room r).lost = false)
      (fun t => t.loseRoom r 5))
  ∧ (∀ a n v, acts (.walkModeWrite a n v) a (lead n) (fun s => graphWriter a n = true ∧ (s.gsuite n).xbusy = false)
      (fun t => t.updGsuite n (fun g => { g with walkMode := bitOf v.toNat 0, xbusy := true, xop := 3, xdone := true, xlats := [] })))
  ∧ (∀ h p c v, acts (.mtimecmpWrite (.mmode h) p c v) (.mmode h) (fun _ => .parlour p) (fun _ => parlourOf h = p)
      (fun t => t.setMtimecmp p c v))
  ∧ (∀ a r v, acts (.roomRectWrite a r v) a (fun _ => .hall r)
      (fun s => a = .hearth ∧ ∀ k : Fin 6, (s.core ⟨r, k⟩).resident = []) (fun t => t.setRect r v))
  ∧ (∀ e a k, acts (.wingStampRead e a k) a (fun _ => agentEndpoint a) (system a)
      (fun t => { (t.exchangeStamp e k).2 with lastRead := (t.exchangeStamp e k).1 }))

/-- The register commands from an agent that may not give them (R82 and the rules of each register): the access is refused and nothing else
changes but the stamps of the two endpoints; a hart that writes PLR_MTIMECMP of the other Parlour also takes an access fault (R282). A
module that is off takes none (the model's reading: an unpowered module has no effects). -/
def Obligations.RegisterCommandsRefused : Prop :=
  let refused := fun (s : State) (a : Agent) (e : Endpoint) => s.ctlExchange (agentEndpoint a) e State.refusedAccess
  (∀ s : State, s.on = true →
     (∀ a p, suite0OrHearth a = false → exec (.portRetrain a p) s = .next (refused s a (.porch (porchOf p))))
     ∧ (∀ a m k, suite0OrHearth a = false → exec (.calibrationGo a m k) s = .next (refused s a (ctlEndpoint m)))
     ∧ (∀ a m p, a ≠ .hearth → exec (.pageWipe a m p) s = .next (refused s a (ctlEndpoint m)))
     ∧ (∀ a m, a ≠ .hearth → exec (.fullWipe a m) s = .next (refused s a (ctlEndpoint m)))
     ∧ (∀ a e v, s.engineWriter a e = false → exec (.cpyGo a e v) s = .next (refused s a (.porch (enginePorch e))))
     ∧ (∀ a c v, s.roomWriter a c.room = false → exec (.replay a c v) s = .next (refused s a (.core c)))
     ∧ (∀ a c v, s.roomWriter a c.room = false → exec (.discard a c v) s = .next (refused s a (.core c)))
     ∧ (∀ a k, s.sliceWriter a k.val = false → exec (.sliceEnable a k) s = .next (refused s a (homeEndpoint k.val)))
     ∧ (∀ a k, s.sliceWriter a k.val = false → exec (.sliceDisable a k) s = .next (refused s a (homeEndpoint k.val)))
     ∧ (∀ a r v, a ≠ .hearth → exec (.roomRectWrite a r v) s = .next (refused s a (.hall r)))
     ∧ (∀ a p c v, (∀ h, a ≠ .mmode h) → exec (.mtimecmpWrite a p c v) s = .next (refused s a (.parlour p)))
     ∧ (∀ h p c v, parlourOf h ≠ p → exec (.mtimecmpWrite (.mmode h) p c v) s
         = .next ((refused s (.mmode h) (.parlour p)).hartTrap h 7
             (BitVec.ofNat 64 (0xF00020001000 + 0x1000000 * p.val + 8 * c.val)))))
  ∧ (∀ (s : State) (a : Agent) (c : CoreId) (m : Ctl) (v : W64) (p : PA) (n : Nat), s.on = false →
       exec (.replay a c v) s = .next s ∧ exec (.discard a c v) s = .next s ∧ exec (.rocEnable a c) s = .next s
       ∧ exec (.fullWipe a m) s = .next s ∧ exec (.controlRegisterWrite a p n v) s = .next s ∧ exec (.rcFieldRead a p n v) s = .next s
       ∧ exec (.jobStart a v) s = .next s ∧ exec (.heartbeat .hearth) s = .next s)

/-- A write and a read of a control register of a powered module (R8, R10, R11, R43, R181): an access of a form the register has, by an
agent that may make it, travels to the register's endpoint; a write gives its fields their values there, a read answers the register's
value and clears its counters; an access that the agent may not make is refused. The message-signalled files take writes (R262). What that
is for a register of each kind: the write of an owner, of a band and of a Room's power fields, the read of a Room's mesh counters. -/
def Obligations.ControlRegisterAccess : Prop :=
  (∀ (s : State) (a : Agent) (p : PA) (size : Nat) (v : W64) (lo hi : Bool) (r : Reg), s.on = true → (a = .bmc → size = 8) →
    imsicFile p.toNat = none → accessForm p.toNat size = some (lo, hi) → regOf (p.toNat / 8 * 8) = some r →
    let me := agentEndpoint a
    let at_ := if a = .bmc then me else s.regEndpoint r
    let n := (s.ctlAsk me at_).regValue a r
    (s.writable a r = true → (r.hasWo = true → lo = true ∧ hi = true) →
      exec (.controlRegisterWrite a p size v) s = .next (s.ctlExchange me at_ (fun t => t.acceptedAccess.regWrite a r
        ⟨lo, hi, if lo && hi then v.toNat else if lo then v.toNat % 2 ^ 32 else v.toNat % 2 ^ 32 * 2 ^ 32⟩)))
    ∧ ((s.writable a r = false ∨ (r.hasWo = true ∧ ¬(lo = true ∧ hi = true))) →
      exec (.controlRegisterWrite a p size v) s = .next (s.ctlExchange me at_ State.refusedAccess))
    ∧ (s.readable a r = true →
      exec (.rcFieldRead a p size v) s = .next { (((s.ctlAsk me at_).regCount a r ⟨lo, hi, v.toNat⟩).ctlAsk at_ me) with
        lastOk := true, lastRead := BitVec.ofNat 64 (if lo && hi then n else if lo then n % 2 ^ 32 else bitsOf n 32 32) })
    ∧ (s.readable a r = false → ∃ t, exec (.rcFieldRead a p size v) s = .next t ∧ t.lastOk = false ∧ t.lastRead = 0))
  ∧ (∀ (s : State) (a : Agent) (p : PA) (v : W64), s.on = true → a ≠ .bmc → (imsicFile p.toNat).isSome = true →
      imsicForm p.toNat 4 = true →
      exec (.controlRegisterWrite a p 4 v) s = .next (s.acceptedAccess.msiTo (agentTag a) p.toNat (BitVec.ofNat 32 v.toNat)))
  ∧ (∀ (s : State) (p : PA) (v : W64), s.on = true → imsicFile p.toNat = none → p.toNat % 8 = 0 →
      (regOf p.toNat = some (.power .own) → ∃ t, exec (.controlRegisterWrite .hearth p 8 v) s = .next t ∧ t.lastOk = true
        ∧ t.power = { s.power with owner := BitVec.ofNat 8 (v.toNat % 256) })
      ∧ (∀ b, regOf p.toNat = some (.band b) → ∃ t, exec (.controlRegisterWrite .hearth p 8 v) s = .next t ∧ t.lastOk = true
        ∧ Table.get 0 t.hearth.bands b.val = BitVec.ofNat 64 (v.toNat % 2 ^ 22))
      ∧ (∀ r a, regOf p.toNat = some (.room r .pwr) → s.roomWriter a r = true → a ≠ .bmc →
        ∃ t, exec (.controlRegisterWrite a p 8 v) s = .next t ∧ t.lastOk = true
          ∧ (t.room r).pwr = pwrClamped (BitVec.ofNat 64 (v.toNat % 2 ^ 7)))
      ∧ (∀ r a, regOf p.toNat = some (.room r .meshCnt) → suite0OrHearth a = true → a ≠ .bmc →
        ∃ t, exec (.rcFieldRead a p 8 0) s = .next t ∧ t.lastOk = true
          ∧ t.lastRead = BitVec.ofNat 64 (s.roomValue r .meshCnt) ∧ (t.room r).discard = 0 ∧ (t.room r).laneRetry = 0))

/-! ## Rooms and the Hall (R165 to R181) -/

/-- The bank of a Room serves a request that has come to it, may be served and whose lane's turn it is, with error-free data (R166 to
R168); a packet whose turn it is goes one
router further towards its Room, or leaves the mesh there, and a Room it may not pass discards it (R176, R177, R179). -/
def Obligations.RoomsAndMesh : Prop :=
  (∀ (s : State) (r : RoomId) (req : Nat) (q : Req), Table.find s.reqs req = some q → q.room = some r → q.waiting = true → q.router = none →
     (s.room r).lost = false → (s.room r).wiping = false → s.mayServe req q = true → s.bankTurn r (roomBank q.addr) q.lane = true →
     (match q.owner with | .dma g _ _ => g.core.room = r ∨ (s.room r).ownerSuite = some (q.suite, q.gen) | _ => True) →
     let s1 := s.updRoom r (fun x => { x with bankPtr := Table.set x.bankPtr (roomBank q.addr) ((q.lane + 1) % 16) })
     (q.kind = .read → exec (.roomMemoryAccess r req .clean) s = .next (s1.roomReadGrant r req q))
     ∧ (q.kind = .write → exec (.roomMemoryAccess r req .clean) s = .next (s1.roomWriteGrant r req q))
     ∧ (q.kind = .atomic → exec (.roomMemoryAccess r req .clean) s = .next (s1.roomAtomGrant r req q)))
  ∧ (∀ (s : State) (req : Nat) (q : Req) (r dst : RoomId), Table.find s.reqs req = some q → q.router = some r → q.bound = some dst →
       q.gone = false →
       ((s.room r).accepts q = false → exec (.meshPacketForward req) s = .next (s.discardPacket r req))
       ∧ ((s.room r).accepts q = true → (s.room r).routerOk = true → s.meshTurn r dst q = true →
           let out := meshOutput r dst
           let s1 := s.updRoom r (fun x => { x with outPtr := Table.set x.outPtr out ((q.inPort + 1) % 5) })
           (r = dst → exec (.meshPacketForward req) s = .next (s1.arrive req (fun x => { x with router := none, back := false })))
           ∧ (r ≠ dst → s.portOpen r out = true → exec (.meshPacketForward req) s
               = .next (s1.arrive req (fun x => { x with router := some (nextHop r dst).1, inPort := (out + 2) % 4 })))))

/-- Failures in the Hall (R170, R407, R425, R426): a beat sent again is counted; a lane group between two Wings that fails goes down at both ends
and is reported; a failed router and a failed Hall lose the Room; a finished wipe leaves the Room's memory empty. -/
def Obligations.HallEvents : Prop :=
  (∀ (s : State) (r n : RoomId) (d : Fin 4), neighbour r d.val = some n → wingOfRoom r ≠ wingOfRoom n → (s.room r).portUp d.val = true →
      exec (.roomLaneBeat r d .ok) s = .next s
      ∧ exec (.roomLaneBeat r d .resent) s = .next (s.updRoom r (fun x => { x with laneRetry := sat16 x.laneRetry 1 }))
      ∧ (∃ t rep, exec (.roomLaneBeat r d .failed) s = .next t
          ∧ t = (((s.updRoom r (fun x => { x.setPort d.val false with laneRetry := sat16 x.laneRetry 1 })).updRoom n
              (fun x => x.setPort ((d.val + 2) % 4) false)).report (.hall r) rep)
          ∧ rep.cause = 8 ∧ rep.subject = endpointId (.hall r) ∧ rep.locA = 3))
  ∧ (∀ (s : State) (r : RoomId), s.on = true → (s.room r).routerOk = true →
      ∃ s1 : State, exec (.routerFailure r) s = .next ((s1.dropCrossing r).loseRoom r 0))
  ∧ (∀ (s : State) (r : RoomId) (trigger : BitVec 8), s.on = true → (trigger = 1 ∨ trigger = 2 ∨ trigger = 3) →
      exec (.hallFailure r trigger) s = .next (s.loseRoom r trigger.toNat))
  ∧ (∀ (s : State) (r : RoomId), (s.room r).wiping = true →
      exec (.roomWipeComplete r) s
        = .next (s.updRoom r (fun x => { x with wiping := false, mem := [], poison := [], bankPtr := [] })))

/-! ## The graph engine (R190 to R240) -/

/-- The next firing that is able to run is fired (R199). A dispatcher takes its messages (R198 to R205): a refused launch is tried on
another core or fails its task; a freed core is offered to the tasks that wait for its Room; a finished firing ends; tokens and credits
are added; a record goes to its Suite's sink; a slot of a stream is marked done. -/
def Obligations.FiringsAndMessages : Prop :=
  (∀ (s : State) (k : Fin 8) (i : Nat) (rest : List Nat), ((s.settle k).disp k).able = i :: rest →
     exec (.firing k) s
       = .next ((((s.settle k).updDisp k (fun d => { d with able := rest })).fire k i).settleAll))
  ∧ (∀ (s : State) (k : Fin 8) (m : BwMsg) (s1 : State),
       (∀ i t, s.takeFor (.dispatcher k) (fun p => match p with | .refuse _ _ => true | _ => false) = some (m, s1) →
         s1.task k i = some t → t.state = .launching → t.suite = m.suite →
         (m.payload = .refuse i false →
           exec (.launchRefuse k) s = .next ((s1.updTask k i (fun x => { x with tried := x.tried ++ [x.core] })).launchOn k i))
         ∧ (m.payload = .refuse i true → exec (.launchRefuse k) s = .next (((s1.taskFailed k i 9).graphCheck t.suite t.graph).settleAll)))
       ∧ (∀ c, s.takeFor (.dispatcher k) (fun p => p = .freed) = some (m, s1) → m.src = .core c →
           exec (.freed k) s = .next ((((s1.disp k).tasks.filter (fun e => e.2.state = .waiting && e.2.room = c.room)).map (fun e => e.1)).foldl
             (fun t i => (t.updTask k i (fun x => { x with tried := [] })).launchOn k i) s1))
       ∧ (∀ i firing outcome t c, s.takeFor (.dispatcher k) (fun p => match p with | .done _ _ _ => true | _ => false) = some (m, s1) →
           m.payload = .done i firing outcome → m.src = .core c → s1.task k i = some t → t.suite = m.suite → t.firing = firing →
           t.state = .running →
           exec (.done k) s
             = .next ((t.ctxs.foldl (fun x n => x.publishCtx t.suite n false) (s1.firingEnds k i outcome c.core.val)).settleAll))
       ∧ (∀ h n e, s.takeFor (.dispatcher k) (fun p => match p with | .tokenAdd _ _ => true | _ => false) = some (m, s1) →
           m.payload = .tokenAdd h n → s1.edge h = some e → e.suite = m.suite → exec (.tokenAdd k) s = .next (s1.addTokens h n).settleAll)
       ∧ (∀ h n e, s.takeFor (.dispatcher k) (fun p => match p with | .creditRet _ _ => true | _ => false) = some (m, s1) →
           m.payload = .creditRet h n → s1.edge h = some e → e.suite = m.suite →
           exec (.creditReturn k) s = .next (s1.addCredits h n).settleAll)
       ∧ (∀ r, s.takeFor (.dispatcher k) (fun p => match p with | .record _ => true | _ => false) = some (m, s1) → m.payload = .record r →
           (m.gen = s.genOf m.suite → (s.suite m.suite).staleAll = false → exec (.eventRecord k) s = .next (s1.sinkRecord k.val m.suite r))
           ∧ (m.gen ≠ s.genOf m.suite → exec (.eventRecord k) s
               = .next (s1.updWing k (fun w => { w with staleGen := sat16 w.staleGen 1 }))))
       ∧ (∀ i member chunk x, s.takeFor (.dispatcher k) (fun p => match p with | .slotDone _ _ _ => true | _ => false) = some (m, s1) →
           m.payload = .slotDone i member chunk → s1.stream k i = some x → x.suite = m.suite →
           exec (.slotDone k) s = .next (s1.updStream k i (fun y =>
             { y with dones := Table.set y.dones (16 * (chunk % y.nbuf) + member) (chunk + 1) }))))

/-- Contexts, sinks and stalls (R203, R213 to R221, R479): a spill that ends moves its tokens out, or loses its context where its write failed; a
Suite none of whose tasks can fire is noted once as stalled; waiting records go to the sink while it has room. -/
def Obligations.GraphUpkeep : Prop :=
  (∀ (s q t : State) (n : BitVec 8) (i : Nat) (c : Ctx) (eccs : List Ecc) (lanes : Table Nat),
      Table.find (s.gsuite n).ctxs i = some c → c.spillBusy = true →
      s.stairLanes (c.validParts.map (fun p => (p.1, p.2.1))) = (some lanes, q) →
      q.spillCopy n c (Table.get 14 lanes) eccs = (none, t) →
      exec (.spillComplete n ⟨i, eccs⟩) s = .next ((((t.updCtx n i (fun x =>
        { x with spillBusy := false, spilled := x.spilled + x.spillTok })).spillStart n i).publishCtx n i false).settleAll))
  ∧ (∀ (s : State) (n : BitVec 8), (s.gsuite n).stalled = false →
      (∃ k e, e ∈ (s.disp k).tasks ∧ e.2.suite = n) →
      (∀ k e, e ∈ (s.disp k).tasks → e.2.suite = n → e.2.inFlight = false ∧ s.canFire k e.1 e.2 = false) →
      exec (.graphStall n) s
        = .next ((s.updGsuite n (fun g => { g with stalled := true })).note (s.gsuite n).leadWing n 0x2B 0 0 0 0 0))
  ∧ (∀ (s : State) (k : Fin 8) (n : BitVec 8) (r : Record), Table.get [] (s.gsuite n).sinkQueue k.val = [r] → (s.gsuite n).sinkRoom = true →
      exec (.sinkQueueDrain k n) s
        = .next ((s.updGsuite n (fun x => { x with sinkQueue := Table.set x.sinkQueue k.val [] })).sinkPut n r))

/-- Streams (R208 to R212): a chunk that is ready and whose lines are all readable is delivered to its members and its place in the ring
is taken; a delivery is published in the member's header; a page that is back is offered to every core of its Room. -/
def Obligations.Streams : Prop :=
  (∀ (s : State) (k : Fin 8) (i : Nat) (x : Stream) (f q : State) (lanes : Table Nat), s.stream k i = some x → s.chunkReady x = true →
      s.chunkFault x.suite (pagePieces (x.chunkVa x.next) x.chunkLen) = (none, f) → f.stairLanes x.members = (some lanes, q) →
      ∃ (s1 : State) (marks : List (Nat × Nat)), exec (.streamChunkIssue k i) s = .next (s1.updStream k i (fun y =>
        { y with next := x.next + 1, busy := y.busy ++ [(x.next, y.members.map (fun m => m.1))],
                 marked := y.marked.filter (fun q => q.2 != x.next % x.nbuf) ++ marks })))
  ∧ (∀ (s : State) (k : Fin 8) (i : Nat) (x : Stream) (f : State) (bad : Nat), s.stream k i = some x → s.chunkReady x = true →
      s.chunkFault x.suite (pagePieces (x.chunkVa x.next) x.chunkLen) = (some bad, f) →
      exec (.streamChunkIssue k i) s
        = .next ((f.updStream k i (fun y => { y with stopped := true })).note k x.suite 0x2C x.graph i 0 0 bad))
  ∧ (∀ (s : State) (k : Fin 8) (i member g : Nat) (x : Stream) (ms : List Nat) (r : RoomId), s.stream k i = some x →
      x.busy.find? (fun c => c.2.contains member) = some (g, ms) → x.member member = some r → s.graphEnded x.suite x.graph = false →
      ∃ t, exec (.streamChunkDelivered k i member) s = .next t
        ∧ t.room r = (s.roomWrite r (x.hdrOff + 64 * (g % x.nbuf)) (leBytes 8 (g + 1)) false).room r)
  ∧ (∀ (s : State) (r : RoomId) (m : BwMsg) (s1 : State) (page : Nat) (cid : BitVec 16),
      s.takeFor (.hall r) (fun p => match p with | .reinstalled _ _ => true | _ => false) = some (m, s1) →
      m.payload = .reinstalled page cid → (s1.stairLane r).1 ≠ none →
      ∃ t, exec (.pageReinstalledReport r) s = .next t ∧ ∀ c : Fin 6, page ∈ (t.core ⟨r, c⟩).reinstalled)

/-- The mail commands (R190 to R197, R204, R214, R217, R220): a host's message joins its slot and is answered; a command at the head of
its slot's mail runs, is answered with its status, leaves the mail, and what it settles follows. What each does where its operands are
in order and what it names is there: a graph is installed, tokens are written and added, credits return, contexts become active, a
graph ends, a lost task is placed again, an order list grows, contexts are retired. -/
def Obligations.MailCommands : Prop :=
  let ends := fun (n : BitVec 8) (m : MailMsg) (st : Nat) (t : State) => (((t.ackMail n m st).popMail n).skipUnassigned n).settleAll
  let runs := fun (c : BitVec 8 → Instr) (cmd : Nat) (run : BitVec 8 → MailMsg → State → Nat × State) =>
    ∀ (s : State) (n : BitVec 8) (who : Sender) (m : MailMsg) (rest : List (Sender × MailMsg)), (s.gsuite n).mail = (who, m) :: rest →
      m.cmd.toNat = cmd → exec (c n) s = .next (ends n m (run n m s).1 (run n m s).2)
  runs .submit 1 State.runSubmit ∧ runs .token 2 State.runToken ∧ runs .credit 3 State.runCredit ∧ runs .admitCtxs 4 State.runAdmit
  ∧ runs .endGraph 6 State.runEnd ∧ runs .resubmit 7 State.runResubmit ∧ runs .order 8 State.runOrder
  ∧ (∀ (s : State) (n : BitVec 8) (who : Sender) (m : MailMsg) (rest : List (Sender × MailMsg)), (s.gsuite n).mail = (who, m) :: rest →
      (∀ g ps es ss s1 s2 s3 s4 s5 s6, m.cmd.toNat = 1 → mailPlain m false false false false = true →
        s.readGraph n m.opa.toNat = (some (some g), s1) → s1.graphStatus n (s.genOf n) g = 0 →
        let h := (s1.gsuite n).freeHandle
        h ≤ 65535 → s1.placeTasks n (s.genOf n) h (wordAt g.hdr 0) 0 g.tasks = (some ps, s2) →
        s2.placeEdges n (s.genOf n) h ps 0 g.edges = (some es, s3) → s3.placeStreams n (s.genOf n) h g.streams = (some ss, s4) →
        s4.gWrite n (wordAt g.hdr 4) (ps.flatMap (fun p => leBytes 4 (p.2 + p.1 * 2 ^ 16))) = (true, s5) →
        s5.gWrite n (wordAt g.hdr 5) (es.flatMap (fun e => leBytes 4 e)) = (true, s6) →
        let s7 := s6.updGsuite n (fun x =>
          { x with graphs := Table.set x.graphs h { tasks := ps, edges := es, streams := ss, ended := false }, stalled := false })
        exec (.submit n) s = .next (ends n m 0 (s7.note (s7.gsuite n).leadWing n 0x26 h 0 0 0 0)))
      ∧ (∀ e, m.cmd.toNat = 2 → mailPlain m true true false true = true → m.opa.toNat < 2 ^ 20 → 1 ≤ m.opb.toNat → m.opb.toNat ≤ 65535 →
        m.opc.toNat % 64 = 0 → m.opc.toNat + 64 * m.len.toNat ≤ 48 * 2 ^ 20 → s.suiteEdge n m.opa.toNat = some e → e.producer = none →
        s.graphEnded n e.graph = false → e.lostBuf = false → (e.isCount = true ∨ e.tokens + e.held + m.opb.toNat ≤ e.capacity) →
        let add := fun (t : State) =>
          let t1 := t.addTokens m.opa.toNat m.opb.toNat
          if e.isCount then t1 else t1.updEdge m.opa.toNat (fun x => { x with credits := x.credits - m.opb.toNat })
        (m.len = 0 → exec (.token n) s = .next (ends n m 0 (add s)))
        ∧ (∀ r, m.len ≠ 0 → e.buffers = some r →
            exec (.token n) s = .next (ends n m 0 (add (s.roomWrite r m.opc.toNat m.payload false)))))
      ∧ (∀ e, m.cmd.toNat = 3 → mailPlain m true false false false = true → m.opa.toNat < 2 ^ 20 → 1 ≤ m.opb.toNat → m.opb.toNat ≤ 65535 →
        s.suiteEdge n m.opa.toNat = some e → e.consumer = none → s.graphEnded n e.graph = false → e.credits + m.opb.toNat ≤ e.capacity →
        exec (.credit n) s = .next (ends n m 0 (s.addCredits m.opa.toNat m.opb.toNat)))
      ∧ (∀ l s1, m.cmd.toNat = 4 → mailIndicesOk m = true → s.readCtxs n (mailIndices m) = (.inr l, s1) →
        exec (.admitCtxs n) s = .next (ends n m 0 (l.foldl (fun t e => t.publishCtx n e.1 false)
          (s1.updGsuite n (fun g => { g with ctxs := l.foldl (fun t e => Table.set t e.1 e.2) g.ctxs })))))
      ∧ (∀ g, m.cmd.toNat = 6 → mailPlain m false false false false = true → Table.find (s.gsuite n).graphs m.opa.toNat = some g →
        g.ended = false → exec (.endGraph n) s = .next (ends n m 0 ((s.updGsuite n (fun x =>
          { x with graphs := Table.set x.graphs m.opa.toNat { g with ended := true } })).graphCheck n m.opa.toNat)))
      ∧ (∀ g w i t r, m.cmd.toNat = 7 → mailPlain m true true true false = true → m.opd.toNat < 2 ^ 32 → word1Ok m.opc.toNat = true →
        bitsOf m.opc.toNat 32 21 = 0 → Table.find (s.gsuite n).graphs m.opa.toNat = some g → listAt g.tasks m.opb.toNat = some (w, i) →
        s.task (Fin.ofNat 8 w) i = some t → t.state = .lost → g.ended = false → roomOfWord1 m.opc.toNat = some r →
        s.roomUsable n (some r) = true →
        exec (.resubmit n) s = .next (ends n m 0 ((t.ins ++ t.outs).foldl (fun y h => y.rebind h r) (s.updTask (Fin.ofNat 8 w) i (fun x =>
          { x with word1 := m.opc, state := .idle, refire := m.opd.toNat, tried := [], restarted := false, avoid := none })))))
      ∧ (∀ bs s1, m.cmd.toNat = 8 → mailPlain m true true false false = true → m.opa.toNat < 8 → 1 ≤ m.opc.toNat → m.opc.toNat ≤ 65536 →
        (s.gsuite n).hostOrder = true → s.hearth.wingIn.getLsbD m.opa.toNat = true → s.gRead n m.opb.toNat (2 * m.opc.toNat) = (some bs, s1) →
        let k : Fin 8 := Fin.ofNat 8 m.opa.toNat
        let vs := (List.range m.opc.toNat).map (fun i => leNat ((bs.drop (2 * i)).take 2))
        (∀ v ∈ vs, ∃ t, s.task k v = some t ∧ t.suite = n) → (s1.orderList n k).length + m.opc.toNat ≤ 65536 →
        exec (.order n) s = .next (ends n m 0 (s1.updGsuite n (fun g =>
          { g with orders := Table.set g.orders m.opa.toNat (s1.orderList n k ++ vs) }))))
      ∧ (m.cmd.toNat = 5 → s.retireStatus n m = 0 →
        ((s.gsuite n).ctxsQuiet (mailIndices m) = true → exec (.retire n) s = .next (ends n m 0 (s.finishRetire n (mailIndices m))))
        ∧ ((s.gsuite n).ctxsQuiet (mailIndices m) = false → exec (.retire n) s
          = .next ((mailIndices m).foldl (fun t i => t.updCtx n i (fun c => { c with retiring := true })) s))
        ∧ ((s.gsuite n).ctxsQuiet (mailIndices m) = true →
            (∀ i ∈ mailIndices m, ∃ c, Table.find (s.gsuite n).ctxs i = some c ∧ c.retiring = true) → exec (.retireComplete n) s
          = .next (ends n m 0 (s.finishRetire n (mailIndices m))))))
  ∧ (∀ (s : State) (port : Fin 4) (hdr : BeyfyHdr) (msg : MailMsg), (s.byPort port).link.state = .active →
      s.msgFormOk port hdr 1 (64 + 64 * msg.len.toNat) none true = true → s.current hdr.suite hdr.gen = true → hdr.suite = msg.suite →
      hdr.gen = msg.gen →
      let clear := s.openMail hdr.session msg
      let r := s.offerMail hdr.suite (.session hdr.session) (if msg.auth then { msg with payload := clear.getD [] } else msg) clear.isSome
      exec (.mail port hdr msg) s = .next ((r.2.updGsuite hdr.suite (fun g =>
        g.updSender (.session hdr.session) (fun x => { x with port := port.val }))).beyfySend port (beyfyAnswer 2 hdr r.1 []))
      ∧ (∀ q, msg.auth = true → clear.isSome = true → (s.gsuite hdr.suite).senders.find? (fun x => x.sender = .session hdr.session) = some q →
          (s.gsuite hdr.suite).moving = false → q.inUse < q.limit → (s.gsuite hdr.suite).mail.length < 32 → q.lastSeq < msg.seqno.toNat →
          (s.suite hdr.suite).staleAll = false → mailAssigned msg.cmd = true → (s.gsuite hdr.suite).mail = [] →
          ∃ t, exec (.mail port hdr msg) s = .next t
            ∧ (t.gsuite hdr.suite).mail = [(.session hdr.session, { msg with payload := clear.getD [] })]
            ∧ (t.gsuite hdr.suite).accepted = sat16 (s.gsuite hdr.suite).accepted 1))
  ∧ (∀ (s : State) (n : BitVec 8) (session : BitVec 12) (r : SenderReg),
      (s.gsuite n).senders.find? (fun x => x.sender = .session session) = some r → r.owed ≠ 0 →
      ∃ t m, exec (.mailCredit n session) s = .next t ∧ (t.byPort (Fin.ofNat 4 r.port)).sent = (s.byPort (Fin.ofNat 4 r.port)).sent ++ [m]
        ∧ m.arg = BitVec.ofNat 64 (min r.owed 63) ∧ m.session = session ∧ m.suite = n)

/-! ## Homes, adders and the Window (R233 to R255, R299, R332 to R334) -/

/-- Requests are taken at their homes or targets once they may be served (R233, R240, R254); one that nothing there holds back is served
at once: a Parlour's read or upgrade is answered with the line and recorded, a read is answered with its bytes, a write and an atomic are
applied, a contribution joins the line's partial. A Window access that its Suite's Window allows becomes a request to its home; a refused
read is answered at once with zeros, a refused write is only counted; one not answered in time is answered or dropped (R332, R333). -/
def Obligations.HomeAndWindowRequests : Prop :=
  (∀ (s : State) (k : Nat) (r : Req) (ecc : Ecc), Table.find s.reqs k = some r →
     (r.stage = .sent → r.gone = false →
       (r.par = .rdS → exec (.rdS k ecc) s = .next (s.homeTake k r ecc))
       ∧ (r.par = .rdX → exec (.rdX k ecc) s = .next (s.homeTake k r ecc))
       ∧ (r.par = .upg → exec (.upg k ecc) s = .next (s.homeTake k r ecc))
       ∧ (r.kind = .red → exec (.redContribution k) s = .next (s.homeTake k r .clean)))
     ∧ (r.par = .none → r.waiting = true → r.room = none → r.router = none → s.mayServe k r = true →
       (rangeOf r.addr = .control → exec (.homeRequest k ecc) s = .next (s.controlServe k r))
       ∧ (rangeOf r.addr ≠ .control → exec (.homeRequest k ecc) s = .next (s.homeTake k r ecc))))
  ∧ (∀ (s : State) (k : Nat) (r : Req), s.HomeServes k r →
     let line := r.addr / 128
     let slice := s.reqHome r
     let s1 := s.arrivedAt r slice
     let v := s.viewLine slice line 15
     let entered := if s.dir slice line = .i then s1.dirMakeRoom slice line else s1
     (s.partialOf (lineKey slice line) = none → r.attr ≠ .dev → r.kind = .read → s.heldSectors slice line = 15 →
       (r.par = .rdS → ∀ d, (match s.dir slice line with | .i => .e r.die | .s p => .s (p ||| bitOfParlour r.die) | .e m => .e m) = d →
         exec (.rdS k .clean) s = .next ((entered.setDir slice line d).parAnswer k (some v) (decide (d = .e r.die))))
       ∧ (r.par = .rdX → exec (.rdX k .clean) s = .next ((entered.setDir slice line (.e r.die)).parAnswer k (some v) true))
       ∧ (r.par = .upg → (s.parlour r.die).line line r.suite = none →
           exec (.upg k .clean) s = .next ((entered.setDir slice line (.e r.die)).parAnswer k (some v) true)))
     ∧ (s.partialOf (lineKey slice line) = none → r.attr ≠ .dev → r.kind = .read → r.par = .upg →
         (s.parlour r.die).line line r.suite ≠ none → (s.dir slice line).holders.contains r.die = true →
         exec (.upg k .clean) s = .next ((s1.setDir slice line (.e r.die)).parAnswer k none true))
     ∧ (r.par = .none → r.waiting = true → r.room = none → r.router = none → s.mayServe k r = true → rangeOf r.addr ≠ .control →
         s.partialOf (lineKey slice line) = none →
         (r.kind = .read → r.attr ≠ .dev → s.heldSectors slice line &&& r.sectors = r.sectors →
           exec (.homeRequest k .clean) s = .next (s1.answerRead k r slice v.1 (s.viewLine slice line r.sectors).2))
         ∧ (r.kind = .write → s.readsFirst r slice line = false → s.needsWay slice line r.attr = false →
           exec (.homeRequest k .clean) s
             = .next ((s1.writeLine slice line (r.addr % 128) r.data r.attr r.mark).wroteReq k r))
         ∧ (r.kind = .atomic → s.needsWay slice line r.attr = false →
           exec (.homeRequest k .clean) s = .next (s1.serveAtomic k r slice line)))
     ∧ (r.kind = .red → r.par = .none → ∀ p, Table.find s.partials (lineKey slice line) = some p →
         let s2 := s1.cleanDrop slice line
         exec (.redContribution k) s = .next ({ s2 with
           partials := Table.set s2.partials (lineKey slice line) (r.red.foldl Partial.contribute p) }.wroteReq k r)))
  ∧ (∀ (s : State) (port : Fin 4) (hdr : BeyfyHdr), (s.byPort port).link.state = .active → winLineOk hdr = true →
       s.current hdr.suite hdr.gen = true →
       (s.msgFormOk port hdr 0x10 0 (some 128) true = true →
         (∀ s1, s.winTarget port hdr false = (none, s1) →
           exec (.winRd port hdr) s
             = .next ((s1.updByPort port (fun p => { p with winRef := sat16 p.winRef 1 })).beyfySend port
                 (beyfyAnswer 0x12 hdr 1 (List.replicate hdr.count.toNat 0))))
         ∧ (∀ l s1, s.winTarget port hdr false = (some l, s1) →
           ∃ t, exec (.winRd port hdr) s = .next t
             ∧ (t.byPort port).hostTags = (s1.byPort port).hostTags ++ [hdr.tag]
             ∧ Table.find t.reqs s1.nextReq = some { Req.blank (.window port hdr.tag) .read hdr.suite hdr.gen with
                 addr := l.pa, va := BitVec.ofNat 64 l.pa, size := hdr.count.toNat, attr := l.region.attr, seq := s1.nextReq }))
       ∧ (∀ data, s.msgFormOk port hdr 0x11 (unitBytes hdr.count.toNat) (some 128) true = true → data.length = unitBytes hdr.count.toNat →
         (∀ s1, s.winTarget port hdr true = (none, s1) →
           exec (.winWr port hdr data) s = .next (s1.updByPort port (fun p => { p with winRef := sat16 p.winRef 1 })))
         ∧ (∀ l s1, s.winTarget port hdr true = (some l, s1) →
           ∃ t, exec (.winWr port hdr data) s = .next t
             ∧ Table.find t.reqs s1.nextReq = some { Req.blank (.window port hdr.tag) .write hdr.suite hdr.gen with
                 addr := l.pa, va := BitVec.ofNat 64 l.pa, size := hdr.count.toNat, attr := l.region.attr,
                 data := data.take hdr.count.toNat, seq := s1.nextReq }))
       ∧ (∀ (write : Bool) (tag : BitVec 16) k r,
         s.reqs.find? (fun e => e.2.owner = .window port tag && (e.2.kind = .write) = write) = some (k, r) →
         exec (.windowTimeout port write tag) s = .next (if write then s.dropWrite k 0 0 else s.winAnswer k r 3 [])))

/-- Victims and snoops (R237, R239 to R242): a dirty victim is written back; a clean one is declined and counted, installed in an invalid
way or over a colder clean one, or dropped by a disabled slice; a die answers a snoop unless a hart holds it back, dropping or keeping its
copy; a home takes the answer with its dirty data, and the line's next request is served. -/
def Obligations.SnoopsAndVictims : Prop :=
  (∀ (s : State) (p : Fin 2) (tag : BitVec 8) (line : Nat) (l : L3Line), (s.parlour p).line line tag = some l → l.dirty = true →
      let slice := s.homeOf tag (128 * line)
      let s1 := (s.dropInner p line).updParlour p (fun x => { x with l3 := Table.erase x.l3 (l3Key line tag) })
      let s2 := (s1.takeDirty slice line l.data l.poison).dropReservations p line
      exec (.wbD p tag line) s = .next (s2.setDir slice line (((s1.takeDirty slice line l.data l.poison).dir slice line).leave p)))
  ∧ (∀ (s : State) (p : Fin 2) (tag : BitVec 8) (line : Nat) (l : L3Line), (s.parlour p).line line tag = some l → l.dirty = false →
      let slice := s.homeOf tag (128 * line)
      let s1 := s.victim p line tag
      let put := fun (t : State) => t.putIn slice line { data := l.data, valid := 15, dirty := 0, poison := false }
      let declines := fun (t : State) => t.updSlice slice (fun x => { x with offerDecl := sat16 x.offerDecl 1 })
      ((s1.slice slice).enable = false → exec (.offerC p tag line) s = .next s1)
      ∧ ((s1.slice slice).enable = true → s1.heldSectors slice line = 0 → l.poison = false → s1.partialOf (lineKey slice line) = none →
          (∀ q, s1.setFull slice = (false, q) → exec (.offerC p tag line) s = .next (put q))
          ∧ (∀ q s2 k, s1.setFull slice = (true, q) → q.drawBool = (true, s2) →
              listAt ((s2.drawBits.2.sliceKeys slice).filter s2.drawBits.2.leavesFree)
                (s2.drawBits.1.toNat % ((s2.drawBits.2.sliceKeys slice).filter s2.drawBits.2.leavesFree).length) = some k →
              exec (.offerC p tag line) s = .next (put (s2.drawBits.2.leaveWay k)))
          ∧ (∀ q s2, s1.setFull slice = (true, q) → q.drawBool = (false, s2) →
              exec (.offerC p tag line) s = .next (declines s2.drawBits.2))))
  ∧ (∀ (s : State) (id : Nat) (x : Snoop), s.snoops.find? (fun y => y.id = id) = some x → x.answered = false →
      (∀ e ∈ s.harts, ¬(e.1 / 64 = x.parlour.val ∧ e.2.lrHold = true ∧ e.2.reserve = some x.line)) →
      let s0 := if x.inv then s.dropInner x.parlour x.line else s
      let s1 := (s0.updParlour x.parlour (fun p => p.snooped x.inv x.line)).dropReservations x.parlour x.line
      exec (if x.inv then .snpInv id else .snpSh id) s
        = .next { s1 with snoops := s1.snoops.map (fun y =>
            if y.id = id then { y with answered := true, data := (s.parlour x.parlour).dirtyCopy x.line } else y) })
  ∧ (∀ (s : State) (id : Nat) (x : Snoop), s.snoops.find? (fun y => y.id = id) = some x → x.answered = true →
      exec (.snoopAnswer id .lasting) s = .next (s.snoopLost x)
      ∧ (∀ ecc, ecc = Ecc.clean ∨ ecc = Ecc.corrected →
          let s1 := { s with snoops := s.snoops.filter (fun y => y.id ≠ id) }
          (x.inv = true → x.data = none → exec (.snoopAnswer id ecc) s
            = .next ((s1.setDir x.slice x.line ((s1.dir x.slice x.line).leave x.parlour)).lineFree x.slice x.line))
          ∧ (∀ d p, x.inv = true → x.data = some (d, p) →
              let s2 := s1.takeDirty x.slice x.line d p
              exec (.snoopAnswer id ecc) s
                = .next ((s2.setDir x.slice x.line ((s2.dir x.slice x.line).leave x.parlour)).lineFree x.slice x.line))
          ∧ (x.inv = false → exec (.snoopAnswer id ecc) s = .next ((s.snoopTaken x).lineFree x.slice x.line)))
      ∧ exec (.snoopAnswer id .transient) s = .next
          (((s.updWing (cellarOf x.slice) (fun w => { w with snpRetry := sat16 w.snpRetry 1 })).snoopTaken x).lineFree x.slice x.line))

/-- Fills, evictions and timeouts (R234, R236, R243): a sector that arrives joins its miss entry, is installed where a requester allocates
and there is a way, and restarts what waits for it; a dirty victim's sectors are written to memory and its entry frees; a line whose
snoop is never answered is poisoned, and so is one whose read, write or partial is never answered. -/
def Obligations.FillsAndEvictions : Prop :=
  (∀ (s : State) (slice : Fin 128) (line : Nat) (q : Fin 4) (m : Miss) (d : List Byte),
      Table.find s.misses (lineKey slice.val line) = some m → m.arrived.find? (fun a => a.1 = q.val) = some (q.val, d) →
      let m1 : Miss := { m with arrived := m.arrived.filter (fun a => a.1 ≠ q.val), filled := m.filled ++ [(q.val, d)] }
      let s1 : State := { s with misses := Table.set s.misses (lineKey slice.val line) m1 }
      let goes := fun (t : State) => (t.answerJoined slice.val line false).closeMiss slice.val line
      (((s.slice slice.val).enable = false ∨ m.attr.allocates = false ∨ m.poison = true) →
        exec (.memoryFill slice line q) s = .next (goes s1))
      ∧ ((s.slice slice.val).enable = true → m.attr.allocates = true → m.poison = false → s.evictedLine (lineKey slice.val line) = none →
          s.partialOf (lineKey slice.val line) = none →
          ((Table.find s.lines (lineKey slice.val line)).isSome = true →
            exec (.memoryFill slice line q) s = .next (goes (s1.installFilled slice.val line m1)))
          ∧ (∀ s2, Table.find s.lines (lineKey slice.val line) = none → s1.takeWay slice.val = (true, s2) →
              exec (.memoryFill slice line q) s = .next (goes (s2.installFilled slice.val line m1)))))
  ∧ (∀ (s : State) (slice : Fin 128) (line : Nat) (l : SLine), Table.find s.evicted (lineKey slice.val line) = some (.dirty l) →
      exec (.evictionAck slice line) s
        = .next ({ s.writeBack line l with evicted := Table.erase s.evicted (lineKey slice.val line) }.lineFree slice.val line)
      ∧ (l.dirty = 15 → s.writeBack line l = s.extWrite line 0 l.data l.poison))
  ∧ (∀ (s : State) (slice : Fin 128) (line : Nat) (p : Partial), Table.find s.evicted (lineKey slice.val line) = some (.part p true) →
      s.inAdder line = false → s.tallyOpen p = false →
      exec (.evictionAck slice line) s
        = .next ({ s with evicted := Table.erase s.evicted (lineKey slice.val line) }.lineFree slice.val line))
  ∧ (∀ (s : State) (slice : Fin 128) (line : Nat) (x : Snoop), s.snoops.find? (fun y => y.slice = slice.val && y.line = line) = some x →
      exec (.homeResponseTimeout slice line) s = .next (s.snoopLost x))
  ∧ (∀ (s : State) (slice : Fin 128) (line : Nat), s.snoops.find? (fun y => y.slice = slice.val && y.line = line) = none →
      let key := lineKey slice.val line
      let s1 := s.homeTimeout slice.val line (endpointId (ctlEndpoint (s.ctlOf (128 * line)))) 1
      (∀ m, Table.find s.misses key = some m → m.asked ≠ [] →
        ∃ s2 : State, exec (.homeResponseTimeout slice line) s = .next (s2.closeMiss slice.val line)
          ∧ Table.find s2.misses key = some { m with want := [], asked := [], arrived := [], poison := true })
      ∧ (∀ l, Table.find s.misses key = none → Table.find s.evicted key = some (.dirty l) →
          exec (.homeResponseTimeout slice line) s
            = .next ({ s1 with evicted := Table.erase s1.evicted key, extPoison := addOnce line s1.extPoison }.lineFree slice.val line))
      ∧ (∀ p, Table.find s.misses key = none → Table.find s.evicted key = some (.part p true) →
          let s2 := s1.updMc (s1.ctlOf (128 * line)) (fun c => { c with rmws := c.rmws.filter (fun w => w.line ≠ line) })
          exec (.homeResponseTimeout slice line) s
            = .next ({ s2 with evicted := Table.erase s2.evicted key, extPoison := addOnce line s2.extPoison }.lineFree slice.val line)))

/-- Reductions in place (R254, R255, R299): a partial leaves its slice for the buffer when an adder asks for it; an adder takes a partial
of a reachable line, merging it into the line's pass or starting one; a finished pass over a good line adds its partial and acknowledges
it; a tally add puts its count into the tally word. -/
def Obligations.AddersReduce : Prop :=
  (∀ (s : State) (slice : Fin 128) (line : Nat) (p : Partial), s.pkgLost line = false →
      let key := lineKey slice.val line
      let m := s.ctlOf (128 * line)
      ((Table.find s.partials key = none ∧ Table.find s.evicted key = some (.part p false))
        ∨ (Table.find s.partials key = some p ∧ Table.find s.evicted key = none ∧ s.evictCount slice.val < 32)) →
      ((∃ w ∈ (s.mc m).rmws, w.line = line) → ∃ t, exec (.adderPartial slice line) s = .next t
        ∧ Table.find t.partials key = none ∧ Table.find t.evicted key = some (.part p true)
        ∧ (t.mc m).merged = sat16 (s.mc m).merged 1
        ∧ (t.mc m).rmws = (s.mc m).rmws.map (fun w =>
            if w.line = line then { w with part := w.part.merge p, slices := w.slices ++ [slice.val] } else w))
      ∧ ((∀ w ∈ (s.mc m).rmws, w.line ≠ line) → (s.mc m).rmws.length < 32 → (s.mc m).wiping = false →
          ∃ t, exec (.adderPartial slice line) s = .next t ∧ Table.find t.partials key = none
            ∧ Table.find t.evicted key = some (.part p true)
            ∧ (t.mc m).rmws = (s.mc m).rmws ++ [{ line := line, part := p, slices := [slice.val] }]
            ∧ t.ext = s.ext))
  ∧ (∀ (s : State) (pkg : Fin 32) (line : Nat) (w : Rmw), (s.mc (.lpd pkg)).rmws.find? (fun x => x.line = line) = some w →
      s.ctlOf (128 * line) = .lpd pkg → ∀ (i : Nat) (p : Partial), w.slices = [i] →
      Table.find s.evicted (lineKey i line) = some (.part p true) →
      let s1 := s.updMc (.lpd pkg) (fun x => { x with rmws := x.rmws.filter (fun y => y.line ≠ line) })
      s1.extBad line = false →
      let t := (s1.updMc (.lpd pkg) (fun x => { x with applied := sat16 x.applied 1, bursts := x.bursts + 8 })).addPartial
        (s.slice i).suite line w.part
      exec (.adderRmwComplete pkg line .clean) s
        = .next (if t.tallyOpen p then t else { t with evicted := Table.erase t.evicted (lineKey i line) }.lineFree i line))
  ∧ (∀ (s : State) (n : Nat) (m : TallyMsg), listAt s.tallies n = some m →
      let s0 := { s with tallies := listDrop s.tallies n }
      let line := m.pa / 128
      let off := m.pa % 128
      let slice := s0.homeOf m.suite (128 * line)
      s0.homeLost slice = false → s0.rangeAllows m.suite m.pa 4 false = true →
      let s1 := ((s0.settleLine slice line).snoopNow slice line true).portTaken slice 1
      let v := s1.viewLine slice line (sectorMask off 4)
      let s2 := if s1.needsWay slice line .wbA then s1.forceWay slice line else s1
      (v.2 = true → exec (.tallyAdd n) s = .next s1)
      ∧ (v.2 = false → exec (.tallyAdd n) s
          = .next (s2.writeLine slice line off (leBytes 4 (tallyWord (leNat ((v.1.drop off).take 4)) m)) .wbA false)))

/-! ## Translation, maintenance and writes that never land -/

/-- The translation operations of a Suite (R449): a valid leaf replaces what covered its page, an invalidation drops what covers an address
or everything, and each completes once no page it invalidates is pinned. The maintenance engine (R248 to R251) does its operation over
a range or the Suite's slices; a descriptor that breaks the rules ends it with 2; a finished slot, once no tally add of its lines is on
its way, leaves the slices it emptied clean, writes its completion word and leaves BUSY. A write that cannot land is dropped (R421). -/
def Obligations.TranslationAndMaintenance : Prop :=
  (∀ (s : State) (n : BitVec 8), (s.gsuite n).xbusy = true →
     ((s.gsuite n).xdone = false →
       let after := fun (f : List Xlat → List Xlat) => s.updGsuite n (fun g => { g with xlats := f g.xlats, xdone := true })
       let g := s.gsuite n
       let e : Xlat :=
         { va := BitVec.ofNat 64 (g.xaddr / xlatBytes g.xsize * xlatBytes g.xsize), size := BitVec.ofNat 2 g.xsize, pte := g.xpte }
       (g.xop = 1 → g.xsize < 3 → leafValid g.xsize g.xpte.toNat = true →
         exec (.fill n) s = .next (after (fun l => l.filter (fun x => !x.covers e.va.toNat && !e.covers x.va.toNat) ++ [e])))
       ∧ (g.xop = 1 → (g.xsize = 3 ∨ leafValid g.xsize g.xpte.toNat = false) → exec (.fill n) s = .next (after id))
       ∧ (g.xop = 2 → exec (.invalVa n) s = .next (after (fun l => l.filter (fun x => !x.covers g.xaddr))))
       ∧ (g.xop = 3 → exec (.invalAll n) s = .next (after (fun _ => []))))
     ∧ ((s.gsuite n).xdone = true →
       (∀ c ∈ s.cores, ∀ d ∈ c.2.dma, (s.slot d.g).suite = n → ∀ p ∈ d.pages,
         ¬((s.gsuite n).xop = 3 ∨ ((s.gsuite n).xop = 2 ∧ (s.gsuite n).xaddr / xlatBytes p.2 = p.1 / xlatBytes p.2))) →
       exec (.xlatOpComplete n) s = .next (s.updGsuite n (fun x => { x with xbusy := false, xop := 0, xdone := false }))))
  ∧ (let row := fun (op : Nat) (c : Fin 8 → Fin 8 → Instr) =>
       ∀ (s : State) (wing n : Fin 8) (bs : List Byte) (s1 : State),
         let x := s.maint wing n.val
         x.busy = true → x.started = false →
         (x.byHearth = true → s.hearthRead x.desc.toNat 32 = ((bs, false), s1)) →
         (x.byHearth = false → s.gRead x.owner x.desc.toNat 32 = (some bs, s1)) →
         let ws := wordsOf bs
         let done := fun (t : State) (st va at_ : Nat) (ranges : List (Nat × Nat)) (slices : List Nat) =>
           t.updMaint wing n.val (fun y =>
             { y with started := true, result := BitVec.ofNat 8 st, faultVa := BitVec.ofNat 64 va, doneAddr := BitVec.ofNat 64 at_,
                      ranges := ranges, slices := slices })
         let own := sliceList (s1.suite x.owner).slices
         (mntFormOk ws x.byHearth = false →
           exec (c wing n) s = .next (done s1 2 0 (if wordAt ws 2 % 8 = 0 then wordAt ws 2 else 0) [] []))
         ∧ (mntFormOk ws x.byHearth = true → bitsOf (wordAt ws 1) 40 4 = op →
             (bitsOf (wordAt ws 1) 44 2 = 1 → exec (c wing n) s
               = .next (done (s1.mntSlices op own) 0 0 (wordAt ws 2) [(0, 2 ^ 48)] (if op = 2 || op = 3 then own else [])))
             ∧ (bitsOf (wordAt ws 1) 44 2 = 0 → ∀ st va ranges t,
                 s1.mntRange op x.owner x.byHearth (pagePieces (wordAt ws 0) (bitsOf (wordAt ws 1) 0 40)) = ((st, va, ranges), t) →
                 exec (c wing n) s = .next (done t st va (wordAt ws 2) ranges [])))
     row 1 .clean ∧ row 2 .inval ∧ row 3 .cleanInval ∧ row 4 .zero ∧ row 5 .prefetch ∧ row 6 .last)
  ∧ (∀ (s : State) (slice line : Nat), s.snoops = [] → s.partialOf (lineKey slice line) = none →
       Table.find s.dirs (lineKey slice line) = none → s.inAdder line = false →
       let t := s.portTaken slice 2
       s.mntLine 1 slice line = t.cleanLine slice line ∧ s.mntLine 3 slice line = t.cleanDrop slice line
       ∧ (s.mntLine 5 slice line = t.fillLine slice line)
       ∧ (∀ a, a < 128 → s.pkgLost line = false → s.ext.wf = true → (s.mntLine 4 slice line).ext.read (128 * line + a) = 0))
  ∧ (∀ (s : State) (wing n : Fin 8),
       let x := s.maint wing n.val
       x.busy = true → x.started = true → s.mntOwes x = false →
         let s0 := x.slices.foldl State.cleanState s
         let leaves := fun (t : State) => t.updMaint wing n.val (fun y => { y with busy := false, started := false, status := y.result })
         (x.doneAddr = 0 → exec (.maintenanceComplete wing n) s = .next (leaves s0))
         ∧ (x.doneAddr ≠ 0 → x.byHearth = true → exec (.maintenanceComplete wing n) s
             = .next (leaves (s0.hearthWrite x.doneAddr.toNat (leBytes 8 (mntWord x)))))
         ∧ (x.doneAddr ≠ 0 → x.byHearth = false → exec (.maintenanceComplete wing n) s
             = .next (leaves (s0.gWrite x.owner x.doneAddr.toNat (leBytes 8 (mntWord x))).2)))
  ∧ (∀ (s : State) (k : Nat) (r : Req) (reason : BitVec 2), Table.find s.reqs k = some r → r.kind ≠ .read → (∀ h, r.owner ≠ .hart h) →
       (r.stage ≠ .answered ∨ r.gone = true) → s.dropHolds r reason = true →
       ∃ subject, exec (.writeDropped k reason) s = .next (s.dropWrite k reason subject))

/-! ## Memory controllers (R283 to R310, R276, R427) -/

/-- A controller takes a sector's read into a reserved or pool entry, a DDR5 line and a STREAM miss whole (R285, R294, R304), checks what
returns and hands it to the miss entry (R289, R292, R293): clean, corrected and counted, poisoned, read again, or lost for good; with the
line's last sector its tag is checked the same way. -/
def Obligations.ControllerReads : Prop :=
  (∀ (s : State) (slice : Fin 128) (line : Nat) (q : Fin 4) (m : Miss) (rest : List Nat) (own : Bool),
      let ctl := s.ctlOf (128 * line)
      let run := !isDdr ctl && decide (m.attr = .stream)
      let take := if isDdr ctl || run then m.want else [q.val]
      Table.find s.misses (lineKey slice.val line) = some m → m.want = q.val :: rest → (s.mc ctl).wiping = false →
      (s.mc ctl).entryFor ctl m.suite = some own →
      ∃ t : State, exec (.controllerReadRequest slice line q) s = .next t
        ∧ (t.mc ctl).reqs = (s.mc ctl).reqs
            ++ [{ slice := slice.val, line := line, sector := q.val, suite := m.suite, reserved := own, run := run }]
        ∧ (isDdr ctl = true → (t.mc ctl).bursts = (s.mc ctl).bursts + 2)
        ∧ (isDdr ctl = false → m.asked ≠ [] ∨ m.filled ≠ [] → (t.mc ctl).bursts = (s.mc ctl).bursts + BitVec.ofNat 48 take.length)
        ∧ Table.find t.misses (lineKey slice.val line)
            = some { m with want := m.want.filter (fun x => !take.contains x), asked := m.asked ++ take })
  ∧ (∀ (s : State) (slice : Fin 128) (line : Nat) (q : Fin 4) (m : Miss) (first retry : Burst) (e : CtlReq),
      let ctl := s.ctlOf (128 * line)
      let row := exec (.sectorBurstReturn slice line q first retry) s
      Table.find s.misses (lineKey slice.val line) = some m → e ∈ (s.mc ctl).reqs → e.slice = slice.val → e.line = line →
      (e.run = true ∨ e.sector = q.val) → q.val ∈ m.asked → (s.mc ctl).paused.getLsbD (s.channelOf line) = false →
      let s0 := s.updMc ctl (fun x => { x with reqs := x.reqs.filter (fun r =>
        !(r.slice = slice.val && r.line = line && (r.run || r.sector = q.val)) || (r.run && m.asked ≠ [q.val])) })
      let ss := m.brings (isDdr ctl) q.val
      let come := fun (t : State) (d : Nat → List Byte) (poison : Bool) => t.sectorsCome (lineKey slice.val line) m ss d poison
      let zero := fun (_ : Nat) => List.replicate 32 (0 : Byte)
      let data := fun (t : State) (b : Burst) (i : Nat) => (t.readAttempt line i b).2
      let last := isDdr ctl = true ∨ m.filled.length + m.arrived.length + ss.length = 4
      let tag := fun (b : Burst) => s0.tagOk line (m.filled ++ m.arrived ++ ss.map (fun i => (i, data s0 b i))) b.tagErr = true
      let verdict := fun (b : Burst) => (s0.readAttempt line q.val b).1
      let transient := s0.updMc ctl (fun x => { x with transient := sat16 x.transient 1 })
      (s.pkgLost line = true → row = .next (come s0 zero true))
      ∧ (s.pkgLost line = false →
        (verdict first = .poisoned → row = .next (come s0 (data s0 first) true))
        ∧ (verdict first = .good → (last → tag first) → row = .next (come s0 (data s0 first) false))
        ∧ (∀ es, verdict first = .fixed es → (last → tag first) →
            let s1 := s0.updMc ctl (fun x => { x with corrected := sat16 x.corrected 1 })
            row = .next (come s1 (data s1 first) false))
        ∧ (verdict first = .good → last → ¬ tag first → tag retry → row = .next (come transient (data s0 first) false))
        ∧ (verdict first = .good → last → ¬ tag first → ¬ tag retry →
            row = .next (come (s0.lastingError m.suite line q.val true) (data s0 first) true))
        ∧ (verdict first = .bad → verdict retry = .bad → row = .next (come (s0.lastingError m.suite line q.val false) zero true))
        ∧ (verdict first = .bad → verdict retry = .good → (last → tag retry) → row = .next (come transient (data s0 retry) false))))

/-- Refresh, calibration, slot maps, wipes, failures and MSIs (R276, R283, R298, R300 to R308, R427, R429). -/
def Obligations.ControllerUpkeep : Prop :=
  ∀ (s : State) (m : Ctl) (ch : Fin 4), s.on = true →
    ((s.mc m).failed = false → hasChannel m ch = true →
      ((s.mc m).paused.getLsbD ch.val = false →
        (∀ bank, exec (.refresh m ch bank) s = .next (s.updMc m (fun x => { x with refreshes := x.refreshes + 1 }))))
      ∧ ((s.mc m).paused.getLsbD ch.val = false → (s.mc m).calMode = false →
          ∀ idle, (idle = false ∨ ∀ r ∈ (s.mc m).reqs, s.channelOf r.line ≠ ch.val) →
            exec (.calibrationPause m ch idle) s = .next (s.updMc m (fun x => x.startPause ch.val)))
      ∧ ((s.mc m).calMode = true →
          exec (.calibrationDue m ch) s = .next ((s.updMc m (fun x => { x with due := x.due ||| chBit ch.val })).msiFrom (s.mc m).calMsi))
      ∧ ((s.mc m).calMode = true → (s.mc m).due.getLsbD ch.val = true →
          exec (.calibrationDeadline m ch) s = .next (s.updMc m (fun x =>
            ({ x with due := x.due &&& ~~~(chBit ch.val), forced := sat16 x.forced 1 } : Mc).startPause ch.val))))
    ∧ ((s.mc m).paused.getLsbD ch.val = true →
        ((s.mc m).calWait = 0 →
          exec (.calibrationDone m ch) s = .next (s.updMc m (fun x => { x with calDone := sat16 x.calDone 1, paused := 0 })))
        ∧ (∀ i : Fin 4, (s.mc m).calWait = chBit i.val →
          exec (.calibrationDone m ch) s = .next (s.updMc m (fun x =>
            { x with calDone := sat16 x.calDone 1, paused := chBit i.val, calWait := 0 }))))
    ∧ (∀ strict map, (s.mc m).nextMap = some (strict, map) →
        exec (.slotMapApply m) s = .next (s.updMc m (fun x => { x with strict := strict, slotMap := map, nextMap := none })))
    ∧ ((s.mc m).wiping = true →
        ∃ t : State, exec (.wipeDone m) s = .next t ∧ (∀ c, c ∈ t.ext ↔ c ∈ s.ext ∧ s.ctlOf c.1 ≠ m)
          ∧ (∀ l ∈ t.extPoison, s.ctlOf (128 * l) ≠ m) ∧ (t.mc m).wiping = false ∧ (t.mc m).wipeDone = true)
    ∧ (∀ page, (s.mc m).wiping = false → (s.mc m).wipePage = some page →
        exec (.wipeDone m) s = .next (((s.wipePart page m).updMc m (fun x => { x with wipePage := none, wipeDone := true })).wipeReported
            (ctlKey m) (some page)).kickWipes
        ∧ (∀ c, c ∈ (s.wipePart page m).ext ↔ c ∈ s.ext ∧ ¬(c.1 / 2 ^ 21 = page ∧ s.ctlOf c.1 = m)))
    ∧ (∀ trigger, (trigger = 1 ∨ trigger = 2) → (s.mc m).failed = false →
        let kind := if isDdr m then 5 else 2
        let num := match m with | .lpd p => p.val | .ddr c => c.val
        let s1 := (s.updMc m (fun x =>
          { x with failed := true, chUp := 0, paused := 0, calWait := 0, due := 0, wipePage := none })).wipeReported (ctlKey m) none
        exec (.packageFailure m trigger) s = .next ((s1.listFault kind num).reportLost (ctlEndpoint m) kind num trigger.toNat
          (endpointId (ctlEndpoint m)) none))
    ∧ (∀ tag addr data, exec (.msiWrite tag addr data) s = .next (s.msiTo tag addr.toNat data))
    ∧ (∀ (h : Fin 128) (data : W32), 1 ≤ data.toNat → data.toNat < 256 → ∀ addr : PA, addr.toNat = 0xF00028000000 + 0x1000 * h.val →
        ∃ t : State, exec (.msiWrite (s.hart h).owner addr data) s = .next t
          ∧ (t.hart h).imsicM = (s.hart h).imsicM ||| BitVec.ofNat 256 (2 ^ data.toNat))

/-! ## Harts of the Parlours (R43 to R49, R262 to R279) -/

/-- Loads, stores, atomics and cache-block operations of a hart that is ready, where its checks find nothing (R263 to R273): device
accesses go to their targets, the others through the die's caches or to the home, and are performed at once on lines the die holds as they
need them; those whose checks fail trap. -/
def Obligations.HartAccesses : Prop :=
  ∀ (s : State) (h : Fin 128) (a : HartAcc), s.hartReady h = true →
    let keys := (hartLines a).map (fun q => l3Key q.1 (s.hart h).tag)
    let held := fun (excl : Bool) => ∀ q ∈ hartLines a, s.hartHas h q.1 excl = true
    let ends := fun (t : State) (f : Hart → Hart) => t.updHart h (fun x => f (({ x with wait := .none } : Hart).touch keys))
    let r := s.hartRead h a
    let stored := fun (t : State) (bs : List Byte) => (t.hartWrite h a bs).breakOthers h a
    (∀ (rd : HartReg) (signed : Bool), hartSizeOk rd a.size.val = true → (s.hart h).owedReg rd = false →
      (∀ c t, s.hartCheck .load a = some (c, t) → exec (.hartLoad h a rd signed) s = .next (s.hartTrap h c t))
      ∧ (s.hartCheck .load a = none → hartIo a.pa.toNat a.pbmt = true →
          exec (.hartLoad h a rd signed) s
            = .next ((s.hartSend h a .read .dev (fun x => x)).updHart h (fun x => { x with wait := .devLoad s.nextReq a rd signed })))
      ∧ (s.hartCheck .load a = none → hartIo a.pa.toNat a.pbmt = false →
          (∀ va, s.ncRefused h a true = some va → exec (.hartLoad h a rd signed) s = .next (s.hartTrap h 5 va))
          ∧ (s.ncRefused h a true = none →
              exec (.hartLoad h a rd signed) s = .next (s.hartGo h (.load a rd signed))
              ∧ (held false → r.1.2 = false →
                  exec (.hartLoad h a rd signed) s = .next (ends r.2 (fun x => x.loadBytes rd a.size.val signed r.1.1)))
              ∧ (held false → r.1.2 = true → exec (.hartLoad h a rd signed) s = .next (r.2.hartTrap h 19 a.va)))))
    ∧ (∀ rs2 : HartReg, hartSizeOk rs2 a.size.val = true → (s.hart h).owedReg rs2 = false →
      let bs := (s.hart h).storeBytes rs2 a.size.val
      (∀ c t, s.hartCheck .store a = some (c, t) → exec (.hartStore h a rs2) s = .next (s.hartTrap h c t))
      ∧ (s.hartCheck .store a = none → hartIo a.pa.toNat a.pbmt = true →
          exec (.hartStore h a rs2) s
            = .next ((s.hartSend h a .write .dev (fun x => { x with data := bs })).updHart h (fun x =>
                { x with devStores := x.devStores ++ [s.nextReq] })))
      ∧ (s.hartCheck .store a = none → hartIo a.pa.toNat a.pbmt = false →
          (∀ va, s.ncRefused h a false = some va → exec (.hartStore h a rs2) s = .next (s.hartTrap h 7 va))
          ∧ (s.ncRefused h a false = none →
              exec (.hartStore h a rs2) s = .next (s.hartGo h (.store a rs2))
              ∧ (held true → exec (.hartStore h a rs2) s = .next (ends (stored s bs) (fun x => x))))))
    ∧ ((a.size.val = 4 ∨ a.size.val = 8) → ∀ (rd rs2 : Fin 32) (op : Fin 9), (s.hart h).owed rd.val = false →
      (s.hart h).owed rs2.val = false →
      (s.hartCheck .lr a = none →
        exec (.lr h a rd) s = .next (s.hartGo h (.lr a rd.val))
        ∧ (held true → r.1.2 = false → exec (.lr h a rd) s
            = .next (ends r.2 (fun x => { x.setReg rd.val (BitVec.ofNat 64 (loadValue a.size.val true r.1.1)) with
                reserve := some (a.pa.toNat / 128), lrHold := true }))))
      ∧ (s.hartCheck .sc a = none →
          let clear := fun (x : Hart) => { x with reserve := none, lrHold := false }
          let v := leBytes a.size.val ((s.hart h).reg rs2.val).toNat
          ((s.hart h).reserve = some (a.pa.toNat / 128) → s.hartHas h (a.pa.toNat / 128) true = true →
            exec (.sc h a rd rs2 false) s = .next ((stored s v).updHart h (fun x => (clear x).setReg rd.val 0)))
          ∧ (∀ spurious, (s.hart h).reserve ≠ some (a.pa.toNat / 128) ∨ spurious = true →
            exec (.sc h a rd rs2 spurious) s = .next (s.updHart h (fun x => (clear x).setReg rd.val 1))))
      ∧ (s.hartCheck .amo a = none → hartCached a.pa.toNat a.pbmt = true →
          exec (.amo h a op rd rs2) s = .next (s.hartGo h (.amo a op.val rd.val rs2.val))
          ∧ (held true → r.1.2 = false →
              let new := atomApply (amoFn op.val) a.size.val (leNat r.1.1) { thread := 0, a := (s.hart h).reg rs2.val, b := 0 }
              exec (.amo h a op rd rs2) s = .next (ends (stored r.2 (leBytes a.size.val new))
                (fun x => x.setReg rd.val (BitVec.ofNat 64 (loadValue a.size.val true r.1.1))))))
      ∧ (s.hartCheck .amo a = none → hartCached a.pa.toNat a.pbmt = false →
          let attr : Attr := if a.pbmt = 2 then .dev else .wbNA
          exec (.amo h a op rd rs2) s
            = .next ((s.hartSend h a .atomic attr (fun x =>
                { x with atomFn := BitVec.ofNat 8 (amoFn op.val), contrib := [{ thread := 0, a := (s.hart h).reg rs2.val, b := 0 }] })).updHart
                  h (fun x => { x with wait := .homeAmo s.nextReq a rd.val })))
      ∧ (∀ c t, (s.hartCheck .lr a = some (c, t) → exec (.lr h a rd) s = .next (s.hartTrap h c t))
          ∧ (s.hartCheck .sc a = some (c, t) → exec (.sc h a rd rs2 false) s = .next (s.hartTrap h c t))
          ∧ (s.hartCheck .amo a = some (c, t) → exec (.amo h a op rd rs2) s = .next (s.hartTrap h c t))))
    ∧ (∀ line, a.pbmt ≠ 3 →
      (s.cboLine h a true = some line →
        let home := s.homeOf (s.hart h).tag (128 * line)
        let now := s.settleLine home line
        exec (.cboClean h a) s = .next ((now.snoopNow home line false).cleanLine home line)
        ∧ exec (.cboFlush h a) s = .next ((now.snoopNow home line true).cleanLine home line)
        ∧ exec (.cboInval h a) s = .next ((now.snoopNow home line true).cleanLine home line))
      ∧ (s.cboLine h a false = some line →
          exec (.cboZero h a) s
            = .next (s.sysWrite (s.hart h).tag (a.pa.toNat / 64 * 64) (List.replicate 64 0)
                (if a.pbmt = 0 then .wbA else if a.pbmt = 1 then .wbNA else .dev) false)))
    ∧ (a.pbmt = 3 → exec (.cboClean h a) s = .next (s.hartTrap h 15 a.va) ∧ exec (.cboFlush h a) s = .next (s.hartTrap h 15 a.va)
        ∧ exec (.cboInval h a) s = .next (s.hartTrap h 15 a.va) ∧ exec (.cboZero h a) s = .next (s.hartTrap h 15 a.va))

/-- Device timeouts, LR's hold, `mxsuite`, MSEND and its answer, and mtime (R47, R270 to R278). -/
def Obligations.HartEvents : Prop :=
  ∀ (s : State) (h : Fin 128), s.on = true →
    (∀ req r, Table.find s.reqs req = some r →
      (req ∈ (s.hart h).devStores → exec (.hartDevStoreTimeout h req) s = .next (s.dropWrite req 0 0))
      ∧ (∀ a rd signed, (s.hart h).wait = .devLoad req a rd signed →
          exec (.hartDevLoadTimeout h req) s = .next (((s.reportReq r 7 0 0 0).dropReq req).hartTrap h 5 a.va)))
    ∧ exec (.lrHoldExpiry h) s = .next (s.updHart h (fun x => { x with lrHold := false }))
    ∧ (s.hartReady h = true → ∀ value : W64,
        (∃ t : State, exec (.mxsuiteWrite h true value) s = .next t ∧ (t.hart h).mxsuite.toNat = value.toNat % 2 ^ 24
          ∧ (t.hart h).reserve = none)
        ∧ exec (.mxsuiteWrite h false value) s = .next (s.hartTrap h 2 0))
    ∧ (s.hartReady h = true → (s.hart h).mail = none → ∀ insn : W32,
        (∀ rd vs, msendFields insn = some (rd, vs) → (s.hart h).vsOff = false →
          let bs := leBytes 32 (Table.get 0 (s.hart h).v vs).toNat ++ leBytes 32 (Table.get 0 (s.hart h).v (vs + 1)).toNat
          exec (.msend h insn) s
            = .next (s.updHart h (fun y => { y with mail := some { rd := rd, msg := mailOf bs, after := (s.hart h).devStores } })))
        ∧ ((msendFields insn = none ∨ (s.hart h).vsOff = true) →
          exec (.msend h insn) s = .next (s.hartTrap h 2 (insn.setWidth 64))))
    ∧ (∀ m, (s.hart h).mail = some m → (∀ k ∈ m.after, k ∉ (s.hart h).devStores) →
        let ends := fun (t : State) (v : Nat) =>
          (t.updHart h (fun x => ({ x with mail := none } : Hart).setReg m.rd (BitVec.ofNat 64 v))).takeLate h
        ((s.hart h).tag ≠ m.msg.suite → exec (.msendAnswer h) s = .next (ends s 2))
        ∧ ((s.hart h).tag = m.msg.suite → ∀ code t, s.offerMail m.msg.suite (.hart h.val) m.msg false = (code, t) →
            exec (.msendAnswer h) s = .next (ends t code)))
    ∧ (∀ n, (s.parlour n).refLocked = true → ∃ t, exec (.mtimeTick n) s = .next t ∧ (t.parlour n).mtime = (s.parlour n).mtime + 1
        ∧ (∀ c : Fin 64, (t.hart (Fin.ofNat 128 (64 * n.val + c.val))).timerPend
            = decide ((Table.get (BitVec.allOnes 64) (s.parlour n).mtimecmp c.val).toNat ≤ ((s.parlour n).mtime + 1).toNat)))

/-- The monitor's calls from a hart in HS-mode, and the exit of a virtual hart (R49, R274, R276, R441): each answers in a0 and a1, and a
call that the monitor does not have is answered as not supported. -/
def Obligations.MonitorCalls : Prop :=
  ∀ (s : State) (h : Fin 128),
    (s.hartCalls h = true →
      let a0 := ((s.hart h).reg 10).toNat
      let ret := fun (t : State) (err : Int) (v : W64) => t.updHart h (fun x => (x.setReg 10 (BitVec.ofInt 64 err)).setReg 11 v)
      exec (.kmonVersion ⟨h, 0⟩) s = .next (ret s 0 (Config.monitorVersion.setWidth 64))
      ∧ (∀ fid, 5 ≤ fid → exec (.kmonVersion ⟨h, fid⟩) s = .next (ret s (-2) 0))
      ∧ (a0 < 128 → exec (.kmonHartOwner h) s
          = .next (ret s 0 (BitVec.ofNat 64 ((s.hart (Fin.ofNat 128 a0)).owner.toNat + 256 * (s.hart (Fin.ofNat 128 a0)).ownerGen.toNat))))
      ∧ (∀ v, Table.find s.hearth.vharts a0 = some v →
          ((s.hart h).owner = v.suite → s.vhartOn a0 = none →
            exec (.kmonRun h) s = .next ((s.onDie v (parlourOf h)).2.enterVhart h a0 (s.onDie v (parlourOf h)).1)
            ∧ (v.die = (parlourOf h).val → exec (.kmonRun h) s = .next (s.enterVhart h a0 v)))
          ∧ ((v.file = 0 ∨ s.vhartOn a0 = none) → exec (.kmonKick h) s = .next (ret (s.updVhart a0 { v with kicked := true }) 0 0))
          ∧ (∀ t, v.file ≠ 0 → s.vhartOn a0 = some t → exec (.kmonKick h) s = .next (ret (s.kickFile t v.file) 0 0))
          ∧ (∀ t : Fin 128, ((s.hart h).reg 11).toNat = t.val → (s.hart t).owner = v.suite →
              ∃ u : State, exec (.kmonMove h) s = .next u
                ∧ (∃ v', Table.find u.hearth.vharts a0 = some v' ∧ v'.hart = t.val ∧ v'.regs = v.regs
                    ∧ ((v.die = (parlourOf t).val ∨ (s.vhartOn a0).isSome = true) → v' = { v with hart := t.val })
                    ∧ (v.die ≠ (parlourOf t).val → s.vhartOn a0 = none → v'.die = (parlourOf t).val))
                ∧ (u.hart h).reg 10 = 0))
      ∧ (Table.find s.hearth.vharts a0 = none →
          exec (.kmonRun h) s = .next (ret s (-3) 0) ∧ exec (.kmonMove h) s = .next (ret s (-3) 0)
          ∧ exec (.kmonKick h) s = .next (ret s (-3) 0))
      ∧ (∀ t : Fin 128, a0 = t.val → (s.hart t).inReset = false → (s.hart t).started = false → t ≠ h →
          ∃ u : State, exec (.sbiHsmStart h) s = .next u ∧ (u.hart t).started = true ∧ (u.hart t).reg 10 = BitVec.ofNat 64 t.val
            ∧ (u.hart t).reg 11 = (s.hart h).reg 12 ∧ (u.hart h).reg 10 = 0))
    ∧ (∀ hd cause passed, (s.hart h).vhart = some hd → (s.hart h).wait = .none → (s.hart h).mail = none →
        ∃ t : State, exec (.vmExit h cause passed) s = .next t ∧ (t.hart h).vhart = none ∧ (t.hart h).virt = false
          ∧ (t.hart h).reg 11 = cause ∧ (t.hart h).mxsuite = 0 ∧ (t.hart h).f = [] ∧ (t.hart h).v = [] ∧ (t.hart h).vscsr = []
          ∧ (t.hart h).vsxerr = false
          ∧ (∀ i : Fin 4, (t.hart h).reg (12 + i.val) = listGet 0 passed i.val)
          ∧ (∀ v, Table.find s.hearth.vharts hd.toNat = some v →
              ∃ v', Table.find t.hearth.vharts hd.toNat = some v' ∧ v'.regs = (s.hart h).x ∧ v'.fregs = (s.hart h).f
                ∧ v'.vregs = (s.hart h).v ∧ v'.vscsr = (s.hart h).vscsr ∧ v'.lastTime = s.hartTime h))

/-! ## Supply, reset and start-up (R405, R434 to R446, R456 to R465) -/

/-- Supply and OFF (R395, R405, R456 to R465): with every condition met the module leaves OFF and start-up begins; what takes it OFF leaves
nothing but the fuses, the flash and the lands. -/
def Obligations.SupplyAndOff : Prop :=
  (∀ (s : State) (mv : Nat), s.on = false → 40000 ≤ mv → mv ≤ 60000 → s.pins.charged = true → s.pins.thermtrip = false →
      ∃ t : State, exec (.powerUp mv true true true) s = .next t ∧ t.on = true ∧ t.hearth = { s.hearth with step := 1 })
  ∧ (∀ (s : State) (mv : Nat) (en r0 r1 : Bool), s.on = false → (mv < 40000 ∨ 60000 < mv ∨ en = false ∨ r0 = false ∨ r1 = false) →
      ∃ t : State, exec (.powerUp mv en r0 r1) s = .next t ∧ t.on = false)
  ∧ (∀ s : State, s.pins.inRange = true →
      exec .inrushComplete s = .next { s with pins := { s.pins with charged := true } })
  ∧ (∀ (c : Instr) (s : State), (c = .enableDeassert ∨ c = .powerLoss ∨ c = .brownOut ∨ c = .refclkLoss 0 ∨ c = .refclkLoss 1) →
      ∃ t : State, exec c s = .next t
        ∧ { t with pins := s.pins, hearth := State.reset.hearth, freeCtr := s.freeCtr, pending := s.pending }
            = { State.reset with pins := s.pins, freeCtr := s.freeCtr, pending := s.pending }
        ∧ t.hearth = s.hearth.fresh ∧ t.pins.modOn = false
        ∧ (c = .enableDeassert → t.pins.en = false ∧ t.pins.thermtrip = false)
        ∧ (c = .powerLoss ∨ c = .brownOut → t.pins.charged = false ∧ t.pins.thermtrip = false)
        ∧ (c = .refclkLoss 0 → t.pins.ref0 = false) ∧ (c = .refclkLoss 1 → t.pins.ref1 = false))
  ∧ (∀ h : Hearth, h.fresh.life = h.life ∧ h.fresh.debugCount = h.debugCount ∧ h.fresh.seedGone = h.seedGone
      ∧ h.fresh.suites = [] ∧ h.fresh.ak = Hearth.reset.ak ∧ (h.clearReq = false → h.fresh.faultList = h.faultList)
      ∧ (h.clearReq = true → h.fresh.faultList = []))

/-- Module resets and the management commands (R443 to R446, R461): a long pulse and a warm or cold reboot request one, which zeroises the
keys at once, and MODULE_RESET carries it out; a firmware copy is opened, erased, written, closed, checked and only then valid. -/
def Obligations.ResetAndManagement : Prop :=
  ∀ s : State, s.on = true →
    (∀ ns, (ns < 100 → exec (.resetInput ns) s = .next s)
      ∧ (1000 ≤ ns → exec (.resetInput ns) s = .next (s.requestReset 1))
      ∧ (100 ≤ ns → ns < 1000 → ∃ t, exec (.resetInput ns) s = .next t
          ∧ (t = { s with freeCtr := s.freeCtr + 1 } ∨ t = State.requestReset { s with freeCtr := s.freeCtr + 1 } 1)))
    ∧ (∀ c, s.hearth.step ≠ 1 → s.hearth.resetReq = none →
        (s.requestReset c).hearth = { s.hearth with keys := [], sessions := [], ak := 0, resetReq := some c } ∧ (s.requestReset c).sessions = [])
    ∧ (∀ a key c, s.hearth.resetReq = some c → exec (.moduleReset a key) s = .next (s.moduleReset c))
    ∧ (∀ a c, s.hearth.resetReq = none → s.mgmtWriter a = some c → s.hearth.lifeHalt = false → s.hearth.step ≠ 1 →
        exec (.moduleReset a 0xB007) s = .next (s.hearthReg a (fun t => t.acceptedAccess.moduleReset c)))
    ∧ (∀ c, (s.moduleReset c).hearth = { s.hearth.fresh with step := 1, lastReset := c, resets := sat16 s.hearth.resets 1 }
        ∧ (s.moduleReset c).reqs = [] ∧ (s.moduleReset c).cores = [] ∧ (s.moduleReset c).sessions = []
        ∧ (s.moduleReset c).power.energy = s.power.energy)
    ∧ (∀ a c, s.mgmtWriter a = some c → s.hearth.lifeHalt = false →
        exec (.faultClear a 0xB007) s
          = .next (s.hearthReg a (fun t => t.acceptedAccess.updHearth (fun h => { h with clearReq := true }))))
    ∧ (∀ a key, s.hearth.resetReq = none → s.mgmtWriter a = none →
        exec (.moduleReset a key) s = .next (s.hearthReg a State.refusedAccess)
        ∧ exec (.faultClear a key) s = .next (s.hearthReg a State.refusedAccess))
    ∧ (∀ h, s.hartCalls h = true →
        (((s.hart h).reg 10 = 1 ∨ (s.hart h).reg 10 = 2) → exec (.sbiSrst h) s = .next (s.requestReset 3))
        ∧ ((s.hart h).reg 10 = 0 → exec (.sbiSrst h) s = .next (s.sbiRet h (-2) 0)))
    ∧ (s.pins.modOn = true → s.hearth.lifeHalt = false →
        (∀ config, s.hearth.writing = false →
          ∃ t : State, exec (.fwOpen .bmc config) s = .next t ∧ t.hearth.fwState = 1 ∧ t.hearth.fwTarget = config
            ∧ t.hearth.fwCopyB = s.hearth.copyToWrite config ∧ t.hearth.fwBytes = []
            ∧ (if config then 2 else 0) + (if s.hearth.copyToWrite config then 1 else 0) ∈ t.hearth.flashBad)
        ∧ (s.hearth.fwState = 2 → exec (.fwClose .bmc) s = .next (s.updHearth (fun h => { h with fwState := 3 })))
        ∧ (∀ bytes, s.hearth.fwState = 2 → bytes ≠ [] → bytes.length ≤ 256 →
            s.hearth.fwWritten.toNat + bytes.length ≤ (if s.hearth.fwTarget then 2 ^ 24 else 2 ^ 26) →
            exec (.fwData .bmc bytes) s = .next (s.updHearth (fun h =>
              { h with fwBytes := h.fwBytes ++ bytes, fwWritten := h.fwWritten + BitVec.ofNat 32 bytes.length })))
        ∧ (s.hearth.writing = true → exec (.fwAbort .bmc) s = .next (s.updHearth (fun h =>
            { h with fwState := 0, fwBytes := [], faultList := h.faultList ++ h.faultWait, faultWait := [] }))))
    ∧ (s.hearth.fwState = 1 → exec .fwEraseComplete s = .next (s.updHearth (fun h => { h with fwState := 2 })))
    ∧ (s.hearth.fwState = 3 →
        let n := (if s.hearth.fwTarget then 2 else 0) + (if s.hearth.fwCopyB then 1 else 0)
        let good := if s.hearth.fwTarget then configOk (configOfBytes s.hearth.fwBytes) else imageOk 4 (imageOfBytes s.hearth.fwBytes)
        (good = true → exec (.fwVerifyComplete true) s
          = .next (s.updHearth (fun y => { y.endWrite 4 with flashBad := dropAll n y.flashBad })))
        ∧ (∀ ok, (good = false ∨ ok = false) → exec (.fwVerifyComplete ok) s = .next (s.updHearth (fun y => y.endWrite 5))))

/-- Start-up, step by step (R434 to R442): each step needs the one before it and leads to the next, or stops start-up with its fault. -/
def Obligations.StartupSequence : Prop :=
  ∀ s : State, s.on = true →
    (s.hearth.step = 1 →
      let s1 := { s with pins := { s.pins with modOn := true } }
      ((s.hearth.life = .blank ∨ s.hearth.life = .scrapped) → ∀ e, exec (.hearthRomStart e) s = .next (s1.stopStartup 8))
      ∧ (s.hearth.life ≠ .blank → s.hearth.life ≠ .scrapped →
          exec (.hearthRomStart false) s = .next (s1.stopStartup 7) ∧ exec (.hearthRomStart true) s = .next (s1.enterStep 2 0)))
    ∧ (s.hearth.step = 2 → s.hearth.fuses.ok = false → ∀ straps,
        ∃ t : State, exec (.dieIdentityCheck straps) s = .next t ∧ t.hearth.fault = 1 ∧ t.hearth.phase = 14 ∧ t.hearth.step = 0)
    ∧ (s.hearth.step = 2 → s.hearth.fuses.ok = true → ∀ straps : List (BitVec 4),
        ∃ t : State, exec (.dieIdentityCheck straps) s = .next t ∧ t.hearth.step = 3
          ∧ (∀ k : Fin 8, (t.wing k).strapOk = strapParity (listGet 0 straps k.val)
              ∧ ((t.wing k).included = true ↔ strapParity (listGet 0 straps k.val) = true
                  ∧ ∀ j : Fin 8, j ≠ k → (listGet (0 : BitVec 4) straps j.val).toNat % 8 ≠ (listGet (0 : BitVec 4) straps k.val).toNat % 8)))
    ∧ (s.hearth.step = 3 → ∀ a b : ImageCopy,
        let usable := fun (n : Nat) => decide (n ∉ s.hearth.flashBad) && decide (n ∉ s.hearth.imgBad)
        let okA := usable 0 && imageOk 3 a
        let okB := usable 1 && imageOk 3 b
        let s1 := s.updHearth (fun y => { y with imgValid := some (okA, okB) })
        let run := fun (useB : Bool) (c : ImageCopy) => exec (.firmwareVerify a b) s = .next ((s1.updHearth (fun y =>
          { y with imageB := useB, fwDigest := fwChain c, monDigest := listGet 0 c.digests 3,
                   monLen := (listGet 0 c.stageLen 3).toNat })).enterStep 4 1)
        (okA = true → (okB = true → b.version.toNat ≤ a.version.toNat) → run false a)
        ∧ (okB = true → (okA = true → a.version.toNat < b.version.toNat) → run true b)
        ∧ (okA = false → okB = false → exec (.firmwareVerify a b) s = .next (s1.stopStartup 2)))
    ∧ (s.hearth.step = 4 → ∀ corridors plr porch stairs,
        let ok := fun (k : Fin 8) => (s.wing k).included && stairs.getLsbD k.val && !s.hearth.faultList.contains (3, k.val)
        ∃ t : State, exec (.linkTrainingBoot corridors plr porch stairs) s = .next t
          ∧ (∀ k : Fin 8, t.hearth.wingIn.getLsbD k.val = ok k ∧ (t.wing k).included = ok k)
          ∧ ((∀ k, ok k = false) → t.hearth.fault = 4 ∧ t.hearth.phase = 14 ∧ t.hearth.step = 0)
          ∧ (ok 0 = true → plr.getLsbD 0 = true → (4, endNumber (0, 0) false) ∉ s.hearth.faultList →
              t.hearth.step = 5 ∧ t.hearth.plrIn.getLsbD 0 = true))
    ∧ (s.hearth.step = 5 → ∀ lpdRates spds ddrTrained,
        let inc := fun (n : Nat) =>
          if s.hearth.plrIn.getLsbD n then channelsIn spds ddrTrained (fun c => s.hearth.faultList.contains (5, c)) n else []
        ∃ t : State, exec (.memoryTraining lpdRates spds ddrTrained) s = .next t
          ∧ (inc 0 = [] → inc 1 = [] → t.hearth.fault = 6 ∧ t.hearth.phase = 14)
          ∧ (inc 0 ≠ [] ∨ inc 1 ≠ [] → t.hearth.step = 6)
          ∧ (∀ p : Fin 32, s.hearth.pkgIn.getLsbD p.val = true → (listGet (0 : BitVec 4) lpdRates p.val).getLsbD 0 = true →
              (t.mc (.lpd p)).inService = true ∧ (t.mc (.lpd p)).chUp = 15))
    ∧ (s.hearth.step = 6 →
        ∃ t : State, exec .startupWipe s = .next t ∧ t.hearth.step = 7 ∧ t.lines = [] ∧ t.cores = []
          ∧ (∀ r, (t.room r).mem = []) ∧ (∀ m, (s.mc m).inService = true → (t.mc m).wiping = true ∧ (t.mc m).wipeDone = false))
    ∧ (s.hearth.step = 7 → s.wipesDone (List.range 32) = true → ∀ a b digest,
        let okA := decide (2 ∉ s.hearth.flashBad) && configOk a
        let okB := decide (3 ∉ s.hearth.flashBad) && configOk b
        let s0 := s.updHearth (fun y => { y with cfgValid := some (okA, okB) })
        (chooseCopy a.version b.version okA okB = none → exec (.startupMonitorLoad a b digest) s = .next (s0.stopStartup 3))
        ∧ (∀ useB, chooseCopy a.version b.version okA okB = some useB →
            (digest ≠ s.hearth.monDigest → exec (.startupMonitorLoad a b digest) s
              = .next ((s0.updHearth (fun y => { y with imgBad := addOnce (if s.hearth.imageB then 1 else 0) y.imgBad })).enterStep 3 1))
            ∧ (digest = s.hearth.monDigest → ∃ s1 : State, exec (.startupMonitorLoad a b digest) s = .next (s1.placeMonitor.enterStep 8 3)
                ∧ s1.hearth.configB = useB ∧ s1.hearth.opKey = (if useB then b else a).opKey
                ∧ (∀ k ∈ [0, 1, 17, 127], ∃ d, Table.find s1.hearth.keys k = some d ∧ s.freeCtr < d ∧ d ≤ s1.freeCtr))))
    ∧ (s.hearth.step = 8 → s.wipesDone (List.range 44) = true →
        let s1 := s.updHearth (fun y => { y with phase := 4 })
        let image := ((s.hearth.cfgCopy.map (fun c => c.boot)).getD []).take s.hearth.bootLen
        let s2 := (s1.createSuite0.putExt s1.bootPlace.1 image).putExt s1.bootPlace.2 s1.bootInfo
        exec .startupReady s
          = .next ((s2.applyModes.updHearth (fun y => { y with ready := true, step := 0 })).startHarts.startPorts))
    ∧ (∀ f : BitVec 8, s.hearth.step ≠ 0 → (f = 0 ∨ f.toNat ∈ stepFaults s.hearth.step) → exec (.startupStepOverrun f) s = .next (s.stopStartup f))
    ∧ (∀ f : BitVec 8, (s.stopStartup f).hearth.fault = f ∧ (s.stopStartup f).hearth.step = 0
        ∧ (s.stopStartup f).hearth.phase = (if f = 2 ∨ f = 3 then 13 else 14))

/-! ## Power (R388 to R409) -/

/-- The power controller's events: supply voltage, droops, evaluation, throttle episodes, energy and jobs (R390 to R403). -/
def Obligations.PowerEvents : Prop :=
  ∀ s : State, s.on = true →
    (∀ mv, mv < 39000 → ∃ t : State, exec (.voltageAverage mv) s = .next t ∧ t.power.uv = true ∧ t.power.vinAvg = mv
        ∧ ∀ u : Fin 10, (t.unit u.val).droop = floorStep u.val)
    ∧ (∀ mv, 39000 ≤ mv → s.power.uv = false → exec (.voltageAverage mv) s = .next { s with power := { s.power with vinAvg := mv } })
    ∧ (∀ c b, ∃ s1 : State, exec (.supplyDroop c b) s
          = .next (s1.setReason (wingOfRoom c.room).val 4 (s1.wingDroop (wingOfRoom c.room).val))
        ∧ s1 = s.updCore c (fun x => { x with stretched := b }))
    ∧ (∀ x : Sensors, sensorsTrip x = true → 1 ≤ s.power.tripCount →
        exec (.powerEvaluation x) s = .next { s.powerOff with pins := { s.powerOff.pins with thermtrip := true } })
    ∧ (∀ x : Sensors, sensorsTrip x = false →
        ∃ t : State, exec (.powerEvaluation x) s = .next t ∧ t.on = true ∧ t.power.tripCount = 0 ∧ t.power.watts = x.modulePower
          ∧ t.pins.throt = x.throtLow)
    ∧ (∀ (u : Fin 16) (r : Fin 7) (own : Nat), (s.thr u.val r.val).running = true → (s.thr u.val r.val).active = false →
        let x := s.thr u.val r.val
        ∃ t : State, exec (.throttleEpisodeEnd u r own) s = .next t ∧ (t.thr u.val r.val).running = false
          ∧ (t.thr u.val r.val).totalPm = x.totalPm + x.pm ∧ (t.thr u.val r.val).lastOwn = BitVec.ofNat 64 own
          ∧ (t.thr u.val r.val).lastPm = BitVec.ofNat 32 (min (x.endPm - x.startPm).toNat (2 ^ 32 - 1))
          ∧ (t.thr u.val r.val).episodes = BitVec.ofNat 32 (satAdd 32 x.episodes.toNat 1))
    ∧ (∀ (c : CoreId) (wanted : Nat),
        let want := if (s.core c).powered && !(s.core c).fenced then min wanted 256 else 0
        let ceiling := if (s.unit (wingOfRoom c.room).val).hotZero then 0 else 4 * ((s.core c).gustA + 1)
        ∃ t : State, exec (.gustWindow c wanted) s = .next t ∧ (t.core c).gustBusy = min want ceiling
          ∧ (t.core c).gustA = max (t.core c).gustBusy (4 * ((s.core c).gustA - 4)) / 4
          ∧ (t.core c).gustFill = max (t.core c).gustBusy (4 * ((s.core c).gustA - 4)) - (t.core c).gustBusy
          ∧ (t.core c).gustHeld = decide (ceiling < want))
    ∧ (∀ mv ma, exec (.energySample mv ma) s = .next ({ s with
        power := { s.power with iin := ma, energy := s.power.energy + BitVec.ofNat 64 ((s.power.energyFrac + mv * ma) / 2500000),
                                energyFrac := (s.power.energyFrac + mv * ma) % 2500000,
                                pmCycles := s.power.pmCycles + 16 } } : State).judgeTenancy)
    ∧ (∀ (c : Agent → W64 → Instr) a v, (c = Instr.jobStart ∨ c = Instr.jobStop) →
        let ask := fun (f : State → State) => s.ctlExchange (agentEndpoint a) .power f
        (s.jobWriter a = none → exec (c a v) s = .next (ask State.refusedAccess))
        ∧ (∀ n, s.jobWriter a = some n →
            exec (c a v) s = .next (ask (fun t => t.acceptedAccess.jobWrite n v))
            ∧ (bitOf v.toNat 0 = true → bitOf v.toNat 1 = false → ∃ t, exec (c a v) s = .next t ∧ t.lastOk = true
                ∧ t.power = { s.power with jobRun := true, jobSuite := n, jobE0 := s.power.energy, jobPm0 := s.power.pmCycles,
                                           jobExcl := s.exclusive n.toNat })
            ∧ (bitOf v.toNat 0 = false → bitOf v.toNat 1 = true → s.power.jobRun = true → ∃ t, exec (c a v) s = .next t
                ∧ t.power.jobRun = false ∧ t.power.jobValid = (s.power.jobExcl && s.exclusive s.power.jobSuite.toNat)
                ∧ (t.power.jobValid = true → t.power.jobEnergy = s.power.energy - s.power.jobE0
                    ∧ t.power.jobPm = s.power.pmCycles - s.power.jobPm0))))

/-! ## Bellwire, records and losses (R43, R181 to R184, R407 to R429) -/

/-- A message that is first of its class and pair arrives: its receiver's stamp takes it in, and it is delivered unless its endpoint is
gone, its class or operation is not assigned, or its generation is stale (R43, R181 to R184, R205). A router's heartbeat goes to the
endpoints it serves and its neighbours (R44). A report becomes a record with the next sequence number, and its notices (R410 to R417). A
Wing and a link that fail are listed and reported (R428, R429). -/
def Obligations.BellwireAndRas : Prop :=
  (∀ (s : State) (i : Nat) (m : BwMsg), listAt s.bw i = some m →
      (∀ x ∈ s.bw.take i, ¬(x.src = m.src ∧ x.dst = m.dst ∧ payloadClass x.payload = payloadClass m.payload)) →
      let cls := payloadClass m.payload
      let row := fun (crc : Crc) => exec (.bellwireMessageReceive i crc) s
      let s0 := { s with bw := listDrop s.bw i }
      let noEnd := fun (t : State) (e : Endpoint) => t.countWing e (fun w => { w with noEndp := sat16 w.noEndp 1 })
      row .failed = .next ((s0.countResent m).hopFails m)
      ∧ (∀ crc s1, (crc = .ok ∧ s1 = s0) ∨ (crc = .resent ∧ s1 = s0.countResent m) →
          let got := s1.receiveStamp m.dst m.stamp
          (8 ≤ cls → row crc = .next (noEnd s1 m.src))
          ∧ (cls < 8 → (s.endpointUp m.dst = false ∨ opAssigned cls (payloadOp m.payload) = false) → row crc = .next (noEnd got m.dst))
          ∧ (cls < 8 → s.endpointUp m.dst = true → opAssigned cls (payloadOp m.payload) = true →
              (s.staleMsg m = true → row crc = .next (got.countWing m.dst (fun w => { w with staleGen := sat16 w.staleGen 1 })))
              ∧ (s.staleMsg m = false → cls < 4 → row crc = .next { got with delivered := s.delivered ++ [m] })
              ∧ (s.staleMsg m = false → 4 ≤ cls → row crc = .next got))))
  ∧ (∀ (s : State) (e : Endpoint), s.on = true → s.endpointUp e = true →
      ∃ (t : State) (ms : List BwMsg), exec (.heartbeat e) s = .next t ∧ t.bw = s.bw ++ ms
        ∧ ms.map (fun m => m.dst) = s.beatTargets e ∧ (∀ m ∈ ms, m.src = e ∧ m.payload = .beat)
        ∧ (∀ (n : Nat) (m : BwMsg), ms[n]? = some m → m.stamp = BitVec.ofNat 32 (s.stamp e + BitVec.ofNat 64 (n + 1)).toNat)
        ∧ t.stamp e = s.stamp e + BitVec.ofNat 64 ms.length)
  ∧ (∀ (s : State) (m : BwMsg) (s1 : State) (r : RasRep),
      s.takeFor .hearth (fun p => match p with | .ras _ => true | _ => false) = some (m, s1) → m.payload = .ras r →
      ∃ x : RasRec, exec .rasReport s
          = .next ((((s1.stepStamp .hearth).updHearth (fun y => { y with rasSeq := y.rasSeq + 1 })).rasTake x).suiteNotices r)
        ∧ x.rep = r ∧ x.reporter = endpointId m.src ∧ x.seq = s1.hearth.rasSeq)
  ∧ (∀ (s : State) (x : RasRec), s.hearth.rasQueue = [x] → s.hearth.rasRoom = true →
      exec .rasQueueDrain s = .next ((s.updHearth (fun y => { y with rasQueue := [] })).rasPut x))
  ∧ (∀ (s : State) (page : Nat) (subject : BitVec 16),
      ∃ t : State, exec (.rasSuppressionWindow page subject) s = .next t
        ∧ (∀ x ∈ t.hearth.suppress, x.page = page → x.subject = subject → x.running = false)
        ∧ (∀ x ∈ s.hearth.suppress, (x.page ≠ page ∨ x.subject ≠ subject) → (x.running = true ∨ x.held ≠ 0) → x ∈ t.hearth.suppress))
  ∧ (∀ (s : State) (k : Fin 8) (trigger : BitVec 8), (s.wing k).lost = false → (s.wing k).included = true → (trigger = 1 ∨ trigger = 2) →
      ∃ e : Endpoint, exec (.wingLoss k trigger) s
        = .next ((roomsOfWing k.val).foldl (fun t r => t.loseRoom r 0) (((s.updWing k (fun w => { w with lost := true })).listFault
            3 k.val).reportLost e 3 k.val trigger.toNat (endpointId (.cellar k)) none)).answerCutOff)
  ∧ (∀ (s : State) (link : BitVec 8), s.on = true → linkExists link.toNat = true →
      exec (.cellarLinkFailure link .resent) s
        = .next ((linkCellars link.toNat).foldl (fun t k => t.updWing k (fun w => { w with cfabRetry := sat16 w.cfabRetry 1 })) s)
      ∧ (s.lostLinks.contains link.toNat = false → s.hearth.routes.contains link.toNat = false →
          ∃ k : Fin 8, (linkCellars link.toNat).head? = some k ∧ exec (.cellarLinkFailure link .failed) s
            = .next (((s.listFault 4 link.toNat).reportLost (.cellar k) 4 link.toNat 1 (endpointId (.cellar k)) none).answerCutOff)))

/-! ## Ports, the copy engines and peers (R311 to R357) -/

/-- Link flits and training (R315 to R317, R339, R340): a flit that comes in sequence is taken and its acknowledgement and credits count,
and what waits for credits is sent; a NAK makes the sender replay, once more and then lasting; each training state leads to the next
when its condition comes, and fails where it does not. -/
def Obligations.LinksTrain : Prop :=
  ∀ (s : State) (p : Port),
    (∀ i f, exec (.beyfyFlit i f) s = .next ((s.takeFlit (.by i) f (fun l => l.takeHeader f)).postWaiting (.by i))
      ∧ ((s.link (.by i)).state = .active → f.fecCorr = false → f.bad = false →
          (f.ftype = 1 → f.fseq = (s.link (.by i)).expect →
            s.takeFlit (.by i) f (fun l => l.takeHeader f) = s.updLink (.by i) (fun x =>
              ({ x with expect := x.expect + 1, nakSent := false, badSeq := none } : Link).takeHeader f))
          ∧ (f.ftype = 0 → s.takeFlit (.by i) f (fun l => l.takeHeader f) = s.updLink (.by i) (fun x => x.takeHeader f))
          ∧ (f.ftype = 1 → f.fseq ≠ (s.link (.by i)).expect →
            s.takeFlit (.by i) f (fun l => l.takeHeader f) = s.discardFlit (.by i) f)))
    ∧ (∀ (l : Link) (f : Flit), (l.takeHeader f).acked = (if f.ackValid || f.nak then f.ackseq else l.acked)
        ∧ (l.takeHeader f).creditA.toNat = min (l.creditA.toNat + f.crMreq.toNat) 0xFFFF
        ∧ (l.takeHeader f).creditB.toNat = min (l.creditB.toNat + f.crHreq.toNat) 0xFFFF
        ∧ (f.nak = true → (l.takeHeader f).replaying = some (f.ackseq + 1)))
    ∧ ((s.link p).state = .active → ∀ ack,
        let s1 := s.updLink p (fun l => { l with acked := ack, replaying := some (ack + 1), replays := sat16 l.replays 1 })
        let s2 := s1.updLink p (fun l =>
          { l with lasting := sat16 l.lasting 1, retrains := BitVec.ofNat 8 (satAdd 8 l.retrains.toNat 1) })
        exec (.nak p ack false true) s = .next s1 ∧ exec (.nak p ack true true) s = .next s2
        ∧ exec (.nak p ack true false) s = .next (s2.portLost p))
    ∧ ((s.link p).state = .detect → exec (.trainingDetectLock p) s = .next (s.updLink p (fun l => { l with state := .eq })))
    ∧ ((s.link p).state = .eq → ∀ passed,
        (∀ half, lanesWidth p passed = some half → exec (.trainingEqReport p passed) s
          = .next (s.updLink p (fun l => { l with state := .align, narrow := half, aligned := 0 })))
        ∧ (lanesWidth p passed = none → exec (.trainingEqReport p passed) s = .next (s.trainFail p)))
    ∧ ((s.link p).state = .align →
        exec (.trainingAlign p) s = .next (s.updLink p (fun l => { l with state := .config, aligned := 3 })))
    ∧ ((s.link p).state = .config → ∀ partner modid pp bufA bufB,
        let up := s.updLink p (fun l =>
          { l with state := .active, partner := partner, creditA := bufA, creditB := bufB, secondTry := false, repair := false })
        (∀ i, p = .by i → (partner = 1 ∨ partner = 2) → exec (.trainingConfig p partner modid pp bufA bufB) s = .next up)
        ∧ (∀ i, p = .bz i → partner = 2 → modid ≠ Config.modid → pp.toNat ≤ 5 →
            exec (.trainingConfig p partner modid pp bufA bufB) s
              = .next (up.updBzPort i (fun x => { x with modid := modid, peerPort := pp })))
        ∧ ((∀ i, p = .bz i → partner ≠ 2) → (∀ i, p = .by i → partner ≠ 1 ∧ partner ≠ 2) →
            exec (.trainingConfig p partner modid pp bufA bufB) s = .next (s.trainFail p)))
    ∧ (((s.link p).state = .detect ∨ (s.link p).state = .eq ∨ (s.link p).state = .align ∨ (s.link p).state = .config) →
        exec (.trainingStateTimeout p) s = .next (s.trainFail p))
    ∧ ((s.link p).secondTry = false →
        s.trainFail p = s.updLink p (fun l => { l with state := .detect, secondTry := true, aligned := 0 }))

/-- Copy engines (R324 to R334): a chain starts on a good command; each command moves the next piece or record; an atomic answers the
word it found; host answers are taken by tag; a descriptor whose bytes have all moved ends. -/
def Obligations.CopyEngines : Prop :=
  ∀ (s : State) (e : Fin 32),
    (∀ (c : Fin 32 → Instr) (op : Nat), ((c = Instr.copy ∧ op = 1) ∨ (c = Instr.copyZero ∧ op = 2)) →
      (s.engine e).busy = true → (s.engine e).words.isSome = true → (s.engine e).op = op → (s.engine e).next < (s.engine e).len →
      ((s.engine e).status = 0 ∨ (s.engine e).status = 3) → (s.engine e).owner.isSome = true →
      let x := s.engine e
      let s1 := s.updEngine e (fun y => { y with moved := true })
      (x.gcm = true → x.srcHost = true → x.open_ = [] → s.hostRoom e 12 = true → exec (c e) s = .next (s1.recordIn e))
      ∧ (x.gcm = true → x.srcHost = false → s.hostRoom e 12 = true → exec (c e) s = .next (s1.recordOut e))
      ∧ (x.gcm = false → x.srcHost = true → s.hostRoom e 1 = true →
          let n := min (min 512 (x.len - x.next)) (4096 - (x.word 0 + x.next) % 4096)
          exec (c e) s
            = .next ((s1.updEngine e (fun y => { y with next := x.next + n })).hostSendAll e 0 (x.word 0 + x.next) x.next n []))
      ∧ (x.gcm = false → x.srcHost = false → (x.dstHost = true → s.hostRoom e 1 = true) → exec (c e) s = .next (s1.copyPiece e)))
    ∧ (∀ (l : Located) (t t1 : State) (bs : List Byte) (own : BitVec 8) (c : Fin 32 → Instr) (op : Nat) (new : Nat → Nat),
        ((c = Instr.atomAdd64 ∧ op = 3 ∧ ∀ old, new old = (old + (s.engine e).word 0) % 2 ^ 64)
          ∨ (c = Instr.atomCas64 ∧ op = 4 ∧ ∀ old, new old = if old = (s.engine e).word 7 then (s.engine e).word 0 else old)) →
        (s.engine e).busy = true → (s.engine e).words.isSome = true → (s.engine e).op = op → (s.engine e).next < (s.engine e).len →
        (s.engine e).status = 0 → (s.engine e).owner = some own →
        (s.updEngine e (fun y => { y with moved := true, next := (s.engine e).len })).locate own ((s.engine e).word 1) true true
          = (some l, t) →
        l.region.attr ≠ .red → l.region.attr ≠ .ro → l.region.common = false → t.rangeAllows own l.pa 8 false = true →
        t.porchReaches (enginePorch e) (t.homeOf own l.pa) = true → t.pkgLost (l.pa / 128) = false →
        t.sysRead own l.pa 8 l.region.attr = ((bs, false), t1) →
        exec (c e) s = .next ((t1.sysWrite own l.pa (leBytes 8 (new (leNat bs))) l.region.attr false).updEngine e (fun y =>
          { y with result := BitVec.ofNat 64 (leNat bs) })))
    ∧ (∀ port tag q, (s.engine e).open_.find? (fun y => y.tag = tag) = some q →
        exec (.copyHostTimeout e tag) s
          = .next ((s.updEngine e (fun x => (x.close tag).failAt 4 (x.failPosOf q))).recordSettle e)
        ∧ (∀ hdr, (s.byPort port).link.state = .active → s.current hdr.suite hdr.gen = true →
            (s.engine e).owner = some hdr.suite →
            (∀ data, s.msgFormOk port hdr 0x21 (unitBytes hdr.count.toNat) (some 512) false = true →
              data.length = unitBytes hdr.count.toNat → s.hostReqOf port hdr.tag true = some (e, q) → hdr.status = 0 →
              hdr.count.toNat = q.len →
              exec (.dmaRdata port hdr data) s = .next (s.hostData e q (data.take hdr.count.toNat)))
            ∧ (s.msgFormOk port hdr 0x23 0 none false = true → s.hostReqOf port hdr.tag false = some (e, q) → hdr.status = 0 →
                exec (.dmaWack port hdr) s = .next (s.updEngine e (fun x => x.close hdr.tag)))))
    ∧ ((s.engine e).busy = true → (s.engine e).words.isSome = true → (s.engine e).moved = true → (s.engine e).open_ = [] →
        (s.engine e).len ≤ (s.engine e).next → (s.engine e).note = false → (s.engine e).flag 50 = false →
        exec (.copyDescriptorEnd e) s = .next (s.nextDesc e))
    ∧ (∀ port hdr seqno zero8 tag x, (s.byPort port).link.state = .active → (∀ r ∈ s.reqs, r.2.kind ≠ .write) →
        s.msgFormOk port hdr 6 32 none true = true → s.current hdr.suite hdr.gen = true →
        s.sessionOf hdr.session hdr.suite hdr.gen = some x →
        (gcmOpen x.cmdKey (cmdNonce 4 hdr.session seqno) (beyfyBytes hdr ++ leBytes 8 seqno.toNat ++ leBytes 8 zero8.toNat) [] tag).isSome
          = true → s.copySeqOk hdr.suite hdr.session x seqno = true → hdr.arg.toNat % 32 = e.val →
        let s1 := s.useCopySeq hdr.suite hdr.session seqno
        let ans := fun (st : Nat) => s1.beyfySend port (beyfyAnswer 7 hdr st [])
        ((s1.engine e).owner = some hdr.suite → (s1.engine e).busy = false → (s1.engine e).assisted = false →
          exec (.cpyStart port hdr seqno zero8 tag) s = .next ((ans 0).startChain e hdr.suite hdr.addr.toNat))
        ∧ ((s1.engine e).owner = some hdr.suite → (s1.engine e).busy = true →
          exec (.cpyStart port hdr seqno zero8 tag) s = .next (ans 1)))

/-- Peer sessions and collectives (R339 to R355): a slot whose SRC can be read and DST reached runs its operation: a PUT sends its
writes, a collective its parameters and first chunks, and takes what was held for it; it completes once its data are performed and
every rank has said so. An authentic message is counted and takes its effect on the slot that reads it; one that fails its check ends
the session. -/
def Obligations.PeerOperations : Prop :=
  (∀ (s : State) (porch : Fin 2) (n : Fin 8) (c : Fin 2 → Fin 8 → Instr) (op : Nat),
      ((c = Instr.allreduce ∧ op = 1) ∨ (c = Instr.reduceScatter ∧ op = 2) ∨ (c = Instr.allgather ∧ op = 3)
        ∨ (c = Instr.broadcast ∧ op = 4) ∨ (c = Instr.put ∧ op = 5)) →
      (s.coll porch n.val).busy = true → (s.coll porch n.val).started = false → (s.coll porch n.val).words.isSome = true →
      (s.coll porch n.val).op = op → ∀ src s1,
      let x := s.coll porch n.val
      (s.updColl porch n.val (fun y => { y with started := true })).markedRead x.owner (collAllows false) (x.word 0) x.srcBytes
        = (some (src, false), s1) →
      (op = 5 → exec (c porch n) s = .next (s1.sendPut porch n.val src))
      ∧ (op ≠ 5 → s1.mayReach x.owner true (collAllows true) (x.word 1) x.dstBytes = true →
          let s2 := (s1.updColl porch n.val (fun y => { y with elems := x.stage src })).sessSend porch x.nextSess 3 0 0 0 x.collId x.params
          let s3 := (x.opening.zipIdx).foldl (fun (t : State) e => t.sendChunk porch n.val e.2 e.1.1 e.1.2) s2
          let taken := fun (t : State) =>
            (((t.takeHeld porch x).1.foldl (fun u m => u.collTake porch n.val m) (t.takeHeld porch x).2).collCheck porch n.val)
          ((op = 1 ∨ op = 2 ∨ (op = 4 ∧ x.rank ≠ 0)) → exec (c porch n) s = .next (taken s3))
          ∧ ((op = 3 ∨ (op = 4 ∧ x.rank = 0)) → ∀ s4, s3.collStore porch n.val (x.segment x.rank).1 src.length = (true, s4) →
              exec (c porch n) s = .next (taken s4))))
  ∧ (∀ (s : State) (porch : Fin 2) (n : Fin 8), (s.coll porch n.val).busy = true → (s.coll porch n.val).started = true →
      ((s.coll porch n.val).op ≠ 5 → (s.coll porch n.val).dstDone = true →
        (∀ r, r < (s.coll porch n.val).nrank → r ≠ (s.coll porch n.val).rank → r ∈ (s.coll porch n.val).doneFrom) →
        exec (.collectiveComplete porch n) s = .next (s.collFinish porch n.val 0))
      ∧ ((s.coll porch n.val).op = 5 → (s.coll porch n.val).putOpen = 0 →
          exec (.collectiveComplete porch n) s = .next (s.collFinish porch n.val (s.coll porch n.val).status.toNat)))
  ∧ (∀ (s : State) (port : Fin 6) (hdr : PeerHdr) (payload plain : List Byte), (s.bzPort port).link.state = .active →
      peerFormOk hdr payload = true → s.sessLive (porchOf (.bz port)) hdr.psess = true →
      let porch := porchOf (.bz port)
      let x := s.sess porch hdr.psess.toNat
      x.port porch = port → gcmOpen x.rxKey (peerNonce x.rxCount hdr.psess) (peerHead hdr) payload hdr.tag = some plain →
      let s1 := s.updSess porch hdr.psess.toNat (fun y => { y with rxCount := y.rxCount + 1 })
      (∀ (c : Fin 6 → PeerHdr → List Byte → Instr) (type : Nat),
        ((c = Instr.collHdr ∧ type = 3) ∨ (c = Instr.collData ∧ type = 4) ∨ (c = Instr.collDone ∧ type = 5)
          ∨ (c = Instr.abort ∧ type = 7)) → hdr.type.toNat = type →
        let reads := fun (n : Nat) => (s1.coll porch n).words.isSome && (s1.coll porch n).op ≠ 5
          && (s1.coll porch n).prevSess = hdr.psess && (s1.coll porch n).collId = hdr.arg.toNat
        let runs := fun (n : Nat) => reads n && (s1.coll porch n).busy && (s1.coll porch n).started
        ((∀ n ∈ List.range 8, runs n = false) → (type = 7 → ∀ n ∈ List.range 8, (reads n && !(s1.coll porch n).busy) = false) →
          exec (c port hdr payload) s
            = .next (s1.updSess porch hdr.psess.toNat (fun y => { y with held := y.held ++ [{ hdr := hdr, payload := plain }] })))
        ∧ (∀ n, (List.range 8).find? runs = some n →
            let y := s1.coll porch n
            let origin := leNat (plain.take 1)
            (type = 3 → exec (c port hdr payload) s = .next (if plain = y.params then
              s1.updColl porch n (fun z => { z with hdrOk := true }) else s1.collEnd porch n 3 y.rank 3))
            ∧ (type = 4 → y.hdrOk = true → exec (c port hdr payload) s = .next (s1.collData porch n plain))
            ∧ (type = 5 → origin ≠ y.rank →
                let s2 := s1.updColl porch n (fun z => { z with doneFrom := addOnce origin z.doneFrom })
                exec (c port hdr payload) s = .next (if (y.rank + 1) % y.nrank = origin then s2
                  else s2.sessSend porch y.nextSess 5 0 0 0 y.collId (leBytes 16 origin)))
            ∧ (type = 7 → exec (c port hdr payload) s = .next (s1.collEnd porch n 5 origin (leNat ((plain.drop 1).take 1))))))
      ∧ (hdr.type = 1 →
          let ack := fun (t : State) (st : Nat) => t.sessSend porch hdr.psess 2 st hdr.xtag.toNat 0 0 []
          (x.landSize < hdr.offset.toNat + plain.length → exec (.pwr port hdr payload) s = .next (ack s1 1))
          ∧ (hdr.offset.toNat + plain.length ≤ x.landSize → ∀ ok t,
              s1.checkedWrite x.suite peerAllows (x.landBase + hdr.offset.toNat) plain false = (ok, t) →
              exec (.pwr port hdr payload) s = .next (ack t (if ok then 0 else 1))))
      ∧ (hdr.type = 2 → payload = [] →
          (x.pwrOut.find? (fun e => e.1 = hdr.xtag) = none → exec (.pwack port hdr) s = .next s1)
          ∧ (∀ e, x.pwrOut.find? (fun z => z.1 = hdr.xtag) = some e →
              exec (.pwack port hdr) s = .next ((s1.updSess porch hdr.psess.toNat (fun y =>
                { y with pwrOut := y.pwrOut.filter (fun z => z.1 ≠ hdr.xtag) })).updColl porch e.2 (fun y =>
                if y.busy && y.op = 5 then
                  { y with putOpen := y.putOpen - 1, dstDone := y.putOpen = 1,
                           status := if y.status ≠ 0 then y.status else if hdr.status = 0 then 0 else if hdr.status = 1 then 1 else 4 }
                else y))))
      ∧ (hdr.type = 6 → payload = [] → exec (.prog port hdr) s = .next s1))
  ∧ (∀ (s : State) (port : Fin 6) (hdr : PeerHdr), (s.bzPort port).link.state = .active →
      (hdr.type = 0 → peerFormOk hdr [] = true →
        let l1 := fun (l : Link) => ({ l with
          acked := if bitOf hdr.offset.toNat 12 || bitOf hdr.offset.toNat 13 then BitVec.ofNat 12 hdr.offset.toNat else l.acked,
          creditA := BitVec.ofNat 16 (satAdd 16 l.creditA.toNat (bitsOf hdr.arg.toNat 0 16)),
          creditB := BitVec.ofNat 16 (satAdd 16 l.creditB.toNat (bitsOf hdr.arg.toNat 16 16)) } : Link)
        exec (.lctl port hdr) s = .next ((s.updLink (.bz port) (fun l =>
          if bitOf hdr.offset.toNat 13 then
            { l1 l with replaying := some (BitVec.ofNat 12 hdr.offset.toNat + 1), replays := sat16 l.replays 1 }
          else l1 l)).postWaiting (.bz port)))
      ∧ (hdr.type = 1 → hdr.len ≠ 0 → hdr.len.toNat ≤ 256 → s.sessLive (porchOf (.bz port)) hdr.psess = true →
          let x := s.sess (porchOf (.bz port)) hdr.psess.toNat
          x.port (porchOf (.bz port)) = port → exec (.peerWriteTimeout port hdr) s
            = .next (((s.updSess (porchOf (.bz port)) hdr.psess.toNat (fun y => { y with rxCount := y.rxCount + 1 })).reportHeld
                (.porch (porchOf (.bz port))) { RasRep.zero with cause := 0x06, outcome := 2, suite := x.suite, gen := x.gen }).sessSend
                (porchOf (.bz port)) hdr.psess 2 2 hdr.xtag.toNat 0 0 []))
      ∧ (∀ f payload,
          ((f.bad = true ∨ f.ftype ≠ 1 ∨ f.fseq ≠ (s.bzPort port).link.expect ∨ hdr.psess = 0) →
            exec (.breezewayFlit port f hdr payload) s = .next (s.takeFlit (.bz port) f (fun x => x)))
          ∧ (f.bad = false → f.ftype = 1 → f.fseq = (s.bzPort port).link.expect → f.fecCorr = false →
              s.takeFlit (.bz port) f (fun x => x) = s.updLink (.bz port) (fun x =>
                { x with expect := x.expect + 1, nakSent := false, badSeq := none }))
          ∧ (f.bad = false → f.ftype = 1 → f.fseq = (s.bzPort port).link.expect → hdr.psess ≠ 0 → peerFormOk hdr payload = true →
              s.sessLive (porchOf (.bz port)) hdr.psess = true →
              (s.sess (porchOf (.bz port)) hdr.psess.toNat).port (porchOf (.bz port)) = port →
              let x := s.sess (porchOf (.bz port)) hdr.psess.toNat
              let good := gcmOpen x.rxKey (peerNonce x.rxCount hdr.psess) (peerHead hdr) payload hdr.tag
              (good = none → exec (.breezewayFlit port f hdr payload) s
                = .next ((s.takeFlit (.bz port) f (fun x => x)).peerAuthFail port hdr.psess))
              ∧ (good ≠ none → exec (.breezewayFlit port f hdr payload) s = .next (s.takeFlit (.bz port) f (fun x => x))))))
  ∧ (∀ (s : State) (porch : Fin 2) (psess : BitVec 8), s.sessBusy porch psess = true →
      exec (.progSend porch psess) s = .next (s.sessSend porch psess 6 0 0 0 0 [])
      ∧ exec (.peerLost porch psess) s = .next (s.endSlotsOn porch psess 4))

/-! ## Hearth calls (R358 to R387) -/

/-- The calls of the operator and the life of a Suite (R360 to R365, R374 to R378, R385 to R387): each does its work and is answered, or is
answered when its work is complete; a caller that is not the operator gets status 3. -/
def Obligations.OperatorCalls : Prop :=
  ∀ (s : State), s.mayCall 0 →
    let t := s.entered 0
    CallEnds .getId 0x01 0 0 s (.now 0 (leBytes 8 Config.modid.toNat ++ leBytes 1 (lifeCode s.hearth.life) ++ leBytes 1 s.hearth.debugCount
      ++ keyBytes Config.dikPublic ++ t.hearth.akStatement ++ keyBytes (Config.ecdsaSign Config.dikPublic t.hearth.akStatement)), t)
    ∧ CallEnds .nonce 0x03 0 0 s (.now 0 (leBytes 32 (t.drawKey.1.setWidth 256).toNat),
        t.drawKey.2.updHearth (fun h => { h with nonces := t.drawKey.1.setWidth 256 :: h.nonces }))
    ∧ (∀ (n : BitVec 8) (b : ResBlock),
        (s.hearth.life ≠ .field → CallEnds (.suiteCreate · n b) 0x10 n 0 s (.now 8 [], t))
        ∧ (∀ q, s.hearth.life = .field → s.hearth.debugOpen = false → n ≠ 255 → resBlockFormOk b = true → b.slices ≠ 0 →
            (t.suite n).state = .absent → (t.suite n).retired = false → resBlockRect b = some q →
            CallEnds (.suiteCreate · n b) 0x10 n 0 s (t.createSuite n b q)
            ∧ (let s1 := t.updSuite n (fun x => { x with gen := x.gen + 1 })
              (s1.suitesNow.filter (fun e => e.1 ≠ 0)).length < 96 → (∀ x, q = some x → s1.edgesUp x = true) →
              s1.unitsFree (rectRooms q) b = true → s1.quotasFit n b.ctx.toNat b.resLpd.toNat b.resDdr.toNat = true →
              ∀ globals others u key lead, s1.pickAll b = (some (globals, others), u) → s1.hearth.freeKeySlot = some key →
              s1.leadFor q = some lead → s1.hearth.strict = false →
              CallEnds (.suiteCreate · n b) 0x10 n 0 s (.later (globals ++ others), u.claim n b q key lead globals others))))
    ∧ (∀ (n : BitVec 8) (gen : BitVec 16) (b : ResBlock) q, t.mayName n gen → resBlockRect b = some q → resBlockFormOk b = true →
        b.tpk = 0 →
        (rectWithin (t.suite n).rect q = true → CallEnds (.suiteGrow · n gen b) 0x11 n 0 s (t.growSuite n b q))
        ∧ (rectWithin (t.suite n).rect q = true → q = (t.suite n).rect → t.newLead n q = some none → b.slices = 0 → b.cpy = 0 → b.win = 0 →
            b.harts = 0 → resBlockNoPages b = true → t.hearth.strict = false → (∀ x, q = some x → t.edgesUp x = true) →
            let x := t.suite n
            (x.resLpd.toNat + b.resLpd.toNat ≤ 255 ∧ x.resDdr.toNat + b.resDdr.toNat ≤ 255) →
            t.quotasFit n (x.ctx.toNat + b.ctx.toNat) (x.resLpd.toNat + b.resLpd.toNat) (x.resDdr.toNat + b.resDdr.toNat) = true →
            ∀ m : W64, ∃ u : State, exec (.suiteGrow (.inModule 0 m) n gen b) s = .next u ∧ (u.suite n).state = .changing
              ∧ (u.suite n).ctx = BitVec.ofNat 16 (x.ctx.toNat + b.ctx.toNat)
              ∧ (u.suite n).resLpd = BitVec.ofNat 8 (x.resLpd.toNat + b.resLpd.toNat))
        ∧ (rectWithin (t.suite n).rect q = false → CallEnds (.suiteGrow · n gen b) 0x11 n 0 s (.now 1 [], t))
        ∧ (resBlockNoPages b = true → rectWithin q (t.suite n).rect = true → t.shrinkFormOk n b = true →
            CallEnds (.suiteShrink · n gen b) 0x12 n 0 s (t.shrinkSuite n b q)
            ∧ (∀ lead, let x := t.suite n
              let dropped := (rectRooms x.rect).filter (fun r => !(rectRooms q).contains r)
              t.newLead n q = some lead → t.placedOn n dropped = false → (t.gsuite n).ctxs.length ≤ x.ctx.toNat - b.ctx.toNat →
              t.leadHeld n q lead = false → CallEnds (.suiteShrink · n gen b) 0x12 n 0 s (.later [], t.beginChange n
                { rect := q, dropped := dropped, added := [], slices := x.slices &&& ~~~b.slices, cpy := x.cpy &&& ~~~b.cpy,
                  win := x.win &&& ~~~b.win, harts := x.harts &&& ~~~b.harts, ctx := x.ctx - b.ctx, resLpd := x.resLpd - b.resLpd,
                  resDdr := x.resDdr - b.resDdr, newPages := [], killed := false, lead := lead }))))
    ∧ (∀ (n : BitVec 8) (gen : BitVec 16), n ≠ 255 → t.namedOk n gen = 0 → (t.suite n).afterRemove = false →
        (((t.suite n).state = .active ∨ (t.suite n).state = .changing) → t.otherCall n = false → gen ≠ 0xFFFF →
          CallEnds (.suiteReset · n gen) 0x13 n 0 s (.later [],
            ((t.silence n false).updSuite n (fun x => { x with state := .resetting, wiped := false })).resetSteps n))
        ∧ (n ≠ 0 → ((t.suite n).state = .changing ∨ (t.suite n).state = .resetting) →
            CallEnds (.suiteRemove · n gen) 0x14 n 0 s (.later [], t.updSuite n (fun y => { y with afterRemove := true })))
        ∧ (n ≠ 0 → t.suiteBusy n = false → CallEnds (.suiteRemove · n gen) 0x14 n 0 s (.later [], t.beginRemove n)))
    ∧ (∀ strict : Bool, (strict = true → t.strictOk none = true) →
        CallEnds (.strictSet · strict) 0x15 0 0 s (.now 0 [], (t.updHearth (fun h => { h with strict := strict })).fillSlots))
    ∧ (∀ (unit : BitVec 16) (r : RoomId), testRoom unit = some r → bitOf (t.room r).rect.toNat 40 = false → t.roomTested r = false →
        (t.wing (wingOfRoom r)).included = true → ∀ q : W64, ∃ u : State, exec (.selftest (.inModule 0 q) unit) s = .next u
          ∧ (unit, CallVia.inModule 0 q) ∈ u.hearth.selftests ∧ (∀ c ∈ testCores unit, (u.core c).powered = true))
    ∧ (∀ (target : BitVec 3) (l : Life) (tok : Token), lifeOf target.toNat = some l → l ≠ .scrapped → t.tokenOk tok target.toNat = true →
        ((s.hearth.life = .blank ∧ l = .provisioned) ∨ (s.hearth.life = .provisioned ∧ l = .field) ∨ (s.hearth.life = .field ∧ l = .return_)) →
        CallEnds (.lifecycle · target tok) 0x17 0 0 s (.now 0 [], (t.updHearth (fun h =>
          { h with life := l, nonces := h.nonces.filter (fun n => n ≠ tok.nonce), seedGone := h.seedGone || l = .return_ })).requestReset 4))
    ∧ (∀ tok : Token, s.hearth.life = .field → s.hearth.debugOpen = false → t.tokenOk tok 5 = true →
        CallEnds (.debugOpen · tok) 0x18 0 0 s (.now 0 [], t.debugReset))
    ∧ (∀ n : BitVec 8, n ≠ 0 → s.mayCall n → ∀ b strict unit tok target,
        CallEnds (.suiteCreate · n b) 0x10 n n s (.now 3 [], s.entered n)
        ∧ CallEnds (.strictSet · strict) 0x15 0 n s (.now 3 [], s.entered n)
        ∧ CallEnds (.selftest · unit) 0x16 0 n s (.now 3 [], s.entered n)
        ∧ CallEnds (.lifecycle · target tok) 0x17 0 n s (.now 3 [], s.entered n)
        ∧ CallEnds (.debugOpen · tok) 0x18 0 n s (.now 3 [], s.entered n))

/-- The calls of a tenant (R366 to R384): each changes what it names and is answered with OK; one that another Suite makes gets
status 3. -/
def Obligations.TenantCalls : Prop :=
  ∀ (s : State) (n : BitVec 8) (gen : BitVec 16), s.mayCall n → (s.entered n).mayName n gen →
    let t := s.entered n
    let ok := fun (c : CallVia → Instr) (call : Nat) (u : State) => CallEnds c call n n s (.now 0 [], u)
    (∀ qt nt sig, t.hearth.debugOpen = false → Config.ecdsaVerify (t.suite n).tpk (openText n gen qt nt) sig = true →
        (t.hearth.sessions.filter (fun e => e.2.suite = n)).length < 16 →
        CallEnds (.sessionOpen · n gen qt nt sig) 0x02 n n s (t.openSession n qt nt))
    ∧ (∀ (session : BitVec 12) (x : Session), Table.find t.hearth.sessions session.toNat = some x → x.suite = n →
        ok (.sessionClose · n gen session) 0x21 (t.endSession n session.toNat))
    ∧ (∀ (h : Fin 128) (limit : BitVec 8), (t.hart h).owner = n → 0 < limit.toNat →
        (t.gsuite n).senders = [] → limit.toNat ≤ 32 →
        ok (.senderSet · n gen true (BitVec.ofNat 12 h.val) limit) 0x22 (t.updGsuite n (fun x =>
          { x with senders := [{ sender := .hart h.val, limit := limit.toNat, inUse := 0, lastSeq := 0, owed := 0, port := 0 }] })))
    ∧ (∀ (i : BitVec 8) (e : RegionWords), i.toNat < 64 → regionFormOk e = true → (t.suite n).regionTaken i.toNat e = false →
        ok (.regionSet · n gen i e) 0x23 (t.updSuite n (fun x => { x with regions := Table.set x.regions i.toNat e })))
    ∧ (∀ pa : W64, pa.toNat % 4096 = 0 → t.ownPage n pa.toNat = true →
        ok (.rootSet · n gen pa) 0x24 (t.updGsuite n (fun g => { g with root := pa })))
    ∧ (∀ p : W64, pageListOk [p] = true → t.ownPage n p.toNat = true →
        ok (.pageRelease · n gen [p]) 0x25 ((((t.freePage (pageIndex p.toNat)).updSuite n (fun x =>
          { x with rootPage := if pageIndex p.toNat = x.rootPage then 0 else x.rootPage }))).writeRoot n))
    ∧ (∀ (p : W64) (on : Bool), pageListOk [p] = true → t.ownPage n p.toNat = true →
        CallEnds (.pageShare · n gen on [p]) 0x26 n n s (.later [pageIndex p.toNat],
          (t.changePage (pageIndex p.toNat) 3
            { t.pageAt (pageIndex p.toNat) with shared := on, keyIdx := if on then 1 else (t.suite n).keyIdx }).kickWipes))
    ∧ (∀ nonce : BitVec 384, (s.hearth.life = .provisioned ∨ s.hearth.life = .field) → s.hearth.debugOpen = false →
        CallEnds (.attest · n gen nonce) 0x20 n n s
          (.now 0 (t.reportText n nonce ++ keyBytes (Config.ecdsaSign s.hearth.ak (t.reportText n nonce))), t))
    ∧ (∀ (image list : W64) (count : BitVec 32) (sig : BitVec 768) (backed : Bool) (lb ib : List Byte) (s1 s2 : State), count ≠ 0 →
        t.gRead n list.toNat (48 * count.toNat) = (some lb, s1) →
        Config.ecdsaVerify (t.suite n).tpk (digestBytes (Config.sha384 lb)) sig = true →
        s1.gRead n image.toNat (4096 * count.toNat) = (some ib, s2) →
        let ds := (List.range count.toNat).map (fun i => BitVec.ofNat 384 (leNat ((lb.drop (48 * i)).take 48)))
        ((∀ i, i < count.toNat → Config.sha384 ((ib.drop (4096 * i)).take 4096) = listGet (0 : Digest) ds i) →
          CallEnds (.commonInstall · n gen image count list sig backed) 0x27 n n s
            (s2.installCommon n count.toNat ib ds (Config.sha384 lb) backed)
          ∧ (∀ cid pages backing u v, (List.range 15).find? (fun c => !(Table.get CommonRegion.reset s2.hearth.commons c).valid) = some cid →
              s2.pickPages .global ((count.toNat + 511) / 512) = (some pages, u) →
              (if backed then u.pickPages .ddr ((count.toNat + 511) / 512) else (some [], u)) = (some backing, v) →
              let w := (((pages ++ backing).foldl (fun (y : State) i => y.commonPage n cid i) (v.drawSlot (2 + cid))).writeImage pages
                ib).writeImage backing ib
              let r : CommonRegion :=
                { valid := true, backed := backed, publisher := n, pages4k := BitVec.ofNat 32 count.toNat, readers := 0, pages := pages,
                  backing := backing, digests := ds, root := Config.sha384 lb, repairing := [] }
              s2.installCommon n count.toNat ib ds (Config.sha384 lb) backed
                = (.now 0 (leBytes 8 cid), w.updHearth (fun h => { h with commons := Table.set h.commons cid r }))))
        ∧ ((∃ i, i < count.toNat ∧ Config.sha384 ((ib.drop (4096 * i)).take 4096) ≠ listGet (0 : Digest) ds i) →
          CallEnds (.commonInstall · n gen image count list sig backed) 0x27 n n s (.now 7 [], s2)))
    ∧ (∀ (cid : BitVec 4) (i : BitVec 8) (va : W64) (c : CommonRegion), Table.get CommonRegion.reset t.hearth.commons cid.toNat = c →
        c.valid = true →
        let e := commonEntry c va
        (cid ≠ 15 → i.toNat < 64 → regionFormOk { e with w2 := BitVec.ofNat 64 (4 + 16) } = true →
          (t.suite n).regionTaken i.toNat e = false →
          ok (.commonMap · n gen cid c.root i va) 0x28 ((t.updHearth (fun h =>
            { h with commons := Table.set h.commons cid.toNat { c with readers := c.readers ||| BitVec.ofNat 256 (2 ^ n.toNat) } })).updSuite n
              (fun x => { x with regions := Table.set x.regions i.toNat e })))
        ∧ (c.publisher = n → c.readers = 0 → c.backing = [] → ∀ p, c.pages = [p] →
            ok (.commonRemove · n gen cid) 0x29 ((t.freePage p).updHearth (fun h =>
              { h with commons := Table.set h.commons cid.toNat CommonRegion.reset, keys := Table.erase h.keys (2 + cid.toNat) })))
        ∧ (∀ (k : BitVec 32) (src : W64) bs u, c.publisher = n → k.toNat ∈ c.repairing → t.gRead n src.toNat 4096 = (some bs, u) →
            (Config.sha384 bs = listGet (0 : Digest) c.digests k.toNat →
              ok (.commonRepair · n gen cid k src) 0x2A (u.reinstall cid.toNat k.toNat c bs))
            ∧ (Config.sha384 bs ≠ listGet (0 : Digest) c.digests k.toNat →
              CallEnds (.commonRepair · n gen cid k src) 0x2A n n s (.now 7 [], u.repairFailed cid.toNat k.toNat c))))
    ∧ (∀ (h : BitVec 8) (entry root a0 : W64), h.toNat < 128 → root.toNat % 4096 = 0 → (t.hart (Fin.ofNat 128 h.toNat)).owner = n →
        (t.hearth.vharts.filter (fun e => e.2.suite = n)).length < 256 →
        let v : VHart :=
          { suite := n, hart := h.toNat, entry := entry, root := root, a0 := a0, started := false, lastTime := 0, delta := 0,
            kicked := false, file := 0, die := h.toNat / 64, regs := [], fregs := [], vregs := [], vscsr := [(0x200, 0x200)],
            vsxerr := false }
        CallEnds (.vhartCreate · n gen h entry root a0) 0x2B n n s (.now 0 (leBytes 8 s.hearth.nextHandle), t.updHearth (fun y =>
          { y with vharts := Table.set y.vharts y.nextHandle v, nextHandle := y.nextHandle + 1 })))
    ∧ (∀ (handle : W64) (v : VHart), Table.find t.hearth.vharts handle.toNat = some v → v.suite = n →
        ok (.vhartDestroy · n gen handle) 0x2C (t.stopVhart handle.toNat))

/-- The calls on peer sessions, made from inside the module (R341, R373): an offer keeps its secret and gives its blob; an
accept and a finish bind the session to the peer that the blob names; a close ends it. -/
def Obligations.PeerCalls : Prop :=
  ∀ (s : State) (n : BitVec 8) (gen : BitVec 16), s.mayCall n → (s.entered n).mayName n gen →
    let t := s.entered n
    let ok := fun (c : CallVia → Instr) (call : Nat) (u : State) => CallEnds c call n n s (.now 0 [], u)
    (∀ (port : Fin 6) (p : BitVec 8) (modid buf : W64), p ≠ 0 → t.psessTaken (porchOf (.bz port)) p = false →
        let sec := t.drawKey
        let q := sec.2.drawKey
        let no := q.2.drawKey
        ∀ u : State, no.2.gWrite n buf.toNat (no.2.peerBlob n p q.1 (no.1.setWidth 256)) = (true, u) →
          ok (.peerOffer · n gen port p modid buf) 0x2D (u.updSess (porchOf (.bz port)) p.toNat (fun _ =>
            { PeerSess.reset with
              lo := sessWord n (u.genOf n) port false, peer := modid, offered := true, secret := sec.1, nonce := no.1.setWidth 256 })))
    ∧ (∀ (port : Fin 6) (offer answer : W64) (bs : List Byte) (s1 : State), t.gRead n offer.toNat 776 = (some bs, s1) →
        t.blobStatus n bs = 0 → BitVec.ofNat 8 (blobField bs 624 1) ≠ 0 →
        t.psessTaken (porchOf (.bz port)) (BitVec.ofNat 8 (blobField bs 624 1)) = false →
        let sec := s1.drawKey
        let q := sec.2.drawKey
        let no := q.2.drawKey
        ∀ u : State, no.2.gWrite n answer.toNat (no.2.peerBlob n (BitVec.ofNat 8 (blobField bs 624 1)) q.1 (no.1.setWidth 256)) = (true, u) →
          ok (.peerAccept · n gen port offer answer) 0x2E
            (u.bindPeer n port (BitVec.ofNat 8 (blobField bs 624 1)) sec.1 (no.1.setWidth 256) false bs))
    ∧ (∀ (answer : W64) (bs : List Byte) (s1 : State), t.gRead n answer.toNat 776 = (some bs, s1) → t.blobStatus n bs = 0 →
        let p : BitVec 8 := BitVec.ofNat 8 (blobField bs 624 1)
        ∀ porch : Fin 2, let x := t.sess porch p.toNat
        (porch = 0 ∨ (t.sess 0 p.toNat).offered = false) → x.offered = true → x.suite = n →
        (blobField bs 192 8 = x.peer.toNat →
          ok (.peerFinish · n gen answer) 0x2F (s1.bindPeer n (x.port porch) p x.secret x.nonce true bs))
        ∧ (blobField bs 192 8 ≠ x.peer.toNat → CallEnds (.peerFinish · n gen answer) 0x2F n n s (.now 2 [], s1)))
    ∧ (∀ (porch : Fin 2) (p : BitVec 8), p ≠ 0 → t.psessTaken porch p = true → (t.sess porch p.toNat).suite = n →
        ((t.sess porch p.toNat).valid = false →
          ok (.peerClose · n gen porch p) 0x30 (t.updSess porch p.toNat (fun _ => PeerSess.reset)))
        ∧ ((t.sess porch p.toNat).valid = true → ok (.peerClose · n gen porch p) 0x30 (t.endPeer n porch p)))

/-- The rows that complete a call's work (R362 to R364, R383, R430, R431): the Suite becomes ACTIVE or ABSENT when its work is done, and every call
that waited for it is answered. -/
def Obligations.CallsComplete : Prop :=
  ∀ (s : State) (n : BitVec 8),
    ((s.suite n).state = .building →
      exec (.suiteBuildComplete n true) s
        = .next (((s.releaseAll n).suiteGone n).answerRunning n (fun r => r.call = 0x10) 5 [])
      ∧ (∀ pages, (s.hearth.running.filter (fun r => r.suite = n)).flatMap (fun r => r.pages) = pages →
          (∀ r ∈ rectRooms (s.suite n).rect, (s.room r).wiping = false) → s.pagesWiped pages = true →
          exec (.suiteBuildComplete n false) s
            = .next ((((((s.endChanges pages).updSuite n (fun y => { y with state := .active })).writeRoot n).refillSlots).judgeTenancy).answerRunning
                n (fun r => r.call = 0x10) 0
                (leBytes 8 (s.suite n).gen.toNat ++ leBytes 8 (if (s.suite n).rootPage = 0 then 0 else pageBase (s.suite n).rootPage)))))
    ∧ (∀ c, (s.suite n).state = .changing → (s.suite n).change = some c →
        (s.changeReady n c = true → exec (.suiteChangeComplete n) s
          = .next ((((s.applyChange n c).updSuite n (fun x => { x with state := .active })).answerRunning n
              (fun r => r.call = 0x11 || r.call = 0x12) 0 []).thenRemove n))
        ∧ (c.killed = false → c.slices = (s.suite n).slices → s.roomsQuiet c.dropped = false → exec (.quiesceTimeout n) s
          = .next ((s.killOn n c.dropped).updSuite n (fun x => { x with change := some { c with killed := true } })))
        ∧ (c.killed = false → c.slices ≠ (s.suite n).slices → s.groupsGone n = false → exec (.quiesceTimeout n) s
          = .next ((s.killOn n ((List.range 96).map roomOfKey)).updSuite n (fun x =>
              { x with change := some { c with killed := true } }))))
    ∧ ((s.gsuite n).moving = true → (s.gsuite n).mail = [] → (∀ r ∈ (s.gsuite n).senders, r.inUse = 0) →
        exec (.mailSlotMove n) s = .next (s.placeSlot n))
    ∧ ((s.suite n).state = .resetting → (s.suite n).wiped = true → (∀ r ∈ rectRooms (s.suite n).rect, (s.room r).wiping = false) →
        exec (.suiteResetComplete n) s = .next ((((s.updSuite n (fun x => { x with state := .active, wiped := false })).refillSlots).answerRunning
          n (fun r => r.call ≠ 0x14 && r.call ≠ 0x16) 0 []).thenRemove n))
    ∧ ((s.suite n).state = .removing → (s.suite n).wiped = true → (s.suite n).change = none →
        (∀ r ∈ rectRooms (s.suite n).rect, (s.room r).wiping = false ∨ bitOf (s.room r).rect.toNat 40 = true) →
        exec (.suiteRemoveComplete n) s = .next ((s.suiteGone n).refillSlots.answerRunning n (fun _ => true) 0 []))
    ∧ (∀ r : Running, s.hearth.running = [r] → r.call = 0x26 → s.pagesWiped r.pages = true →
        exec .pageChangeComplete s
          = .next (((s.endChanges r.pages).writeRoot r.suite).answerRunning r.suite (fun q => q.call = 0x26) 0 []))
    ∧ (∀ (unit : BitVec 16) (via : CallVia) (r : RoomId) (c : CoreId) (result : W64), s.hearth.selftests = [(unit, via)] →
        testRoom unit = some r → testCores unit = [c] → bitOf (testResult result) 0 = true →
        ∃ t : State, exec (.selftestComplete unit result) s = .next (t.answerCall via 0x16 0 0 (leBytes 8 (testResult result)))
          ∧ (t.core c).powered = false ∧ t.hearth.selftests = [])
    ∧ (∀ (cid : BitVec 4) (i : BitVec 32) (c : CommonRegion), Table.get CommonRegion.reset s.hearth.commons cid.toNat = c →
        c.valid = true → i.toNat < c.pages4k.toNat → (∃ l ∈ s.extPoison, l / 32 = c.pagePa i.toNat / 4096) →
        (cid = 15 → exec (.commonPageRepair cid i false) s = .next (s.reinstall 15 i.toNat c (s.extBytes (c.pagePa i.toNat) 4096))
          ∧ exec (.commonPageRepair cid i true) s = .next (s.repairFailed 15 i.toNat c))
        ∧ (cid ≠ 15 → (s.hearth.repairMode = true ∨ c.backed = false) → ∀ again, exec (.commonPageRepair cid i again) s
            = .next (s.updHearth (fun h =>
                { h with commons := Table.set h.commons cid.toNat { c with repairing := addOnce i.toNat c.repairing } })))
        ∧ (cid ≠ 15 → s.hearth.repairMode = false → c.backed = true →
            let src := pageBase (listGet 0 c.backing (i.toNat / 512)) + i.toNat % 512 * 4096
            ((∀ k, k < 32 → s.extBad (src / 128 + k) = false) → Config.sha384 (s.extBytes src 4096) = listGet (0 : Digest) c.digests i.toNat →
              exec (.commonPageRepair cid i false) s = .next (s.reinstall cid.toNat i.toNat c (s.extBytes src 4096)))
            ∧ (Config.sha384 (s.extBytes src 4096) ≠ listGet (0 : Digest) c.digests i.toNat → ∀ again,
              exec (.commonPageRepair cid i again) s = .next (s.repairFailed cid.toNat i.toNat c))))

/-! ## Rules over all instructions of a group -/

/-- An unassigned opcode parks the group with ILLEGAL (R85): whatever the instruction, only its group's fault is set. -/
def Obligations.UnassignedOpcodes : Prop :=
  ∀ c ∈ groupRows, ∀ (s : State) (g : GroupRef) (w l : W64), (s.slot g).canIssue = true → assignedOpcode ((insn w l).bits 0 8) = false →
    exec (c g w l) s = .next (s.updSlot g (fun x => x.park .illegal 0))

/-- A group that cannot issue, one that waits, has ended, is parked or has a fault, runs no instruction: the command has no effect
(the model's reading of R62, log 5). -/
def Obligations.NoIssueNoEffect : Prop :=
  ∀ c ∈ groupRows, ∀ (s : State) (g : GroupRef) (w l : W64), (s.slot g).canIssue = false → exec (c g w l) s = .next s
end

