-- ==== Sys2Proof/Laws/Memory.lean ====
section
/-! SUPPORT. Laws of memory and tables: what a read gives after a write, and that every operation keeps the canonical form. -/

namespace Sys2Proof.Machine

/-! ## Rising cells -/

theorem Mem.rises_mono {a b : Nat} {m : Mem} (h : a ≤ b) (hm : Mem.risesFrom b m = true) : Mem.risesFrom a m = true := by
  cases m with
  | nil => rfl
  | cons c m => obtain ⟨k, v⟩ := c; simp [Mem.risesFrom] at hm ⊢; exact ⟨⟨by omega, hm.1.2⟩, hm.2⟩

/-- Below its first cell a canonical memory reads as zero. -/
theorem Mem.read_below {lo a : Nat} {m : Mem} (hm : Mem.risesFrom lo m = true) (h : a < lo) : m.read a = 0 := by
  induction m generalizing lo with
  | nil => rfl
  | cons c m ih =>
    obtain ⟨k, v⟩ := c
    simp [Mem.risesFrom] at hm
    simp only [Mem.read]
    rw [if_neg (by omega)]
    exact ih hm.2 (by omega)

theorem Mem.write_rises {lo a : Nat} {b : Byte} {m : Mem} (hm : Mem.risesFrom lo m = true) (h : lo ≤ a) :
    Mem.risesFrom lo (m.write a b) = true := by
  induction m generalizing lo with
  | nil => simp only [Mem.write]; split <;> simp_all [Mem.risesFrom]
  | cons c m ih =>
    obtain ⟨k, v⟩ := c
    simp [Mem.risesFrom] at hm
    simp only [Mem.write]
    split
    · split <;> simp_all [Mem.risesFrom]
    · split
      · split
        · exact Mem.rises_mono (by omega) hm.2
        · simp_all [Mem.risesFrom]
      · simp [Mem.risesFrom, hm.1.1, hm.1.2, ih hm.2 (by omega)]

/-- A stored byte keeps the canonical form. -/
theorem Mem.write_wf {a : Nat} {b : Byte} {m : Mem} (h : m.wf = true) : (m.write a b).wf = true :=
  Mem.write_rises h (Nat.zero_le a)

/-- Stored bytes keep the canonical form. -/
theorem Mem.writeN_wf {a : Nat} {bs : List Byte} {m : Mem} (h : m.wf = true) : (m.writeN a bs).wf = true := by
  induction bs generalizing a m with
  | nil => exact h
  | cons b bs ih => exact ih (Mem.write_wf h)

theorem Mem.filter_rises {lo : Nat} {m : Mem} (p : Host.Cell → Bool) (hm : Mem.risesFrom lo m = true) :
    Mem.risesFrom lo (m.filter p) = true := by
  induction m generalizing lo with
  | nil => rfl
  | cons c m ih =>
    obtain ⟨k, v⟩ := c
    simp [Mem.risesFrom] at hm
    rw [List.filter_cons]
    split
    · simp [Mem.risesFrom, hm.1.1, hm.1.2, ih hm.2]
    · exact Mem.rises_mono (by omega) (ih hm.2)

/-- Dropping cells keeps the canonical form. -/
theorem Mem.filter_wf {m : Mem} (p : Host.Cell → Bool) (h : m.wf = true) : Mem.wf (m.filter p) = true := Mem.filter_rises p h

/-- A cleared range keeps the canonical form. -/
theorem Mem.clear_wf {a n : Nat} {m : Mem} (h : m.wf = true) : (m.clear a n).wf = true := Mem.filter_wf _ h

theorem Mem.read_write_from {lo a x : Nat} {b : Byte} {m : Mem} (hm : Mem.risesFrom lo m = true) :
    (m.write a b).read x = if x = a then b else m.read x := by
  induction m generalizing lo with
  | nil =>
    simp only [Mem.write]
    split
    · rename_i hb; subst hb; simp [Mem.read]
    · simp [Mem.read]
  | cons c m ih =>
    obtain ⟨k, v⟩ := c
    simp [Mem.risesFrom] at hm
    simp only [Mem.write]
    have low : ∀ y, y ≤ k → Mem.read m y = 0 := fun y hy => Mem.read_below hm.2 (by omega)
    split
    · rename_i hak
      by_cases hb : b = 0
      · subst hb
        by_cases hx : x = a
        · subst hx; simp [Mem.read, Nat.ne_of_lt hak, low _ (Nat.le_of_lt hak)]
        · simp [hx]
      · rw [if_neg hb]; by_cases hx : x = a <;> simp [Mem.read, hx]
    · split
      · rename_i hak
        subst hak
        by_cases hb : b = 0
        · subst hb
          by_cases hx : x = a
          · subst hx; simp [low _ (Nat.le_refl _)]
          · simp [hx, Mem.read]
        · rw [if_neg hb]; by_cases hx : x = a <;> simp [Mem.read, hx]
      · simp only [Mem.read, ih hm.2]
        by_cases hxk : x = k
        · subst hxk; rename_i hne; simp [Ne.symm hne]
        · simp [hxk]

/-- A read gives the byte just stored there, and any other byte as it was. -/
theorem Mem.read_write {a x : Nat} {b : Byte} {m : Mem} (h : m.wf = true) :
    (m.write a b).read x = if x = a then b else m.read x := Mem.read_write_from h

/-- Bytes outside a stored range stay as they are. -/
theorem Mem.read_writeN_outside {a x : Nat} {bs : List Byte} {m : Mem} (h : m.wf = true) (hx : x < a ∨ a + bs.length ≤ x) :
    (m.writeN a bs).read x = m.read x := by
  induction bs generalizing a m with
  | nil => rfl
  | cons b bs ih =>
    simp only [List.length_cons] at hx
    simp only [Mem.writeN]
    rw [ih (Mem.write_wf h) (by omega), Mem.read_write h, if_neg (by omega)]

/-- Byte i of a stored range reads back. -/
theorem Mem.read_writeN_inside {a i : Nat} {bs : List Byte} {m : Mem} (h : m.wf = true) (hi : i < bs.length) :
    (m.writeN a bs).read (a + i) = bs[i] := by
  induction bs generalizing a i m with
  | nil => simp at hi
  | cons b bs ih =>
    simp only [Mem.writeN]
    cases i with
    | zero => rw [Mem.read_writeN_outside (Mem.write_wf h) (by omega), Mem.read_write h]; simp
    | succ i =>
      have := ih (a := a + 1) (i := i) (m := m.write a b) (Mem.write_wf h) (by simpa using hi)
      rw [show a + (i + 1) = a + 1 + i by omega, this]; simp

/-! ## Tables -/

@[simp] theorem Table.find_set_same {α : Type} (t : Table α) (i : Nat) (v : α) : Table.find (Table.set t i v) i = some v := by
  induction t with
  | nil => simp [Table.set, Table.find]
  | cons e t ih =>
    obtain ⟨k, w⟩ := e
    simp only [Table.set]
    split
    · simp [Table.find]
    · split
      · simp [Table.find]
      · simp [Table.find, *]

theorem Table.find_set_other {α : Type} (t : Table α) {i j : Nat} (v : α) (h : j ≠ i) :
    Table.find (Table.set t i v) j = Table.find t j := by
  induction t with
  | nil => simp [Table.set, Table.find, h]
  | cons e t ih =>
    obtain ⟨k, w⟩ := e
    simp only [Table.set]
    split
    · simp [Table.find, h]
    · split
      · rename_i hik; subst hik; simp [Table.find, h]
      · simp [Table.find, ih]

/-- An entry just set reads back. -/
@[simp] theorem Table.get_set_same {α : Type} (d : α) (t : Table α) (i : Nat) (v : α) : Table.get d (Table.set t i v) i = v := by
  simp [Table.get]

/-- Every other entry stays as it is. -/
theorem Table.get_set_other {α : Type} (d : α) (t : Table α) {i j : Nat} (v : α) (h : j ≠ i) :
    Table.get d (Table.set t i v) j = Table.get d t j := by simp [Table.get, Table.find_set_other t v h]

@[simp] theorem Table.get_upd_same {α : Type} (d : α) (t : Table α) (i : Nat) (f : α → α) :
    Table.get d (Table.upd d t i f) i = f (Table.get d t i) := by simp [Table.upd]

theorem Table.get_upd_other {α : Type} (d : α) (t : Table α) {i j : Nat} (f : α → α) (h : j ≠ i) :
    Table.get d (Table.upd d t i f) j = Table.get d t j := Table.get_set_other d t _ h

@[simp] theorem Table.get_nil {α : Type} (d : α) (i : Nat) : Table.get d [] i = d := rfl

theorem Table.rises_mono {α : Type} {a b : Nat} {t : Table α} (h : a ≤ b) (ht : Table.risesFrom b t = true) :
    Table.risesFrom a t = true := by
  cases t with
  | nil => rfl
  | cons e t => obtain ⟨k, v⟩ := e; simp [Table.risesFrom] at ht ⊢; exact ⟨by omega, ht.2⟩

theorem Table.set_rises {α : Type} {lo i : Nat} {v : α} {t : Table α} (ht : Table.risesFrom lo t = true) (h : lo ≤ i) :
    Table.risesFrom lo (Table.set t i v) = true := by
  induction t generalizing lo with
  | nil => simp [Table.set, Table.risesFrom, h]
  | cons e t ih =>
    obtain ⟨k, w⟩ := e
    simp [Table.risesFrom] at ht
    simp only [Table.set]
    split
    · simp_all [Table.risesFrom]
    · split
      · simp_all [Table.risesFrom]
      · simp [Table.risesFrom, ht.1, ih ht.2 (by omega)]

/-- Setting an entry keeps the keys rising. -/
theorem Table.set_wf {α : Type} {i : Nat} {v : α} {t : Table α} (h : Table.wf t = true) : Table.wf (Table.set t i v) = true :=
  Table.set_rises h (Nat.zero_le i)

/-- Changing an entry keeps the keys rising. -/
theorem Table.upd_wf {α : Type} {d : α} {i : Nat} {f : α → α} {t : Table α} (h : Table.wf t = true) :
    Table.wf (Table.upd d t i f) = true := Table.set_wf h

theorem Table.filter_rises {α : Type} {lo : Nat} {t : Table α} (p : Nat × α → Bool) (ht : Table.risesFrom lo t = true) :
    Table.risesFrom lo (t.filter p) = true := by
  induction t generalizing lo with
  | nil => rfl
  | cons e t ih =>
    obtain ⟨k, v⟩ := e
    simp [Table.risesFrom] at ht
    rw [List.filter_cons]
    split
    · simp [Table.risesFrom, ht.1, ih ht.2]
    · exact Table.rises_mono (by omega) (ih ht.2)

/-- Dropping entries keeps the keys rising. -/
theorem Table.keep_wf {α : Type} {p : Nat → α → Bool} {t : Table α} (h : Table.wf t = true) : Table.wf (Table.keep p t) = true :=
  Table.filter_rises _ h

theorem Table.erase_rises {α : Type} {lo i : Nat} {t : Table α} (ht : Table.risesFrom lo t = true) :
    Table.risesFrom lo (Table.erase t i) = true := by
  induction t generalizing lo with
  | nil => rfl
  | cons e t ih =>
    obtain ⟨k, v⟩ := e
    simp [Table.risesFrom] at ht
    simp only [Table.erase]
    split
    · exact Table.rises_mono (by omega) ht.2
    · simp [Table.risesFrom, ht.1, ih ht.2]

/-- Dropping a key keeps the keys rising. -/
theorem Table.erase_wf {α : Type} {i : Nat} {t : Table α} (h : Table.wf t = true) : Table.wf (Table.erase t i) = true :=
  Table.erase_rises h

theorem Table.map_rises {α : Type} {lo : Nat} {t : Table α} (f : Nat → α → α) (ht : Table.risesFrom lo t = true) :
    Table.risesFrom lo (Table.mapVals f t) = true := by
  induction t generalizing lo with
  | nil => rfl
  | cons e t ih =>
    obtain ⟨k, v⟩ := e
    simp [Table.risesFrom] at ht
    simp [Table.mapVals, Table.risesFrom, ht.1]
    exact ih ht.2

/-- Changing every entry keeps the keys rising. -/
theorem Table.mapVals_wf {α : Type} {f : Nat → α → α} {t : Table α} (h : Table.wf t = true) :
    Table.wf (Table.mapVals f t) = true := Table.map_rises f h

end Sys2Proof.Machine
end

