-- ==== Sys2Proof/Laws/Follows.lean ====
section
/-! SUPPORT. What no command undoes (`State.Follows`): the basic operations on the state. -/

namespace Sys2Proof.Machine

variable {s t : State}

@[simp] theorem State.Follows.refl (s : State) : s.Follows s :=
  ⟨rfl, Nat.le_refl _, id, Nat.le_refl _, id, fun h => ⟨Nat.le_refl _, h⟩⟩

theorem State.Follows.trans {u : State} (a : s.Follows t) (b : t.Follows u) : s.Follows u :=
  ⟨b.queue.trans a.queue, a.draws.trans b.draws, fun h => b.memory (a.memory h), a.life.trans b.life, fun h => b.seed (a.seed h),
    fun h => let x := a.debug h; let y := b.debug x.2; ⟨x.1.trans y.1, y.2⟩⟩

/-- An update of fields that no claim of `State.Follows` speaks of. -/
theorem State.Follows.same {u : State} (h : s.Follows t) (hq : u.pending = t.pending) (hc : u.freeCtr = t.freeCtr)
    (he : u.ext = t.ext) (hh : u.hearth = t.hearth) : s.Follows u :=
  h.trans ⟨hq, by rw [hc], by rw [he]; exact id, by rw [hh], by rw [hh]; exact id, fun hd => by rw [hh]; exact ⟨Nat.le_refl _, hd⟩⟩

/-- An update of the Hearth that keeps its fuses. -/
theorem State.Follows.hearthSame {u : State} (h : s.Follows t) (hq : u.pending = t.pending) (hc : u.freeCtr = t.freeCtr)
    (he : u.ext = t.ext) (hl : u.hearth.life = t.hearth.life) (hs : u.hearth.seedGone = t.hearth.seedGone)
    (hd : u.hearth.debugCount = t.hearth.debugCount) : s.Follows u :=
  h.trans ⟨hq, by rw [hc], by rw [he]; exact id, by rw [hl], by rw [hs]; exact id, fun h => by rw [hd]; exact ⟨Nat.le_refl _, h⟩⟩

/-- The fuses of two Hearths are the same. -/
structure Hearth.SameFuses (a b : Hearth) : Prop where
  life  : b.life = a.life
  seed  : b.seedGone = a.seedGone
  debug : b.debugCount = a.debugCount

theorem Hearth.SameFuses.refl (h : Hearth) : h.SameFuses h := ⟨rfl, rfl, rfl⟩

theorem State.Follows.updHearth {f : Hearth → Hearth} (h : s.Follows t) (hf : ∀ y, Hearth.SameFuses y (f y)) :
    s.Follows (t.updHearth f) :=
  h.hearthSame rfl rfl rfl (hf _).life (hf _).seed (hf _).debug

@[simp] theorem State.updHearth_follows {f : Hearth → Hearth} (h : s.Follows t)
    (hf : ∀ y, (f y).life = y.life ∧ (f y).seedGone = y.seedGone ∧ (f y).debugCount = y.debugCount) : s.Follows (t.updHearth f) :=
  h.updHearth (fun y => ⟨(hf y).1, (hf y).2.1, (hf y).2.2⟩)

@[simp] theorem State.Follows.ite {c : Prop} [Decidable c] {a b : State} :
    s.Follows (if c then a else b) ↔ (c → s.Follows a) ∧ (¬c → s.Follows b) := by split <;> simp_all

@[simp] theorem State.Follows.ite2 {α : Type} {c : Prop} [Decidable c] {a b : α × State} :
    s.Follows (if c then a else b).2 ↔ (c → s.Follows a.2) ∧ (¬c → s.Follows b.2) := by split <;> simp_all

@[simp] theorem State.Follows.ite1 {α : Type} {c : Prop} [Decidable c] {a b : State × α} :
    s.Follows (if c then a else b).1 ↔ (c → s.Follows a.1) ∧ (¬c → s.Follows b.1) := by split <;> simp_all

@[simp] theorem outFollows_ite {c : Prop} [Decidable c] {a b : Host.Outcome State Fault Refusal} :
    outFollows s (if c then a else b) ↔ (c → outFollows s a) ∧ (¬c → outFollows s b) := by split <;> simp_all

@[simp] theorem outFollows_next : outFollows s (.next t) ↔ s.Follows t :=
  ⟨fun h => h t rfl, fun h _ e => by cases e; exact h⟩

/-- A loop over a list, each round of which follows. -/
@[simp] theorem State.Follows.foldl {α : Type} {f : State → α → State} {l : List α} (hf : ∀ t x, State.Follows t (f t x))
    (h : s.Follows t) : s.Follows (l.foldl f t) := by
  induction l generalizing t with
  | nil => exact h
  | cons x l ih => exact ih (h.trans (hf t x))

/-- The same where the state is carried beside something else. -/
@[simp] theorem State.Follows.foldl2 {α β : Type} {f : β × State → α → β × State} {l : List α} {a : β × State}
    (hf : ∀ a x, State.Follows a.2 (f a x).2) (h : s.Follows a.2) : s.Follows (l.foldl f a).2 := by
  induction l generalizing a with
  | nil => exact h
  | cons x l ih => exact ih (h.trans (hf a x))

section mk

variable
    {x2 : Bool} {x3 : Pins} {x4 : Power} {x6 : List BwMsg} {x7 : List BwMsg} {x8 : List Endpoint} {x9 : Table W64} {x10 :
    Table Wing} {x11 : Table Room} {x12 : Table Core} {x13 : Table Dispatcher} {x14 : Table GSuite} {x15 : Table Req} {x16 :
    Nat} {x18 : Table Nat} {x19 : Table Nat} {x20 : Table Nat} {x21 : List Nat} {x22 : Table SliceReg} {x23 : Table SLine}
    {x24 : Table Dir} {x25 : Table Miss} {x26 : Table Evicted} {x27 : Table Partial} {x28 : List Snoop} {x29 : Nat} {x30 :
    Table (List Nat)} {x31 : List TallyMsg} {x32 : Table Parlour} {x33 : Table Hart} {x34 : Table Mc} {x35 : Table ByPort}
    {x36 : Table CopyEngine} {x37 : Table BzPort} {x38 : Table PeerSess} {x39 : Table CollSlot} {x40 : Option (BitVec 7)}
    {x41 : Tap} {x42 : W64} {x43 : Bool} {x44 : List (W64 × W32)}

/-- A state literal that takes over the queue, the draws, the Hearth and external memory of another state. -/
@[simp] theorem State.Follows.mk_same (h : s.Follows t) : s.Follows (State.mk
    t.pending t.freeCtr x2 x3 x4 t.hearth x6 x7 x8 x9 x10 x11 x12 x13 x14 x15 x16 t.ext x18 x19 x20 x21 x22 x23 x24 x25 x26
    x27 x28 x29 x30 x31 x32 x33 x34 x35 x36 x37 x38 x39 x40 x41 x42 x43 x44) := h.same rfl rfl rfl rfl

/-- The same with other bytes of external memory. -/
@[simp] theorem State.Follows.mk_ext {m : Mem} (h : s.Follows t) (hm : t.ext.wf = true → m.wf = true) : s.Follows (State.mk
    t.pending t.freeCtr x2 x3 x4 t.hearth x6 x7 x8 x9 x10 x11 x12 x13 x14 x15 x16 m x18 x19 x20 x21 x22 x23 x24 x25 x26 x27
    x28 x29 x30 x31 x32 x33 x34 x35 x36 x37 x38 x39 x40 x41 x42 x43 x44) :=
  h.trans ⟨rfl, Nat.le_refl _, hm, Nat.le_refl _, id, fun hd => ⟨Nat.le_refl _, hd⟩⟩

/-- The same with another Hearth. -/
@[simp] theorem State.Follows.mk_hearth {y : Hearth} (h : s.Follows t)
    (hy : y.life = t.hearth.life ∧ y.seedGone = t.hearth.seedGone ∧ y.debugCount = t.hearth.debugCount) : s.Follows (State.mk
    t.pending t.freeCtr x2 x3 x4 y x6 x7 x8 x9 x10 x11 x12 x13 x14 x15 x16 t.ext x18 x19 x20 x21 x22 x23 x24 x25 x26 x27 x28
    x29 x30 x31 x32 x33 x34 x35 x36 x37 x38 x39 x40 x41 x42 x43 x44) :=
  h.hearthSame rfl rfl rfl hy.1 hy.2.1 hy.2.2

end mk

/-! ## Updates of one unit -/

@[simp] theorem State.updCore_follows {c : CoreId} {f : Core → Core} (h : s.Follows t) : s.Follows (t.updCore c f) :=
  h.same rfl rfl rfl rfl

@[simp] theorem State.updSlot_follows {g : GroupRef} {f : Slot → Slot} (h : s.Follows t) : s.Follows (t.updSlot g f) :=
  h.same rfl rfl rfl rfl

@[simp] theorem State.updRoom_follows {r : RoomId} {f : Room → Room} (h : s.Follows t) : s.Follows (t.updRoom r f) :=
  h.same rfl rfl rfl rfl

@[simp] theorem State.updWing_follows {k : Fin 8} {f : Wing → Wing} (h : s.Follows t) : s.Follows (t.updWing k f) :=
  h.same rfl rfl rfl rfl

@[simp] theorem State.updDisp_follows {k : Fin 8} {f : Dispatcher → Dispatcher} (h : s.Follows t) : s.Follows (t.updDisp k f) :=
  h.same rfl rfl rfl rfl

@[simp] theorem State.updGsuite_follows {n : BitVec 8} {f : GSuite → GSuite} (h : s.Follows t) : s.Follows (t.updGsuite n f) :=
  h.same rfl rfl rfl rfl

@[simp] theorem State.updParlour_follows {n : Fin 2} {f : Parlour → Parlour} (h : s.Follows t) : s.Follows (t.updParlour n f) :=
  h.same rfl rfl rfl rfl

@[simp] theorem State.updHart_follows {i : Fin 128} {f : Hart → Hart} (h : s.Follows t) : s.Follows (t.updHart i f) :=
  h.same rfl rfl rfl rfl

@[simp] theorem State.updMc_follows {m : Ctl} {f : Mc → Mc} (h : s.Follows t) : s.Follows (t.updMc m f) := h.same rfl rfl rfl rfl

@[simp] theorem State.updSlice_follows {k : Nat} {f : SliceReg → SliceReg} (h : s.Follows t) : s.Follows (t.updSlice k f) :=
  h.same rfl rfl rfl rfl

@[simp] theorem State.updByPort_follows {i : Fin 4} {f : ByPort → ByPort} (h : s.Follows t) : s.Follows (t.updByPort i f) :=
  h.same rfl rfl rfl rfl

@[simp] theorem State.updBzPort_follows {i : Fin 6} {f : BzPort → BzPort} (h : s.Follows t) : s.Follows (t.updBzPort i f) :=
  h.same rfl rfl rfl rfl

@[simp] theorem State.updEngine_follows {e : Fin 32} {f : CopyEngine → CopyEngine} (h : s.Follows t) : s.Follows (t.updEngine e f) :=
  h.same rfl rfl rfl rfl

@[simp] theorem State.updSess_follows {p : Fin 2} {n : Nat} {f : PeerSess → PeerSess} (h : s.Follows t) : s.Follows (t.updSess p n f) :=
  h.same rfl rfl rfl rfl

@[simp] theorem State.updColl_follows {p : Fin 2} {n : Nat} {f : CollSlot → CollSlot} (h : s.Follows t) : s.Follows (t.updColl p n f) :=
  h.same rfl rfl rfl rfl

@[simp] theorem State.updSuite_follows {n : BitVec 8} {f : Suite → Suite} (h : s.Follows t) : s.Follows (t.updSuite n f) :=
  h.updHearth (fun _ => ⟨rfl, rfl, rfl⟩)

/-! ## Free values, stamps, messages -/

@[simp] theorem State.drawBits_follows (h : s.Follows t) : s.Follows t.drawBits.2 :=
  h.trans ⟨rfl, Nat.le_succ _, id, Nat.le_refl _, id, fun h => ⟨Nat.le_refl _, h⟩⟩

@[simp] theorem State.drawBool_follows (h : s.Follows t) : s.Follows t.drawBool.2 :=
  h.trans ⟨rfl, Nat.le_succ _, id, Nat.le_refl _, id, fun h => ⟨Nat.le_refl _, h⟩⟩

@[simp] theorem State.drawKey_follows (h : s.Follows t) : s.Follows t.drawKey.2 :=
  h.trans ⟨rfl, Nat.le_succ _, id, Nat.le_refl _, id, fun h => ⟨Nat.le_refl _, h⟩⟩

@[simp] theorem State.drawSlot_follows {slot : Nat} (h : s.Follows t) : s.Follows (t.drawSlot slot) :=
  h.trans ⟨rfl, Nat.le_succ _, id, Nat.le_refl _, id, fun h => ⟨Nat.le_refl _, h⟩⟩

@[simp] theorem State.setStamp_follows {e : Endpoint} {v : W64} (h : s.Follows t) : s.Follows (t.setStamp e v) :=
  h.same rfl rfl rfl rfl

@[simp] theorem State.stepStamp_follows {e : Endpoint} (h : s.Follows t) : s.Follows (t.stepStamp e) := h.same rfl rfl rfl rfl

@[simp] theorem State.receiveStamp_follows {e : Endpoint} {m : W32} (h : s.Follows t) : s.Follows (t.receiveStamp e m) :=
  h.same rfl rfl rfl rfl

@[simp] theorem State.ctlAsk_follows {src dst : Endpoint} (h : s.Follows t) : s.Follows (t.ctlAsk src dst) := by
  unfold State.ctlAsk
  split
  · exact h
  · exact State.receiveStamp_follows (State.stepStamp_follows h)

@[simp] theorem State.ctlExchange_follows {src dst : Endpoint} {f : State → State} (hf : ∀ u, State.Follows u (f u)) (h : s.Follows t) :
    s.Follows (t.ctlExchange src dst f) := State.ctlAsk_follows ((State.ctlAsk_follows h).trans (hf _))

@[simp] theorem State.send_follows {src dst : Endpoint} {suite : BitVec 8} {gen : BitVec 16} {p : Payload} (h : s.Follows t) :
    s.Follows (t.send src dst suite gen p) := h.same rfl rfl rfl rfl

@[simp] theorem State.report_follows {src : Endpoint} {r : RasRep} (h : s.Follows t) : s.Follows (t.report src r) :=
  h.same rfl rfl rfl rfl

/-- Taking a delivered message from its place. -/
theorem State.takeFor_follows {e : Endpoint} {p : Payload → Bool} {m : BwMsg} {u : State} (h : s.Follows t)
    (hu : t.takeFor e p = some (m, u)) : s.Follows u := by
  unfold State.takeFor at hu
  split at hu
  · cases hu
  · cases hu
    exact h.same rfl rfl rfl rfl

/-! ## Writing of the flash -/

theorem Hearth.endWrite_sameFuses (y : Hearth) (st : BitVec 3) : y.SameFuses (y.endWrite st) := ⟨rfl, rfl, rfl⟩

theorem Hearth.openWrite_sameFuses (y : Hearth) (config : Bool) : y.SameFuses (y.openWrite config) := by
  unfold Hearth.openWrite
  split <;> exact ⟨rfl, rfl, rfl⟩

theorem Hearth.closeWrite_sameFuses (y : Hearth) : y.SameFuses y.closeWrite := by
  unfold Hearth.closeWrite
  split <;> exact ⟨rfl, rfl, rfl⟩

theorem Hearth.abortWrite_sameFuses (y : Hearth) : y.SameFuses y.abortWrite := by
  unfold Hearth.abortWrite
  split <;> exact ⟨rfl, rfl, rfl⟩

end Sys2Proof.Machine
end

