-- ==== Sys2Proof/Laws/FollowsEngines.lean ====
section
/-! SUPPORT. What no command undoes (`State.Follows`): the operations of the engines, of address translation, of the L3 lines and of the requests. -/

set_option linter.unusedTactic false
set_option linter.unreachableTactic false

namespace Sys2Proof.Machine

variable {s t : State}

/-! ## `Operands` -/

@[simp] theorem State.issue_follows {g : GroupRef} {w l : W64} {legal : Insn → Slot → Bool} {use : Insn → Slot → Use}
    {eff : Insn → Slot → Slot → State → Except GroupFault Slot × State}
    (he : ∀ i sl nx u, State.Follows u (eff i sl nx u).2) (h : s.Follows t) : s.Follows (t.issue g w l legal use eff) := by
  unfold State.issue
  dsimp only
  repeat' split
  all_goals first
    | exact h
    | exact State.updSlot_follows h
    | (rename_i e
       obtain rfl := congrArg Prod.snd e
       exact State.updSlot_follows (h.trans (he _ _ _ _)))

@[simp] theorem State.issueSlot_follows {g : GroupRef} {w l : W64} {legal : Insn → Slot → Bool} {use : Insn → Slot → Use} {eff :
  Insn → Slot → Slot → Except GroupFault Slot} (h : s.Follows t) :
    outFollows s (State.issueSlot t g w l legal use eff) := by
  unfold State.issueSlot; simp [h]

/-! ## `Scalar` -/

@[simp] theorem scalarOp_follows {f : W64 → W64 → W64} {g : GroupRef} {w l : W64} (h : s.Follows t) :
    outFollows s (scalarOp f g w l t) := by
  unfold scalarOp; simp [h]

@[simp] theorem scalarImm_follows {f : W64 → W64 → W64} {g : GroupRef} {w l : W64} (h : s.Follows t) :
    outFollows s (scalarImm f g w l t) := by
  unfold scalarImm; simp [h]

/-! ## `Control` -/

@[simp] theorem State.enterPort_follows {g : GroupRef} {sl : Slot} {mask : BitVec 4} (h : s.Follows t) :
    s.Follows (State.enterPort t g sl mask) := by
  unfold State.enterPort; simp [h]

@[simp] theorem State.releaseBarrier_follows {r : RoomId} {b : Nat} (h : s.Follows t) :
    s.Follows (State.releaseBarrier t r b) := by
  unfold State.releaseBarrier
  exact State.Follows.foldl (fun _ _ => by simp) h

/-! ## `Vector` -/

@[simp] theorem vecOp_follows {useB useC : Bool} {tys : Nat → Bool} {f : Nat → Nat → Nat → Nat → Nat} {g : GroupRef} {w l : W64}
  (h : s.Follows t) :
    outFollows s (vecOp useB useC tys f g w l t) := by
  unfold vecOp; simp [h]

@[simp] theorem maskOp_follows {rbMax : Nat} {f : BitVec 128 → BitVec 128 → BitVec 128} {g : GroupRef} {w l : W64} (h : s.Follows
  t) :
    outFollows s (maskOp rbMax f g w l t) := by
  unfold maskOp; simp [h]

/-! ## `AddrMap` -/

@[simp] theorem State.reportHeld_follows {src : Endpoint} {r : RasRep} (h : s.Follows t) :
    s.Follows (State.reportHeld t src r) := by
  unfold State.reportHeld; dsimp only
  (repeat (first
    | exact h
    | (focus (simp (maxDischargeDepth := 40) [h]; done))
    | split))

/-! ## `Stored` -/

@[simp] theorem State.putLine_follows {line off : Nat} {bs : List Byte} (h : s.Follows t) :
    s.Follows (State.putLine t line off bs) := by
  unfold State.putLine
  refine h.mk_ext fun hw => Mem.writeN_wf ?_
  split
  · exact hw
  · exact Mem.writeN_wf hw

@[simp] theorem State.putExt_follows {pa : Nat} {bs : List Byte} (h : s.Follows t) :
    s.Follows (State.putExt t pa bs) := by
  unfold State.putExt; simp [h]

@[simp] theorem State.zeroExt_follows {p : Nat → Bool} (h : s.Follows t) :
    s.Follows (State.zeroExt t p) := by
  exact State.Follows.mk_ext h (fun hw => Mem.filter_wf _ hw)

@[simp] theorem State.wipeFull_follows {m : Ctl} (h : s.Follows t) :
    s.Follows (State.wipeFull t m) := by
  unfold State.wipeFull; simp [h]

@[simp] theorem State.wipePart_follows {page : Nat} {m : Ctl} (h : s.Follows t) :
    s.Follows (State.wipePart t page m) := by
  unfold State.wipePart; simp [h]

@[simp] theorem State.wipeAll_follows {page : Nat} (h : s.Follows t) :
    s.Follows (State.wipeAll t page) := by
  unfold State.wipeAll; simp [h]

/-! ## `Lines` -/

@[simp] theorem State.countBursts_follows {line off n : Nat} (h : s.Follows t) :
    s.Follows (State.countBursts t line off n) := by
  unfold State.countBursts; simp [h]

@[simp] theorem State.extWrite_follows {line off : Nat} {bs : List Byte} {poison : Bool} (h : s.Follows t) :
    s.Follows (State.extWrite t line off bs poison) := by
  unfold State.extWrite
  split
  · exact h
  · exact State.Follows.same (t := (t.putLine line off bs).countBursts line off bs.length) (by simp [h]) rfl rfl rfl rfl

@[simp] theorem State.writeBack_follows {line : Nat} {l : SLine} (h : s.Follows t) :
    s.Follows (State.writeBack t line l) := by
  unfold State.writeBack
  split
  · exact State.extWrite_follows h
  · extract_lets u
    have hu : s.Follows u := State.Follows.foldl (fun _ _ => by simp) h
    split
    · exact hu.same rfl rfl rfl rfl
    · exact hu

@[simp] theorem State.evictKey_follows {k : Nat} (h : s.Follows t) :
    s.Follows (State.evictKey t k) := by
  unfold State.evictKey
  (repeat (first
    | exact h
    | (focus (simp [h]; done))
    | split))

@[simp] theorem State.leaveWay_follows {k : Nat} (h : s.Follows t) :
    s.Follows (State.leaveWay t k) := by
  unfold State.leaveWay
  (repeat (first
    | exact h
    | (focus (simp [h]; done))
    | split))

@[simp] theorem State.setFull_follows {slice : Nat} (h : s.Follows t) :
    s.Follows (State.setFull t slice).2 := by
  unfold State.setFull; simp [h]

@[simp] theorem State.takeWay_follows {slice : Nat} (h : s.Follows t) :
    s.Follows (State.takeWay t slice).2 := by
  unfold State.takeWay
  have h1 : s.Follows (t.setFull slice).2 := State.setFull_follows h
  generalize t.setFull slice = q at h1 ⊢
  dsimp only
  split
  · exact h1
  · split
    · simp [h1]
    · split <;> simp [h1]

@[simp] theorem State.putIn_follows {slice line : Nat} {l : SLine} (h : s.Follows t) :
    s.Follows (State.putIn t slice line l) := by
  unfold State.putIn; simp [h]

@[simp] theorem State.cleanLine_follows {slice line : Nat} (h : s.Follows t) :
    s.Follows (State.cleanLine t slice line) := by
  unfold State.cleanLine
  extract_lets k s0
  have h0 : s.Follows s0 := by
    simp only [s0]
    split
    · exact (State.writeBack_follows h).same rfl rfl rfl rfl
    · exact h
  clear_value s0
  split
  · exact h0
  · exact (State.writeBack_follows h0).same rfl rfl rfl rfl

@[simp] theorem State.cleanDrop_follows {slice line : Nat} (h : s.Follows t) :
    s.Follows (State.cleanDrop t slice line) := by
  unfold State.cleanDrop; simp [h]

@[simp] theorem State.dropLine_follows {slice line : Nat} (h : s.Follows t) :
    s.Follows (State.dropLine t slice line) := by
  unfold State.dropLine; simp [h]

@[simp] theorem State.addPartial_follows {suite : BitVec 8} {line : Nat} {p : Partial} (h : s.Follows t) :
    s.Follows (State.addPartial t suite line p) := by
  unfold State.addPartial
  refine State.Follows.foldl (fun u k => ?_) h
  extract_lets e z r t1 m
  have h1 : u.Follows t1 := State.putLine_follows (State.Follows.refl u)
  clear_value t1
  split
  · exact h1.same rfl rfl rfl rfl
  · exact h1

@[simp] theorem State.partialLost_follows {slice line : Nat} (h : s.Follows t) :
    s.Follows (State.partialLost t slice line) := by
  unfold State.partialLost; simp [h]

@[simp] theorem State.adderTake_follows {slice line : Nat} {p : Partial} (h : s.Follows t) :
    s.Follows (State.adderTake t slice line p) := by
  unfold State.adderTake; simp [h]

@[simp] theorem State.adderEnd_follows {w : Rmw} {bad : Bool} (h : s.Follows t) :
    s.Follows (State.adderEnd t w bad) := by
  unfold State.adderEnd
  extract_lets line m own s1 pkg z rep s2 s3
  have h1 : s.Follows s1 := State.updMc_follows h
  have h2 : s.Follows s2 := State.updMc_follows h1
  have h3 : s.Follows s3 := by
    simp only [s3]
    split
    · exact h2
    · exact h2.same rfl rfl rfl rfl
  split
  · exact State.report_follows h3
  · exact State.addPartial_follows (State.updMc_follows h1)

@[simp] theorem State.ackParts_follows {w : Rmw} (h : s.Follows t) :
    s.Follows (State.ackParts t w) := by
  unfold State.ackParts
  refine State.Follows.foldl (fun u i => ?_) h
  split <;> simp

@[simp] theorem State.settleAdder_follows {line : Nat} (h : s.Follows t) :
    s.Follows (State.settleAdder t line) := by
  unfold State.settleAdder
  (repeat (first
    | exact h
    | (focus (simp [h]; done))
    | split))

@[simp] theorem State.settlePartial_follows {slice line : Nat} (h : s.Follows t) :
    s.Follows (State.settlePartial t slice line) := by
  unfold State.settlePartial
  have h0 : s.Follows (t.settleAdder line) := State.settleAdder_follows h
  generalize t.settleAdder line = s0 at h0 ⊢
  dsimp only
  split
  · exact h0
  · rename_i p _
    generalize hg : ({ s0 with partials := _, evicted := _ } : State) = s1
    have h1 : s.Follows s1 := hg ▸ h0.same rfl rfl rfl rfl
    split <;> simp [h1]

@[simp] theorem State.dropPartial_follows {slice line : Nat} (h : s.Follows t) :
    s.Follows (State.dropPartial t slice line) := by
  unfold State.dropPartial; simp [h]

@[simp] theorem State.freeBuffer_follows {slice : Nat} (h : s.Follows t) :
    s.Follows (State.freeBuffer t slice) := by
  unfold State.freeBuffer
  (repeat (first
    | exact h
    | (focus (simp [h]; done))
    | split))

@[simp] theorem State.forceWay_follows {slice line : Nat} (h : s.Follows t) :
    s.Follows (State.forceWay t slice line) := by
  unfold State.forceWay; simp [h]

@[simp] theorem State.dropReservations_follows {n : Fin 2} {line : Nat} (h : s.Follows t) :
    s.Follows (State.dropReservations t n line) := by
  unfold State.dropReservations; simp [h]

@[simp] theorem State.dropInner_follows {n : Fin 2} {line : Nat} (h : s.Follows t) :
    s.Follows (State.dropInner t n line) := by
  unfold State.dropInner; simp [h]

@[simp] theorem State.setDir_follows {slice line : Nat} {d : Dir} (h : s.Follows t) :
    s.Follows (State.setDir t slice line d) := by
  unfold State.setDir; simp [h]

@[simp] theorem State.writeLine_follows {slice line off : Nat} {bs : List Byte} {a : Attr} {mark : Bool} (h : s.Follows t) :
    s.Follows (State.writeLine t slice line off bs a mark) := by
  unfold State.writeLine; dsimp only
  (repeat (first
    | exact h
    | (focus (simp (maxDischargeDepth := 40) [h]; done))
    | split))

@[simp] theorem State.takeDirty_follows {slice line : Nat} {d : List Byte} {poison : Bool} (h : s.Follows t) :
    s.Follows (State.takeDirty t slice line d poison) := by
  unfold State.takeDirty; simp [h]

@[simp] theorem State.snoopOne_follows {slice line : Nat} {inv : Bool} {n : Fin 2} (h : s.Follows t) :
    s.Follows (State.snoopOne t slice line inv n) := by
  unfold State.snoopOne
  dsimp only
  (repeat (first
    | exact h
    | (focus (simp (maxDischargeDepth := 40) [h]; done))
    | split
    | (refine State.Follows.foldl (fun _ _ => ?_) ?_)
    | (refine State.Follows.foldl2 (fun _ _ => ?_) ?_)))

@[simp] theorem State.snoopTaken_follows {x : Snoop} (h : s.Follows t) :
    s.Follows (State.snoopTaken t x) := by
  unfold State.snoopTaken
  extract_lets s1 s2
  have h1 : s.Follows s1 := h.same rfl rfl rfl rfl
  have h2 : s.Follows s2 := by
    simp only [s2]
    split <;> simp [h1]
  clear_value s2
  exact State.setDir_follows h2

@[simp] theorem State.snoopGiven_follows {x : Snoop} (h : s.Follows t) :
    s.Follows (State.snoopGiven t x) := by
  unfold State.snoopGiven
  extract_lets d s0 s1
  have h0 : s.Follows s0 := by
    simp only [s0]
    split <;> simp [h]
  have h1 : s.Follows s1 := State.dropReservations_follows (State.updParlour_follows h0)
  exact h1.same rfl rfl rfl rfl

@[simp] theorem State.settleSnoops_follows {slice line : Nat} (h : s.Follows t) :
    s.Follows (State.settleSnoops t slice line) := by
  unfold State.settleSnoops
  refine State.Follows.foldl (fun u x => ?_) h
  have h1 : u.Follows (if x.answered then u else u.snoopGiven x) := by split <;> simp
  extract_lets t1
  have h1 : u.Follows t1 := h1
  clear_value t1
  split <;> simp [h1]

@[simp] theorem State.settleLine_follows {slice line : Nat} (h : s.Follows t) :
    s.Follows (State.settleLine t slice line) := by
  unfold State.settleLine; simp [h]

@[simp] theorem State.snoopNow_follows {slice line : Nat} {inv : Bool} (h : s.Follows t) :
    s.Follows (State.snoopNow t slice line inv) := by
  unfold State.snoopNow
  have h0 : s.Follows (t.settleSnoops slice line) := State.settleSnoops_follows h
  extract_lets t0 d s1
  have h1 : s.Follows s1 := State.Follows.foldl (fun _ _ => by simp) h0
  exact State.setDir_follows h1

@[simp] theorem State.fillLine_follows {slice line : Nat} (h : s.Follows t) :
    s.Follows (State.fillLine t slice line) := by
  unfold State.fillLine; simp [h]

@[simp] theorem State.portTaken_follows {slice port : Nat} (h : s.Follows t) :
    s.Follows (State.portTaken t slice port) := by
  unfold State.portTaken; simp [h]

@[simp] theorem State.readLine_follows {slice line off n : Nat} {a : Attr} (h : s.Follows t) :
    s.Follows (State.readLine t slice line off n a).2 := by
  unfold State.readLine; simp (maxDischargeDepth := 40) [h]

@[simp] theorem State.sysRead_follows {tag : BitVec 8} {pa n : Nat} {a : Attr} (h : s.Follows t) :
    s.Follows (State.sysRead t tag pa n a).2 := by
  unfold State.sysRead; simp [h]

@[simp] theorem State.sysWrite_follows {tag : BitVec 8} {pa : Nat} {bs : List Byte} {a : Attr} {mark : Bool} (h : s.Follows t) :
    s.Follows (State.sysWrite t tag pa bs a mark) := by
  unfold State.sysWrite; simp (maxDischargeDepth := 40) [h]

/-! ## `Xlate` -/

@[simp] theorem State.translate_follows {suite : BitVec 8} {va : Nat} {write : Bool} (h : s.Follows t) :
    s.Follows (State.translate t suite va write).2 := by
  unfold State.translate
  extract_lets gs walked
  have hw : ∀ u, s.Follows u → s.Follows (walked u).2 := by
    intro u hu
    simp only [walked]
    repeat' split
    all_goals simp [hu]
  clear_value walked
  split
  · exact hw _ h
  · split
    rename_i e
    obtain rfl := congrArg Prod.snd e
    split
    · exact hw _ (by simp [h])
    · split <;> simp [h]

@[simp] theorem State.locate_follows {suite : BitVec 8} {va : Nat} {store atomic : Bool} (h : s.Follows t) :
    s.Follows (State.locate t suite va store atomic).2 := by
  unfold State.locate; dsimp only
  (repeat (first
    | exact h
    | (focus (simp (maxDischargeDepth := 40) [h]; done))
    | split))

@[simp] theorem State.checkAccess_follows {suite : BitVec 8} {space1 : Bool} {k : AccKind} {va size : Nat} (h : s.Follows t) :
    s.Follows (State.checkAccess t suite space1 k va size).2 := by
  unfold State.checkAccess; dsimp only
  (repeat (first
    | exact h
    | (focus (simp (maxDischargeDepth := 40) [h]; done))
    | split))

@[simp] theorem State.checkTally_follows {suite : BitVec 8} {r : RegionInfo} {va : Nat} (h : s.Follows t) :
    s.Follows (State.checkTally t suite r va).2 := by
  unfold State.checkTally; dsimp only
  (repeat (first
    | exact h
    | (focus (simp (maxDischargeDepth := 40) [h]; done))
    | split))

/-! ## `EngineMem` -/

@[simp] theorem State.addReqs_follows {rs : List Req} (h : s.Follows t) :
    s.Follows (State.addReqs t rs) := by
  unfold State.addReqs; simp [h]

@[simp] theorem State.updReq_follows {k : Nat} {f : Req → Req} (h : s.Follows t) :
    s.Follows (State.updReq t k f) := by
  unfold State.updReq
  (repeat (first
    | exact h
    | (focus (simp [h]; done))
    | split))

@[simp] theorem State.arrive_follows {k : Nat} {f : Req → Req} (h : s.Follows t) :
    s.Follows (State.arrive t k f) := by
  unfold State.arrive; simp [h]

@[simp] theorem State.dropReq_follows {k : Nat} (h : s.Follows t) :
    s.Follows (State.dropReq t k) := by
  unfold State.dropReq; simp [h]

@[simp] theorem State.takeOp_follows {c : CoreId} (h : s.Follows t) :
    s.Follows (State.takeOp t c).2 := by
  unfold State.takeOp; simp [h]

@[simp] theorem State.pickLane_follows {c : CoreId} (h : s.Follows t) :
    s.Follows (State.pickLane t c).2 := by
  unfold State.pickLane; simp [h]

@[simp] theorem State.checkAll_follows {g : GroupRef} {sl : Slot} {space1 : Bool} {k : AccKind} {size : Nat} {x0 : List (Nat ×
  Nat)} (h : s.Follows t) :
    s.Follows (State.checkAll t g sl space1 k size x0).2 := by
  induction x0 generalizing t with
  | nil => simp [State.checkAll, h]
  | cons p ps ih =>
    simp only [State.checkAll]
    (repeat (first | exact h | (focus (simp (maxDischargeDepth := 40) [h, ih]; done)) | split))

@[simp] theorem State.makeReq_follows {g : GroupRef} {sl : Slot} {op : Nat} {k : ReqKind} {e : Nat × Nat × Target} {size : Nat} (h
  : s.Follows t) :
    s.Follows (State.makeReq t g sl op k e size).2 := by
  unfold State.makeReq
  (repeat (first
    | exact h
    | (focus (simp [h]; done))
    | split))

@[simp] theorem State.makeReqs_follows {g : GroupRef} {sl : Slot} {op : Nat} {k : ReqKind} {size : Nat} {fill : Req → Req} {x0 :
  List (Nat × Nat × Target)} (h : s.Follows t) :
    s.Follows (State.makeReqs t g sl op k size fill x0).2 := by
  induction x0 generalizing t with
  | nil => exact h
  | cons e es ih =>
    unfold State.makeReqs
    split
    rename_i e1
    obtain rfl := congrArg Prod.snd e1
    split
    rename_i e2
    obtain rfl := congrArg Prod.snd e2
    exact ih (State.makeReq_follows h)

@[simp] theorem State.launchOp_follows {nx : Slot} {o : MemOp} {rs : List Req} (h : s.Follows t) :
    s.Follows (State.launchOp t nx o rs).2 := by
  unfold State.launchOp; simp [h]

@[simp] theorem scalarLoad_follows {acquire roInval : Bool} {g : GroupRef} {w l : W64} (h : s.Follows t) :
    outFollows s (scalarLoad acquire roInval g w l t) := by
  unfold scalarLoad
  refine outFollows_next.2 (State.issue_follows (fun i sl nx u => ?_) h)
  dsimp only
  (repeat (first | (focus (simp (maxDischargeDepth := 40); done)) | split))

@[simp] theorem State.checkRed_follows {g : GroupRef} {sl : Slot} {space1 : Bool} {x0 : List (Nat × Nat)} (h : s.Follows t) :
    s.Follows (State.checkRed t g sl space1 x0).2 := by
  induction x0 generalizing t with
  | nil => simp [State.checkRed, h]
  | cons p ps ih =>
    simp only [State.checkRed]
    (repeat (first | exact h | (focus (simp (maxDischargeDepth := 40) [h, ih]; done)) | split))

@[simp] theorem State.checkRedRow_follows {sl : Slot} {space1 : Bool} {va : Nat} (h : s.Follows t) :
    s.Follows (State.checkRedRow t sl space1 va).2 := by
  unfold State.checkRedRow
  dsimp only
  (repeat (first
    | exact h
    | (focus (simp (maxDischargeDepth := 40) [h]; done))
    | split
    | (rename_i e; obtain rfl := congrArg Prod.snd e)
    | (refine State.Follows.foldl (fun _ _ => ?_) ?_)
    | (refine State.Follows.foldl2 (fun _ _ => ?_) ?_)))

/-! ## `DmaRun` -/

@[simp] theorem State.dmaLane_follows {g : GroupRef} {room : RoomId} {otherExternal : Bool} (h : s.Follows t) :
    s.Follows (State.dmaLane t g room otherExternal).2 := by
  unfold State.dmaLane; simp [h]

@[simp] theorem State.dmaReq_follows {d : DmaDesc} {sl : Slot} {n : Nat} {k : ReqKind} {b : DmaBlock} {data : List Byte} {mark :
  Bool} (h : s.Follows t) :
    s.Follows (State.dmaReq t d sl n k b data mark) := by
  unfold State.dmaReq
  (repeat (first
    | exact h
    | (focus (simp [h]; done))
    | split))

@[simp] theorem State.updDesc_follows {c : CoreId} {op : Nat} {f : DmaDesc → DmaDesc} (h : s.Follows t) :
    s.Follows (State.updDesc t c op f) := by
  unfold State.updDesc; simp [h]

@[simp] theorem State.sendReady_follows {g : GroupRef} {op : Nat} (h : s.Follows t) :
    s.Follows (State.sendReady t g op) := by
  unfold State.sendReady
  split
  · exact h
  · dsimp only
    refine State.updCore_follows (State.Follows.foldl2 (fun u n => ?_) h)
    (repeat (first | (focus (simp (maxDischargeDepth := 40); done)) | split))

@[simp] theorem State.beginDma_follows {d : DmaDesc} (h : s.Follows t) :
    s.Follows (State.beginDma t d) := by
  unfold State.beginDma
  extract_lets s1 sl
  have h1 : s.Follows s1 := State.updDesc_follows h
  split
  · exact State.sendReady_follows h1
  · refine State.Follows.foldl (fun u n => ?_) h1
    split <;> simp

@[simp] theorem State.startDma_follows {c : CoreId} (h : s.Follows t) :
    s.Follows (State.startDma t c) := by
  unfold State.startDma; simp [h]

/-! ## `Requests` -/

@[simp] theorem State.grantLane_follows {r : RoomId} {bank lane : Nat} (h : s.Follows t) :
    s.Follows (State.grantLane t r bank lane) := by
  unfold State.grantLane; simp [h]

@[simp] theorem State.stairLane_follows {r : RoomId} (h : s.Follows t) :
    s.Follows (State.stairLane t r).2 := by
  unfold State.stairLane; simp [h]

@[simp] theorem State.grantRange_follows {r : RoomId} {lane off n : Nat} (h : s.Follows t) :
    s.Follows (State.grantRange t r lane off n) := by
  unfold State.grantRange; simp [h]

@[simp] theorem State.performed_follows {k : Nat} {g : GroupRef} {op : Nat} (h : s.Follows t) :
    s.Follows (State.performed t k g op) := by
  unfold State.performed; simp [h]

@[simp] theorem State.fenceErr_follows {g : GroupRef} (h : s.Follows t) :
    s.Follows (State.fenceErr t g) := by
  unfold State.fenceErr; simp [h]

@[simp] theorem State.reportReq_follows {r : Req} {cause outcome : BitVec 8} {subject : BitVec 16} {reason : BitVec 2} (h :
  s.Follows t) :
    s.Follows (State.reportReq t r cause outcome subject reason) := by
  unfold State.reportReq; simp [h]

@[simp] theorem State.dmaWriteEnded_follows {g : GroupRef} {op n : Nat} (h : s.Follows t) :
    s.Follows (State.dmaWriteEnded t g op n) := by
  unfold State.dmaWriteEnded; simp (maxDischargeDepth := 40) [h]

@[simp] theorem State.winAnswer_follows {k : Nat} {r : Req} {status : Nat} {data : List Byte} (h : s.Follows t) :
    s.Follows (State.winAnswer t k r status data) := by
  unfold State.winAnswer
  (repeat (first
    | exact h
    | (focus (simp [h]; done))
    | split))

@[simp] theorem State.dropWrite_follows {k : Nat} {reason : BitVec 2} {subject : BitVec 16} (h : s.Follows t) :
    s.Follows (State.dropWrite t k reason subject) := by
  unfold State.dropWrite
  (repeat (first
    | exact h
    | (focus (simp (maxDischargeDepth := 40) [h]; done))
    | split))

@[simp] theorem State.failRead_follows {k : Nat} {timeout : Bool} {reason : BitVec 2} {subject : BitVec 16} (h : s.Follows t) :
    s.Follows (State.failRead t k timeout reason subject) := by
  unfold State.failRead
  (repeat (first
    | exact h
    | (focus (simp [h]; done))
    | split))

@[simp] theorem State.refuse_follows {k : Nat} {reason : BitVec 2} {subject : BitVec 16} (h : s.Follows t) :
    s.Follows (State.refuse t k reason subject) := by
  unfold State.refuse
  (repeat (first
    | exact h
    | (focus (simp [h]; done))
    | split))

@[simp] theorem State.fillRoc_follows {c : CoreId} {r : Req} (h : s.Follows t) :
    s.Follows (State.fillRoc t c r) := by
  unfold State.fillRoc
  dsimp only
  (repeat (first
    | exact h
    | (focus (simp (maxDischargeDepth := 40) [h]; done))
    | split
    | (refine State.Follows.foldl (fun _ _ => ?_) ?_)
    | (refine State.Follows.foldl2 (fun _ _ => ?_) ?_)))

@[simp] theorem State.coreRead_follows {r : Req} {bytes : List Byte} (h : s.Follows t) :
    s.Follows (State.coreRead t r bytes) := by
  unfold State.coreRead
  (repeat (first
    | exact h
    | (focus (simp [h]; done))
    | split))

@[simp] theorem State.dropRoc_follows {c : CoreId} (h : s.Follows t) :
    s.Follows (State.dropRoc t c) := by
  unfold State.dropRoc; simp [h]

end Sys2Proof.Machine
end

