-- ==== Sys2Proof/Laws/FollowsGraph.lean ====
section
/-! SUPPORT. What no command undoes (`State.Follows`): the operations of the graph engine and of the life of a group. -/

set_option linter.unusedTactic false
set_option linter.unreachableTactic false

namespace Sys2Proof.Machine

variable {s t : State}

/-! ## `Graph` -/

@[simp] theorem State.locateAll_follows {suite : BitVec 8} {write : Bool} {ok : RegionInfo → Bool} {x0 : List (Nat × Nat)} (h :
  s.Follows t) :
    s.Follows (State.locateAll t suite write ok x0).2 := by
  induction x0 generalizing t with
  | nil => simp [State.locateAll, h]
  | cons p ps ih =>
    simp only [State.locateAll]
    (repeat (first | exact h | (focus (simp (maxDischargeDepth := 40) [h, ih]; done)) | split))

@[simp] theorem State.gReadIf_follows {suite : BitVec 8} {va n : Nat} {ok : RegionInfo → Bool} (h : s.Follows t) :
    s.Follows (State.gReadIf t suite va n ok).2 := by
  unfold State.gReadIf; dsimp only
  (repeat (first
    | exact h
    | (focus (simp (maxDischargeDepth := 40) [h]; done))
    | split))

@[simp] theorem State.gRead_follows {suite : BitVec 8} {va n : Nat} (h : s.Follows t) :
    s.Follows (State.gRead t suite va n).2 := by
  unfold State.gRead; simp [h]

@[simp] theorem State.gWriteWhy_follows {suite : BitVec 8} {va : Nat} {bs : List Byte} {mark : Bool} (h : s.Follows t) :
    s.Follows (State.gWriteWhy t suite va bs mark).2 := by
  unfold State.gWriteWhy; dsimp only
  (repeat (first
    | exact h
    | (focus (simp (maxDischargeDepth := 40) [h]; done))
    | split))

@[simp] theorem State.gWrite_follows {suite : BitVec 8} {va : Nat} {bs : List Byte} (h : s.Follows t) :
    s.Follows (State.gWrite t suite va bs).2 := by
  unfold State.gWrite; dsimp only
  (repeat (first
    | exact h
    | (focus (simp (maxDischargeDepth := 40) [h]; done))
    | split))

@[simp] theorem State.sinkPut_follows {suite : BitVec 8} {r : Record} (h : s.Follows t) :
    s.Follows (State.sinkPut t suite r) := by
  unfold State.sinkPut; simp [h]

@[simp] theorem State.sinkRecord_follows {wing : Nat} {suite : BitVec 8} {r : Record} (h : s.Follows t) :
    s.Follows (State.sinkRecord t wing suite r) := by
  unfold State.sinkRecord; simp [h]

@[simp] theorem State.note_follows {k : Fin 8} {suite : BitVec 8} {code graph idx status firing detail : Nat} (h : s.Follows t) :
    s.Follows (State.note t k suite code graph idx status firing detail) := by
  unfold State.note; simp [h]

@[simp] theorem State.updEdge_follows {h_ : Nat} {f : Edge → Edge} (h : s.Follows t) :
    s.Follows (State.updEdge t h_ f) := by
  unfold State.updEdge
  (repeat (first
    | exact h
    | (focus (simp [h]; done))
    | split))

@[simp] theorem State.updTask_follows {k : Fin 8} {i : Nat} {f : Task → Task} (h : s.Follows t) :
    s.Follows (State.updTask t k i f) := by
  unfold State.updTask
  (repeat (first
    | exact h
    | (focus (simp [h]; done))
    | split))

@[simp] theorem State.readList_follows {suite : BitVec 8} {va : Nat} (h : s.Follows t) :
    s.Follows (State.readList t suite va).2 := by
  unfold State.readList; dsimp only
  (repeat (first
    | exact h
    | (focus (simp (maxDischargeDepth := 40) [h]; done))
    | split))

@[simp] theorem State.taskList_follows {t_ : Task} (h : s.Follows t) :
    s.Follows (State.taskList t t_).2 := by
  unfold State.taskList; simp [h]

@[simp] theorem State.updCtx_follows {suite : BitVec 8} {i : Nat} {f : Ctx → Ctx} (h : s.Follows t) :
    s.Follows (State.updCtx t suite i f) := by
  unfold State.updCtx
  (repeat (first
    | exact h
    | (focus (simp [h]; done))
    | split))

@[simp] theorem State.ctxLost_follows {suite : BitVec 8} {i detail : Nat} (h : s.Follows t) :
    s.Follows (State.ctxLost t suite i detail) := by
  unfold State.ctxLost; simp [h]

@[simp] theorem State.publishCtx_follows {suite : BitVec 8} {i : Nat} {asFree : Bool} (h : s.Follows t) :
    s.Follows (State.publishCtx t suite i asFree) := by
  unfold State.publishCtx
  dsimp only
  (repeat (first
    | exact h
    | (focus (simp (maxDischargeDepth := 40) [h]))
    | split
    | (refine State.Follows.foldl (fun _ _ => ?_) ?_)
    | (refine State.Follows.foldl2 (fun _ _ => ?_) ?_)))

@[simp] theorem State.spillStart_follows {suite : BitVec 8} {i : Nat} (h : s.Follows t) :
    s.Follows (State.spillStart t suite i) := by
  unfold State.spillStart
  (repeat (first
    | exact h
    | (focus (simp [h]; done))
    | split))

@[simp] theorem State.trimOrders_follows {k : Fin 8} (h : s.Follows t) :
    s.Follows (State.trimOrders t k) := by
  unfold State.trimOrders; simp [h]

@[simp] theorem State.settle_follows {k : Fin 8} (h : s.Follows t) :
    s.Follows (State.settle t k) := by
  unfold State.settle; simp [h]

@[simp] theorem State.settleAll_follows  (h : s.Follows t) :
    s.Follows (State.settleAll t) := by
  unfold State.settleAll; simp [h]

@[simp] theorem State.launchOn_follows {k : Fin 8} {i : Nat} (h : s.Follows t) :
    s.Follows (State.launchOn t k i) := by
  unfold State.launchOn; dsimp only
  (repeat (first
    | exact h
    | (focus (simp (maxDischargeDepth := 40) [h]; done))
    | split))

@[simp] theorem State.takeInputs_follows {t_ : Task} {replay : Bool} (h : s.Follows t) :
    s.Follows (State.takeInputs t t_ replay) := by
  unfold State.takeInputs
  extract_lets s1
  have h1 : s.Follows s1 := by
    simp only [s1]
    split
    · exact h
    · exact State.Follows.foldl (fun _ _ => by simp) h
  exact State.Follows.foldl (fun _ _ => by simp) h1

@[simp] theorem State.taskFailed_follows {k : Fin 8} {i cause : Nat} (h : s.Follows t) :
    s.Follows (State.taskFailed t k i cause) := by
  unfold State.taskFailed
  split
  · exact h
  · rename_i x e
    extract_lets s1 s2 s3
    have h1 : s.Follows s1 := by simp [s1, h]
    have h2 : s.Follows s2 := State.Follows.foldl (fun _ _ => by simp) h1
    have h3 : s.Follows s3 := by simp [s3, h2]
    clear_value s3
    split <;> simp [h3]

@[simp] theorem State.fire_follows {k : Fin 8} {i : Nat} (h : s.Follows t) :
    s.Follows (State.fire t k i) := by
  unfold State.fire
  split
  · exact h
  · extract_lets replay s1 drop s2 l start s3
    have h2 : s.Follows s2 := by simp [s2, s1, h]
    have h3 : s.Follows s3 := by simp [s3, l, h2]
    clear_value s3
    split
    · simp [h3]
    · extract_lets s4 s5
      have h4 : s.Follows s4 := by simp [s4, h3]
      have h5 : s.Follows s5 := State.Follows.foldl (fun _ _ => by simp) h4
      exact State.launchOn_follows h5

@[simp] theorem State.addTokens_follows {h_ n : Nat} (h : s.Follows t) :
    s.Follows (State.addTokens t h_ n) := by
  unfold State.addTokens
  (repeat (first
    | exact h
    | (focus (simp [h]; done))
    | split))

@[simp] theorem State.addCredits_follows {h_ n : Nat} (h : s.Follows t) :
    s.Follows (State.addCredits t h_ n) := by
  unfold State.addCredits; simp [h]

@[simp] theorem State.sendTokens_follows {k : Fin 8} {i firing h_ n : Nat} (h : s.Follows t) :
    s.Follows (State.sendTokens t k i firing h_ n) := by
  unfold State.sendTokens
  (repeat (first
    | exact h
    | (focus (simp [h]; done))
    | split))

@[simp] theorem State.sendCredits_follows {k : Fin 8} {i firing h_ n : Nat} (h : s.Follows t) :
    s.Follows (State.sendCredits t k i firing h_ n) := by
  unfold State.sendCredits
  (repeat (first
    | exact h
    | (focus (simp [h]; done))
    | split))

@[simp] theorem State.freeGraph_follows {suite : BitVec 8} {h_ : Nat} (h : s.Follows t) :
    s.Follows (State.freeGraph t suite h_) := by
  unfold State.freeGraph
  exact State.updGsuite_follows (State.Follows.foldl (fun _ _ => by simp) h)

@[simp] theorem State.graphCheck_follows {suite : BitVec 8} {h_ : Nat} (h : s.Follows t) :
    s.Follows (State.graphCheck t suite h_) := by
  unfold State.graphCheck
  (repeat (first
    | exact h
    | (focus (simp [h]; done))
    | split))

@[simp] theorem State.dropSpawns_follows {suite : BitVec 8} {k : Fin 8} {i : Nat} (h : s.Follows t) :
    s.Follows (State.dropSpawns t suite k i) := by
  unfold State.dropSpawns; simp [h]

@[simp] theorem State.releaseCtxs_follows {t_ : Task} (h : s.Follows t) :
    s.Follows (State.releaseCtxs t t_) := by
  unfold State.releaseCtxs; simp [h]

@[simp] theorem State.firingDone_follows {k : Fin 8} {i : Nat} (h : s.Follows t) :
    s.Follows (State.firingDone t k i) := by
  unfold State.firingDone
  split
  · exact h
  · rename_i x _
    extract_lets ended s0 fin s1 s2 s3 s4 s5 y s6
    have h1 : s.Follows s1 := State.updTask_follows (State.dropSpawns_follows (State.releaseCtxs_follows h))
    have h2 : s.Follows s2 := by
      simp only [s2]
      split
      · exact h1
      · exact State.Follows.foldl (fun _ _ => by simp) h1
    have h3 : s.Follows s3 := by
      simp only [s3]
      split
      · exact h2
      · refine State.Follows.foldl (fun u e => ?_) h2
        split
        · simp
        · split <;> simp
    have h4 : s.Follows s4 := State.Follows.foldl (fun _ _ => by simp) h3
    have h5 : s.Follows s5 := by
      simp only [s5]
      split
      · exact State.note_follows h4
      · exact h4
    have hy : s.Follows y := by
      simp only [y]
      split
      · exact State.sendTokens_follows h5
      · exact h5
    refine State.updGsuite_follows ?_
    simp only [s6]
    split
    · exact State.updDisp_follows hy
    · exact State.graphCheck_follows h5

@[simp] theorem State.taskLost_follows {k : Fin 8} {i : Nat} (h : s.Follows t) :
    s.Follows (State.taskLost t k i) := by
  unfold State.taskLost
  (repeat (first
    | exact h
    | (focus (simp (maxDischargeDepth := 40) [h]; done))
    | split))

/-! ## `Life` -/

@[simp] theorem State.sendPark_follows {c : CoreId} {slot : Nat} {sl : Slot} {cause : Cause} {addr : W64} (h : s.Follows t) :
    s.Follows (State.sendPark t c slot sl cause addr) := by
  unfold State.sendPark; simp [h]

@[simp] theorem State.readHeader_follows {suite : BitVec 8} {va : Nat} (h : s.Follows t) :
    s.Follows (State.readHeader t suite va).2 := by
  unfold State.readHeader; simp [h]

@[simp] theorem State.refuseHeader_follows {c : CoreId} {q : LaunchReq} (h : s.Follows t) :
    s.Follows (State.refuseHeader t c q) := by
  unfold State.refuseHeader; simp [h]

@[simp] theorem State.resume_follows {g : GroupRef} (h : s.Follows t) :
    s.Follows (State.resume t g) := by
  unfold State.resume; simp [h]

@[simp] theorem State.staleCmd_follows {c : CoreId} (h : s.Follows t) :
    s.Follows (State.staleCmd t c) := by
  unfold State.staleCmd; simp [h]

@[simp] theorem State.refusedAccess_follows  (h : s.Follows t) :
    s.Follows (State.refusedAccess t) := by
  unfold State.refusedAccess; simp [h]

@[simp] theorem State.acceptedAccess_follows  (h : s.Follows t) :
    s.Follows (State.acceptedAccess t) := by
  unfold State.acceptedAccess; simp [h]

@[simp] theorem State.regCommand_follows {agent : Agent} {target : Endpoint} {may : Bool} {effect : State → State}
    (he : ∀ u, State.Follows u (effect u)) (h : s.Follows t) : outFollows s (State.regCommand t agent target may effect) := by
  unfold State.regCommand
  have ha : ∀ u, State.Follows u (effect u.acceptedAccess) := fun u => (State.acceptedAccess_follows (State.Follows.refl
    u)).trans (he _)
  simp [h, ha]

@[simp] theorem State.replayCmd_follows {c : CoreId} {value : W64} (h : s.Follows t) :
    s.Follows (State.replayCmd t c value) := by
  unfold State.replayCmd; simp [h]

@[simp] theorem State.updTaskSlots_follows {c : CoreId} {of : Slot} {f : Slot → Slot} (h : s.Follows t) :
    s.Follows (State.updTaskSlots t c of f) := by
  unfold State.updTaskSlots; simp [h]

@[simp] theorem State.discardCmd_follows {c : CoreId} {value : W64} (h : s.Follows t) :
    s.Follows (State.discardCmd t c value) := by
  unfold State.discardCmd; simp [h]

@[simp] theorem State.reportFence_follows {c : CoreId} {trigger outcome : Nat} (h : s.Follows t) :
    s.Follows (State.reportFence t c trigger outcome) := by
  unfold State.reportFence; simp [h]

@[simp] theorem State.detachLanes_follows {c : CoreId} (h : s.Follows t) :
    s.Follows (State.detachLanes t c) := by
  unfold State.detachLanes
  dsimp only
  (repeat (first
    | exact h
    | (focus (simp (maxDischargeDepth := 40); done))
    | split
    | (rename_i e; obtain rfl := congrArg Prod.snd e)
    | (refine State.Follows.foldl (fun _ _ => ?_) ?_)
    | (refine State.Follows.foldl2 (fun _ _ => ?_) ?_)))

@[simp] theorem State.fenceCore_follows {c : CoreId} {trigger : Nat} (h : s.Follows t) :
    s.Follows (State.fenceCore t c trigger) := by
  unfold State.fenceCore
  dsimp only
  (repeat (first
    | exact h
    | (focus (simp (maxDischargeDepth := 40) [h]; done))
    | split
    | (refine State.Follows.foldl (fun _ _ => ?_) ?_)
    | (refine State.Follows.foldl2 (fun _ _ => ?_) ?_)))

@[simp] theorem State.fenceTest_follows {c : CoreId} (h : s.Follows t) :
    s.Follows (State.fenceTest t c) := by
  unfold State.fenceTest; simp [h]

/-! ## `Firing` -/

@[simp] theorem State.firingEnds_follows {k : Fin 8} {i : Nat} {outcome : BitVec 8} {from_ : Nat} (h : s.Follows t) :
    s.Follows (State.firingEnds t k i outcome from_) := by
  unfold State.firingEnds
  (repeat (first
    | exact h
    | (focus (simp (maxDischargeDepth := 40) [h]; done))
    | split))

@[simp] theorem State.setGraphMode_follows {suite : BitVec 8} {on : Bool} (h : s.Follows t) :
    s.Follows (State.setGraphMode t suite on) := by
  unfold State.setGraphMode; simp [h]

@[simp] theorem State.edgeLost_follows {h_ : Nat} (h : s.Follows t) :
    s.Follows (State.edgeLost t h_) := by
  unfold State.edgeLost; dsimp only
  (repeat (first
    | exact h
    | (focus (simp (maxDischargeDepth := 40) [h]; done))
    | split))

@[simp] theorem State.roomLostGraph_follows {r : RoomId} (h : s.Follows t) :
    s.Follows (State.roomLostGraph t r) := by
  unfold State.roomLostGraph
  split
  · exact h
  · dsimp only
    refine State.Follows.foldl (fun _ _ => by simp) (State.Follows.foldl (fun u k => State.Follows.foldl (fun _ _ => by simp)
      (State.Follows.refl u)) (State.Follows.foldl (fun u k => State.Follows.foldl (fun _ _ => by simp) (State.Follows.refl
      u)) (by simp [h])))

@[simp] theorem State.reportLost_follows {src : Endpoint} {kind number trigger : Nat} {subject : BitVec 16} {own : Option (BitVec
  8 × BitVec 16)} (h : s.Follows t) :
    s.Follows (State.reportLost t src kind number trigger subject own) := by
  unfold State.reportLost; simp [h]

@[simp] theorem State.refuseRoom_follows {r : RoomId} (h : s.Follows t) :
    s.Follows (State.refuseRoom t r) := by
  unfold State.refuseRoom; simp [h]

@[simp] theorem State.loseRoom_follows {r : RoomId} {trigger : Nat} (h : s.Follows t) :
    s.Follows (State.loseRoom t r trigger) := by
  unfold State.loseRoom; simp (maxDischargeDepth := 40) [h]

@[simp] theorem State.poisonBlock_follows {r : RoomId} {b : Nat} (h : s.Follows t) :
    s.Follows (State.poisonBlock t r b) := by
  unfold State.poisonBlock; simp (maxDischargeDepth := 40) [h]

@[simp] theorem State.roomEcc_follows {r : RoomId} {off n : Nat} {ecc : Ecc} (h : s.Follows t) :
    s.Follows (State.roomEcc t r off n ecc) := by
  unfold State.roomEcc
  (repeat (first
    | exact h
    | (focus (simp [h]; done))
    | split))

@[simp] theorem State.hallRead_follows {r : RoomId} {lane off n : Nat} {ecc : Ecc} (h : s.Follows t) :
    s.Follows (State.hallRead t r lane off n ecc).2 := by
  unfold State.hallRead; simp [h]

@[simp] theorem State.spillCopy_follows {suite : BitVec 8} {c : Ctx} {lanes : Nat → Nat} {eccs : List Ecc} (h : s.Follows t) :
    s.Follows (State.spillCopy t suite c lanes eccs).2 := by
  unfold State.spillCopy; simp (maxDischargeDepth := 40) [h]

@[simp] theorem State.stairLanes_follows {halls : List (Nat × RoomId)} (h : s.Follows t) :
    s.Follows (State.stairLanes t halls).2 := by
  unfold State.stairLanes; simp [h]

@[simp] theorem State.readSpawn_follows {g : GroupRef} {suite : BitVec 8} {room : Bool} {addr : Nat} {ecc : Ecc} (h : s.Follows t) :
    s.Follows (State.readSpawn t g suite room addr ecc).2 := by
  unfold State.readSpawn; simp [h]

@[simp] theorem State.installSpawn_follows {g : GroupRef} {sl : Slot} {room : Bool} {addr : W64} {ecc : Ecc} (h : s.Follows t) :
    s.Follows (State.installSpawn t g sl room addr ecc).2 := by
  unfold State.installSpawn; dsimp only
  (repeat (first
    | exact h
    | (focus (simp (maxDischargeDepth := 40) [h]; done))
    | split))

/-! ## `Streams` -/

@[simp] theorem State.sawDone_follows {r : RoomId} {off n : Nat} (h : s.Follows t) :
    s.Follows (State.sawDone t r off n) := by
  unfold State.sawDone; simp (maxDischargeDepth := 40) [h]

@[simp] theorem State.roomWrite_follows {r : RoomId} {off : Nat} {bs : List Byte} {mark : Bool} (h : s.Follows t) :
    s.Follows (State.roomWrite t r off bs mark) := by
  unfold State.roomWrite; simp [h]

@[simp] theorem State.updStream_follows {k : Fin 8} {i : Nat} {f : Stream → Stream} (h : s.Follows t) :
    s.Follows (State.updStream t k i f) := by
  unfold State.updStream
  (repeat (first
    | exact h
    | (focus (simp [h]; done))
    | split))

@[simp] theorem State.chunkLine_follows {suite : BitVec 8} {va : Nat} (h : s.Follows t) :
    s.Follows (State.chunkLine t suite va).2 := by
  unfold State.chunkLine; dsimp only
  (repeat (first
    | exact h
    | (focus (simp (maxDischargeDepth := 40) [h]; done))
    | split))

@[simp] theorem State.deliverLine_follows {x : Stream} {lanes : Nat → Nat} {g pos : Nat} {d : List Byte} {poison : Bool} (h :
  s.Follows t) :
    s.Follows (State.deliverLine t x lanes g pos d poison) := by
  unfold State.deliverLine; simp (maxDischargeDepth := 40) [h]

@[simp] theorem State.chunkFault_follows {suite : BitVec 8} {x0 : List (Nat × Nat)} (h : s.Follows t) :
    s.Follows (State.chunkFault t suite x0).2 := by
  induction x0 generalizing t with
  | nil => simp [State.chunkFault, h]
  | cons p ps ih =>
    simp only [State.chunkFault]
    (repeat (first | exact h | (focus (simp (maxDischargeDepth := 40) [h, ih]; done)) | split))

@[simp] theorem State.rereadBuffer_follows {lane : Nat} {k : Fin 8} {si : Nat} {x : Stream} {m : Nat} {r : RoomId} {b : Nat} (h :
  s.Follows t) :
    s.Follows (State.rereadBuffer t lane k si x m r b) := by
  unfold State.rereadBuffer
  split
  · exact h
  · split
    · exact h
    · extract_lets off bad s1 clean
      have h1 : s.Follows s1 := by
        refine State.Follows.foldl (fun u i => ?_) h
        dsimp only
        split
        · simp
        · split <;> simp (maxDischargeDepth := 40)
      split
      · exact State.updStream_follows h1
      · exact h1

/-! ## `Mail` -/

@[simp] theorem State.ackMail_follows {suite : BitVec 8} {m : MailMsg} {st : Nat} (h : s.Follows t) :
    s.Follows (State.ackMail t suite m st) := by
  unfold State.ackMail; simp [h]

@[simp] theorem State.popMail_follows {suite : BitVec 8} (h : s.Follows t) :
    s.Follows (State.popMail t suite) := by
  unfold State.popMail
  (repeat (first
    | exact h
    | (focus (simp [h]; done))
    | split))

@[simp] theorem State.skipUnassigned_follows {suite : BitVec 8} (h : s.Follows t) :
    s.Follows (State.skipUnassigned t suite) := by
  unfold State.skipUnassigned; simp (maxDischargeDepth := 40) [h]

@[simp] theorem State.offerMail_follows {slot : BitVec 8} {x : Sender} {m : MailMsg} {tagOk : Bool} (h : s.Follows t) :
    s.Follows (State.offerMail t slot x m tagOk).2 := by
  unfold State.offerMail
  dsimp only
  (repeat (first
    | exact h
    | (focus (simp (maxDischargeDepth := 40) [h]; done))
    | split
    | (refine State.Follows.foldl (fun _ _ => ?_) ?_)
    | (refine State.Follows.foldl2 (fun _ _ => ?_) ?_)))

@[simp] theorem State.mailCommand_follows {suite : BitVec 8} {cmd : Nat} {run : MailMsg → State → Nat × State}
    (hr : ∀ m u, State.Follows u (run m u).2) (h : s.Follows t) : s.Follows (State.mailCommand t suite cmd run) := by
  unfold State.mailCommand
  split
  · exact h
  · split
    · exact h
    · rename_i m _ _ _
      have hw := h.trans (hr m t)
      simp (maxDischargeDepth := 40) [hw]

@[simp] theorem State.readGraph_follows {suite : BitVec 8} {va : Nat} (h : s.Follows t) :
    s.Follows (State.readGraph t suite va).2 := by
  unfold State.readGraph
  dsimp only
  (repeat (first
    | exact h
    | (focus (simp (maxDischargeDepth := 40) [h]; done))
    | split
    | (refine State.Follows.foldl (fun _ _ => ?_) ?_)
    | (refine State.Follows.foldl2 (fun _ _ => ?_) ?_)))

@[simp] theorem State.placeTasks_follows {suite : BitVec 8} {gen : BitVec 16} {graph base : Nat} {x0 : Nat} {x3 : List (List W64)}
  (h : s.Follows t) :
    s.Follows (State.placeTasks t suite gen graph base x0 x3).2 := by
  induction x3 generalizing t x0 with
  | nil => simp [State.placeTasks, h]
  | cons p ps ih =>
    simp only [State.placeTasks]
    (repeat (first | exact h | (focus (simp (maxDischargeDepth := 40) [h, ih]; done)) | split))

@[simp] theorem State.placeEdges_follows {suite : BitVec 8} {gen : BitVec 16} {graph : Nat} {places : List (Nat × Nat)} {x0 : Nat}
  {x3 : List (List W64)} (h : s.Follows t) :
    s.Follows (State.placeEdges t suite gen graph places x0 x3).2 := by
  induction x3 generalizing t x0 with
  | nil => simp [State.placeEdges, h]
  | cons p ps ih =>
    simp only [State.placeEdges]
    (repeat (first
      | exact h
      | (refine State.Follows.ite2.2 ⟨fun _ => h, fun _ => ih ?_⟩)
      | (focus (simp (maxDischargeDepth := 40) [h]; done))
      | split))

@[simp] theorem State.placeStreams_follows {suite : BitVec 8} {gen : BitVec 16} {graph : Nat} {x0 : List (List W64)} (h :
  s.Follows t) :
    s.Follows (State.placeStreams t suite gen graph x0).2 := by
  induction x0 generalizing t with
  | nil => simp [State.placeStreams, h]
  | cons p ps ih =>
    simp only [State.placeStreams]
    (repeat (first | exact h | (focus (simp (maxDischargeDepth := 40) [h, ih]; done)) | split))

@[simp] theorem State.runSubmit_follows {suite : BitVec 8} {m : MailMsg} (h : s.Follows t) :
    s.Follows (State.runSubmit suite m t).2 := by
  unfold State.runSubmit
  dsimp only
  (repeat (first
    | exact h
    | (focus (simp (maxDischargeDepth := 40) [h]; done))
    | split
    | (refine State.Follows.foldl (fun _ _ => ?_) ?_)
    | (refine State.Follows.foldl2 (fun _ _ => ?_) ?_)))

@[simp] theorem State.runToken_follows {suite : BitVec 8} {m : MailMsg} (h : s.Follows t) :
    s.Follows (State.runToken suite m t).2 := by
  unfold State.runToken
  dsimp only
  (repeat (first
    | exact h
    | (focus (simp (maxDischargeDepth := 40) [h]; done))
    | split
    | (refine State.Follows.foldl (fun _ _ => ?_) ?_)
    | (refine State.Follows.foldl2 (fun _ _ => ?_) ?_)))

@[simp] theorem State.runCredit_follows {suite : BitVec 8} {m : MailMsg} (h : s.Follows t) :
    s.Follows (State.runCredit suite m t).2 := by
  unfold State.runCredit; dsimp only
  (repeat (first
    | exact h
    | (focus (simp (maxDischargeDepth := 40) [h]; done))
    | split))

@[simp] theorem State.readCtxs_follows {suite : BitVec 8} {x0 : List Nat} (h : s.Follows t) :
    s.Follows (State.readCtxs t suite x0).2 := by
  induction x0 generalizing t with
  | nil => simp [State.readCtxs, h]
  | cons p ps ih =>
    simp only [State.readCtxs]
    (repeat (first | exact h | (focus (simp (maxDischargeDepth := 40) [h, ih]; done)) | split))

@[simp] theorem State.runAdmit_follows {suite : BitVec 8} {m : MailMsg} (h : s.Follows t) :
    s.Follows (State.runAdmit suite m t).2 := by
  unfold State.runAdmit
  dsimp only
  (repeat (first
    | exact h
    | (focus (simp (maxDischargeDepth := 40) [h]; done))
    | split
    | (refine State.Follows.foldl (fun _ _ => ?_) ?_)
    | (refine State.Follows.foldl2 (fun _ _ => ?_) ?_)))

@[simp] theorem State.finishRetire_follows {suite : BitVec 8} {is_ : List Nat} (h : s.Follows t) :
    s.Follows (State.finishRetire t suite is_) := by
  unfold State.finishRetire; simp (maxDischargeDepth := 40) [h]

@[simp] theorem State.runEnd_follows {suite : BitVec 8} {m : MailMsg} (h : s.Follows t) :
    s.Follows (State.runEnd suite m t).2 := by
  unfold State.runEnd; dsimp only
  (repeat (first
    | exact h
    | (focus (simp (maxDischargeDepth := 40) [h]; done))
    | split))

@[simp] theorem State.rebind_follows {h_ : Nat} {r : RoomId} (h : s.Follows t) :
    s.Follows (State.rebind t h_ r) := by
  unfold State.rebind; simp [h]

@[simp] theorem State.runResubmit_follows {suite : BitVec 8} {m : MailMsg} (h : s.Follows t) :
    s.Follows (State.runResubmit suite m t).2 := by
  unfold State.runResubmit
  dsimp only
  (repeat (first
    | exact h
    | (focus (simp (maxDischargeDepth := 40) [h]; done))
    | split
    | (refine State.Follows.foldl (fun _ _ => ?_) ?_)
    | (refine State.Follows.foldl2 (fun _ _ => ?_) ?_)))

@[simp] theorem State.runOrder_follows {suite : BitVec 8} {m : MailMsg} (h : s.Follows t) :
    s.Follows (State.runOrder suite m t).2 := by
  unfold State.runOrder; dsimp only
  (repeat (first
    | exact h
    | (focus (simp (maxDischargeDepth := 40) [h]; done))
    | split))

end Sys2Proof.Machine
end

