-- ==== Sys2Proof/Laws/FollowsMemory.lean ====
section
/-! SUPPORT. What no command undoes (`State.Follows`): the operations of Room DMA, Room memory, the harts, the homes and the memory controllers. -/

set_option linter.unusedTactic false
set_option linter.unreachableTactic false

namespace Sys2Proof.Machine

variable {s t : State}

/-! ## `RoomDma` -/

@[simp] theorem State.dmaPages_follows {suite : BitVec 8} {store : Bool} {x0 : List (Nat × Nat)} (h : s.Follows t) :
    s.Follows (State.dmaPages t suite store x0).2 := by
  induction x0 generalizing t with
  | nil => simp [State.dmaPages, h]
  | cons p ps ih =>
    simp only [State.dmaPages]
    (repeat (first | exact h | (focus (simp (maxDischargeDepth := 40) [h, ih]; done)) | split))

@[simp] theorem State.dmaSide_follows {suite : BitVec 8} {room : Option RoomId} {store : Bool} {a n pos : Nat} (h : s.Follows t) :
    s.Follows (State.dmaSide t suite room store a n pos).2 := by
  unfold State.dmaSide; dsimp only
  (repeat (first
    | exact h
    | (focus (simp (maxDischargeDepth := 40) [h]; done))
    | split))

@[simp] theorem State.dmaRows_follows {suite : BitVec 8} {own : RoomId} {d : DmaText} (h : s.Follows t) :
    s.Follows (State.dmaRows t suite own d).2 := by
  unfold State.dmaRows
  dsimp only
  (repeat (first
    | exact h
    | (focus (simp (maxDischargeDepth := 40); done))
    | split
    | (rename_i e; obtain rfl := congrArg Prod.snd e)
    | (refine State.Follows.foldl (fun _ _ => ?_) ?_)
    | (refine State.Follows.foldl2 (fun _ _ => ?_) ?_)))

@[simp] theorem State.dmaPlan_follows {suite : BitVec 8} {own : RoomId} {d : DmaText} (h : s.Follows t) :
    s.Follows (State.dmaPlan t suite own d).2 := by
  unfold State.dmaPlan; simp [h]

/-! ## `RoomMem` -/

@[simp] theorem State.discardPacket_follows {r : RoomId} {req : Nat} (h : s.Follows t) :
    s.Follows (State.discardPacket t r req) := by
  unfold State.discardPacket; simp [h]

@[simp] theorem State.answerReq_follows {req : Nat} {r : RoomId} {f : Req → Req} (h : s.Follows t) :
    s.Follows (State.answerReq t req r f) := by
  unfold State.answerReq; simp [h]

@[simp] theorem State.roomReadGrant_follows {r : RoomId} {req : Nat} {q : Req} (h : s.Follows t) :
    s.Follows (State.roomReadGrant t r req q) := by
  unfold State.roomReadGrant; simp [h]

@[simp] theorem State.roomWriteGrant_follows {r : RoomId} {req : Nat} {q : Req} (h : s.Follows t) :
    s.Follows (State.roomWriteGrant t r req q) := by
  unfold State.roomWriteGrant
  (repeat (first
    | exact h
    | (focus (simp [h]; done))
    | split))

@[simp] theorem State.roomAtomGrant_follows {r : RoomId} {req : Nat} {q : Req} (h : s.Follows t) :
    s.Follows (State.roomAtomGrant t r req q) := by
  unfold State.roomAtomGrant
  (repeat (first
    | exact h
    | (focus (simp (maxDischargeDepth := 40) [h]; done))
    | split))

@[simp] theorem State.bankGrant_follows {r : RoomId} {req : Nat} {q : Req} {ecc : Ecc} (h : s.Follows t) :
    s.Follows (State.bankGrant t r req q ecc) := by
  unfold State.bankGrant
  (repeat (first
    | exact h
    | (focus (simp [h]; done))
    | split))

@[simp] theorem State.dropCrossing_follows {r : RoomId} (h : s.Follows t) :
    s.Follows (State.dropCrossing t r) := by
  unfold State.dropCrossing
  dsimp only
  (repeat (first
    | exact h
    | (focus (simp (maxDischargeDepth := 40)))
    | split
    | (rename_i e; obtain rfl := congrArg Prod.snd e)
    | (refine State.Follows.foldl (fun _ _ => ?_) ?_)
    | (refine State.Follows.foldl2 (fun _ _ => ?_) ?_)))

@[simp] theorem State.startWipe_follows {r : RoomId} (h : s.Follows t) :
    s.Follows (State.startWipe t r) := by
  unfold State.startWipe; simp [h]

@[simp] theorem State.drainHall_follows {r : RoomId} (h : s.Follows t) :
    s.Follows (State.drainHall t r) := by
  unfold State.drainHall
  simp (maxDischargeDepth := 40)
  (repeat (first
    | exact h
    | (focus (simp (maxDischargeDepth := 40)))
    | intro _
    | split
    | (rename_i e; obtain rfl := congrArg Prod.snd e)
    | (refine State.Follows.foldl (fun _ _ => ?_) ?_)
    | (refine State.Follows.foldl2 (fun _ _ => ?_) ?_)))

@[simp] theorem State.setRect_follows {r : RoomId} {value : W64} (h : s.Follows t) :
    s.Follows (State.setRect t r value) := by
  unfold State.setRect; simp (maxDischargeDepth := 40) [h]

@[simp] theorem State.fenceIgnored_follows {wing : Fin 8} (h : s.Follows t) :
    s.Follows (State.fenceIgnored t wing) := by
  unfold State.fenceIgnored; simp [h]

@[simp] theorem State.fenceCmd_follows {wing : Fin 8} {value : W64} (h : s.Follows t) :
    s.Follows (State.fenceCmd t wing value) := by
  unfold State.fenceCmd; dsimp only
  (repeat (first
    | exact h
    | (focus (simp (maxDischargeDepth := 40) [h]; done))
    | split))

/-! ## `Hart` -/

@[simp] theorem State.hartTrap_follows {h_ : Fin 128} {code : Nat} {tval : W64} (h : s.Follows t) :
    s.Follows (State.hartTrap t h_ code tval) := by
  unfold State.hartTrap; simp [h]

@[simp] theorem State.victim_follows {n : Fin 2} {line : Nat} {tag : BitVec 8} (h : s.Follows t) :
    s.Follows (State.victim t n line tag) := by
  unfold State.victim
  (repeat (first
    | exact h
    | (focus (simp (maxDischargeDepth := 40) [h]; done))
    | split))

@[simp] theorem State.l3Room_follows {n : Fin 2} (h : s.Follows t) :
    s.Follows (State.l3Room t n) := by
  unfold State.l3Room; dsimp only
  (repeat (first
    | exact h
    | (focus (simp (maxDischargeDepth := 40) [h]; done))
    | split))

@[simp] theorem State.dropOtherTags_follows {n : Fin 2} {line : Nat} {tag : BitVec 8} (h : s.Follows t) :
    s.Follows (State.dropOtherTags t n line tag) := by
  unfold State.dropOtherTags; simp [h]

@[simp] theorem State.hartReq_follows {h_ : Fin 128} {line : Nat} {excl : Bool} {va : W64} (h : s.Follows t) :
    s.Follows (State.hartReq t h_ line excl va) := by
  unfold State.hartReq; simp [h]

@[simp] theorem State.hartRead_follows {h_ : Fin 128} {a : HartAcc} (h : s.Follows t) :
    s.Follows (State.hartRead t h_ a).2 := by
  unfold State.hartRead; simp [h]

@[simp] theorem State.hartWrite_follows {h_ : Fin 128} {a : HartAcc} {bs : List Byte} (h : s.Follows t) :
    s.Follows (State.hartWrite t h_ a bs) := by
  unfold State.hartWrite; simp (maxDischargeDepth := 40) [h]

@[simp] theorem State.breakOthers_follows {h_ : Fin 128} {a : HartAcc} (h : s.Follows t) :
    s.Follows (State.breakOthers t h_ a) := by
  unfold State.breakOthers; simp [h]

@[simp] theorem State.hartFinish_follows {h_ : Fin 128} {w : HartWait} (h : s.Follows t) :
    s.Follows (State.hartFinish t h_ w) := by
  unfold State.hartFinish
  (repeat (first
    | exact h
    | (focus (simp (maxDischargeDepth := 40) [h]; done))
    | split))

@[simp] theorem State.hartGo_follows {h_ : Fin 128} {w : HartWait} (h : s.Follows t) :
    s.Follows (State.hartGo t h_ w) := by
  unfold State.hartGo
  (repeat (first
    | exact h
    | (focus (simp [h]; done))
    | split))

@[simp] theorem State.hartRetry_follows {h_ : Fin 128} (h : s.Follows t) :
    s.Follows (State.hartRetry t h_) := by
  unfold State.hartRetry; simp [h]

@[simp] theorem State.parAnswer_follows {k : Nat} {data : Option (List Byte × Bool)} {excl : Bool} (h : s.Follows t) :
    s.Follows (State.parAnswer t k data excl) := by
  unfold State.parAnswer
  dsimp only
  (repeat (first
    | exact h
    | (focus (simp (maxDischargeDepth := 40) [h]))
    | split
    | (refine State.Follows.foldl (fun _ _ => ?_) ?_)
    | (refine State.Follows.foldl2 (fun _ _ => ?_) ?_)))

@[simp] theorem State.hartRefused_follows {k : Nat} (h : s.Follows t) :
    s.Follows (State.hartRefused t k) := by
  unfold State.hartRefused
  (repeat (first
    | exact h
    | (focus (simp (maxDischargeDepth := 40) [h]; done))
    | split))

@[simp] theorem State.hartAnswer_follows {k : Nat} {bs : List Byte} {poison : Bool} (h : s.Follows t) :
    s.Follows (State.hartAnswer t k bs poison) := by
  unfold State.hartAnswer
  (repeat (first
    | exact h
    | (focus (simp [h]; done))
    | split))

/-! ## `Home` -/

@[simp] theorem State.setQueue_follows {slice line : Nat} {q : List Nat} (h : s.Follows t) :
    s.Follows (State.setQueue t slice line q) := by
  unfold State.setQueue; simp [h]

@[simp] theorem State.sendSnoops_follows {slice line : Nat} {ns : List (Fin 2 × Bool)} (h : s.Follows t) :
    s.Follows (State.sendSnoops t slice line ns) := by
  unfold State.sendSnoops; simp [h]

@[simp] theorem State.recallGroup_follows {slice grp : Nat} (h : s.Follows t) :
    s.Follows (State.recallGroup t slice grp) := by
  unfold State.recallGroup; simp (maxDischargeDepth := 40) [h]

@[simp] theorem State.dirMakeRoom_follows {slice line : Nat} (h : s.Follows t) :
    s.Follows (State.dirMakeRoom t slice line) := by
  unfold State.dirMakeRoom
  extract_lets gs
  split
  · exact h
  · have h2 : s.Follows t.drawBool.2.drawBits.2 := State.drawBits_follows (State.drawBool_follows h)
    dsimp only
    generalize t.drawBool.2.drawBits.2 = u at h2 ⊢
    split
    · split
      · exact h2
      · exact State.recallGroup_follows h2
    · exact h2

@[simp] theorem State.answerRead_follows {k : Nat} {r : Req} {slice : Nat} {line : List Byte} {poison : Bool} (h : s.Follows t) :
    s.Follows (State.answerRead t k r slice line poison) := by
  unfold State.answerRead
  (repeat (first
    | exact h
    | (focus (simp (maxDischargeDepth := 40) [h]; done))
    | split))

@[simp] theorem State.wroteReq_follows {k : Nat} {r : Req} (h : s.Follows t) :
    s.Follows (State.wroteReq t k r) := by
  unfold State.wroteReq
  (repeat (first
    | exact h
    | (focus (simp [h]; done))
    | split))

@[simp] theorem State.poisonLine_follows {slice line : Nat} (h : s.Follows t) :
    s.Follows (State.poisonLine t slice line) := by
  unfold State.poisonLine; dsimp only
  (repeat (first
    | exact h
    | (focus (simp (maxDischargeDepth := 40) [h]; done))
    | split))

@[simp] theorem State.homeRefuse_follows {k : Nat} {r : Req} {reason : BitVec 2} {slice : Nat} (h : s.Follows t) :
    s.Follows (State.homeRefuse t k r reason slice) := by
  unfold State.homeRefuse
  (repeat (first
    | exact h
    | (focus (simp [h]; done))
    | split))

@[simp] theorem State.sliceEcc_follows {slice line : Nat} {need : BitVec 4} {ecc : Ecc} (h : s.Follows t) :
    s.Follows (State.sliceEcc t slice line need ecc) := by
  unfold State.sliceEcc; dsimp only
  (repeat (first
    | exact h
    | (focus (simp (maxDischargeDepth := 40) [h]; done))
    | split))

@[simp] theorem State.openMiss_follows {r : Req} {slice line first : Nat} {ks : List Nat} (h : s.Follows t) :
    s.Follows (State.openMiss t r slice line first ks) := by
  unfold State.openMiss; simp [h]

@[simp] theorem State.joinMiss_follows {k : Nat} {r : Req} {slice line : Nat} {m : Miss} (h : s.Follows t) :
    s.Follows (State.joinMiss t k r slice line m) := by
  unfold State.joinMiss; simp [h]

@[simp] theorem State.serveRead_follows {k : Nat} {r : Req} {slice line : Nat} {ecc : Ecc} (h : s.Follows t) :
    s.Follows (State.serveRead t k r slice line ecc).1 := by
  unfold State.serveRead
  (repeat (first
    | exact h
    | (focus (simp (maxDischargeDepth := 40) [h]))
    | split))

@[simp] theorem State.serveAtomic_follows {k : Nat} {r : Req} {slice line : Nat} (h : s.Follows t) :
    s.Follows (State.serveAtomic t k r slice line) := by
  unfold State.serveAtomic
  (repeat (first
    | exact h
    | (focus (simp (maxDischargeDepth := 40) [h]; done))
    | split))

@[simp] theorem State.serveRed_follows {k : Nat} {r : Req} {slice line : Nat} (h : s.Follows t) :
    s.Follows (State.serveRed t k r slice line).1 := by
  unfold State.serveRed
  dsimp only
  (repeat (first
    | exact h
    | (focus (simp (maxDischargeDepth := 40) [h]))
    | split
    | (refine State.Follows.foldl (fun _ _ => ?_) ?_)
    | (refine State.Follows.foldl2 (fun _ _ => ?_) ?_)))

@[simp] theorem State.serveWrite_follows {k : Nat} {r : Req} {slice line : Nat} {ecc : Ecc} (h : s.Follows t) :
    s.Follows (State.serveWrite t k r slice line ecc).1 := by
  unfold State.serveWrite; simp [h]

@[simp] theorem State.homeServe_follows {k : Nat} {slice line : Nat} {ecc : Ecc} (h : s.Follows t) :
    s.Follows (State.homeServe t k slice line ecc).1 := by
  unfold State.homeServe
  dsimp only
  (repeat (first
    | exact h
    | (focus (simp (maxDischargeDepth := 40) [h]; done))
    | split
    | (refine State.Follows.foldl (fun _ _ => ?_) ?_)
    | (refine State.Follows.foldl2 (fun _ _ => ?_) ?_)))

@[simp] theorem State.drainLine_follows {slice line : Nat} {x0 : Nat} (h : s.Follows t) :
    s.Follows (State.drainLine t slice line x0) := by
  induction x0 generalizing t with
  | zero => simp [State.drainLine, h]
  | succ n ih =>
    simp only [State.drainLine]
    (repeat (first | exact h | (focus (simp (maxDischargeDepth := 40) [h, ih]; done)) | split))

@[simp] theorem State.lineFree_follows {slice line : Nat} (h : s.Follows t) :
    s.Follows (State.lineFree t slice line) := by
  unfold State.lineFree; simp [h]

@[simp] theorem State.arrivedAt_follows {r : Req} {slice : Nat} (h : s.Follows t) :
    s.Follows (State.arrivedAt t r slice) := by
  unfold State.arrivedAt; dsimp only
  (repeat (first
    | exact h
    | (focus (simp (maxDischargeDepth := 40) [h]; done))
    | split))

@[simp] theorem State.homeTake_follows {k : Nat} {r : Req} {ecc : Ecc} (h : s.Follows t) :
    s.Follows (State.homeTake t k r ecc) := by
  unfold State.homeTake; simp [h]

@[simp] theorem parlourRequest_follows {p : ParReq} {req : Nat} {ecc : Ecc} (h : s.Follows t) :
    outFollows s (parlourRequest p req ecc t) := by
  unfold parlourRequest
  (repeat (first
    | exact h
    | (focus (simp [h]; done))
    | split))

@[simp] theorem takeSnoop_follows {inv : Bool} {id : Nat} (h : s.Follows t) :
    outFollows s (takeSnoop inv id t) := by
  unfold takeSnoop
  (repeat (first
    | exact h
    | (focus (simp (maxDischargeDepth := 40) [h]; done))
    | split))

@[simp] theorem State.homeTimeout_follows {slice line : Nat} {subject : BitVec 16} {detail : Nat} (h : s.Follows t) :
    s.Follows (State.homeTimeout t slice line subject detail) := by
  unfold State.homeTimeout; simp (maxDischargeDepth := 40) [h]

@[simp] theorem State.snoopLost_follows {x : Snoop} (h : s.Follows t) :
    s.Follows (State.snoopLost t x) := by
  unfold State.snoopLost; simp (maxDischargeDepth := 40) [h]

@[simp] theorem State.answerJoined_follows {slice line : Nat} {all : Bool} (h : s.Follows t) :
    s.Follows (State.answerJoined t slice line all) := by
  unfold State.answerJoined
  dsimp only
  (repeat (first
    | exact h
    | (focus (simp (maxDischargeDepth := 40) [h]; done))
    | split
    | (rename_i e; obtain rfl := congrArg Prod.snd e)
    | (refine State.Follows.foldl (fun _ _ => ?_) ?_)
    | (refine State.Follows.foldl2 (fun _ _ => ?_) ?_)))

@[simp] theorem State.closeMiss_follows {slice line : Nat} (h : s.Follows t) :
    s.Follows (State.closeMiss t slice line) := by
  unfold State.closeMiss
  (repeat (first
    | exact h
    | (focus (simp (maxDischargeDepth := 40) [h]; done))
    | split))

@[simp] theorem State.installFilled_follows {slice line : Nat} {m : Miss} (h : s.Follows t) :
    s.Follows (State.installFilled t slice line m) := by
  unfold State.installFilled; simp [h]

/-! ## `Controllers` -/

@[simp] theorem State.msiTo_follows {tag : BitVec 8} {addr : Nat} {data : W32} (h : s.Follows t) :
    s.Follows (State.msiTo t tag addr data) := by
  unfold State.msiTo
  (repeat (first
    | exact h
    | (focus (simp [h]; done))
    | split))

@[simp] theorem State.msiFrom_follows {reg : W64} (h : s.Follows t) :
    s.Follows (State.msiFrom t reg) := by
  unfold State.msiFrom; simp [h]

@[simp] theorem State.lastingError_follows {suite : BitVec 8} {line sector : Nat} {integrity : Bool} (h : s.Follows t) :
    s.Follows (State.lastingError t suite line sector integrity) := by
  unfold State.lastingError; simp (maxDischargeDepth := 40) [h]

@[simp] theorem State.sectorsCome_follows {key : Nat} {m : Miss} {ss : List Nat} {bytes : Nat → List Byte} {poison : Bool} (h :
  s.Follows t) :
    s.Follows (State.sectorsCome t key m ss bytes poison) := by
  unfold State.sectorsCome; simp [h]

@[simp] theorem State.kickWipes_follows  (h : s.Follows t) :
    s.Follows (State.kickWipes t) := by
  unfold State.kickWipes
  refine State.Follows.foldl (fun u k => ?_) h
  dsimp only
  (repeat (first | (focus (simp; done)) | split))

@[simp] theorem State.wipeReported_follows {k : Nat} {page : Option Nat} (h : s.Follows t) :
    s.Follows (State.wipeReported t k page) := by
  unfold State.wipeReported; simp [h]

@[simp] theorem State.listFault_follows {kind num : Nat} (h : s.Follows t) :
    s.Follows (State.listFault t kind num) := by
  refine State.updHearth_follows h (fun y => ?_)
  split
  · exact ⟨rfl, rfl, rfl⟩
  · split <;> exact ⟨rfl, rfl, rfl⟩

/-! ## `Maint` -/

@[simp] theorem State.emptySlice_follows {slice : Nat} (h : s.Follows t) :
    s.Follows (State.emptySlice t slice) := by
  unfold State.emptySlice; simp (maxDischargeDepth := 40) [h]

@[simp] theorem State.releaseSlice_follows {slice : Nat} (h : s.Follows t) :
    s.Follows (State.releaseSlice t slice) := by
  unfold State.releaseSlice; simp (maxDischargeDepth := 40) [h]

@[simp] theorem State.turnOff_follows {slice : Nat} (h : s.Follows t) :
    s.Follows (State.turnOff t slice) := by
  unfold State.turnOff; simp [h]

@[simp] theorem State.rocInvalidate_follows {c : CoreId} (h : s.Follows t) :
    s.Follows (State.rocInvalidate t c) := by
  unfold State.rocInvalidate; simp [h]

@[simp] theorem State.updMaint_follows {wing : Fin 8} {n : Nat} {f : Maint → Maint} (h : s.Follows t) :
    s.Follows (State.updMaint t wing n f) := by
  unfold State.updMaint; simp [h]

@[simp] theorem State.hearthRead_follows {pa n : Nat} (h : s.Follows t) :
    s.Follows (State.hearthRead t pa n).2 := by
  unfold State.hearthRead; simp [h]

@[simp] theorem State.hearthWrite_follows {pa : Nat} {bs : List Byte} (h : s.Follows t) :
    s.Follows (State.hearthWrite t pa bs) := by
  unfold State.hearthWrite; simp [h]

@[simp] theorem State.mntGo_follows {wing : Fin 8} {a : Agent} {v : W64} (h : s.Follows t) :
    s.Follows (State.mntGo t wing a v) := by
  unfold State.mntGo
  (repeat (first
    | exact h
    | (focus (simp (maxDischargeDepth := 40) [h]; done))
    | split))

@[simp] theorem State.snoopDrop_follows {slice line : Nat} (h : s.Follows t) :
    s.Follows (State.snoopDrop t slice line) := by
  unfold State.snoopDrop; simp (maxDischargeDepth := 40) [h]

@[simp] theorem State.mntLine_follows {op slice line : Nat} (h : s.Follows t) :
    s.Follows (State.mntLine t op slice line) := by
  unfold State.mntLine
  (repeat (first
    | exact h
    | (focus (simp (maxDischargeDepth := 40) [h]))
    | split))

@[simp] theorem State.mntSlices_follows {op : Nat} {slices : List Nat} (h : s.Follows t) :
    s.Follows (State.mntSlices t op slices) := by
  unfold State.mntSlices; simp (maxDischargeDepth := 40) [h]

@[simp] theorem State.cleanState_follows {slice : Nat} (h : s.Follows t) :
    s.Follows (State.cleanState t slice) := by
  unfold State.cleanState; simp [h]

@[simp] theorem State.mntPage_follows {op : Nat} {suite : BitVec 8} {pa n : Nat} (h : s.Follows t) :
    s.Follows (State.mntPage t op suite pa n) := by
  unfold State.mntPage; simp [h]

@[simp] theorem State.mntRange_follows {op : Nat} {suite : BitVec 8} {byHearth : Bool} {x0 : List (Nat × Nat)} (h : s.Follows t) :
    s.Follows (State.mntRange t op suite byHearth x0).2 := by
  induction x0 generalizing t with
  | nil => simp [State.mntRange, h]
  | cons p ps ih =>
    simp only [State.mntRange]
    (repeat (first | exact h | (focus (simp (maxDischargeDepth := 40) [h, ih]; done)) | split))

@[simp] theorem runMaint_follows {op : Nat} {wing : Fin 8} {slot : Fin 8} (h : s.Follows t) :
    outFollows s (runMaint op wing slot t) := by
  unfold runMaint
  dsimp only
  (repeat (first
    | exact h
    | (focus (simp (maxDischargeDepth := 40) [h]; done))
    | split
    | (refine State.Follows.foldl (fun _ _ => ?_) ?_)
    | (refine State.Follows.foldl2 (fun _ _ => ?_) ?_)))

/-! ## `ParlourRows` -/

@[simp] theorem State.hartSend_follows {h_ : Fin 128} {a : HartAcc} {k : ReqKind} {attr : Attr} {f : Req → Req} (h : s.Follows t) :
    s.Follows (State.hartSend t h_ a k attr f) := by
  unfold State.hartSend; simp [h]

@[simp] theorem cbo_follows {i : Fin 128} {a : HartAcc} {isRead : Bool} {f : State → Nat → Nat → State}
    (hf : ∀ u x y, State.Follows u (f u x y)) (h : s.Follows t) : outFollows s (cbo i a isRead f t) := by
  unfold cbo
  (repeat (first | (focus (simp [h, h.trans (hf _ _ _)]; done)) | split))

@[simp] theorem State.cboKeep_follows {slice line : Nat} (h : s.Follows t) :
    s.Follows (State.cboKeep t slice line) := by
  unfold State.cboKeep; simp (maxDischargeDepth := 40) [h]

@[simp] theorem State.cboDrop_follows {slice line : Nat} (h : s.Follows t) :
    s.Follows (State.cboDrop t slice line) := by
  unfold State.cboDrop; simp (maxDischargeDepth := 40) [h]

@[simp] theorem State.takeLate_follows {h_ : Fin 128} (h : s.Follows t) :
    s.Follows (State.takeLate t h_) := by
  unfold State.takeLate
  (repeat (first
    | exact h
    | (focus (simp [h]; done))
    | split))

@[simp] theorem State.sbiRet_follows {h_ : Fin 128} {err : Int} {v : W64} (h : s.Follows t) :
    s.Follows (State.sbiRet t h_ err v) := by
  unfold State.sbiRet; simp [h]

@[simp] theorem State.updVhart_follows {handle : Nat} {v : VHart} (h : s.Follows t) :
    s.Follows (State.updVhart t handle v) := by
  unfold State.updVhart; simp [h]

@[simp] theorem State.kickFile_follows {h_ : Fin 128} {g : Nat} (h : s.Follows t) :
    s.Follows (State.kickFile t h_ g) := by
  unfold State.kickFile; simp [h]

@[simp] theorem State.guestDelta_follows {v : VHart} {die : Fin 2} (h : s.Follows t) :
    s.Follows (State.guestDelta t v die).2 := by
  unfold State.guestDelta; simp [h]

@[simp] theorem State.onDie_follows {v : VHart} {die : Fin 2} (h : s.Follows t) :
    s.Follows (State.onDie t v die).2 := by
  unfold State.onDie; simp [h]

@[simp] theorem State.enterVhart_follows {h_ : Fin 128} {handle : Nat} {v : VHart} (h : s.Follows t) :
    s.Follows (State.enterVhart t h_ handle v) := by
  unfold State.enterVhart; simp (maxDischargeDepth := 40) [h]

@[simp] theorem State.evalTimer_follows {n : Fin 2} {c : Fin 64} (h : s.Follows t) :
    s.Follows (State.evalTimer t n c) := by
  unfold State.evalTimer; simp [h]

@[simp] theorem State.setMtimecmp_follows {n : Fin 2} {c : Fin 64} {value : W64} (h : s.Follows t) :
    s.Follows (State.setMtimecmp t n c value) := by
  unfold State.setMtimecmp; simp [h]

@[simp] theorem State.exchangeStamp_follows {reader : Endpoint} {wing : Fin 8} (h : s.Follows t) :
    s.Follows (State.exchangeStamp t reader wing).2 := by
  unfold State.exchangeStamp; simp (maxDischargeDepth := 40) [h]

end Sys2Proof.Machine
end

