-- ==== Sys2Proof/Laws/FollowsLinks.lean ====
section
/-! SUPPORT. What no command undoes (`State.Follows`): the operations of RAS, the host link, the copy engines and the peer ports. -/

set_option linter.unusedTactic false
set_option linter.unreachableTactic false

namespace Sys2Proof.Machine

variable {s t : State}

/-! ## `Ras` -/

@[simp] theorem State.countWing_follows {e : Endpoint} {f : Wing → Wing} (h : s.Follows t) :
    s.Follows (State.countWing t e f) := by
  unfold State.countWing
  (repeat (first
    | exact h
    | (focus (simp [h]; done))
    | split))

@[simp] theorem State.countResent_follows {m : BwMsg} (h : s.Follows t) :
    s.Follows (State.countResent t m) := by
  unfold State.countResent; simp [h]

@[simp] theorem State.hopFails_follows {m : BwMsg} (h : s.Follows t) :
    s.Follows (State.hopFails t m) := by
  unfold State.hopFails
  dsimp only
  split <;> simp (maxDischargeDepth := 40) [h]

@[simp] theorem State.hearthNote_follows {suite : BitVec 8} {code idx : Nat} {detail : W64} (h : s.Follows t) :
    s.Follows (State.hearthNote t suite code idx detail) := by
  unfold State.hearthNote; simp [h]

@[simp] theorem State.lossNotices_follows {kind num : Nat} {detail : W64} (h : s.Follows t) :
    s.Follows (State.lossNotices t kind num detail) := by
  unfold State.lossNotices; simp [h]

@[simp] theorem State.poisonNotices_follows {suite : BitVec 8} {addr : W64} (h : s.Follows t) :
    s.Follows (State.poisonNotices t suite addr) := by
  unfold State.poisonNotices; simp [h]

@[simp] theorem State.suiteNotices_follows {r : RasRep} (h : s.Follows t) :
    s.Follows (State.suiteNotices t r) := by
  unfold State.suiteNotices
  (repeat (first
    | exact h
    | (focus (simp [h]; done))
    | split))

@[simp] theorem State.rasPut_follows {x : RasRec} (h : s.Follows t) :
    s.Follows (State.rasPut t x) := by
  unfold State.rasPut; simp [h]

@[simp] theorem State.rasTake_follows {x : RasRec} (h : s.Follows t) :
    s.Follows (State.rasTake t x) := by
  unfold State.rasTake; simp [h]

@[simp] theorem State.answerCutOff_follows  (h : s.Follows t) :
    s.Follows (State.answerCutOff t) := by
  unfold State.answerCutOff; simp [h]

/-! ## `Beyfy` -/

@[simp] theorem State.updLink_follows {p : Port} {f : Link → Link} (h : s.Follows t) :
    s.Follows (State.updLink t p f) := by
  unfold State.updLink
  (repeat (first
    | exact h
    | (focus (simp [h]; done))
    | split))

@[simp] theorem State.beyfySend_follows {port : Fin 4} {m : SentMsg} (h : s.Follows t) :
    s.Follows (State.beyfySend t port m) := by
  unfold State.beyfySend; simp [h]

@[simp] theorem State.peerSend_follows {port : Fin 6} {m : SentMsg} (h : s.Follows t) :
    s.Follows (State.peerSend t port m) := by
  unfold State.peerSend; simp [h]

@[simp] theorem State.discardFlit_follows {p : Port} {f : Flit} (h : s.Follows t) :
    s.Follows (State.discardFlit t p f) := by
  unfold State.discardFlit; simp [h]

@[simp] theorem State.takeFlit_follows {p : Port} {f : Flit} {header : Link → Link} (h : s.Follows t) :
    s.Follows (State.takeFlit t p f header) := by
  unfold State.takeFlit; simp [h]

@[simp] theorem State.retrainPort_follows {p : Port} (h : s.Follows t) :
    s.Follows (State.retrainPort t p) := by
  unfold State.retrainPort; simp [h]

@[simp] theorem State.discardMsg_follows {port : Fin 4} (h : s.Follows t) :
    s.Follows (State.discardMsg t port) := by
  unfold State.discardMsg; simp [h]

@[simp] theorem State.staleGen_follows {port : Fin 4} (h : s.Follows t) :
    s.Follows (State.staleGen t port) := by
  unfold State.staleGen; simp [h]

/-! ## `Copy` -/

@[simp] theorem State.takeDesc_follows {e : Fin 32} {suite : BitVec 8} {ws : List W64} (h : s.Follows t) :
    s.Follows (State.takeDesc t e suite ws) := by
  unfold State.takeDesc; simp [h]

@[simp] theorem State.fetchDesc_follows {suite : BitVec 8} {va : Nat} (h : s.Follows t) :
    s.Follows (State.fetchDesc t suite va).2 := by
  unfold State.fetchDesc; simp [h]

@[simp] theorem State.startChain_follows {e : Fin 32} {suite : BitVec 8} {va : Nat} (h : s.Follows t) :
    s.Follows (State.startChain t e suite va) := by
  unfold State.startChain
  dsimp only
  (repeat (first
    | exact h
    | (focus (simp (maxDischargeDepth := 40) [h]; done))
    | split
    | (refine State.Follows.foldl (fun _ _ => ?_) ?_)
    | (refine State.Follows.foldl2 (fun _ _ => ?_) ?_)))

@[simp] theorem State.copyGo_follows {e : Fin 32} {value : W64} (h : s.Follows t) :
    s.Follows (State.copyGo t e value) := by
  unfold State.copyGo; dsimp only
  (repeat (first
    | exact h
    | (focus (simp (maxDischargeDepth := 40) [h]; done))
    | split))

@[simp] theorem State.useCopySeq_follows {suite : BitVec 8} {n : BitVec 12} {seqno : W64} (h : s.Follows t) :
    s.Follows (State.useCopySeq t suite n seqno) := by
  unfold State.useCopySeq; simp [h]

@[simp] theorem State.hostSend_follows {e : Fin 32} {q : HostReq} (h : s.Follows t) :
    s.Follows (State.hostSend t e q) := by
  unfold State.hostSend; simp [h]

@[simp] theorem State.writeNote_follows {e : Fin 32} (h : s.Follows t) :
    s.Follows (State.writeNote t e) := by
  unfold State.writeNote; simp (maxDischargeDepth := 40) [h]

@[simp] theorem State.copyMsi_follows {e : Fin 32} (h : s.Follows t) :
    s.Follows (State.copyMsi t e) := by
  unfold State.copyMsi; simp [h]

@[simp] theorem State.nextDesc_follows {e : Fin 32} (h : s.Follows t) :
    s.Follows (State.nextDesc t e) := by
  unfold State.nextDesc
  dsimp only
  (repeat (first
    | exact h
    | (focus (simp (maxDischargeDepth := 40) [h]; done))
    | split
    | (refine State.Follows.foldl (fun _ _ => ?_) ?_)
    | (refine State.Follows.foldl2 (fun _ _ => ?_) ?_)))

/-! ## `Peer` -/

@[simp] theorem State.sessSend_follows {porch : Fin 2} {p : BitVec 8} {type status xtag offset arg : Nat} {plain : List Byte} (h :
  s.Follows t) :
    s.Follows (State.sessSend t porch p type status xtag offset arg plain) := by
  unfold State.sessSend; simp [h]

@[simp] theorem State.discardPeer_follows {port : Fin 6} (h : s.Follows t) :
    s.Follows (State.discardPeer t port) := by
  unfold State.discardPeer; simp [h]

@[simp] theorem State.markedRead_follows {suite : BitVec 8} {ok : RegionInfo → Bool} {va n : Nat} (h : s.Follows t) :
    s.Follows (State.markedRead t suite ok va n).2 := by
  unfold State.markedRead; dsimp only
  (repeat (first
    | exact h
    | (focus (simp (maxDischargeDepth := 40) [h]; done))
    | split))

@[simp] theorem State.checkedWrite_follows {suite : BitVec 8} {ok : RegionInfo → Bool} {va : Nat} {bs : List Byte} {mark : Bool}
  (h : s.Follows t) :
    s.Follows (State.checkedWrite t suite ok va bs mark).2 := by
  unfold State.checkedWrite; dsimp only
  (repeat (first
    | exact h
    | (focus (simp (maxDischargeDepth := 40) [h]; done))
    | split))

@[simp] theorem State.collFinish_follows {porch : Fin 2} {n : Nat} {status : Nat} (h : s.Follows t) :
    s.Follows (State.collFinish t porch n status) := by
  unfold State.collFinish; simp [h]

@[simp] theorem State.collEnd_follows {porch : Fin 2} {n status from_ why : Nat} (h : s.Follows t) :
    s.Follows (State.collEnd t porch n status from_ why) := by
  unfold State.collEnd; simp [h]

@[simp] theorem State.endSlotsOn_follows {porch : Fin 2} {p : BitVec 8} {status : Nat} (h : s.Follows t) :
    s.Follows (State.endSlotsOn t porch p status) := by
  unfold State.endSlotsOn; simp (maxDischargeDepth := 40) [h]

@[simp] theorem State.sendChunk_follows {porch : Fin 2} {n xtag start count : Nat} (h : s.Follows t) :
    s.Follows (State.sendChunk t porch n xtag start count) := by
  unfold State.sendChunk; simp [h]

@[simp] theorem State.collStore_follows {porch : Fin 2} {n start count : Nat} (h : s.Follows t) :
    s.Follows (State.collStore t porch n start count).2 := by
  unfold State.collStore; simp [h]

@[simp] theorem State.collDstDone_follows {porch : Fin 2} {n : Nat} (h : s.Follows t) :
    s.Follows (State.collDstDone t porch n) := by
  unfold State.collDstDone; simp [h]

@[simp] theorem State.collCheck_follows {porch : Fin 2} {n : Nat} (h : s.Follows t) :
    s.Follows (State.collCheck t porch n) := by
  unfold State.collCheck; simp [h]

@[simp] theorem State.collData_follows {porch : Fin 2} {n : Nat} {payload : List Byte} (h : s.Follows t) :
    s.Follows (State.collData t porch n payload) := by
  unfold State.collData
  dsimp only
  (repeat (first
    | exact h
    | (focus (simp (maxDischargeDepth := 40) [h]; done))
    | split
    | (refine State.Follows.foldl (fun _ _ => ?_) ?_)
    | (refine State.Follows.foldl2 (fun _ _ => ?_) ?_)))

@[simp] theorem State.collTake_follows {porch : Fin 2} {n : Nat} {m : PeerMsg} (h : s.Follows t) :
    s.Follows (State.collTake t porch n m) := by
  unfold State.collTake
  (repeat (first
    | exact h
    | (focus (simp [h]; done))
    | split))

@[simp] theorem State.cuGo_follows {porch : Fin 2} {owner : BitVec 8} {v : W64} (h : s.Follows t) :
    s.Follows (State.cuGo t porch owner v) := by
  unfold State.cuGo
  dsimp only
  (repeat (first
    | exact h
    | (focus (simp (maxDischargeDepth := 40) [h]; done))
    | split
    | (refine State.Follows.foldl (fun _ _ => ?_) ?_)
    | (refine State.Follows.foldl2 (fun _ _ => ?_) ?_)))

@[simp] theorem State.takeHeld_follows {porch : Fin 2} {x : CollSlot} (h : s.Follows t) :
    s.Follows (State.takeHeld t porch x).2 := by
  unfold State.takeHeld; simp [h]

@[simp] theorem State.sendPut_follows {porch : Fin 2} {n : Nat} {src : List Byte} (h : s.Follows t) :
    s.Follows (State.sendPut t porch n src) := by
  unfold State.sendPut; simp (maxDischargeDepth := 40) [h]

@[simp] theorem State.collStart_follows {porch : Fin 2} {n : Nat} (h : s.Follows t) :
    s.Follows (State.collStart t porch n) := by
  unfold State.collStart
  dsimp only
  (repeat (first
    | exact h
    | (focus (simp (maxDischargeDepth := 40) [h]; done))
    | split
    | (refine State.Follows.foldl (fun _ _ => ?_) ?_)
    | (refine State.Follows.foldl2 (fun _ _ => ?_) ?_)))

@[simp] theorem runColl_follows {op : Nat} {porch : Fin 2} {slot : Fin 8} (h : s.Follows t) :
    outFollows s (runColl op porch slot t) := by
  unfold runColl; simp [h]

@[simp] theorem State.peerAuthFail_follows {port : Fin 6} {p : BitVec 8} (h : s.Follows t) :
    s.Follows (State.peerAuthFail t port p) := by
  unfold State.peerAuthFail; simp (maxDischargeDepth := 40) [h]

@[simp] theorem State.peerOpen_follows {port : Fin 6} {h_ : PeerHdr} {type : Nat} {payload : List Byte} (h : s.Follows t) :
    s.Follows (State.peerOpen t port h_ type payload).2 := by
  unfold State.peerOpen; dsimp only
  (repeat (first
    | exact h
    | (focus (simp (maxDischargeDepth := 40) [h]; done))
    | split))

@[simp] theorem State.collArrive_follows {porch : Fin 2} {m : PeerMsg} (h : s.Follows t) :
    s.Follows (State.collArrive t porch m) := by
  unfold State.collArrive; dsimp only
  (repeat (first
    | exact h
    | (focus (simp (maxDischargeDepth := 40) [h]; done))
    | split))

@[simp] theorem collRow_follows {type : Nat} {port : Fin 6} {hdr : PeerHdr} {payload : List Byte} (h : s.Follows t) :
    outFollows s (collRow type port hdr payload t) := by
  unfold collRow; dsimp only
  (repeat (first
    | exact h
    | (focus (simp (maxDischargeDepth := 40) [h]; done))
    | split))

/-! ## `Training` -/

@[simp] theorem State.abortPort_follows {port : Fin 4} (h : s.Follows t) :
    s.Follows (State.abortPort t port) := by
  unfold State.abortPort; simp [h]

@[simp] theorem State.abortBz_follows {port : Fin 6} (h : s.Follows t) :
    s.Follows (State.abortBz t port) := by
  unfold State.abortBz; simp [h]

@[simp] theorem State.portDown_follows {p : Port} (h : s.Follows t) :
    s.Follows (State.portDown t p) := by
  unfold State.portDown
  (repeat (first
    | exact h
    | (focus (simp [h]; done))
    | split))

@[simp] theorem State.portLost_follows {p : Port} (h : s.Follows t) :
    s.Follows (State.portLost t p) := by
  unfold State.portLost; simp [h]

@[simp] theorem State.trainFail_follows {p : Port} (h : s.Follows t) :
    s.Follows (State.trainFail t p) := by
  unfold State.trainFail; simp [h]

end Sys2Proof.Machine
end

