-- ==== Sys2Proof/Laws/FollowsHearth.lean ====
section
/-! SUPPORT. What no command undoes (`State.Follows`): the operations of the Hearth. -/

set_option linter.unusedTactic false
set_option linter.unreachableTactic false

namespace Sys2Proof.Machine

variable {s t : State}

/-! ## `HearthOps` -/

@[simp] theorem State.pickFrom_follows {x0 : Nat} {x3 : List Nat} (h : s.Follows t) :
    s.Follows (State.pickFrom t x0 x3).2 := by
  induction x0 generalizing t x3 with
  | zero => simp [State.pickFrom, h]
  | succ n ih =>
    cases x3 <;> simp (maxDischargeDepth := 40) [State.pickFrom, h, ih]

@[simp] theorem State.pickPages_follows {k : PageKind} {n : Nat} (h : s.Follows t) :
    s.Follows (State.pickPages t k n).2 := by
  unfold State.pickPages
  (repeat (first
    | exact h
    | (focus (simp [h]; done))
    | split))

@[simp] theorem State.setPage_follows {i : Nat} {e : PageEntry} (h : s.Follows t) :
    s.Follows (State.setPage t i e) := by
  unfold State.setPage; simp [h]

@[simp] theorem State.dropPage_follows {i op : Nat} (h : s.Follows t) :
    s.Follows (State.dropPage t i op) := by
  unfold State.dropPage; simp [h]

@[simp] theorem State.changePage_follows {i op : Nat} {e : PageEntry} (h : s.Follows t) :
    s.Follows (State.changePage t i op e) := by
  unfold State.changePage; simp (maxDischargeDepth := 40) [h]

@[simp] theorem State.givePages_follows {n : BitVec 8} {key : BitVec 7} {pages : List Nat} (h : s.Follows t) :
    s.Follows (State.givePages t n key pages) := by
  unfold State.givePages; simp (maxDischargeDepth := 40) [h]

@[simp] theorem State.freePage_follows {i : Nat} (h : s.Follows t) :
    s.Follows (State.freePage t i) := by
  unfold State.freePage; simp [h]

@[simp] theorem State.endChanges_follows {pages : List Nat} (h : s.Follows t) :
    s.Follows (State.endChanges t pages) := by
  unfold State.endChanges; simp [h]

@[simp] theorem State.writeRoot_follows {n : BitVec 8} (h : s.Follows t) :
    s.Follows (State.writeRoot t n) := by
  unfold State.writeRoot; simp [h]

@[simp] theorem State.reRect_follows {q : Rect} {n : BitVec 8} {gen : BitVec 16} {r : RoomId} (h : s.Follows t) :
    s.Follows (State.reRect t q n gen r) := by
  unfold State.reRect; simp [h]

@[simp] theorem State.killOn_follows {n : BitVec 8} {rs : List RoomId} (h : s.Follows t) :
    s.Follows (State.killOn t n rs) := by
  unfold State.killOn; simp (maxDischargeDepth := 40) [h]

@[simp] theorem State.passSlices_follows {n : BitVec 8} {owned : Bool} {slices : List Nat} (h : s.Follows t) :
    s.Follows (State.passSlices t n owned slices) := by
  unfold State.passSlices; simp (maxDischargeDepth := 40) [h]

@[simp] theorem State.passEngines_follows {n : BitVec 8} {owned : Bool} {es : BitVec 32} (h : s.Follows t) :
    s.Follows (State.passEngines t n owned es) := by
  unfold State.passEngines; simp [h]

@[simp] theorem State.passWindows_follows {n : BitVec 8} {owned : Bool} {ws : BitVec 8} (h : s.Follows t) :
    s.Follows (State.passWindows t n owned ws) := by
  unfold State.passWindows; simp [h]

@[simp] theorem State.passHarts_follows {n : BitVec 8} {gen : BitVec 16} {hs : BitVec 128} (h : s.Follows t) :
    s.Follows (State.passHarts t n gen hs) := by
  unfold State.passHarts; simp [h]

@[simp] theorem State.setCredits_follows {n : BitVec 8} {lpd ddr : BitVec 8} (h : s.Follows t) :
    s.Follows (State.setCredits t n lpd ddr) := by
  unfold State.setCredits; simp [h]

@[simp] theorem State.fillSlots_follows  (h : s.Follows t) :
    s.Follows (State.fillSlots t) := by
  unfold State.fillSlots; simp [h]

@[simp] theorem State.refillSlots_follows  (h : s.Follows t) :
    s.Follows (State.refillSlots t) := by
  unfold State.refillSlots; simp [h]

@[simp] theorem State.dropGraphs_follows {n : BitVec 8} (h : s.Follows t) :
    s.Follows (State.dropGraphs t n) := by
  unfold State.dropGraphs; simp (maxDischargeDepth := 40) [h]

@[simp] theorem State.endSession_follows {n : BitVec 8} {session : Nat} (h : s.Follows t) :
    s.Follows (State.endSession t n session) := by
  unfold State.endSession; simp (maxDischargeDepth := 40) [h]

@[simp] theorem State.endPeer_follows {n : BitVec 8} {porch : Fin 2} {p : BitVec 8} (h : s.Follows t) :
    s.Follows (State.endPeer t n porch p) := by
  unfold State.endPeer; simp (maxDischargeDepth := 40) [h]

@[simp] theorem State.stopSlot_follows {porch : Fin 2} {i : Nat} (h : s.Follows t) :
    s.Follows (State.stopSlot t porch i) := by
  unfold State.stopSlot; simp [h]

@[simp] theorem State.endLinks_follows {n : BitVec 8} (h : s.Follows t) :
    s.Follows (State.endLinks t n) := by
  unfold State.endLinks; simp (maxDischargeDepth := 40) [h]

@[simp] theorem State.silence_follows {n : BitVec 8} {remove : Bool} (h : s.Follows t) :
    s.Follows (State.silence t n remove) := by
  unfold State.silence; simp (maxDischargeDepth := 40) [h]

@[simp] theorem State.rewipe_follows {r : RoomId} (h : s.Follows t) :
    s.Follows (State.rewipe t r) := by
  unfold State.rewipe; simp (maxDischargeDepth := 40) [h]

/-! ## `Startup` -/

@[simp] theorem State.powerOff_follows  (h : s.Follows t) :
    s.Follows (State.powerOff t) := by
  have hf : s.hearth.fresh.life = s.hearth.life := rfl
  exact h.trans ⟨rfl, Nat.le_refl _, fun _ => rfl, Nat.le_refl _, id, fun hd => ⟨Nat.le_refl _, hd⟩⟩

@[simp] theorem State.moduleReset_follows {cause : BitVec 3} (h : s.Follows t) :
    s.Follows (State.moduleReset t cause) := by
  exact h.trans ⟨rfl, Nat.le_refl _, fun _ => rfl, Nat.le_refl _, id, fun hd => ⟨Nat.le_refl _, hd⟩⟩

@[simp] theorem State.zeroise_follows  (h : s.Follows t) :
    s.Follows (State.zeroise t) := by
  unfold State.zeroise; simp [h]

@[simp] theorem State.requestReset_follows {cause : BitVec 3} (h : s.Follows t) :
    s.Follows (State.requestReset t cause) := by
  unfold State.requestReset; simp [h]

@[simp] theorem State.unsupplied_follows  (h : s.Follows t) :
    s.Follows (State.unsupplied t) := by
  unfold State.unsupplied; simp [h]

@[simp] theorem State.resetCmd_follows {cause : BitVec 3} {key : BitVec 16} (h : s.Follows t) :
    s.Follows (State.resetCmd t cause key) := by
  unfold State.resetCmd; simp [h]

@[simp] theorem State.clearCmd_follows {key : BitVec 16} (h : s.Follows t) :
    s.Follows (State.clearCmd t key) := by
  unfold State.clearCmd; simp [h]

@[simp] theorem State.hearthReg_follows {agent : Agent} {f : State → State} (hf : ∀ u, State.Follows u (f u)) (h : s.Follows t) :
    s.Follows (State.hearthReg t agent f) := by
  unfold State.hearthReg
  split
  · exact h.trans (hf t)
  · exact State.ctlExchange_follows hf h

@[simp] theorem fwCommand_follows {agent : Agent} {f : Hearth → Hearth} (hf : ∀ y, Hearth.SameFuses y (f y)) (h : s.Follows t) :
    outFollows s (fwCommand agent t f) := by
  unfold fwCommand
  have ha := State.Follows.updHearth h hf
  (repeat (first | (focus (simp [h, ha]; done)) | split))

@[simp] theorem State.stopStartup_follows {fault : BitVec 8} (h : s.Follows t) :
    s.Follows (State.stopStartup t fault) := by
  unfold State.stopStartup; simp [h]

@[simp] theorem State.enterStep_follows {n : Nat} {phase : BitVec 4} (h : s.Follows t) :
    s.Follows (State.enterStep t n phase) := by
  unfold State.enterStep; simp [h]

@[simp] theorem State.placeMonitor_follows  (h : s.Follows t) :
    s.Follows (State.placeMonitor t) := by
  unfold State.placeMonitor
  refine State.updHearth_follows (State.Follows.foldl (fun _ _ => by simp) ?_) (fun _ => ⟨rfl, rfl, rfl⟩)
  refine State.pickPages_follows (State.Follows.foldl (fun _ _ => by simp) ?_)
  simp (maxDischargeDepth := 40) [h]

@[simp] theorem State.createSuite0_follows  (h : s.Follows t) :
    s.Follows (State.createSuite0 t) := by
  unfold State.createSuite0; simp (maxDischargeDepth := 40) [h]

@[simp] theorem State.applyModes_follows  (h : s.Follows t) :
    s.Follows (State.applyModes t) := by
  unfold State.applyModes; simp (maxDischargeDepth := 40) [h]

@[simp] theorem State.startHarts_follows  (h : s.Follows t) :
    s.Follows (State.startHarts t) := by
  unfold State.startHarts
  dsimp only
  (repeat (first
    | exact h
    | (focus (simp (maxDischargeDepth := 40) [h]; done))
    | split
    | (refine State.Follows.foldl (fun _ _ => ?_) ?_)
    | (refine State.Follows.foldl2 (fun _ _ => ?_) ?_)))

@[simp] theorem State.startPorts_follows  (h : s.Follows t) :
    s.Follows (State.startPorts t) := by
  unfold State.startPorts; simp (maxDischargeDepth := 40) [h]

/-! ## `Power` -/

@[simp] theorem State.updUnit_follows {u : Nat} {f : UnitPwr → UnitPwr} (h : s.Follows t) :
    s.Follows (State.updUnit t u f) := by
  unfold State.updUnit; simp [h]

@[simp] theorem State.updThr_follows {u r : Nat} {f : ThrRec → ThrRec} (h : s.Follows t) :
    s.Follows (State.updThr t u r f) := by
  unfold State.updThr; simp [h]

@[simp] theorem State.setReason_follows {u r : Nat} {active : Bool} (h : s.Follows t) :
    s.Follows (State.setReason t u r active) := by
  unfold State.setReason; simp [h]

@[simp] theorem State.switchCaps_follows  (h : s.Follows t) :
    s.Follows (State.switchCaps t) := by
  unfold State.switchCaps; simp [h]

@[simp] theorem State.capMsiSend_follows  (h : s.Follows t) :
    s.Follows (State.capMsiSend t) := by
  unfold State.capMsiSend; simp [h]

@[simp] theorem State.modCapAssist_follows {modPower : Nat} (h : s.Follows t) :
    s.Follows (State.modCapAssist t modPower) := by
  unfold State.modCapAssist; simp (maxDischargeDepth := 40) [h]

@[simp] theorem State.unitCapAssist_follows {u power : Nat} (h : s.Follows t) :
    s.Follows (State.unitCapAssist t u power) := by
  unfold State.unitCapAssist; simp [h]

@[simp] theorem State.caps_follows {x : Sensors} (h : s.Follows t) :
    s.Follows (State.caps t x) := by
  unfold State.caps; simp (maxDischargeDepth := 40) [h]

@[simp] theorem State.evalReasons_follows {u : Nat} (h : s.Follows t) :
    s.Follows (State.evalReasons t u) := by
  unfold State.evalReasons; simp (maxDischargeDepth := 40) [h]

@[simp] theorem State.evalPort_follows {i : Fin 6} (h : s.Follows t) :
    s.Follows (State.evalPort t i) := by
  unfold State.evalPort; simp [h]

@[simp] theorem State.judgeTenancy_follows  (h : s.Follows t) :
    s.Follows (State.judgeTenancy t) := by
  unfold State.judgeTenancy; simp [h]

@[simp] theorem State.jobBegin_follows {n : BitVec 8} (h : s.Follows t) :
    s.Follows (State.jobBegin t n) := by
  unfold State.jobBegin; simp [h]

@[simp] theorem State.jobEnd_follows  (h : s.Follows t) :
    s.Follows (State.jobEnd t) := by
  unfold State.jobEnd; simp [h]

@[simp] theorem State.jobWrite_follows {n : BitVec 8} {v : W64} (h : s.Follows t) :
    s.Follows (State.jobWrite t n v) := by
  unfold State.jobWrite; simp [h]

@[simp] theorem jobRow_follows {agent : Agent} {value : W64} (h : s.Follows t) :
    outFollows s (jobRow agent value t) := by
  unfold jobRow
  (repeat (first
    | exact h
    | (focus (simp (maxDischargeDepth := 40) [h]))
    | split))

/-! ## `XlatOps` -/

@[simp] theorem xlatRow_follows {op : BitVec 2} {f : GSuite → GSuite} {suite : BitVec 8} (h : s.Follows t) :
    outFollows s (xlatRow op f suite t) := by
  unfold xlatRow; simp [h]

/-! ## `Calls` -/

@[simp] theorem State.door_follows {via : CallVia} {call : Nat} {suite : BitVec 8} {gen : BitVec 16} {open0 : Bool} (h : s.Follows
  t) :
    s.Follows (State.door t via call suite gen open0).2 := by
  unfold State.door
  (repeat (first
    | exact h
    | (focus (simp [h]; done))
    | split))

@[simp] theorem State.answerIn_follows {n : BitVec 8} {a : Answer} (h : s.Follows t) :
    s.Follows (State.answerIn t n a) := by
  unfold State.answerIn
  (repeat (first
    | exact h
    | (focus (simp (maxDischargeDepth := 40) [h]; done))
    | split))

@[simp] theorem State.answerOut_follows {port : Fin 4} {xtag : BitVec 16} {session : BitVec 12} {auth : Bool} {a : Answer} (h :
  s.Follows t) :
    s.Follows (State.answerOut t port xtag session auth a) := by
  unfold State.answerOut; simp [h]

@[simp] theorem State.answerCall_follows {via : CallVia} {call status : Nat} {suite : BitVec 8} {result : List Byte} (h :
  s.Follows t) :
    s.Follows (State.answerCall t via call status suite result) := by
  unfold State.answerCall
  (repeat (first
    | exact h
    | (focus (simp (maxDischargeDepth := 40) [h]; done))
    | split))

@[simp] theorem State.keepCall_follows {r : Running} (h : s.Follows t) :
    s.Follows (State.keepCall t r) := by
  unfold State.keepCall
  (repeat (first
    | exact h
    | (focus (simp [h]; done))
    | split))

@[simp] theorem hearthCall_follows {via : CallVia} {call : Nat} {suite : BitVec 8} {gen : BitVec 16} {open0 : Bool}
    {run : Option (BitVec 8) → State → CallEnd × State} (hr : ∀ who u, State.Follows u (run who u).2) (h : s.Follows t) :
    outFollows s (hearthCall via call suite gen open0 run t) := by
  unfold hearthCall
  have hd := State.door_follows (via := via) (call := call) (suite := suite) (gen := gen) (open0 := open0) h
  dsimp only
  split
  · exact outFollows_next.2 hd
  · simp [hd]
  · rename_i who _
    have hw := hd.trans (hr who _)
    split <;> simp [h, hw]

@[simp] theorem failCall_follows {st : Nat} (h : s.Follows t) :
    s.Follows (failCall st t).2 := by
  unfold failCall; simp [h]

@[simp] theorem operatorCall_follows {via : CallVia} {call : Nat} {suite : BitVec 8} {gen : BitVec 16} {run : State → CallEnd ×
  State}
    (hr : ∀ u, State.Follows u (run u).2) (h : s.Follows t) : outFollows s (operatorCall via call suite gen run t) := by
  unfold operatorCall
  refine hearthCall_follows (fun who u => ?_) h
  split
  · exact State.Follows.refl u
  · exact hr u

@[simp] theorem suiteCall_follows {via : CallVia} {call : Nat} {suite : BitVec 8} {gen : BitVec 16} {may : BitVec 8 → Bool}
    {run : State → CallEnd × State} (hr : ∀ u, State.Follows u (run u).2) (h : s.Follows t) :
    outFollows s (suiteCall via call suite gen may run t) := by
  unfold suiteCall
  refine hearthCall_follows (fun who u => ?_) h
  (repeat (first | exact State.Follows.refl u | exact hr u | split))

@[simp] theorem tenantCall_follows {via : CallVia} {call : Nat} {suite : BitVec 8} {gen : BitVec 16}
    {run : State → CallEnd × State} (hr : ∀ u, State.Follows u (run u).2) (h : s.Follows t) :
    outFollows s (tenantCall via call suite gen run t) := by
  unfold tenantCall
  exact suiteCall_follows hr h

@[simp] theorem State.answerRunning_follows {n : BitVec 8} {p : Running → Bool} {status : Nat} {result : List Byte} (h : s.Follows
  t) :
    s.Follows (State.answerRunning t n p status result) := by
  unfold State.answerRunning; simp [h]

@[simp] theorem State.pickAll_follows {b : ResBlock} (h : s.Follows t) :
    s.Follows (State.pickAll t b).2 := by
  unfold State.pickAll; simp (maxDischargeDepth := 40) [h]

@[simp] theorem State.moveHarts_follows {n : BitVec 8} {toSuite : Bool} {hs : BitVec 128} (h : s.Follows t) :
    s.Follows (State.moveHarts t n toSuite hs) := by
  unfold State.moveHarts; simp [h]

@[simp] theorem State.releaseAll_follows {n : BitVec 8} (h : s.Follows t) :
    s.Follows (State.releaseAll t n) := by
  unfold State.releaseAll; simp (maxDischargeDepth := 40) [h]

@[simp] theorem State.suiteGone_follows {n : BitVec 8} (h : s.Follows t) :
    s.Follows (State.suiteGone t n) := by
  unfold State.suiteGone; simp [h]

@[simp] theorem State.claim_follows {n : BitVec 8} {b : ResBlock} {q : Option Rect} {key : Nat} {lead : Fin 8 × Nat} {globals
  others : List Nat} (h : s.Follows t) :
    s.Follows (State.claim t n b q key lead globals others) := by
  unfold State.claim
  have h1 : ∀ f, s.Follows ((t.updSuite n f).drawSlot key) := fun f => State.drawSlot_follows (State.updSuite_follows h)
  refine State.givePages_follows (State.updGsuite_follows (State.setCredits_follows (State.moveHarts_follows
    (State.passWindows_follows
    (State.passEngines_follows (State.passSlices_follows ?_))))))
  split
  · exact h1 _
  · exact State.Follows.foldl (fun _ _ => by simp) (h1 _)

@[simp] theorem State.createSuite_follows {n : BitVec 8} {b : ResBlock} {q : Option Rect} (h : s.Follows t) :
    s.Follows (State.createSuite t n b q).2 := by
  unfold State.createSuite
  dsimp only
  (repeat (first
    | exact h
    | (focus (simp (maxDischargeDepth := 40) [h]; done))
    | split
    | (refine State.Follows.foldl (fun _ _ => ?_) ?_)
    | (refine State.Follows.foldl2 (fun _ _ => ?_) ?_)))

@[simp] theorem State.beginChange_follows {n : BitVec 8} {c : Change} (h : s.Follows t) :
    s.Follows (State.beginChange t n c) := by
  unfold State.beginChange; simp [h]

@[simp] theorem State.growSuite_follows {n : BitVec 8} {b : ResBlock} {q : Option Rect} (h : s.Follows t) :
    s.Follows (State.growSuite t n b q).2 := by
  unfold State.growSuite
  dsimp only
  (repeat (first
    | exact h
    | (focus (simp (maxDischargeDepth := 40) [h]; done))
    | split
    | (refine State.Follows.foldl (fun _ _ => ?_) ?_)
    | (refine State.Follows.foldl2 (fun _ _ => ?_) ?_)))

@[simp] theorem State.shrinkSuite_follows {n : BitVec 8} {b : ResBlock} {q : Option Rect} (h : s.Follows t) :
    s.Follows (State.shrinkSuite t n b q).2 := by
  unfold State.shrinkSuite
  (repeat (first
    | exact h
    | (focus (simp [h]; done))
    | split))

@[simp] theorem State.placeSlot_follows {n : BitVec 8} (h : s.Follows t) :
    s.Follows (State.placeSlot t n) := by
  unfold State.placeSlot
  (repeat (first
    | exact h
    | (focus (simp [h]; done))
    | split))

@[simp] theorem State.applyChange_follows {n : BitVec 8} {c : Change} (h : s.Follows t) :
    s.Follows (State.applyChange t n c) := by
  unfold State.applyChange
  (repeat (first
    | exact h
    | (focus (simp (maxDischargeDepth := 40) [h]))
    | split))

@[simp] theorem State.stopVhart_follows {handle : Nat} (h : s.Follows t) :
    s.Follows (State.stopVhart t handle) := by
  unfold State.stopVhart; simp (maxDischargeDepth := 40) [h]

@[simp] theorem State.endReading_follows {n : BitVec 8} (h : s.Follows t) :
    s.Follows (State.endReading t n) := by
  unfold State.endReading; simp [h]

@[simp] theorem State.resetSteps_follows {n : BitVec 8} (h : s.Follows t) :
    s.Follows (State.resetSteps t n) := by
  unfold State.resetSteps
  dsimp only
  (repeat (first
    | exact h
    | (focus (simp (maxDischargeDepth := 40) [h]; done))
    | split
    | (refine State.Follows.foldl (fun _ _ => ?_) ?_)
    | (refine State.Follows.foldl2 (fun _ _ => ?_) ?_)))

@[simp] theorem State.removeSteps_follows {n : BitVec 8} (h : s.Follows t) :
    s.Follows (State.removeSteps t n) := by
  unfold State.removeSteps; simp (maxDischargeDepth := 40) [h]

@[simp] theorem State.beginRemove_follows {n : BitVec 8} (h : s.Follows t) :
    s.Follows (State.beginRemove t n) := by
  unfold State.beginRemove; simp (maxDischargeDepth := 40) [h]

@[simp] theorem State.thenRemove_follows {n : BitVec 8} (h : s.Follows t) :
    s.Follows (State.thenRemove t n) := by
  unfold State.thenRemove; simp [h]

/-! ## `Services` -/

@[simp] theorem State.openSession_follows {n : BitVec 8} {qt : BitVec 768} {nt : BitVec 256} (h : s.Follows t) :
    s.Follows (State.openSession t n qt nt).2 := by
  unfold State.openSession; simp (maxDischargeDepth := 40) [h]

@[simp] theorem State.debugReset_follows  (h : s.Follows t) :
    s.Follows (State.debugReset t) := by
  have hd : t.debugReset.hearth.debugCount = min (t.hearth.debugCount + 1) 255 := rfl
  exact h.trans ⟨rfl, Nat.le_refl _, fun _ => rfl, Nat.le_refl _, id, fun _ => by omega⟩

@[simp] theorem State.commonPage_follows {n : BitVec 8} {cid i : Nat} (h : s.Follows t) :
    s.Follows (State.commonPage t n cid i) := by
  unfold State.commonPage; simp (maxDischargeDepth := 40) [h]

@[simp] theorem State.writeImage_follows {pages : List Nat} {image : List Byte} (h : s.Follows t) :
    s.Follows (State.writeImage t pages image) := by
  unfold State.writeImage; simp (maxDischargeDepth := 40) [h]

@[simp] theorem State.installCommon_follows {n : BitVec 8} {count : Nat} {image : List Byte} {digests : List Digest} {root :
  Digest} {backed : Bool} (h : s.Follows t) :
    s.Follows (State.installCommon t n count image digests root backed).2 := by
  unfold State.installCommon
  dsimp only
  (repeat (first
    | exact h
    | (focus (simp (maxDischargeDepth := 40) [h]; done))
    | split
    | (refine State.Follows.foldl (fun _ _ => ?_) ?_)
    | (refine State.Follows.foldl2 (fun _ _ => ?_) ?_)))

@[simp] theorem publisherCall_follows {via : CallVia} {call : Nat} {suite : BitVec 8} {gen : BitVec 16} {cid : BitVec 4}
    {run : CommonRegion → State → CallEnd × State} (hr : ∀ c u, State.Follows u (run c u).2) (h : s.Follows t) :
    outFollows s (publisherCall via call suite gen cid run t) := by
  unfold publisherCall
  refine tenantCall_follows (fun u => ?_) h
  refine State.Follows.ite2.2 ⟨fun _ => State.Follows.refl u, fun _ => State.Follows.ite2.2 ⟨fun _ => State.Follows.refl u, fun
    _ => hr _ u⟩⟩

@[simp] theorem State.repairNotes_follows {cid : Nat} {c : CommonRegion} {code : Nat} {pa : Nat} (h : s.Follows t) :
    s.Follows (State.repairNotes t cid c code pa) := by
  unfold State.repairNotes; simp [h]

@[simp] theorem State.reinstall_follows {cid i : Nat} {c : CommonRegion} {bytes : List Byte} (h : s.Follows t) :
    s.Follows (State.reinstall t cid i c bytes) := by
  unfold State.reinstall
  dsimp only
  (repeat (first
    | exact h
    | (focus (simp (maxDischargeDepth := 40) [h]))
    | split
    | (rename_i e; obtain rfl := congrArg Prod.snd e)
    | (refine State.Follows.foldl (fun _ _ => ?_) ?_)
    | (refine State.Follows.foldl2 (fun _ _ => ?_) ?_)))

@[simp] theorem State.repairFailed_follows {cid i : Nat} {c : CommonRegion} (h : s.Follows t) :
    s.Follows (State.repairFailed t cid i c) := by
  unfold State.repairFailed; simp [h]

@[simp] theorem State.bindPeer_follows {n : BitVec 8} {port : Fin 6} {p : BitVec 8} {secret : BitVec 768} {own : BitVec 256}
  {first : Bool} {bs : List Byte} (h : s.Follows t) :
    s.Follows (State.bindPeer t n port p secret own first bs) := by
  unfold State.bindPeer; simp [h]

@[simp] theorem innerCall_follows {via : CallVia} {call : Nat} {suite : BitVec 8} {gen : BitVec 16}
    {run : State → CallEnd × State} (hr : ∀ u, State.Follows u (run u).2) (h : s.Follows t) :
    outFollows s (innerCall via call suite gen run t) := by
  unfold innerCall
  refine tenantCall_follows (fun u => ?_) h
  (repeat (first | exact State.Follows.refl u | exact hr u | split))

end Sys2Proof.Machine
end

