-- ==== Sys2Proof/Laws/FollowsRegisters.lean ====
section
/-! SUPPORT. What no command undoes (`State.Follows`): the operations of the register rows and of a copy. -/

set_option linter.unusedTactic false
set_option linter.unreachableTactic false

namespace Sys2Proof.Machine

variable {s t : State}

/-! ## `RegRead` -/

@[simp] theorem State.regCount_follows {a : Agent} {r : Reg} {q : RcRead} (h : s.Follows t) :
    s.Follows (State.regCount t a r q) := by
  unfold State.regCount
  (repeat (first
    | exact h
    | (focus (simp [h]; done))
    | split))

@[simp] theorem State.accessRead_follows {reader : Endpoint} {a : Agent} {addr size added : Nat} (h : s.Follows t) :
    s.Follows (State.accessRead t reader a addr size added) := by
  unfold State.accessRead
  (repeat (first
    | exact h
    | (focus (simp (maxDischargeDepth := 40) [h]))
    | split))

/-! ## `RegWrite` -/

@[simp] theorem State.writeSlice_follows {slice : Nat} {hearth : Bool} {q : RegWrite} (h : s.Follows t) :
    s.Follows (State.writeSlice t slice hearth q) := by
  unfold State.writeSlice; simp (maxDischargeDepth := 40) [h]

@[simp] theorem State.writeRoc_follows {c : CoreId} {v : Nat} (h : s.Follows t) :
    s.Follows (State.writeRoc t c v) := by
  unfold State.writeRoc; simp (maxDischargeDepth := 40) [h]

@[simp] theorem State.writeMc_follows {m : Ctl} {r : McReg} {q : RegWrite} (h : s.Follows t) :
    s.Follows (State.writeMc t m r q) := by
  unfold State.writeMc
  (repeat (first
    | exact h
    | (focus (simp [h]; done))
    | split))

@[simp] theorem State.groupCmd_follows {c : CoreId} {v : Nat} (h : s.Follows t) :
    s.Follows (State.groupCmd t c v) := by
  unfold State.groupCmd
  (repeat (first
    | exact h
    | (focus (simp [h]; done))
    | split))

@[simp] theorem State.writeGraph_follows {n : BitVec 8} {r : GraphReg} {q : RegWrite} (h : s.Follows t) :
    s.Follows (State.writeGraph t n r q) := by
  unfold State.writeGraph
  (repeat (first
    | exact h
    | (focus (simp [h]; done))
    | split))

@[simp] theorem State.mgmtCmd_follows {a : Agent} {v : Nat} (h : s.Follows t) :
    s.Follows (State.mgmtCmd t a v) := by
  unfold State.mgmtCmd
  have hf : ∀ f : Hearth → Hearth, (∀ y : Hearth, (f y).life = y.life ∧ (f y).seedGone = y.seedGone ∧ (f y).debugCount =
    y.debugCount) →
      s.Follows (if a = .bmc && !t.hearth.lifeHalt then t.updHearth f else t) := fun f hy => by
    split
    · exact State.updHearth_follows h hy
    · exact h
  dsimp only
  split
  · simp [h]
  · simp [h]
  · exact hf _ (fun y => by unfold Hearth.openWrite; (repeat (first | (focus (simp; done)) | split)))
  · exact hf _ (fun y => by unfold Hearth.closeWrite; (repeat (first | (focus (simp; done)) | split)))
  · exact hf _ (fun y => by unfold Hearth.abortWrite; (repeat (first | (focus (simp [Hearth.endWrite]; done)) | split)))
  · exact h

@[simp] theorem State.writeHearth_follows {a : Agent} {r : HrtReg} {q : RegWrite} (h : s.Follows t) :
    s.Follows (State.writeHearth t a r q) := by
  unfold State.writeHearth
  (repeat (first
    | exact h
    | (focus (simp [h]; done))
    | split))

@[simp] theorem State.writeWindow_follows {i : Fin 4} {hearth : Bool} {q : RegWrite} (h : s.Follows t) :
    s.Follows (State.writeWindow t i hearth q) := by
  unfold State.writeWindow; simp [h]

@[simp] theorem State.writeEngine_follows {e : Fin 32} {r : CpyReg} {q : RegWrite} (h : s.Follows t) :
    s.Follows (State.writeEngine t e r q) := by
  unfold State.writeEngine
  (repeat (first
    | exact h
    | (focus (simp [h]; done))
    | split))

@[simp] theorem State.writePower_follows {a : Agent} {r : PwrReg} {q : RegWrite} (h : s.Follows t) :
    s.Follows (State.writePower t a r q) := by
  unfold State.writePower
  (repeat (first
    | exact h
    | (focus (simp (maxDischargeDepth := 40) [h]; done))
    | split))

@[simp] theorem State.regWrite_follows {a : Agent} {r : Reg} {q : RegWrite} (h : s.Follows t) :
    s.Follows (State.regWrite t a r q) := by
  unfold State.regWrite
  (repeat (first
    | exact h
    | (focus (simp [h]; done))
    | split))

@[simp] theorem State.accessWrite_follows {writer : Endpoint} {a : Agent} {addr size value : Nat} (h : s.Follows t) :
    s.Follows (State.accessWrite t writer a addr size value) := by
  unfold State.accessWrite
  (repeat (first
    | exact h
    | (focus (simp (maxDischargeDepth := 40) [h]))
    | split))

/-! ## `CopyRun` -/

@[simp] theorem State.copyReport_follows {e : Fin 32} {suite : BitVec 8} {cause : BitVec 8} {outcome : BitVec 4} {pa reason : Nat}
  (h : s.Follows t) :
    s.Follows (State.copyReport t e suite cause outcome pa reason) := by
  unfold State.copyReport; simp [h]

@[simp] theorem State.copyRead1_follows {e : Fin 32} {suite : BitVec 8} {va n : Nat} (h : s.Follows t) :
    s.Follows (State.copyRead1 t e suite va n).2 := by
  unfold State.copyRead1
  dsimp only
  (repeat (first
    | exact h
    | (focus (simp (maxDischargeDepth := 40) [h]; done))
    | split
    | (refine State.Follows.foldl (fun _ _ => ?_) ?_)
    | (refine State.Follows.foldl2 (fun _ _ => ?_) ?_)))

@[simp] theorem State.copyWrite1_follows {e : Fin 32} {suite : BitVec 8} {va : Nat} {bs : List Byte} {mark : Bool} (h : s.Follows
  t) :
    s.Follows (State.copyWrite1 t e suite va bs mark).2 := by
  unfold State.copyWrite1; dsimp only
  (repeat (first
    | exact h
    | (focus (simp (maxDischargeDepth := 40) [h]; done))
    | split))

@[simp] theorem State.copyGather_follows {e : Fin 32} {suite : BitVec 8} {va n : Nat} (h : s.Follows t) :
    s.Follows (State.copyGather t e suite va n).2 := by
  unfold State.copyGather
  dsimp only
  (repeat (first
    | exact h
    | (focus (simp (maxDischargeDepth := 40); done))
    | split
    | (rename_i e; obtain rfl := congrArg Prod.snd e)
    | (refine State.Follows.foldl (fun _ _ => ?_) ?_)
    | (refine State.Follows.foldl2 (fun _ _ => ?_) ?_)))

@[simp] theorem State.copyScatter_follows {e : Fin 32} {suite : BitVec 8} {va : Nat} {bs : List Byte} {bad : List (Nat × Nat)} (h
  : s.Follows t) :
    s.Follows (State.copyScatter t e suite va bs bad).2 := by
  unfold State.copyScatter; simp [h]

@[simp] theorem State.hostSendAll_follows {e : Fin 32} {kind : BitVec 2} {ha pos n : Nat} {data : List Byte} (h : s.Follows t) :
    s.Follows (State.hostSendAll t e kind ha pos n data) := by
  unfold State.hostSendAll; simp [h]

@[simp] theorem State.recordCome_follows {e : Fin 32} (h : s.Follows t) :
    s.Follows (State.recordCome t e) := by
  unfold State.recordCome
  dsimp only
  (repeat (first
    | exact h
    | (focus (simp (maxDischargeDepth := 40) [h]; done))
    | split
    | (refine State.Follows.foldl (fun _ _ => ?_) ?_)
    | (refine State.Follows.foldl2 (fun _ _ => ?_) ?_)))

@[simp] theorem State.sendTags_follows {e : Fin 32} {records : Nat} (h : s.Follows t) :
    s.Follows (State.sendTags t e records) := by
  unfold State.sendTags; simp [h]

@[simp] theorem State.recordOut_follows {e : Fin 32} (h : s.Follows t) :
    s.Follows (State.recordOut t e) := by
  unfold State.recordOut
  dsimp only
  (repeat (first
    | exact h
    | (focus (simp (maxDischargeDepth := 40) [h]; done))
    | split
    | (refine State.Follows.foldl (fun _ _ => ?_) ?_)
    | (refine State.Follows.foldl2 (fun _ _ => ?_) ?_)))

@[simp] theorem State.recordIn_follows {e : Fin 32} (h : s.Follows t) :
    s.Follows (State.recordIn t e) := by
  unfold State.recordIn; simp [h]

@[simp] theorem State.copyPiece_follows {e : Fin 32} (h : s.Follows t) :
    s.Follows (State.copyPiece t e) := by
  unfold State.copyPiece
  dsimp only
  (repeat (first
    | exact h
    | (focus (simp (maxDischargeDepth := 40) [h]; done))
    | split
    | (refine State.Follows.foldl (fun _ _ => ?_) ?_)
    | (refine State.Follows.foldl2 (fun _ _ => ?_) ?_)))

@[simp] theorem copyMove_follows {op : Nat} {e : Fin 32} (h : s.Follows t) :
    outFollows s (copyMove op e t) := by
  unfold copyMove; simp (maxDischargeDepth := 40) [h]

@[simp] theorem copyAtomic_follows {op : Nat} {new : CopyEngine → Nat → Nat} {e : Fin 32} (h : s.Follows t) :
    outFollows s (copyAtomic op new e t) := by
  unfold copyAtomic
  dsimp only
  (repeat (first
    | exact h
    | (focus (simp (maxDischargeDepth := 40) [h]; done))
    | split
    | (refine State.Follows.foldl (fun _ _ => ?_) ?_)
    | (refine State.Follows.foldl2 (fun _ _ => ?_) ?_)))

@[simp] theorem State.hostError_follows {e : Fin 32} {q : HostReq} (h : s.Follows t) :
    s.Follows (State.hostError t e q) := by
  unfold State.hostError; simp [h]

@[simp] theorem State.recordSettle_follows {e : Fin 32} (h : s.Follows t) :
    s.Follows (State.recordSettle t e) := by
  unfold State.recordSettle; simp [h]

@[simp] theorem State.hostData_follows {e : Fin 32} {q : HostReq} {data : List Byte} (h : s.Follows t) :
    s.Follows (State.hostData t e q data) := by
  unfold State.hostData
  dsimp only
  (repeat (first
    | exact h
    | (focus (simp (maxDischargeDepth := 40) [h]; done))
    | split
    | (refine State.Follows.foldl (fun _ _ => ?_) ?_)
    | (refine State.Follows.foldl2 (fun _ _ => ?_) ?_)))

/-! ## `HomeRow` -/

@[simp] theorem State.controlServe_follows {k : Nat} {r : Req} (h : s.Follows t) :
    s.Follows (State.controlServe t k r) := by
  unfold State.controlServe
  (repeat (first
    | exact h
    | (focus (simp [h]; done))
    | split))

/-- The choice that `State.winTarget` makes once the page has been asked for. -/
theorem State.Follows.windowChoice {c : Prop} [Decidable c] {write : Bool} {q : Option Located × State} (h : s.Follows t)
    (hq : s.Follows q.2) :
    s.Follows (if c then ((none : Option Located), t) else
      match q.1 with
      | none => (none, q.2)
      | some l =>
        let g := l.region
        if !g.hostShared || g.attr = Attr.red || (write && (g.attr = Attr.ro || g.common)) then (none, q.2) else (some l,
          q.2)).2 := by
  split
  · exact h
  · split
    · exact hq
    · dsimp only
      split <;> exact hq

@[simp] theorem State.winTarget_follows {port : Fin 4} {hdr : BeyfyHdr} {write : Bool} (h : s.Follows t) :
    s.Follows (State.winTarget t port hdr write).2 := by
  have hl : ∀ va, s.Follows (t.locate hdr.suite va write false).2 := fun va => State.locate_follows h
  exact State.Follows.windowChoice h (hl (bitsOf (t.byPort port).winCtl.toNat 21 27 * 2 ^ 21 + hdr.addr.toNat))

@[simp] theorem State.winReq_follows {port : Fin 4} {hdr : BeyfyHdr} {l : Located} {k : ReqKind} {data : List Byte} (h : s.Follows
  t) :
    s.Follows (State.winReq t port hdr l k data) := by
  unfold State.winReq; simp [h]

end Sys2Proof.Machine
end

