-- ==== Sys2Proof/Laws/State.lean ====
section
/-! SUPPORT. Reading the state after the change of one unit: each field that the change leaves alone, and the unit itself. -/

namespace Sys2Proof.Machine

variable (s : State)

/-! ## `State.updCore` -/

@[simp] theorem State.updCore_pending (c : CoreId) (f : Core → Core) : (s.updCore c f).pending = s.pending := rfl
@[simp] theorem State.updCore_freeCtr (c : CoreId) (f : Core → Core) : (s.updCore c f).freeCtr = s.freeCtr := rfl
@[simp] theorem State.updCore_on (c : CoreId) (f : Core → Core) : (s.updCore c f).on = s.on := rfl
@[simp] theorem State.updCore_pins (c : CoreId) (f : Core → Core) : (s.updCore c f).pins = s.pins := rfl
@[simp] theorem State.updCore_power (c : CoreId) (f : Core → Core) : (s.updCore c f).power = s.power := rfl
@[simp] theorem State.updCore_hearth (c : CoreId) (f : Core → Core) : (s.updCore c f).hearth = s.hearth := rfl
@[simp] theorem State.updCore_bw (c : CoreId) (f : Core → Core) : (s.updCore c f).bw = s.bw := rfl
@[simp] theorem State.updCore_delivered (c : CoreId) (f : Core → Core) : (s.updCore c f).delivered = s.delivered := rfl
@[simp] theorem State.updCore_hopsOut (c : CoreId) (f : Core → Core) : (s.updCore c f).hopsOut = s.hopsOut := rfl
@[simp] theorem State.updCore_stamps (c : CoreId) (f : Core → Core) : (s.updCore c f).stamps = s.stamps := rfl
@[simp] theorem State.updCore_wings (c : CoreId) (f : Core → Core) : (s.updCore c f).wings = s.wings := rfl
@[simp] theorem State.updCore_rooms (c : CoreId) (f : Core → Core) : (s.updCore c f).rooms = s.rooms := rfl
@[simp] theorem State.updCore_disps (c : CoreId) (f : Core → Core) : (s.updCore c f).disps = s.disps := rfl
@[simp] theorem State.updCore_gsuites (c : CoreId) (f : Core → Core) : (s.updCore c f).gsuites = s.gsuites := rfl
@[simp] theorem State.updCore_reqs (c : CoreId) (f : Core → Core) : (s.updCore c f).reqs = s.reqs := rfl
@[simp] theorem State.updCore_nextReq (c : CoreId) (f : Core → Core) : (s.updCore c f).nextReq = s.nextReq := rfl
@[simp] theorem State.updCore_ext (c : CoreId) (f : Core → Core) : (s.updCore c f).ext = s.ext := rfl
@[simp] theorem State.updCore_extKeys (c : CoreId) (f : Core → Core) : (s.updCore c f).extKeys = s.extKeys := rfl
@[simp] theorem State.updCore_pageKeys (c : CoreId) (f : Core → Core) : (s.updCore c f).pageKeys = s.pageKeys := rfl
@[simp] theorem State.updCore_ctlKeys (c : CoreId) (f : Core → Core) : (s.updCore c f).ctlKeys = s.ctlKeys := rfl
@[simp] theorem State.updCore_extPoison (c : CoreId) (f : Core → Core) : (s.updCore c f).extPoison = s.extPoison := rfl
@[simp] theorem State.updCore_slices (c : CoreId) (f : Core → Core) : (s.updCore c f).slices = s.slices := rfl
@[simp] theorem State.updCore_lines (c : CoreId) (f : Core → Core) : (s.updCore c f).lines = s.lines := rfl
@[simp] theorem State.updCore_dirs (c : CoreId) (f : Core → Core) : (s.updCore c f).dirs = s.dirs := rfl
@[simp] theorem State.updCore_misses (c : CoreId) (f : Core → Core) : (s.updCore c f).misses = s.misses := rfl
@[simp] theorem State.updCore_evicted (c : CoreId) (f : Core → Core) : (s.updCore c f).evicted = s.evicted := rfl
@[simp] theorem State.updCore_partials (c : CoreId) (f : Core → Core) : (s.updCore c f).partials = s.partials := rfl
@[simp] theorem State.updCore_snoops (c : CoreId) (f : Core → Core) : (s.updCore c f).snoops = s.snoops := rfl
@[simp] theorem State.updCore_nextSnoop (c : CoreId) (f : Core → Core) : (s.updCore c f).nextSnoop = s.nextSnoop := rfl
@[simp] theorem State.updCore_busyLines (c : CoreId) (f : Core → Core) : (s.updCore c f).busyLines = s.busyLines := rfl
@[simp] theorem State.updCore_tallies (c : CoreId) (f : Core → Core) : (s.updCore c f).tallies = s.tallies := rfl
@[simp] theorem State.updCore_parlours (c : CoreId) (f : Core → Core) : (s.updCore c f).parlours = s.parlours := rfl
@[simp] theorem State.updCore_harts (c : CoreId) (f : Core → Core) : (s.updCore c f).harts = s.harts := rfl
@[simp] theorem State.updCore_mcs (c : CoreId) (f : Core → Core) : (s.updCore c f).mcs = s.mcs := rfl
@[simp] theorem State.updCore_byPorts (c : CoreId) (f : Core → Core) : (s.updCore c f).byPorts = s.byPorts := rfl
@[simp] theorem State.updCore_engines (c : CoreId) (f : Core → Core) : (s.updCore c f).engines = s.engines := rfl
@[simp] theorem State.updCore_bzPorts (c : CoreId) (f : Core → Core) : (s.updCore c f).bzPorts = s.bzPorts := rfl
@[simp] theorem State.updCore_sessions (c : CoreId) (f : Core → Core) : (s.updCore c f).sessions = s.sessions := rfl
@[simp] theorem State.updCore_colls (c : CoreId) (f : Core → Core) : (s.updCore c f).colls = s.colls := rfl
@[simp] theorem State.updCore_i3cAddr (c : CoreId) (f : Core → Core) : (s.updCore c f).i3cAddr = s.i3cAddr := rfl
@[simp] theorem State.updCore_tap (c : CoreId) (f : Core → Core) : (s.updCore c f).tap = s.tap := rfl
@[simp] theorem State.updCore_lastRead (c : CoreId) (f : Core → Core) : (s.updCore c f).lastRead = s.lastRead := rfl
@[simp] theorem State.updCore_lastOk (c : CoreId) (f : Core → Core) : (s.updCore c f).lastOk = s.lastOk := rfl
@[simp] theorem State.updCore_msis (c : CoreId) (f : Core → Core) : (s.updCore c f).msis = s.msis := rfl

/-! ## `State.updSlot` -/

@[simp] theorem State.updSlot_pending (g : GroupRef) (f : Slot → Slot) : (s.updSlot g f).pending = s.pending := rfl
@[simp] theorem State.updSlot_freeCtr (g : GroupRef) (f : Slot → Slot) : (s.updSlot g f).freeCtr = s.freeCtr := rfl
@[simp] theorem State.updSlot_on (g : GroupRef) (f : Slot → Slot) : (s.updSlot g f).on = s.on := rfl
@[simp] theorem State.updSlot_pins (g : GroupRef) (f : Slot → Slot) : (s.updSlot g f).pins = s.pins := rfl
@[simp] theorem State.updSlot_power (g : GroupRef) (f : Slot → Slot) : (s.updSlot g f).power = s.power := rfl
@[simp] theorem State.updSlot_hearth (g : GroupRef) (f : Slot → Slot) : (s.updSlot g f).hearth = s.hearth := rfl
@[simp] theorem State.updSlot_bw (g : GroupRef) (f : Slot → Slot) : (s.updSlot g f).bw = s.bw := rfl
@[simp] theorem State.updSlot_delivered (g : GroupRef) (f : Slot → Slot) : (s.updSlot g f).delivered = s.delivered := rfl
@[simp] theorem State.updSlot_hopsOut (g : GroupRef) (f : Slot → Slot) : (s.updSlot g f).hopsOut = s.hopsOut := rfl
@[simp] theorem State.updSlot_stamps (g : GroupRef) (f : Slot → Slot) : (s.updSlot g f).stamps = s.stamps := rfl
@[simp] theorem State.updSlot_wings (g : GroupRef) (f : Slot → Slot) : (s.updSlot g f).wings = s.wings := rfl
@[simp] theorem State.updSlot_rooms (g : GroupRef) (f : Slot → Slot) : (s.updSlot g f).rooms = s.rooms := rfl
@[simp] theorem State.updSlot_disps (g : GroupRef) (f : Slot → Slot) : (s.updSlot g f).disps = s.disps := rfl
@[simp] theorem State.updSlot_gsuites (g : GroupRef) (f : Slot → Slot) : (s.updSlot g f).gsuites = s.gsuites := rfl
@[simp] theorem State.updSlot_reqs (g : GroupRef) (f : Slot → Slot) : (s.updSlot g f).reqs = s.reqs := rfl
@[simp] theorem State.updSlot_nextReq (g : GroupRef) (f : Slot → Slot) : (s.updSlot g f).nextReq = s.nextReq := rfl
@[simp] theorem State.updSlot_ext (g : GroupRef) (f : Slot → Slot) : (s.updSlot g f).ext = s.ext := rfl
@[simp] theorem State.updSlot_extKeys (g : GroupRef) (f : Slot → Slot) : (s.updSlot g f).extKeys = s.extKeys := rfl
@[simp] theorem State.updSlot_pageKeys (g : GroupRef) (f : Slot → Slot) : (s.updSlot g f).pageKeys = s.pageKeys := rfl
@[simp] theorem State.updSlot_ctlKeys (g : GroupRef) (f : Slot → Slot) : (s.updSlot g f).ctlKeys = s.ctlKeys := rfl
@[simp] theorem State.updSlot_extPoison (g : GroupRef) (f : Slot → Slot) : (s.updSlot g f).extPoison = s.extPoison := rfl
@[simp] theorem State.updSlot_slices (g : GroupRef) (f : Slot → Slot) : (s.updSlot g f).slices = s.slices := rfl
@[simp] theorem State.updSlot_lines (g : GroupRef) (f : Slot → Slot) : (s.updSlot g f).lines = s.lines := rfl
@[simp] theorem State.updSlot_dirs (g : GroupRef) (f : Slot → Slot) : (s.updSlot g f).dirs = s.dirs := rfl
@[simp] theorem State.updSlot_misses (g : GroupRef) (f : Slot → Slot) : (s.updSlot g f).misses = s.misses := rfl
@[simp] theorem State.updSlot_evicted (g : GroupRef) (f : Slot → Slot) : (s.updSlot g f).evicted = s.evicted := rfl
@[simp] theorem State.updSlot_partials (g : GroupRef) (f : Slot → Slot) : (s.updSlot g f).partials = s.partials := rfl
@[simp] theorem State.updSlot_snoops (g : GroupRef) (f : Slot → Slot) : (s.updSlot g f).snoops = s.snoops := rfl
@[simp] theorem State.updSlot_nextSnoop (g : GroupRef) (f : Slot → Slot) : (s.updSlot g f).nextSnoop = s.nextSnoop := rfl
@[simp] theorem State.updSlot_busyLines (g : GroupRef) (f : Slot → Slot) : (s.updSlot g f).busyLines = s.busyLines := rfl
@[simp] theorem State.updSlot_tallies (g : GroupRef) (f : Slot → Slot) : (s.updSlot g f).tallies = s.tallies := rfl
@[simp] theorem State.updSlot_parlours (g : GroupRef) (f : Slot → Slot) : (s.updSlot g f).parlours = s.parlours := rfl
@[simp] theorem State.updSlot_harts (g : GroupRef) (f : Slot → Slot) : (s.updSlot g f).harts = s.harts := rfl
@[simp] theorem State.updSlot_mcs (g : GroupRef) (f : Slot → Slot) : (s.updSlot g f).mcs = s.mcs := rfl
@[simp] theorem State.updSlot_byPorts (g : GroupRef) (f : Slot → Slot) : (s.updSlot g f).byPorts = s.byPorts := rfl
@[simp] theorem State.updSlot_engines (g : GroupRef) (f : Slot → Slot) : (s.updSlot g f).engines = s.engines := rfl
@[simp] theorem State.updSlot_bzPorts (g : GroupRef) (f : Slot → Slot) : (s.updSlot g f).bzPorts = s.bzPorts := rfl
@[simp] theorem State.updSlot_sessions (g : GroupRef) (f : Slot → Slot) : (s.updSlot g f).sessions = s.sessions := rfl
@[simp] theorem State.updSlot_colls (g : GroupRef) (f : Slot → Slot) : (s.updSlot g f).colls = s.colls := rfl
@[simp] theorem State.updSlot_i3cAddr (g : GroupRef) (f : Slot → Slot) : (s.updSlot g f).i3cAddr = s.i3cAddr := rfl
@[simp] theorem State.updSlot_tap (g : GroupRef) (f : Slot → Slot) : (s.updSlot g f).tap = s.tap := rfl
@[simp] theorem State.updSlot_lastRead (g : GroupRef) (f : Slot → Slot) : (s.updSlot g f).lastRead = s.lastRead := rfl
@[simp] theorem State.updSlot_lastOk (g : GroupRef) (f : Slot → Slot) : (s.updSlot g f).lastOk = s.lastOk := rfl
@[simp] theorem State.updSlot_msis (g : GroupRef) (f : Slot → Slot) : (s.updSlot g f).msis = s.msis := rfl

/-! ## `State.updRoom` -/

@[simp] theorem State.updRoom_pending (r : RoomId) (f : Room → Room) : (s.updRoom r f).pending = s.pending := rfl
@[simp] theorem State.updRoom_freeCtr (r : RoomId) (f : Room → Room) : (s.updRoom r f).freeCtr = s.freeCtr := rfl
@[simp] theorem State.updRoom_on (r : RoomId) (f : Room → Room) : (s.updRoom r f).on = s.on := rfl
@[simp] theorem State.updRoom_pins (r : RoomId) (f : Room → Room) : (s.updRoom r f).pins = s.pins := rfl
@[simp] theorem State.updRoom_power (r : RoomId) (f : Room → Room) : (s.updRoom r f).power = s.power := rfl
@[simp] theorem State.updRoom_hearth (r : RoomId) (f : Room → Room) : (s.updRoom r f).hearth = s.hearth := rfl
@[simp] theorem State.updRoom_bw (r : RoomId) (f : Room → Room) : (s.updRoom r f).bw = s.bw := rfl
@[simp] theorem State.updRoom_delivered (r : RoomId) (f : Room → Room) : (s.updRoom r f).delivered = s.delivered := rfl
@[simp] theorem State.updRoom_hopsOut (r : RoomId) (f : Room → Room) : (s.updRoom r f).hopsOut = s.hopsOut := rfl
@[simp] theorem State.updRoom_stamps (r : RoomId) (f : Room → Room) : (s.updRoom r f).stamps = s.stamps := rfl
@[simp] theorem State.updRoom_wings (r : RoomId) (f : Room → Room) : (s.updRoom r f).wings = s.wings := rfl
@[simp] theorem State.updRoom_cores (r : RoomId) (f : Room → Room) : (s.updRoom r f).cores = s.cores := rfl
@[simp] theorem State.updRoom_disps (r : RoomId) (f : Room → Room) : (s.updRoom r f).disps = s.disps := rfl
@[simp] theorem State.updRoom_gsuites (r : RoomId) (f : Room → Room) : (s.updRoom r f).gsuites = s.gsuites := rfl
@[simp] theorem State.updRoom_reqs (r : RoomId) (f : Room → Room) : (s.updRoom r f).reqs = s.reqs := rfl
@[simp] theorem State.updRoom_nextReq (r : RoomId) (f : Room → Room) : (s.updRoom r f).nextReq = s.nextReq := rfl
@[simp] theorem State.updRoom_ext (r : RoomId) (f : Room → Room) : (s.updRoom r f).ext = s.ext := rfl
@[simp] theorem State.updRoom_extKeys (r : RoomId) (f : Room → Room) : (s.updRoom r f).extKeys = s.extKeys := rfl
@[simp] theorem State.updRoom_pageKeys (r : RoomId) (f : Room → Room) : (s.updRoom r f).pageKeys = s.pageKeys := rfl
@[simp] theorem State.updRoom_ctlKeys (r : RoomId) (f : Room → Room) : (s.updRoom r f).ctlKeys = s.ctlKeys := rfl
@[simp] theorem State.updRoom_extPoison (r : RoomId) (f : Room → Room) : (s.updRoom r f).extPoison = s.extPoison := rfl
@[simp] theorem State.updRoom_slices (r : RoomId) (f : Room → Room) : (s.updRoom r f).slices = s.slices := rfl
@[simp] theorem State.updRoom_lines (r : RoomId) (f : Room → Room) : (s.updRoom r f).lines = s.lines := rfl
@[simp] theorem State.updRoom_dirs (r : RoomId) (f : Room → Room) : (s.updRoom r f).dirs = s.dirs := rfl
@[simp] theorem State.updRoom_misses (r : RoomId) (f : Room → Room) : (s.updRoom r f).misses = s.misses := rfl
@[simp] theorem State.updRoom_evicted (r : RoomId) (f : Room → Room) : (s.updRoom r f).evicted = s.evicted := rfl
@[simp] theorem State.updRoom_partials (r : RoomId) (f : Room → Room) : (s.updRoom r f).partials = s.partials := rfl
@[simp] theorem State.updRoom_snoops (r : RoomId) (f : Room → Room) : (s.updRoom r f).snoops = s.snoops := rfl
@[simp] theorem State.updRoom_nextSnoop (r : RoomId) (f : Room → Room) : (s.updRoom r f).nextSnoop = s.nextSnoop := rfl
@[simp] theorem State.updRoom_busyLines (r : RoomId) (f : Room → Room) : (s.updRoom r f).busyLines = s.busyLines := rfl
@[simp] theorem State.updRoom_tallies (r : RoomId) (f : Room → Room) : (s.updRoom r f).tallies = s.tallies := rfl
@[simp] theorem State.updRoom_parlours (r : RoomId) (f : Room → Room) : (s.updRoom r f).parlours = s.parlours := rfl
@[simp] theorem State.updRoom_harts (r : RoomId) (f : Room → Room) : (s.updRoom r f).harts = s.harts := rfl
@[simp] theorem State.updRoom_mcs (r : RoomId) (f : Room → Room) : (s.updRoom r f).mcs = s.mcs := rfl
@[simp] theorem State.updRoom_byPorts (r : RoomId) (f : Room → Room) : (s.updRoom r f).byPorts = s.byPorts := rfl
@[simp] theorem State.updRoom_engines (r : RoomId) (f : Room → Room) : (s.updRoom r f).engines = s.engines := rfl
@[simp] theorem State.updRoom_bzPorts (r : RoomId) (f : Room → Room) : (s.updRoom r f).bzPorts = s.bzPorts := rfl
@[simp] theorem State.updRoom_sessions (r : RoomId) (f : Room → Room) : (s.updRoom r f).sessions = s.sessions := rfl
@[simp] theorem State.updRoom_colls (r : RoomId) (f : Room → Room) : (s.updRoom r f).colls = s.colls := rfl
@[simp] theorem State.updRoom_i3cAddr (r : RoomId) (f : Room → Room) : (s.updRoom r f).i3cAddr = s.i3cAddr := rfl
@[simp] theorem State.updRoom_tap (r : RoomId) (f : Room → Room) : (s.updRoom r f).tap = s.tap := rfl
@[simp] theorem State.updRoom_lastRead (r : RoomId) (f : Room → Room) : (s.updRoom r f).lastRead = s.lastRead := rfl
@[simp] theorem State.updRoom_lastOk (r : RoomId) (f : Room → Room) : (s.updRoom r f).lastOk = s.lastOk := rfl
@[simp] theorem State.updRoom_msis (r : RoomId) (f : Room → Room) : (s.updRoom r f).msis = s.msis := rfl

/-! ## `State.updWing` -/

@[simp] theorem State.updWing_pending (k : Fin 8) (f : Wing → Wing) : (s.updWing k f).pending = s.pending := rfl
@[simp] theorem State.updWing_freeCtr (k : Fin 8) (f : Wing → Wing) : (s.updWing k f).freeCtr = s.freeCtr := rfl
@[simp] theorem State.updWing_on (k : Fin 8) (f : Wing → Wing) : (s.updWing k f).on = s.on := rfl
@[simp] theorem State.updWing_pins (k : Fin 8) (f : Wing → Wing) : (s.updWing k f).pins = s.pins := rfl
@[simp] theorem State.updWing_power (k : Fin 8) (f : Wing → Wing) : (s.updWing k f).power = s.power := rfl
@[simp] theorem State.updWing_hearth (k : Fin 8) (f : Wing → Wing) : (s.updWing k f).hearth = s.hearth := rfl
@[simp] theorem State.updWing_bw (k : Fin 8) (f : Wing → Wing) : (s.updWing k f).bw = s.bw := rfl
@[simp] theorem State.updWing_delivered (k : Fin 8) (f : Wing → Wing) : (s.updWing k f).delivered = s.delivered := rfl
@[simp] theorem State.updWing_hopsOut (k : Fin 8) (f : Wing → Wing) : (s.updWing k f).hopsOut = s.hopsOut := rfl
@[simp] theorem State.updWing_stamps (k : Fin 8) (f : Wing → Wing) : (s.updWing k f).stamps = s.stamps := rfl
@[simp] theorem State.updWing_rooms (k : Fin 8) (f : Wing → Wing) : (s.updWing k f).rooms = s.rooms := rfl
@[simp] theorem State.updWing_cores (k : Fin 8) (f : Wing → Wing) : (s.updWing k f).cores = s.cores := rfl
@[simp] theorem State.updWing_disps (k : Fin 8) (f : Wing → Wing) : (s.updWing k f).disps = s.disps := rfl
@[simp] theorem State.updWing_gsuites (k : Fin 8) (f : Wing → Wing) : (s.updWing k f).gsuites = s.gsuites := rfl
@[simp] theorem State.updWing_reqs (k : Fin 8) (f : Wing → Wing) : (s.updWing k f).reqs = s.reqs := rfl
@[simp] theorem State.updWing_nextReq (k : Fin 8) (f : Wing → Wing) : (s.updWing k f).nextReq = s.nextReq := rfl
@[simp] theorem State.updWing_ext (k : Fin 8) (f : Wing → Wing) : (s.updWing k f).ext = s.ext := rfl
@[simp] theorem State.updWing_extKeys (k : Fin 8) (f : Wing → Wing) : (s.updWing k f).extKeys = s.extKeys := rfl
@[simp] theorem State.updWing_pageKeys (k : Fin 8) (f : Wing → Wing) : (s.updWing k f).pageKeys = s.pageKeys := rfl
@[simp] theorem State.updWing_ctlKeys (k : Fin 8) (f : Wing → Wing) : (s.updWing k f).ctlKeys = s.ctlKeys := rfl
@[simp] theorem State.updWing_extPoison (k : Fin 8) (f : Wing → Wing) : (s.updWing k f).extPoison = s.extPoison := rfl
@[simp] theorem State.updWing_slices (k : Fin 8) (f : Wing → Wing) : (s.updWing k f).slices = s.slices := rfl
@[simp] theorem State.updWing_lines (k : Fin 8) (f : Wing → Wing) : (s.updWing k f).lines = s.lines := rfl
@[simp] theorem State.updWing_dirs (k : Fin 8) (f : Wing → Wing) : (s.updWing k f).dirs = s.dirs := rfl
@[simp] theorem State.updWing_misses (k : Fin 8) (f : Wing → Wing) : (s.updWing k f).misses = s.misses := rfl
@[simp] theorem State.updWing_evicted (k : Fin 8) (f : Wing → Wing) : (s.updWing k f).evicted = s.evicted := rfl
@[simp] theorem State.updWing_partials (k : Fin 8) (f : Wing → Wing) : (s.updWing k f).partials = s.partials := rfl
@[simp] theorem State.updWing_snoops (k : Fin 8) (f : Wing → Wing) : (s.updWing k f).snoops = s.snoops := rfl
@[simp] theorem State.updWing_nextSnoop (k : Fin 8) (f : Wing → Wing) : (s.updWing k f).nextSnoop = s.nextSnoop := rfl
@[simp] theorem State.updWing_busyLines (k : Fin 8) (f : Wing → Wing) : (s.updWing k f).busyLines = s.busyLines := rfl
@[simp] theorem State.updWing_tallies (k : Fin 8) (f : Wing → Wing) : (s.updWing k f).tallies = s.tallies := rfl
@[simp] theorem State.updWing_parlours (k : Fin 8) (f : Wing → Wing) : (s.updWing k f).parlours = s.parlours := rfl
@[simp] theorem State.updWing_harts (k : Fin 8) (f : Wing → Wing) : (s.updWing k f).harts = s.harts := rfl
@[simp] theorem State.updWing_mcs (k : Fin 8) (f : Wing → Wing) : (s.updWing k f).mcs = s.mcs := rfl
@[simp] theorem State.updWing_byPorts (k : Fin 8) (f : Wing → Wing) : (s.updWing k f).byPorts = s.byPorts := rfl
@[simp] theorem State.updWing_engines (k : Fin 8) (f : Wing → Wing) : (s.updWing k f).engines = s.engines := rfl
@[simp] theorem State.updWing_bzPorts (k : Fin 8) (f : Wing → Wing) : (s.updWing k f).bzPorts = s.bzPorts := rfl
@[simp] theorem State.updWing_sessions (k : Fin 8) (f : Wing → Wing) : (s.updWing k f).sessions = s.sessions := rfl
@[simp] theorem State.updWing_colls (k : Fin 8) (f : Wing → Wing) : (s.updWing k f).colls = s.colls := rfl
@[simp] theorem State.updWing_i3cAddr (k : Fin 8) (f : Wing → Wing) : (s.updWing k f).i3cAddr = s.i3cAddr := rfl
@[simp] theorem State.updWing_tap (k : Fin 8) (f : Wing → Wing) : (s.updWing k f).tap = s.tap := rfl
@[simp] theorem State.updWing_lastRead (k : Fin 8) (f : Wing → Wing) : (s.updWing k f).lastRead = s.lastRead := rfl
@[simp] theorem State.updWing_lastOk (k : Fin 8) (f : Wing → Wing) : (s.updWing k f).lastOk = s.lastOk := rfl
@[simp] theorem State.updWing_msis (k : Fin 8) (f : Wing → Wing) : (s.updWing k f).msis = s.msis := rfl

/-! ## `State.updDisp` -/

@[simp] theorem State.updDisp_pending (k : Fin 8) (f : Dispatcher → Dispatcher) : (s.updDisp k f).pending = s.pending := rfl
@[simp] theorem State.updDisp_freeCtr (k : Fin 8) (f : Dispatcher → Dispatcher) : (s.updDisp k f).freeCtr = s.freeCtr := rfl
@[simp] theorem State.updDisp_on (k : Fin 8) (f : Dispatcher → Dispatcher) : (s.updDisp k f).on = s.on := rfl
@[simp] theorem State.updDisp_pins (k : Fin 8) (f : Dispatcher → Dispatcher) : (s.updDisp k f).pins = s.pins := rfl
@[simp] theorem State.updDisp_power (k : Fin 8) (f : Dispatcher → Dispatcher) : (s.updDisp k f).power = s.power := rfl
@[simp] theorem State.updDisp_hearth (k : Fin 8) (f : Dispatcher → Dispatcher) : (s.updDisp k f).hearth = s.hearth := rfl
@[simp] theorem State.updDisp_bw (k : Fin 8) (f : Dispatcher → Dispatcher) : (s.updDisp k f).bw = s.bw := rfl
@[simp] theorem State.updDisp_delivered (k : Fin 8) (f : Dispatcher → Dispatcher) : (s.updDisp k f).delivered = s.delivered := rfl
@[simp] theorem State.updDisp_hopsOut (k : Fin 8) (f : Dispatcher → Dispatcher) : (s.updDisp k f).hopsOut = s.hopsOut := rfl
@[simp] theorem State.updDisp_stamps (k : Fin 8) (f : Dispatcher → Dispatcher) : (s.updDisp k f).stamps = s.stamps := rfl
@[simp] theorem State.updDisp_wings (k : Fin 8) (f : Dispatcher → Dispatcher) : (s.updDisp k f).wings = s.wings := rfl
@[simp] theorem State.updDisp_rooms (k : Fin 8) (f : Dispatcher → Dispatcher) : (s.updDisp k f).rooms = s.rooms := rfl
@[simp] theorem State.updDisp_cores (k : Fin 8) (f : Dispatcher → Dispatcher) : (s.updDisp k f).cores = s.cores := rfl
@[simp] theorem State.updDisp_gsuites (k : Fin 8) (f : Dispatcher → Dispatcher) : (s.updDisp k f).gsuites = s.gsuites := rfl
@[simp] theorem State.updDisp_reqs (k : Fin 8) (f : Dispatcher → Dispatcher) : (s.updDisp k f).reqs = s.reqs := rfl
@[simp] theorem State.updDisp_nextReq (k : Fin 8) (f : Dispatcher → Dispatcher) : (s.updDisp k f).nextReq = s.nextReq := rfl
@[simp] theorem State.updDisp_ext (k : Fin 8) (f : Dispatcher → Dispatcher) : (s.updDisp k f).ext = s.ext := rfl
@[simp] theorem State.updDisp_extKeys (k : Fin 8) (f : Dispatcher → Dispatcher) : (s.updDisp k f).extKeys = s.extKeys := rfl
@[simp] theorem State.updDisp_pageKeys (k : Fin 8) (f : Dispatcher → Dispatcher) : (s.updDisp k f).pageKeys = s.pageKeys := rfl
@[simp] theorem State.updDisp_ctlKeys (k : Fin 8) (f : Dispatcher → Dispatcher) : (s.updDisp k f).ctlKeys = s.ctlKeys := rfl
@[simp] theorem State.updDisp_extPoison (k : Fin 8) (f : Dispatcher → Dispatcher) : (s.updDisp k f).extPoison = s.extPoison := rfl
@[simp] theorem State.updDisp_slices (k : Fin 8) (f : Dispatcher → Dispatcher) : (s.updDisp k f).slices = s.slices := rfl
@[simp] theorem State.updDisp_lines (k : Fin 8) (f : Dispatcher → Dispatcher) : (s.updDisp k f).lines = s.lines := rfl
@[simp] theorem State.updDisp_dirs (k : Fin 8) (f : Dispatcher → Dispatcher) : (s.updDisp k f).dirs = s.dirs := rfl
@[simp] theorem State.updDisp_misses (k : Fin 8) (f : Dispatcher → Dispatcher) : (s.updDisp k f).misses = s.misses := rfl
@[simp] theorem State.updDisp_evicted (k : Fin 8) (f : Dispatcher → Dispatcher) : (s.updDisp k f).evicted = s.evicted := rfl
@[simp] theorem State.updDisp_partials (k : Fin 8) (f : Dispatcher → Dispatcher) : (s.updDisp k f).partials = s.partials := rfl
@[simp] theorem State.updDisp_snoops (k : Fin 8) (f : Dispatcher → Dispatcher) : (s.updDisp k f).snoops = s.snoops := rfl
@[simp] theorem State.updDisp_nextSnoop (k : Fin 8) (f : Dispatcher → Dispatcher) : (s.updDisp k f).nextSnoop = s.nextSnoop := rfl
@[simp] theorem State.updDisp_busyLines (k : Fin 8) (f : Dispatcher → Dispatcher) : (s.updDisp k f).busyLines = s.busyLines := rfl
@[simp] theorem State.updDisp_tallies (k : Fin 8) (f : Dispatcher → Dispatcher) : (s.updDisp k f).tallies = s.tallies := rfl
@[simp] theorem State.updDisp_parlours (k : Fin 8) (f : Dispatcher → Dispatcher) : (s.updDisp k f).parlours = s.parlours := rfl
@[simp] theorem State.updDisp_harts (k : Fin 8) (f : Dispatcher → Dispatcher) : (s.updDisp k f).harts = s.harts := rfl
@[simp] theorem State.updDisp_mcs (k : Fin 8) (f : Dispatcher → Dispatcher) : (s.updDisp k f).mcs = s.mcs := rfl
@[simp] theorem State.updDisp_byPorts (k : Fin 8) (f : Dispatcher → Dispatcher) : (s.updDisp k f).byPorts = s.byPorts := rfl
@[simp] theorem State.updDisp_engines (k : Fin 8) (f : Dispatcher → Dispatcher) : (s.updDisp k f).engines = s.engines := rfl
@[simp] theorem State.updDisp_bzPorts (k : Fin 8) (f : Dispatcher → Dispatcher) : (s.updDisp k f).bzPorts = s.bzPorts := rfl
@[simp] theorem State.updDisp_sessions (k : Fin 8) (f : Dispatcher → Dispatcher) : (s.updDisp k f).sessions = s.sessions := rfl
@[simp] theorem State.updDisp_colls (k : Fin 8) (f : Dispatcher → Dispatcher) : (s.updDisp k f).colls = s.colls := rfl
@[simp] theorem State.updDisp_i3cAddr (k : Fin 8) (f : Dispatcher → Dispatcher) : (s.updDisp k f).i3cAddr = s.i3cAddr := rfl
@[simp] theorem State.updDisp_tap (k : Fin 8) (f : Dispatcher → Dispatcher) : (s.updDisp k f).tap = s.tap := rfl
@[simp] theorem State.updDisp_lastRead (k : Fin 8) (f : Dispatcher → Dispatcher) : (s.updDisp k f).lastRead = s.lastRead := rfl
@[simp] theorem State.updDisp_lastOk (k : Fin 8) (f : Dispatcher → Dispatcher) : (s.updDisp k f).lastOk = s.lastOk := rfl
@[simp] theorem State.updDisp_msis (k : Fin 8) (f : Dispatcher → Dispatcher) : (s.updDisp k f).msis = s.msis := rfl

/-! ## `State.updGsuite` -/

@[simp] theorem State.updGsuite_pending (n : BitVec 8) (f : GSuite → GSuite) : (s.updGsuite n f).pending = s.pending := rfl
@[simp] theorem State.updGsuite_freeCtr (n : BitVec 8) (f : GSuite → GSuite) : (s.updGsuite n f).freeCtr = s.freeCtr := rfl
@[simp] theorem State.updGsuite_on (n : BitVec 8) (f : GSuite → GSuite) : (s.updGsuite n f).on = s.on := rfl
@[simp] theorem State.updGsuite_pins (n : BitVec 8) (f : GSuite → GSuite) : (s.updGsuite n f).pins = s.pins := rfl
@[simp] theorem State.updGsuite_power (n : BitVec 8) (f : GSuite → GSuite) : (s.updGsuite n f).power = s.power := rfl
@[simp] theorem State.updGsuite_hearth (n : BitVec 8) (f : GSuite → GSuite) : (s.updGsuite n f).hearth = s.hearth := rfl
@[simp] theorem State.updGsuite_bw (n : BitVec 8) (f : GSuite → GSuite) : (s.updGsuite n f).bw = s.bw := rfl
@[simp] theorem State.updGsuite_delivered (n : BitVec 8) (f : GSuite → GSuite) : (s.updGsuite n f).delivered = s.delivered := rfl
@[simp] theorem State.updGsuite_hopsOut (n : BitVec 8) (f : GSuite → GSuite) : (s.updGsuite n f).hopsOut = s.hopsOut := rfl
@[simp] theorem State.updGsuite_stamps (n : BitVec 8) (f : GSuite → GSuite) : (s.updGsuite n f).stamps = s.stamps := rfl
@[simp] theorem State.updGsuite_wings (n : BitVec 8) (f : GSuite → GSuite) : (s.updGsuite n f).wings = s.wings := rfl
@[simp] theorem State.updGsuite_rooms (n : BitVec 8) (f : GSuite → GSuite) : (s.updGsuite n f).rooms = s.rooms := rfl
@[simp] theorem State.updGsuite_cores (n : BitVec 8) (f : GSuite → GSuite) : (s.updGsuite n f).cores = s.cores := rfl
@[simp] theorem State.updGsuite_disps (n : BitVec 8) (f : GSuite → GSuite) : (s.updGsuite n f).disps = s.disps := rfl
@[simp] theorem State.updGsuite_reqs (n : BitVec 8) (f : GSuite → GSuite) : (s.updGsuite n f).reqs = s.reqs := rfl
@[simp] theorem State.updGsuite_nextReq (n : BitVec 8) (f : GSuite → GSuite) : (s.updGsuite n f).nextReq = s.nextReq := rfl
@[simp] theorem State.updGsuite_ext (n : BitVec 8) (f : GSuite → GSuite) : (s.updGsuite n f).ext = s.ext := rfl
@[simp] theorem State.updGsuite_extKeys (n : BitVec 8) (f : GSuite → GSuite) : (s.updGsuite n f).extKeys = s.extKeys := rfl
@[simp] theorem State.updGsuite_pageKeys (n : BitVec 8) (f : GSuite → GSuite) : (s.updGsuite n f).pageKeys = s.pageKeys := rfl
@[simp] theorem State.updGsuite_ctlKeys (n : BitVec 8) (f : GSuite → GSuite) : (s.updGsuite n f).ctlKeys = s.ctlKeys := rfl
@[simp] theorem State.updGsuite_extPoison (n : BitVec 8) (f : GSuite → GSuite) : (s.updGsuite n f).extPoison = s.extPoison := rfl
@[simp] theorem State.updGsuite_slices (n : BitVec 8) (f : GSuite → GSuite) : (s.updGsuite n f).slices = s.slices := rfl
@[simp] theorem State.updGsuite_lines (n : BitVec 8) (f : GSuite → GSuite) : (s.updGsuite n f).lines = s.lines := rfl
@[simp] theorem State.updGsuite_dirs (n : BitVec 8) (f : GSuite → GSuite) : (s.updGsuite n f).dirs = s.dirs := rfl
@[simp] theorem State.updGsuite_misses (n : BitVec 8) (f : GSuite → GSuite) : (s.updGsuite n f).misses = s.misses := rfl
@[simp] theorem State.updGsuite_evicted (n : BitVec 8) (f : GSuite → GSuite) : (s.updGsuite n f).evicted = s.evicted := rfl
@[simp] theorem State.updGsuite_partials (n : BitVec 8) (f : GSuite → GSuite) : (s.updGsuite n f).partials = s.partials := rfl
@[simp] theorem State.updGsuite_snoops (n : BitVec 8) (f : GSuite → GSuite) : (s.updGsuite n f).snoops = s.snoops := rfl
@[simp] theorem State.updGsuite_nextSnoop (n : BitVec 8) (f : GSuite → GSuite) : (s.updGsuite n f).nextSnoop = s.nextSnoop := rfl
@[simp] theorem State.updGsuite_busyLines (n : BitVec 8) (f : GSuite → GSuite) : (s.updGsuite n f).busyLines = s.busyLines := rfl
@[simp] theorem State.updGsuite_tallies (n : BitVec 8) (f : GSuite → GSuite) : (s.updGsuite n f).tallies = s.tallies := rfl
@[simp] theorem State.updGsuite_parlours (n : BitVec 8) (f : GSuite → GSuite) : (s.updGsuite n f).parlours = s.parlours := rfl
@[simp] theorem State.updGsuite_harts (n : BitVec 8) (f : GSuite → GSuite) : (s.updGsuite n f).harts = s.harts := rfl
@[simp] theorem State.updGsuite_mcs (n : BitVec 8) (f : GSuite → GSuite) : (s.updGsuite n f).mcs = s.mcs := rfl
@[simp] theorem State.updGsuite_byPorts (n : BitVec 8) (f : GSuite → GSuite) : (s.updGsuite n f).byPorts = s.byPorts := rfl
@[simp] theorem State.updGsuite_engines (n : BitVec 8) (f : GSuite → GSuite) : (s.updGsuite n f).engines = s.engines := rfl
@[simp] theorem State.updGsuite_bzPorts (n : BitVec 8) (f : GSuite → GSuite) : (s.updGsuite n f).bzPorts = s.bzPorts := rfl
@[simp] theorem State.updGsuite_sessions (n : BitVec 8) (f : GSuite → GSuite) : (s.updGsuite n f).sessions = s.sessions := rfl
@[simp] theorem State.updGsuite_colls (n : BitVec 8) (f : GSuite → GSuite) : (s.updGsuite n f).colls = s.colls := rfl
@[simp] theorem State.updGsuite_i3cAddr (n : BitVec 8) (f : GSuite → GSuite) : (s.updGsuite n f).i3cAddr = s.i3cAddr := rfl
@[simp] theorem State.updGsuite_tap (n : BitVec 8) (f : GSuite → GSuite) : (s.updGsuite n f).tap = s.tap := rfl
@[simp] theorem State.updGsuite_lastRead (n : BitVec 8) (f : GSuite → GSuite) : (s.updGsuite n f).lastRead = s.lastRead := rfl
@[simp] theorem State.updGsuite_lastOk (n : BitVec 8) (f : GSuite → GSuite) : (s.updGsuite n f).lastOk = s.lastOk := rfl
@[simp] theorem State.updGsuite_msis (n : BitVec 8) (f : GSuite → GSuite) : (s.updGsuite n f).msis = s.msis := rfl

/-! ## `State.updHearth` -/

@[simp] theorem State.updHearth_pending (f : Hearth → Hearth) : (s.updHearth f).pending = s.pending := rfl
@[simp] theorem State.updHearth_freeCtr (f : Hearth → Hearth) : (s.updHearth f).freeCtr = s.freeCtr := rfl
@[simp] theorem State.updHearth_on (f : Hearth → Hearth) : (s.updHearth f).on = s.on := rfl
@[simp] theorem State.updHearth_pins (f : Hearth → Hearth) : (s.updHearth f).pins = s.pins := rfl
@[simp] theorem State.updHearth_power (f : Hearth → Hearth) : (s.updHearth f).power = s.power := rfl
@[simp] theorem State.updHearth_bw (f : Hearth → Hearth) : (s.updHearth f).bw = s.bw := rfl
@[simp] theorem State.updHearth_delivered (f : Hearth → Hearth) : (s.updHearth f).delivered = s.delivered := rfl
@[simp] theorem State.updHearth_hopsOut (f : Hearth → Hearth) : (s.updHearth f).hopsOut = s.hopsOut := rfl
@[simp] theorem State.updHearth_stamps (f : Hearth → Hearth) : (s.updHearth f).stamps = s.stamps := rfl
@[simp] theorem State.updHearth_wings (f : Hearth → Hearth) : (s.updHearth f).wings = s.wings := rfl
@[simp] theorem State.updHearth_rooms (f : Hearth → Hearth) : (s.updHearth f).rooms = s.rooms := rfl
@[simp] theorem State.updHearth_cores (f : Hearth → Hearth) : (s.updHearth f).cores = s.cores := rfl
@[simp] theorem State.updHearth_disps (f : Hearth → Hearth) : (s.updHearth f).disps = s.disps := rfl
@[simp] theorem State.updHearth_gsuites (f : Hearth → Hearth) : (s.updHearth f).gsuites = s.gsuites := rfl
@[simp] theorem State.updHearth_reqs (f : Hearth → Hearth) : (s.updHearth f).reqs = s.reqs := rfl
@[simp] theorem State.updHearth_nextReq (f : Hearth → Hearth) : (s.updHearth f).nextReq = s.nextReq := rfl
@[simp] theorem State.updHearth_ext (f : Hearth → Hearth) : (s.updHearth f).ext = s.ext := rfl
@[simp] theorem State.updHearth_extKeys (f : Hearth → Hearth) : (s.updHearth f).extKeys = s.extKeys := rfl
@[simp] theorem State.updHearth_pageKeys (f : Hearth → Hearth) : (s.updHearth f).pageKeys = s.pageKeys := rfl
@[simp] theorem State.updHearth_ctlKeys (f : Hearth → Hearth) : (s.updHearth f).ctlKeys = s.ctlKeys := rfl
@[simp] theorem State.updHearth_extPoison (f : Hearth → Hearth) : (s.updHearth f).extPoison = s.extPoison := rfl
@[simp] theorem State.updHearth_slices (f : Hearth → Hearth) : (s.updHearth f).slices = s.slices := rfl
@[simp] theorem State.updHearth_lines (f : Hearth → Hearth) : (s.updHearth f).lines = s.lines := rfl
@[simp] theorem State.updHearth_dirs (f : Hearth → Hearth) : (s.updHearth f).dirs = s.dirs := rfl
@[simp] theorem State.updHearth_misses (f : Hearth → Hearth) : (s.updHearth f).misses = s.misses := rfl
@[simp] theorem State.updHearth_evicted (f : Hearth → Hearth) : (s.updHearth f).evicted = s.evicted := rfl
@[simp] theorem State.updHearth_partials (f : Hearth → Hearth) : (s.updHearth f).partials = s.partials := rfl
@[simp] theorem State.updHearth_snoops (f : Hearth → Hearth) : (s.updHearth f).snoops = s.snoops := rfl
@[simp] theorem State.updHearth_nextSnoop (f : Hearth → Hearth) : (s.updHearth f).nextSnoop = s.nextSnoop := rfl
@[simp] theorem State.updHearth_busyLines (f : Hearth → Hearth) : (s.updHearth f).busyLines = s.busyLines := rfl
@[simp] theorem State.updHearth_tallies (f : Hearth → Hearth) : (s.updHearth f).tallies = s.tallies := rfl
@[simp] theorem State.updHearth_parlours (f : Hearth → Hearth) : (s.updHearth f).parlours = s.parlours := rfl
@[simp] theorem State.updHearth_harts (f : Hearth → Hearth) : (s.updHearth f).harts = s.harts := rfl
@[simp] theorem State.updHearth_mcs (f : Hearth → Hearth) : (s.updHearth f).mcs = s.mcs := rfl
@[simp] theorem State.updHearth_byPorts (f : Hearth → Hearth) : (s.updHearth f).byPorts = s.byPorts := rfl
@[simp] theorem State.updHearth_engines (f : Hearth → Hearth) : (s.updHearth f).engines = s.engines := rfl
@[simp] theorem State.updHearth_bzPorts (f : Hearth → Hearth) : (s.updHearth f).bzPorts = s.bzPorts := rfl
@[simp] theorem State.updHearth_sessions (f : Hearth → Hearth) : (s.updHearth f).sessions = s.sessions := rfl
@[simp] theorem State.updHearth_colls (f : Hearth → Hearth) : (s.updHearth f).colls = s.colls := rfl
@[simp] theorem State.updHearth_i3cAddr (f : Hearth → Hearth) : (s.updHearth f).i3cAddr = s.i3cAddr := rfl
@[simp] theorem State.updHearth_tap (f : Hearth → Hearth) : (s.updHearth f).tap = s.tap := rfl
@[simp] theorem State.updHearth_lastRead (f : Hearth → Hearth) : (s.updHearth f).lastRead = s.lastRead := rfl
@[simp] theorem State.updHearth_lastOk (f : Hearth → Hearth) : (s.updHearth f).lastOk = s.lastOk := rfl
@[simp] theorem State.updHearth_msis (f : Hearth → Hearth) : (s.updHearth f).msis = s.msis := rfl
@[simp] theorem State.updHearth_hearth (f : Hearth → Hearth) : (s.updHearth f).hearth = f s.hearth := rfl

/-! ## `State.updSuite` -/

@[simp] theorem State.updSuite_pending (n : BitVec 8) (f : Suite → Suite) : (s.updSuite n f).pending = s.pending := rfl
@[simp] theorem State.updSuite_freeCtr (n : BitVec 8) (f : Suite → Suite) : (s.updSuite n f).freeCtr = s.freeCtr := rfl
@[simp] theorem State.updSuite_on (n : BitVec 8) (f : Suite → Suite) : (s.updSuite n f).on = s.on := rfl
@[simp] theorem State.updSuite_pins (n : BitVec 8) (f : Suite → Suite) : (s.updSuite n f).pins = s.pins := rfl
@[simp] theorem State.updSuite_power (n : BitVec 8) (f : Suite → Suite) : (s.updSuite n f).power = s.power := rfl
@[simp] theorem State.updSuite_bw (n : BitVec 8) (f : Suite → Suite) : (s.updSuite n f).bw = s.bw := rfl
@[simp] theorem State.updSuite_delivered (n : BitVec 8) (f : Suite → Suite) : (s.updSuite n f).delivered = s.delivered := rfl
@[simp] theorem State.updSuite_hopsOut (n : BitVec 8) (f : Suite → Suite) : (s.updSuite n f).hopsOut = s.hopsOut := rfl
@[simp] theorem State.updSuite_stamps (n : BitVec 8) (f : Suite → Suite) : (s.updSuite n f).stamps = s.stamps := rfl
@[simp] theorem State.updSuite_wings (n : BitVec 8) (f : Suite → Suite) : (s.updSuite n f).wings = s.wings := rfl
@[simp] theorem State.updSuite_rooms (n : BitVec 8) (f : Suite → Suite) : (s.updSuite n f).rooms = s.rooms := rfl
@[simp] theorem State.updSuite_cores (n : BitVec 8) (f : Suite → Suite) : (s.updSuite n f).cores = s.cores := rfl
@[simp] theorem State.updSuite_disps (n : BitVec 8) (f : Suite → Suite) : (s.updSuite n f).disps = s.disps := rfl
@[simp] theorem State.updSuite_gsuites (n : BitVec 8) (f : Suite → Suite) : (s.updSuite n f).gsuites = s.gsuites := rfl
@[simp] theorem State.updSuite_reqs (n : BitVec 8) (f : Suite → Suite) : (s.updSuite n f).reqs = s.reqs := rfl
@[simp] theorem State.updSuite_nextReq (n : BitVec 8) (f : Suite → Suite) : (s.updSuite n f).nextReq = s.nextReq := rfl
@[simp] theorem State.updSuite_ext (n : BitVec 8) (f : Suite → Suite) : (s.updSuite n f).ext = s.ext := rfl
@[simp] theorem State.updSuite_extKeys (n : BitVec 8) (f : Suite → Suite) : (s.updSuite n f).extKeys = s.extKeys := rfl
@[simp] theorem State.updSuite_pageKeys (n : BitVec 8) (f : Suite → Suite) : (s.updSuite n f).pageKeys = s.pageKeys := rfl
@[simp] theorem State.updSuite_ctlKeys (n : BitVec 8) (f : Suite → Suite) : (s.updSuite n f).ctlKeys = s.ctlKeys := rfl
@[simp] theorem State.updSuite_extPoison (n : BitVec 8) (f : Suite → Suite) : (s.updSuite n f).extPoison = s.extPoison := rfl
@[simp] theorem State.updSuite_slices (n : BitVec 8) (f : Suite → Suite) : (s.updSuite n f).slices = s.slices := rfl
@[simp] theorem State.updSuite_lines (n : BitVec 8) (f : Suite → Suite) : (s.updSuite n f).lines = s.lines := rfl
@[simp] theorem State.updSuite_dirs (n : BitVec 8) (f : Suite → Suite) : (s.updSuite n f).dirs = s.dirs := rfl
@[simp] theorem State.updSuite_misses (n : BitVec 8) (f : Suite → Suite) : (s.updSuite n f).misses = s.misses := rfl
@[simp] theorem State.updSuite_evicted (n : BitVec 8) (f : Suite → Suite) : (s.updSuite n f).evicted = s.evicted := rfl
@[simp] theorem State.updSuite_partials (n : BitVec 8) (f : Suite → Suite) : (s.updSuite n f).partials = s.partials := rfl
@[simp] theorem State.updSuite_snoops (n : BitVec 8) (f : Suite → Suite) : (s.updSuite n f).snoops = s.snoops := rfl
@[simp] theorem State.updSuite_nextSnoop (n : BitVec 8) (f : Suite → Suite) : (s.updSuite n f).nextSnoop = s.nextSnoop := rfl
@[simp] theorem State.updSuite_busyLines (n : BitVec 8) (f : Suite → Suite) : (s.updSuite n f).busyLines = s.busyLines := rfl
@[simp] theorem State.updSuite_tallies (n : BitVec 8) (f : Suite → Suite) : (s.updSuite n f).tallies = s.tallies := rfl
@[simp] theorem State.updSuite_parlours (n : BitVec 8) (f : Suite → Suite) : (s.updSuite n f).parlours = s.parlours := rfl
@[simp] theorem State.updSuite_harts (n : BitVec 8) (f : Suite → Suite) : (s.updSuite n f).harts = s.harts := rfl
@[simp] theorem State.updSuite_mcs (n : BitVec 8) (f : Suite → Suite) : (s.updSuite n f).mcs = s.mcs := rfl
@[simp] theorem State.updSuite_byPorts (n : BitVec 8) (f : Suite → Suite) : (s.updSuite n f).byPorts = s.byPorts := rfl
@[simp] theorem State.updSuite_engines (n : BitVec 8) (f : Suite → Suite) : (s.updSuite n f).engines = s.engines := rfl
@[simp] theorem State.updSuite_bzPorts (n : BitVec 8) (f : Suite → Suite) : (s.updSuite n f).bzPorts = s.bzPorts := rfl
@[simp] theorem State.updSuite_sessions (n : BitVec 8) (f : Suite → Suite) : (s.updSuite n f).sessions = s.sessions := rfl
@[simp] theorem State.updSuite_colls (n : BitVec 8) (f : Suite → Suite) : (s.updSuite n f).colls = s.colls := rfl
@[simp] theorem State.updSuite_i3cAddr (n : BitVec 8) (f : Suite → Suite) : (s.updSuite n f).i3cAddr = s.i3cAddr := rfl
@[simp] theorem State.updSuite_tap (n : BitVec 8) (f : Suite → Suite) : (s.updSuite n f).tap = s.tap := rfl
@[simp] theorem State.updSuite_lastRead (n : BitVec 8) (f : Suite → Suite) : (s.updSuite n f).lastRead = s.lastRead := rfl
@[simp] theorem State.updSuite_lastOk (n : BitVec 8) (f : Suite → Suite) : (s.updSuite n f).lastOk = s.lastOk := rfl
@[simp] theorem State.updSuite_msis (n : BitVec 8) (f : Suite → Suite) : (s.updSuite n f).msis = s.msis := rfl

/-! ## `State.updParlour` -/

@[simp] theorem State.updParlour_pending (n : Fin 2) (f : Parlour → Parlour) : (s.updParlour n f).pending = s.pending := rfl
@[simp] theorem State.updParlour_freeCtr (n : Fin 2) (f : Parlour → Parlour) : (s.updParlour n f).freeCtr = s.freeCtr := rfl
@[simp] theorem State.updParlour_on (n : Fin 2) (f : Parlour → Parlour) : (s.updParlour n f).on = s.on := rfl
@[simp] theorem State.updParlour_pins (n : Fin 2) (f : Parlour → Parlour) : (s.updParlour n f).pins = s.pins := rfl
@[simp] theorem State.updParlour_power (n : Fin 2) (f : Parlour → Parlour) : (s.updParlour n f).power = s.power := rfl
@[simp] theorem State.updParlour_hearth (n : Fin 2) (f : Parlour → Parlour) : (s.updParlour n f).hearth = s.hearth := rfl
@[simp] theorem State.updParlour_bw (n : Fin 2) (f : Parlour → Parlour) : (s.updParlour n f).bw = s.bw := rfl
@[simp] theorem State.updParlour_delivered (n : Fin 2) (f : Parlour → Parlour) : (s.updParlour n f).delivered = s.delivered := rfl
@[simp] theorem State.updParlour_hopsOut (n : Fin 2) (f : Parlour → Parlour) : (s.updParlour n f).hopsOut = s.hopsOut := rfl
@[simp] theorem State.updParlour_stamps (n : Fin 2) (f : Parlour → Parlour) : (s.updParlour n f).stamps = s.stamps := rfl
@[simp] theorem State.updParlour_wings (n : Fin 2) (f : Parlour → Parlour) : (s.updParlour n f).wings = s.wings := rfl
@[simp] theorem State.updParlour_rooms (n : Fin 2) (f : Parlour → Parlour) : (s.updParlour n f).rooms = s.rooms := rfl
@[simp] theorem State.updParlour_cores (n : Fin 2) (f : Parlour → Parlour) : (s.updParlour n f).cores = s.cores := rfl
@[simp] theorem State.updParlour_disps (n : Fin 2) (f : Parlour → Parlour) : (s.updParlour n f).disps = s.disps := rfl
@[simp] theorem State.updParlour_gsuites (n : Fin 2) (f : Parlour → Parlour) : (s.updParlour n f).gsuites = s.gsuites := rfl
@[simp] theorem State.updParlour_reqs (n : Fin 2) (f : Parlour → Parlour) : (s.updParlour n f).reqs = s.reqs := rfl
@[simp] theorem State.updParlour_nextReq (n : Fin 2) (f : Parlour → Parlour) : (s.updParlour n f).nextReq = s.nextReq := rfl
@[simp] theorem State.updParlour_ext (n : Fin 2) (f : Parlour → Parlour) : (s.updParlour n f).ext = s.ext := rfl
@[simp] theorem State.updParlour_extKeys (n : Fin 2) (f : Parlour → Parlour) : (s.updParlour n f).extKeys = s.extKeys := rfl
@[simp] theorem State.updParlour_pageKeys (n : Fin 2) (f : Parlour → Parlour) : (s.updParlour n f).pageKeys = s.pageKeys := rfl
@[simp] theorem State.updParlour_ctlKeys (n : Fin 2) (f : Parlour → Parlour) : (s.updParlour n f).ctlKeys = s.ctlKeys := rfl
@[simp] theorem State.updParlour_extPoison (n : Fin 2) (f : Parlour → Parlour) : (s.updParlour n f).extPoison = s.extPoison := rfl
@[simp] theorem State.updParlour_slices (n : Fin 2) (f : Parlour → Parlour) : (s.updParlour n f).slices = s.slices := rfl
@[simp] theorem State.updParlour_lines (n : Fin 2) (f : Parlour → Parlour) : (s.updParlour n f).lines = s.lines := rfl
@[simp] theorem State.updParlour_dirs (n : Fin 2) (f : Parlour → Parlour) : (s.updParlour n f).dirs = s.dirs := rfl
@[simp] theorem State.updParlour_misses (n : Fin 2) (f : Parlour → Parlour) : (s.updParlour n f).misses = s.misses := rfl
@[simp] theorem State.updParlour_evicted (n : Fin 2) (f : Parlour → Parlour) : (s.updParlour n f).evicted = s.evicted := rfl
@[simp] theorem State.updParlour_partials (n : Fin 2) (f : Parlour → Parlour) : (s.updParlour n f).partials = s.partials := rfl
@[simp] theorem State.updParlour_snoops (n : Fin 2) (f : Parlour → Parlour) : (s.updParlour n f).snoops = s.snoops := rfl
@[simp] theorem State.updParlour_nextSnoop (n : Fin 2) (f : Parlour → Parlour) : (s.updParlour n f).nextSnoop = s.nextSnoop := rfl
@[simp] theorem State.updParlour_busyLines (n : Fin 2) (f : Parlour → Parlour) : (s.updParlour n f).busyLines = s.busyLines := rfl
@[simp] theorem State.updParlour_tallies (n : Fin 2) (f : Parlour → Parlour) : (s.updParlour n f).tallies = s.tallies := rfl
@[simp] theorem State.updParlour_harts (n : Fin 2) (f : Parlour → Parlour) : (s.updParlour n f).harts = s.harts := rfl
@[simp] theorem State.updParlour_mcs (n : Fin 2) (f : Parlour → Parlour) : (s.updParlour n f).mcs = s.mcs := rfl
@[simp] theorem State.updParlour_byPorts (n : Fin 2) (f : Parlour → Parlour) : (s.updParlour n f).byPorts = s.byPorts := rfl
@[simp] theorem State.updParlour_engines (n : Fin 2) (f : Parlour → Parlour) : (s.updParlour n f).engines = s.engines := rfl
@[simp] theorem State.updParlour_bzPorts (n : Fin 2) (f : Parlour → Parlour) : (s.updParlour n f).bzPorts = s.bzPorts := rfl
@[simp] theorem State.updParlour_sessions (n : Fin 2) (f : Parlour → Parlour) : (s.updParlour n f).sessions = s.sessions := rfl
@[simp] theorem State.updParlour_colls (n : Fin 2) (f : Parlour → Parlour) : (s.updParlour n f).colls = s.colls := rfl
@[simp] theorem State.updParlour_i3cAddr (n : Fin 2) (f : Parlour → Parlour) : (s.updParlour n f).i3cAddr = s.i3cAddr := rfl
@[simp] theorem State.updParlour_tap (n : Fin 2) (f : Parlour → Parlour) : (s.updParlour n f).tap = s.tap := rfl
@[simp] theorem State.updParlour_lastRead (n : Fin 2) (f : Parlour → Parlour) : (s.updParlour n f).lastRead = s.lastRead := rfl
@[simp] theorem State.updParlour_lastOk (n : Fin 2) (f : Parlour → Parlour) : (s.updParlour n f).lastOk = s.lastOk := rfl
@[simp] theorem State.updParlour_msis (n : Fin 2) (f : Parlour → Parlour) : (s.updParlour n f).msis = s.msis := rfl

/-! ## `State.updHart` -/

@[simp] theorem State.updHart_pending (h : Fin 128) (f : Hart → Hart) : (s.updHart h f).pending = s.pending := rfl
@[simp] theorem State.updHart_freeCtr (h : Fin 128) (f : Hart → Hart) : (s.updHart h f).freeCtr = s.freeCtr := rfl
@[simp] theorem State.updHart_on (h : Fin 128) (f : Hart → Hart) : (s.updHart h f).on = s.on := rfl
@[simp] theorem State.updHart_pins (h : Fin 128) (f : Hart → Hart) : (s.updHart h f).pins = s.pins := rfl
@[simp] theorem State.updHart_power (h : Fin 128) (f : Hart → Hart) : (s.updHart h f).power = s.power := rfl
@[simp] theorem State.updHart_hearth (h : Fin 128) (f : Hart → Hart) : (s.updHart h f).hearth = s.hearth := rfl
@[simp] theorem State.updHart_bw (h : Fin 128) (f : Hart → Hart) : (s.updHart h f).bw = s.bw := rfl
@[simp] theorem State.updHart_delivered (h : Fin 128) (f : Hart → Hart) : (s.updHart h f).delivered = s.delivered := rfl
@[simp] theorem State.updHart_hopsOut (h : Fin 128) (f : Hart → Hart) : (s.updHart h f).hopsOut = s.hopsOut := rfl
@[simp] theorem State.updHart_stamps (h : Fin 128) (f : Hart → Hart) : (s.updHart h f).stamps = s.stamps := rfl
@[simp] theorem State.updHart_wings (h : Fin 128) (f : Hart → Hart) : (s.updHart h f).wings = s.wings := rfl
@[simp] theorem State.updHart_rooms (h : Fin 128) (f : Hart → Hart) : (s.updHart h f).rooms = s.rooms := rfl
@[simp] theorem State.updHart_cores (h : Fin 128) (f : Hart → Hart) : (s.updHart h f).cores = s.cores := rfl
@[simp] theorem State.updHart_disps (h : Fin 128) (f : Hart → Hart) : (s.updHart h f).disps = s.disps := rfl
@[simp] theorem State.updHart_gsuites (h : Fin 128) (f : Hart → Hart) : (s.updHart h f).gsuites = s.gsuites := rfl
@[simp] theorem State.updHart_reqs (h : Fin 128) (f : Hart → Hart) : (s.updHart h f).reqs = s.reqs := rfl
@[simp] theorem State.updHart_nextReq (h : Fin 128) (f : Hart → Hart) : (s.updHart h f).nextReq = s.nextReq := rfl
@[simp] theorem State.updHart_ext (h : Fin 128) (f : Hart → Hart) : (s.updHart h f).ext = s.ext := rfl
@[simp] theorem State.updHart_extKeys (h : Fin 128) (f : Hart → Hart) : (s.updHart h f).extKeys = s.extKeys := rfl
@[simp] theorem State.updHart_pageKeys (h : Fin 128) (f : Hart → Hart) : (s.updHart h f).pageKeys = s.pageKeys := rfl
@[simp] theorem State.updHart_ctlKeys (h : Fin 128) (f : Hart → Hart) : (s.updHart h f).ctlKeys = s.ctlKeys := rfl
@[simp] theorem State.updHart_extPoison (h : Fin 128) (f : Hart → Hart) : (s.updHart h f).extPoison = s.extPoison := rfl
@[simp] theorem State.updHart_slices (h : Fin 128) (f : Hart → Hart) : (s.updHart h f).slices = s.slices := rfl
@[simp] theorem State.updHart_lines (h : Fin 128) (f : Hart → Hart) : (s.updHart h f).lines = s.lines := rfl
@[simp] theorem State.updHart_dirs (h : Fin 128) (f : Hart → Hart) : (s.updHart h f).dirs = s.dirs := rfl
@[simp] theorem State.updHart_misses (h : Fin 128) (f : Hart → Hart) : (s.updHart h f).misses = s.misses := rfl
@[simp] theorem State.updHart_evicted (h : Fin 128) (f : Hart → Hart) : (s.updHart h f).evicted = s.evicted := rfl
@[simp] theorem State.updHart_partials (h : Fin 128) (f : Hart → Hart) : (s.updHart h f).partials = s.partials := rfl
@[simp] theorem State.updHart_snoops (h : Fin 128) (f : Hart → Hart) : (s.updHart h f).snoops = s.snoops := rfl
@[simp] theorem State.updHart_nextSnoop (h : Fin 128) (f : Hart → Hart) : (s.updHart h f).nextSnoop = s.nextSnoop := rfl
@[simp] theorem State.updHart_busyLines (h : Fin 128) (f : Hart → Hart) : (s.updHart h f).busyLines = s.busyLines := rfl
@[simp] theorem State.updHart_tallies (h : Fin 128) (f : Hart → Hart) : (s.updHart h f).tallies = s.tallies := rfl
@[simp] theorem State.updHart_parlours (h : Fin 128) (f : Hart → Hart) : (s.updHart h f).parlours = s.parlours := rfl
@[simp] theorem State.updHart_mcs (h : Fin 128) (f : Hart → Hart) : (s.updHart h f).mcs = s.mcs := rfl
@[simp] theorem State.updHart_byPorts (h : Fin 128) (f : Hart → Hart) : (s.updHart h f).byPorts = s.byPorts := rfl
@[simp] theorem State.updHart_engines (h : Fin 128) (f : Hart → Hart) : (s.updHart h f).engines = s.engines := rfl
@[simp] theorem State.updHart_bzPorts (h : Fin 128) (f : Hart → Hart) : (s.updHart h f).bzPorts = s.bzPorts := rfl
@[simp] theorem State.updHart_sessions (h : Fin 128) (f : Hart → Hart) : (s.updHart h f).sessions = s.sessions := rfl
@[simp] theorem State.updHart_colls (h : Fin 128) (f : Hart → Hart) : (s.updHart h f).colls = s.colls := rfl
@[simp] theorem State.updHart_i3cAddr (h : Fin 128) (f : Hart → Hart) : (s.updHart h f).i3cAddr = s.i3cAddr := rfl
@[simp] theorem State.updHart_tap (h : Fin 128) (f : Hart → Hart) : (s.updHart h f).tap = s.tap := rfl
@[simp] theorem State.updHart_lastRead (h : Fin 128) (f : Hart → Hart) : (s.updHart h f).lastRead = s.lastRead := rfl
@[simp] theorem State.updHart_lastOk (h : Fin 128) (f : Hart → Hart) : (s.updHart h f).lastOk = s.lastOk := rfl
@[simp] theorem State.updHart_msis (h : Fin 128) (f : Hart → Hart) : (s.updHart h f).msis = s.msis := rfl

/-! ## `State.updMc` -/

@[simp] theorem State.updMc_pending (m : Ctl) (f : Mc → Mc) : (s.updMc m f).pending = s.pending := rfl
@[simp] theorem State.updMc_freeCtr (m : Ctl) (f : Mc → Mc) : (s.updMc m f).freeCtr = s.freeCtr := rfl
@[simp] theorem State.updMc_on (m : Ctl) (f : Mc → Mc) : (s.updMc m f).on = s.on := rfl
@[simp] theorem State.updMc_pins (m : Ctl) (f : Mc → Mc) : (s.updMc m f).pins = s.pins := rfl
@[simp] theorem State.updMc_power (m : Ctl) (f : Mc → Mc) : (s.updMc m f).power = s.power := rfl
@[simp] theorem State.updMc_hearth (m : Ctl) (f : Mc → Mc) : (s.updMc m f).hearth = s.hearth := rfl
@[simp] theorem State.updMc_bw (m : Ctl) (f : Mc → Mc) : (s.updMc m f).bw = s.bw := rfl
@[simp] theorem State.updMc_delivered (m : Ctl) (f : Mc → Mc) : (s.updMc m f).delivered = s.delivered := rfl
@[simp] theorem State.updMc_hopsOut (m : Ctl) (f : Mc → Mc) : (s.updMc m f).hopsOut = s.hopsOut := rfl
@[simp] theorem State.updMc_stamps (m : Ctl) (f : Mc → Mc) : (s.updMc m f).stamps = s.stamps := rfl
@[simp] theorem State.updMc_wings (m : Ctl) (f : Mc → Mc) : (s.updMc m f).wings = s.wings := rfl
@[simp] theorem State.updMc_rooms (m : Ctl) (f : Mc → Mc) : (s.updMc m f).rooms = s.rooms := rfl
@[simp] theorem State.updMc_cores (m : Ctl) (f : Mc → Mc) : (s.updMc m f).cores = s.cores := rfl
@[simp] theorem State.updMc_disps (m : Ctl) (f : Mc → Mc) : (s.updMc m f).disps = s.disps := rfl
@[simp] theorem State.updMc_gsuites (m : Ctl) (f : Mc → Mc) : (s.updMc m f).gsuites = s.gsuites := rfl
@[simp] theorem State.updMc_reqs (m : Ctl) (f : Mc → Mc) : (s.updMc m f).reqs = s.reqs := rfl
@[simp] theorem State.updMc_nextReq (m : Ctl) (f : Mc → Mc) : (s.updMc m f).nextReq = s.nextReq := rfl
@[simp] theorem State.updMc_ext (m : Ctl) (f : Mc → Mc) : (s.updMc m f).ext = s.ext := rfl
@[simp] theorem State.updMc_extKeys (m : Ctl) (f : Mc → Mc) : (s.updMc m f).extKeys = s.extKeys := rfl
@[simp] theorem State.updMc_pageKeys (m : Ctl) (f : Mc → Mc) : (s.updMc m f).pageKeys = s.pageKeys := rfl
@[simp] theorem State.updMc_ctlKeys (m : Ctl) (f : Mc → Mc) : (s.updMc m f).ctlKeys = s.ctlKeys := rfl
@[simp] theorem State.updMc_extPoison (m : Ctl) (f : Mc → Mc) : (s.updMc m f).extPoison = s.extPoison := rfl
@[simp] theorem State.updMc_slices (m : Ctl) (f : Mc → Mc) : (s.updMc m f).slices = s.slices := rfl
@[simp] theorem State.updMc_lines (m : Ctl) (f : Mc → Mc) : (s.updMc m f).lines = s.lines := rfl
@[simp] theorem State.updMc_dirs (m : Ctl) (f : Mc → Mc) : (s.updMc m f).dirs = s.dirs := rfl
@[simp] theorem State.updMc_misses (m : Ctl) (f : Mc → Mc) : (s.updMc m f).misses = s.misses := rfl
@[simp] theorem State.updMc_evicted (m : Ctl) (f : Mc → Mc) : (s.updMc m f).evicted = s.evicted := rfl
@[simp] theorem State.updMc_partials (m : Ctl) (f : Mc → Mc) : (s.updMc m f).partials = s.partials := rfl
@[simp] theorem State.updMc_snoops (m : Ctl) (f : Mc → Mc) : (s.updMc m f).snoops = s.snoops := rfl
@[simp] theorem State.updMc_nextSnoop (m : Ctl) (f : Mc → Mc) : (s.updMc m f).nextSnoop = s.nextSnoop := rfl
@[simp] theorem State.updMc_busyLines (m : Ctl) (f : Mc → Mc) : (s.updMc m f).busyLines = s.busyLines := rfl
@[simp] theorem State.updMc_tallies (m : Ctl) (f : Mc → Mc) : (s.updMc m f).tallies = s.tallies := rfl
@[simp] theorem State.updMc_parlours (m : Ctl) (f : Mc → Mc) : (s.updMc m f).parlours = s.parlours := rfl
@[simp] theorem State.updMc_harts (m : Ctl) (f : Mc → Mc) : (s.updMc m f).harts = s.harts := rfl
@[simp] theorem State.updMc_byPorts (m : Ctl) (f : Mc → Mc) : (s.updMc m f).byPorts = s.byPorts := rfl
@[simp] theorem State.updMc_engines (m : Ctl) (f : Mc → Mc) : (s.updMc m f).engines = s.engines := rfl
@[simp] theorem State.updMc_bzPorts (m : Ctl) (f : Mc → Mc) : (s.updMc m f).bzPorts = s.bzPorts := rfl
@[simp] theorem State.updMc_sessions (m : Ctl) (f : Mc → Mc) : (s.updMc m f).sessions = s.sessions := rfl
@[simp] theorem State.updMc_colls (m : Ctl) (f : Mc → Mc) : (s.updMc m f).colls = s.colls := rfl
@[simp] theorem State.updMc_i3cAddr (m : Ctl) (f : Mc → Mc) : (s.updMc m f).i3cAddr = s.i3cAddr := rfl
@[simp] theorem State.updMc_tap (m : Ctl) (f : Mc → Mc) : (s.updMc m f).tap = s.tap := rfl
@[simp] theorem State.updMc_lastRead (m : Ctl) (f : Mc → Mc) : (s.updMc m f).lastRead = s.lastRead := rfl
@[simp] theorem State.updMc_lastOk (m : Ctl) (f : Mc → Mc) : (s.updMc m f).lastOk = s.lastOk := rfl
@[simp] theorem State.updMc_msis (m : Ctl) (f : Mc → Mc) : (s.updMc m f).msis = s.msis := rfl

/-! ## `State.updSlice` -/

@[simp] theorem State.updSlice_pending (k : Nat) (f : SliceReg → SliceReg) : (s.updSlice k f).pending = s.pending := rfl
@[simp] theorem State.updSlice_freeCtr (k : Nat) (f : SliceReg → SliceReg) : (s.updSlice k f).freeCtr = s.freeCtr := rfl
@[simp] theorem State.updSlice_on (k : Nat) (f : SliceReg → SliceReg) : (s.updSlice k f).on = s.on := rfl
@[simp] theorem State.updSlice_pins (k : Nat) (f : SliceReg → SliceReg) : (s.updSlice k f).pins = s.pins := rfl
@[simp] theorem State.updSlice_power (k : Nat) (f : SliceReg → SliceReg) : (s.updSlice k f).power = s.power := rfl
@[simp] theorem State.updSlice_hearth (k : Nat) (f : SliceReg → SliceReg) : (s.updSlice k f).hearth = s.hearth := rfl
@[simp] theorem State.updSlice_bw (k : Nat) (f : SliceReg → SliceReg) : (s.updSlice k f).bw = s.bw := rfl
@[simp] theorem State.updSlice_delivered (k : Nat) (f : SliceReg → SliceReg) : (s.updSlice k f).delivered = s.delivered := rfl
@[simp] theorem State.updSlice_hopsOut (k : Nat) (f : SliceReg → SliceReg) : (s.updSlice k f).hopsOut = s.hopsOut := rfl
@[simp] theorem State.updSlice_stamps (k : Nat) (f : SliceReg → SliceReg) : (s.updSlice k f).stamps = s.stamps := rfl
@[simp] theorem State.updSlice_wings (k : Nat) (f : SliceReg → SliceReg) : (s.updSlice k f).wings = s.wings := rfl
@[simp] theorem State.updSlice_rooms (k : Nat) (f : SliceReg → SliceReg) : (s.updSlice k f).rooms = s.rooms := rfl
@[simp] theorem State.updSlice_cores (k : Nat) (f : SliceReg → SliceReg) : (s.updSlice k f).cores = s.cores := rfl
@[simp] theorem State.updSlice_disps (k : Nat) (f : SliceReg → SliceReg) : (s.updSlice k f).disps = s.disps := rfl
@[simp] theorem State.updSlice_gsuites (k : Nat) (f : SliceReg → SliceReg) : (s.updSlice k f).gsuites = s.gsuites := rfl
@[simp] theorem State.updSlice_reqs (k : Nat) (f : SliceReg → SliceReg) : (s.updSlice k f).reqs = s.reqs := rfl
@[simp] theorem State.updSlice_nextReq (k : Nat) (f : SliceReg → SliceReg) : (s.updSlice k f).nextReq = s.nextReq := rfl
@[simp] theorem State.updSlice_ext (k : Nat) (f : SliceReg → SliceReg) : (s.updSlice k f).ext = s.ext := rfl
@[simp] theorem State.updSlice_extKeys (k : Nat) (f : SliceReg → SliceReg) : (s.updSlice k f).extKeys = s.extKeys := rfl
@[simp] theorem State.updSlice_pageKeys (k : Nat) (f : SliceReg → SliceReg) : (s.updSlice k f).pageKeys = s.pageKeys := rfl
@[simp] theorem State.updSlice_ctlKeys (k : Nat) (f : SliceReg → SliceReg) : (s.updSlice k f).ctlKeys = s.ctlKeys := rfl
@[simp] theorem State.updSlice_extPoison (k : Nat) (f : SliceReg → SliceReg) : (s.updSlice k f).extPoison = s.extPoison := rfl
@[simp] theorem State.updSlice_lines (k : Nat) (f : SliceReg → SliceReg) : (s.updSlice k f).lines = s.lines := rfl
@[simp] theorem State.updSlice_dirs (k : Nat) (f : SliceReg → SliceReg) : (s.updSlice k f).dirs = s.dirs := rfl
@[simp] theorem State.updSlice_misses (k : Nat) (f : SliceReg → SliceReg) : (s.updSlice k f).misses = s.misses := rfl
@[simp] theorem State.updSlice_evicted (k : Nat) (f : SliceReg → SliceReg) : (s.updSlice k f).evicted = s.evicted := rfl
@[simp] theorem State.updSlice_partials (k : Nat) (f : SliceReg → SliceReg) : (s.updSlice k f).partials = s.partials := rfl
@[simp] theorem State.updSlice_snoops (k : Nat) (f : SliceReg → SliceReg) : (s.updSlice k f).snoops = s.snoops := rfl
@[simp] theorem State.updSlice_nextSnoop (k : Nat) (f : SliceReg → SliceReg) : (s.updSlice k f).nextSnoop = s.nextSnoop := rfl
@[simp] theorem State.updSlice_busyLines (k : Nat) (f : SliceReg → SliceReg) : (s.updSlice k f).busyLines = s.busyLines := rfl
@[simp] theorem State.updSlice_tallies (k : Nat) (f : SliceReg → SliceReg) : (s.updSlice k f).tallies = s.tallies := rfl
@[simp] theorem State.updSlice_parlours (k : Nat) (f : SliceReg → SliceReg) : (s.updSlice k f).parlours = s.parlours := rfl
@[simp] theorem State.updSlice_harts (k : Nat) (f : SliceReg → SliceReg) : (s.updSlice k f).harts = s.harts := rfl
@[simp] theorem State.updSlice_mcs (k : Nat) (f : SliceReg → SliceReg) : (s.updSlice k f).mcs = s.mcs := rfl
@[simp] theorem State.updSlice_byPorts (k : Nat) (f : SliceReg → SliceReg) : (s.updSlice k f).byPorts = s.byPorts := rfl
@[simp] theorem State.updSlice_engines (k : Nat) (f : SliceReg → SliceReg) : (s.updSlice k f).engines = s.engines := rfl
@[simp] theorem State.updSlice_bzPorts (k : Nat) (f : SliceReg → SliceReg) : (s.updSlice k f).bzPorts = s.bzPorts := rfl
@[simp] theorem State.updSlice_sessions (k : Nat) (f : SliceReg → SliceReg) : (s.updSlice k f).sessions = s.sessions := rfl
@[simp] theorem State.updSlice_colls (k : Nat) (f : SliceReg → SliceReg) : (s.updSlice k f).colls = s.colls := rfl
@[simp] theorem State.updSlice_i3cAddr (k : Nat) (f : SliceReg → SliceReg) : (s.updSlice k f).i3cAddr = s.i3cAddr := rfl
@[simp] theorem State.updSlice_tap (k : Nat) (f : SliceReg → SliceReg) : (s.updSlice k f).tap = s.tap := rfl
@[simp] theorem State.updSlice_lastRead (k : Nat) (f : SliceReg → SliceReg) : (s.updSlice k f).lastRead = s.lastRead := rfl
@[simp] theorem State.updSlice_lastOk (k : Nat) (f : SliceReg → SliceReg) : (s.updSlice k f).lastOk = s.lastOk := rfl
@[simp] theorem State.updSlice_msis (k : Nat) (f : SliceReg → SliceReg) : (s.updSlice k f).msis = s.msis := rfl

/-! ## `State.updByPort` -/

@[simp] theorem State.updByPort_pending (i : Fin 4) (f : ByPort → ByPort) : (s.updByPort i f).pending = s.pending := rfl
@[simp] theorem State.updByPort_freeCtr (i : Fin 4) (f : ByPort → ByPort) : (s.updByPort i f).freeCtr = s.freeCtr := rfl
@[simp] theorem State.updByPort_on (i : Fin 4) (f : ByPort → ByPort) : (s.updByPort i f).on = s.on := rfl
@[simp] theorem State.updByPort_pins (i : Fin 4) (f : ByPort → ByPort) : (s.updByPort i f).pins = s.pins := rfl
@[simp] theorem State.updByPort_power (i : Fin 4) (f : ByPort → ByPort) : (s.updByPort i f).power = s.power := rfl
@[simp] theorem State.updByPort_hearth (i : Fin 4) (f : ByPort → ByPort) : (s.updByPort i f).hearth = s.hearth := rfl
@[simp] theorem State.updByPort_bw (i : Fin 4) (f : ByPort → ByPort) : (s.updByPort i f).bw = s.bw := rfl
@[simp] theorem State.updByPort_delivered (i : Fin 4) (f : ByPort → ByPort) : (s.updByPort i f).delivered = s.delivered := rfl
@[simp] theorem State.updByPort_hopsOut (i : Fin 4) (f : ByPort → ByPort) : (s.updByPort i f).hopsOut = s.hopsOut := rfl
@[simp] theorem State.updByPort_stamps (i : Fin 4) (f : ByPort → ByPort) : (s.updByPort i f).stamps = s.stamps := rfl
@[simp] theorem State.updByPort_wings (i : Fin 4) (f : ByPort → ByPort) : (s.updByPort i f).wings = s.wings := rfl
@[simp] theorem State.updByPort_rooms (i : Fin 4) (f : ByPort → ByPort) : (s.updByPort i f).rooms = s.rooms := rfl
@[simp] theorem State.updByPort_cores (i : Fin 4) (f : ByPort → ByPort) : (s.updByPort i f).cores = s.cores := rfl
@[simp] theorem State.updByPort_disps (i : Fin 4) (f : ByPort → ByPort) : (s.updByPort i f).disps = s.disps := rfl
@[simp] theorem State.updByPort_gsuites (i : Fin 4) (f : ByPort → ByPort) : (s.updByPort i f).gsuites = s.gsuites := rfl
@[simp] theorem State.updByPort_reqs (i : Fin 4) (f : ByPort → ByPort) : (s.updByPort i f).reqs = s.reqs := rfl
@[simp] theorem State.updByPort_nextReq (i : Fin 4) (f : ByPort → ByPort) : (s.updByPort i f).nextReq = s.nextReq := rfl
@[simp] theorem State.updByPort_ext (i : Fin 4) (f : ByPort → ByPort) : (s.updByPort i f).ext = s.ext := rfl
@[simp] theorem State.updByPort_extKeys (i : Fin 4) (f : ByPort → ByPort) : (s.updByPort i f).extKeys = s.extKeys := rfl
@[simp] theorem State.updByPort_pageKeys (i : Fin 4) (f : ByPort → ByPort) : (s.updByPort i f).pageKeys = s.pageKeys := rfl
@[simp] theorem State.updByPort_ctlKeys (i : Fin 4) (f : ByPort → ByPort) : (s.updByPort i f).ctlKeys = s.ctlKeys := rfl
@[simp] theorem State.updByPort_extPoison (i : Fin 4) (f : ByPort → ByPort) : (s.updByPort i f).extPoison = s.extPoison := rfl
@[simp] theorem State.updByPort_slices (i : Fin 4) (f : ByPort → ByPort) : (s.updByPort i f).slices = s.slices := rfl
@[simp] theorem State.updByPort_lines (i : Fin 4) (f : ByPort → ByPort) : (s.updByPort i f).lines = s.lines := rfl
@[simp] theorem State.updByPort_dirs (i : Fin 4) (f : ByPort → ByPort) : (s.updByPort i f).dirs = s.dirs := rfl
@[simp] theorem State.updByPort_misses (i : Fin 4) (f : ByPort → ByPort) : (s.updByPort i f).misses = s.misses := rfl
@[simp] theorem State.updByPort_evicted (i : Fin 4) (f : ByPort → ByPort) : (s.updByPort i f).evicted = s.evicted := rfl
@[simp] theorem State.updByPort_partials (i : Fin 4) (f : ByPort → ByPort) : (s.updByPort i f).partials = s.partials := rfl
@[simp] theorem State.updByPort_snoops (i : Fin 4) (f : ByPort → ByPort) : (s.updByPort i f).snoops = s.snoops := rfl
@[simp] theorem State.updByPort_nextSnoop (i : Fin 4) (f : ByPort → ByPort) : (s.updByPort i f).nextSnoop = s.nextSnoop := rfl
@[simp] theorem State.updByPort_busyLines (i : Fin 4) (f : ByPort → ByPort) : (s.updByPort i f).busyLines = s.busyLines := rfl
@[simp] theorem State.updByPort_tallies (i : Fin 4) (f : ByPort → ByPort) : (s.updByPort i f).tallies = s.tallies := rfl
@[simp] theorem State.updByPort_parlours (i : Fin 4) (f : ByPort → ByPort) : (s.updByPort i f).parlours = s.parlours := rfl
@[simp] theorem State.updByPort_harts (i : Fin 4) (f : ByPort → ByPort) : (s.updByPort i f).harts = s.harts := rfl
@[simp] theorem State.updByPort_mcs (i : Fin 4) (f : ByPort → ByPort) : (s.updByPort i f).mcs = s.mcs := rfl
@[simp] theorem State.updByPort_engines (i : Fin 4) (f : ByPort → ByPort) : (s.updByPort i f).engines = s.engines := rfl
@[simp] theorem State.updByPort_bzPorts (i : Fin 4) (f : ByPort → ByPort) : (s.updByPort i f).bzPorts = s.bzPorts := rfl
@[simp] theorem State.updByPort_sessions (i : Fin 4) (f : ByPort → ByPort) : (s.updByPort i f).sessions = s.sessions := rfl
@[simp] theorem State.updByPort_colls (i : Fin 4) (f : ByPort → ByPort) : (s.updByPort i f).colls = s.colls := rfl
@[simp] theorem State.updByPort_i3cAddr (i : Fin 4) (f : ByPort → ByPort) : (s.updByPort i f).i3cAddr = s.i3cAddr := rfl
@[simp] theorem State.updByPort_tap (i : Fin 4) (f : ByPort → ByPort) : (s.updByPort i f).tap = s.tap := rfl
@[simp] theorem State.updByPort_lastRead (i : Fin 4) (f : ByPort → ByPort) : (s.updByPort i f).lastRead = s.lastRead := rfl
@[simp] theorem State.updByPort_lastOk (i : Fin 4) (f : ByPort → ByPort) : (s.updByPort i f).lastOk = s.lastOk := rfl
@[simp] theorem State.updByPort_msis (i : Fin 4) (f : ByPort → ByPort) : (s.updByPort i f).msis = s.msis := rfl

/-! ## `State.updBzPort` -/

@[simp] theorem State.updBzPort_pending (i : Fin 6) (f : BzPort → BzPort) : (s.updBzPort i f).pending = s.pending := rfl
@[simp] theorem State.updBzPort_freeCtr (i : Fin 6) (f : BzPort → BzPort) : (s.updBzPort i f).freeCtr = s.freeCtr := rfl
@[simp] theorem State.updBzPort_on (i : Fin 6) (f : BzPort → BzPort) : (s.updBzPort i f).on = s.on := rfl
@[simp] theorem State.updBzPort_pins (i : Fin 6) (f : BzPort → BzPort) : (s.updBzPort i f).pins = s.pins := rfl
@[simp] theorem State.updBzPort_power (i : Fin 6) (f : BzPort → BzPort) : (s.updBzPort i f).power = s.power := rfl
@[simp] theorem State.updBzPort_hearth (i : Fin 6) (f : BzPort → BzPort) : (s.updBzPort i f).hearth = s.hearth := rfl
@[simp] theorem State.updBzPort_bw (i : Fin 6) (f : BzPort → BzPort) : (s.updBzPort i f).bw = s.bw := rfl
@[simp] theorem State.updBzPort_delivered (i : Fin 6) (f : BzPort → BzPort) : (s.updBzPort i f).delivered = s.delivered := rfl
@[simp] theorem State.updBzPort_hopsOut (i : Fin 6) (f : BzPort → BzPort) : (s.updBzPort i f).hopsOut = s.hopsOut := rfl
@[simp] theorem State.updBzPort_stamps (i : Fin 6) (f : BzPort → BzPort) : (s.updBzPort i f).stamps = s.stamps := rfl
@[simp] theorem State.updBzPort_wings (i : Fin 6) (f : BzPort → BzPort) : (s.updBzPort i f).wings = s.wings := rfl
@[simp] theorem State.updBzPort_rooms (i : Fin 6) (f : BzPort → BzPort) : (s.updBzPort i f).rooms = s.rooms := rfl
@[simp] theorem State.updBzPort_cores (i : Fin 6) (f : BzPort → BzPort) : (s.updBzPort i f).cores = s.cores := rfl
@[simp] theorem State.updBzPort_disps (i : Fin 6) (f : BzPort → BzPort) : (s.updBzPort i f).disps = s.disps := rfl
@[simp] theorem State.updBzPort_gsuites (i : Fin 6) (f : BzPort → BzPort) : (s.updBzPort i f).gsuites = s.gsuites := rfl
@[simp] theorem State.updBzPort_reqs (i : Fin 6) (f : BzPort → BzPort) : (s.updBzPort i f).reqs = s.reqs := rfl
@[simp] theorem State.updBzPort_nextReq (i : Fin 6) (f : BzPort → BzPort) : (s.updBzPort i f).nextReq = s.nextReq := rfl
@[simp] theorem State.updBzPort_ext (i : Fin 6) (f : BzPort → BzPort) : (s.updBzPort i f).ext = s.ext := rfl
@[simp] theorem State.updBzPort_extKeys (i : Fin 6) (f : BzPort → BzPort) : (s.updBzPort i f).extKeys = s.extKeys := rfl
@[simp] theorem State.updBzPort_pageKeys (i : Fin 6) (f : BzPort → BzPort) : (s.updBzPort i f).pageKeys = s.pageKeys := rfl
@[simp] theorem State.updBzPort_ctlKeys (i : Fin 6) (f : BzPort → BzPort) : (s.updBzPort i f).ctlKeys = s.ctlKeys := rfl
@[simp] theorem State.updBzPort_extPoison (i : Fin 6) (f : BzPort → BzPort) : (s.updBzPort i f).extPoison = s.extPoison := rfl
@[simp] theorem State.updBzPort_slices (i : Fin 6) (f : BzPort → BzPort) : (s.updBzPort i f).slices = s.slices := rfl
@[simp] theorem State.updBzPort_lines (i : Fin 6) (f : BzPort → BzPort) : (s.updBzPort i f).lines = s.lines := rfl
@[simp] theorem State.updBzPort_dirs (i : Fin 6) (f : BzPort → BzPort) : (s.updBzPort i f).dirs = s.dirs := rfl
@[simp] theorem State.updBzPort_misses (i : Fin 6) (f : BzPort → BzPort) : (s.updBzPort i f).misses = s.misses := rfl
@[simp] theorem State.updBzPort_evicted (i : Fin 6) (f : BzPort → BzPort) : (s.updBzPort i f).evicted = s.evicted := rfl
@[simp] theorem State.updBzPort_partials (i : Fin 6) (f : BzPort → BzPort) : (s.updBzPort i f).partials = s.partials := rfl
@[simp] theorem State.updBzPort_snoops (i : Fin 6) (f : BzPort → BzPort) : (s.updBzPort i f).snoops = s.snoops := rfl
@[simp] theorem State.updBzPort_nextSnoop (i : Fin 6) (f : BzPort → BzPort) : (s.updBzPort i f).nextSnoop = s.nextSnoop := rfl
@[simp] theorem State.updBzPort_busyLines (i : Fin 6) (f : BzPort → BzPort) : (s.updBzPort i f).busyLines = s.busyLines := rfl
@[simp] theorem State.updBzPort_tallies (i : Fin 6) (f : BzPort → BzPort) : (s.updBzPort i f).tallies = s.tallies := rfl
@[simp] theorem State.updBzPort_parlours (i : Fin 6) (f : BzPort → BzPort) : (s.updBzPort i f).parlours = s.parlours := rfl
@[simp] theorem State.updBzPort_harts (i : Fin 6) (f : BzPort → BzPort) : (s.updBzPort i f).harts = s.harts := rfl
@[simp] theorem State.updBzPort_mcs (i : Fin 6) (f : BzPort → BzPort) : (s.updBzPort i f).mcs = s.mcs := rfl
@[simp] theorem State.updBzPort_byPorts (i : Fin 6) (f : BzPort → BzPort) : (s.updBzPort i f).byPorts = s.byPorts := rfl
@[simp] theorem State.updBzPort_engines (i : Fin 6) (f : BzPort → BzPort) : (s.updBzPort i f).engines = s.engines := rfl
@[simp] theorem State.updBzPort_sessions (i : Fin 6) (f : BzPort → BzPort) : (s.updBzPort i f).sessions = s.sessions := rfl
@[simp] theorem State.updBzPort_colls (i : Fin 6) (f : BzPort → BzPort) : (s.updBzPort i f).colls = s.colls := rfl
@[simp] theorem State.updBzPort_i3cAddr (i : Fin 6) (f : BzPort → BzPort) : (s.updBzPort i f).i3cAddr = s.i3cAddr := rfl
@[simp] theorem State.updBzPort_tap (i : Fin 6) (f : BzPort → BzPort) : (s.updBzPort i f).tap = s.tap := rfl
@[simp] theorem State.updBzPort_lastRead (i : Fin 6) (f : BzPort → BzPort) : (s.updBzPort i f).lastRead = s.lastRead := rfl
@[simp] theorem State.updBzPort_lastOk (i : Fin 6) (f : BzPort → BzPort) : (s.updBzPort i f).lastOk = s.lastOk := rfl
@[simp] theorem State.updBzPort_msis (i : Fin 6) (f : BzPort → BzPort) : (s.updBzPort i f).msis = s.msis := rfl

/-! ## `State.updEngine` -/

@[simp] theorem State.updEngine_pending (e : Fin 32) (f : CopyEngine → CopyEngine) : (s.updEngine e f).pending = s.pending := rfl
@[simp] theorem State.updEngine_freeCtr (e : Fin 32) (f : CopyEngine → CopyEngine) : (s.updEngine e f).freeCtr = s.freeCtr := rfl
@[simp] theorem State.updEngine_on (e : Fin 32) (f : CopyEngine → CopyEngine) : (s.updEngine e f).on = s.on := rfl
@[simp] theorem State.updEngine_pins (e : Fin 32) (f : CopyEngine → CopyEngine) : (s.updEngine e f).pins = s.pins := rfl
@[simp] theorem State.updEngine_power (e : Fin 32) (f : CopyEngine → CopyEngine) : (s.updEngine e f).power = s.power := rfl
@[simp] theorem State.updEngine_hearth (e : Fin 32) (f : CopyEngine → CopyEngine) : (s.updEngine e f).hearth = s.hearth := rfl
@[simp] theorem State.updEngine_bw (e : Fin 32) (f : CopyEngine → CopyEngine) : (s.updEngine e f).bw = s.bw := rfl
@[simp] theorem State.updEngine_delivered (e : Fin 32) (f : CopyEngine → CopyEngine) : (s.updEngine e f).delivered = s.delivered := rfl
@[simp] theorem State.updEngine_hopsOut (e : Fin 32) (f : CopyEngine → CopyEngine) : (s.updEngine e f).hopsOut = s.hopsOut := rfl
@[simp] theorem State.updEngine_stamps (e : Fin 32) (f : CopyEngine → CopyEngine) : (s.updEngine e f).stamps = s.stamps := rfl
@[simp] theorem State.updEngine_wings (e : Fin 32) (f : CopyEngine → CopyEngine) : (s.updEngine e f).wings = s.wings := rfl
@[simp] theorem State.updEngine_rooms (e : Fin 32) (f : CopyEngine → CopyEngine) : (s.updEngine e f).rooms = s.rooms := rfl
@[simp] theorem State.updEngine_cores (e : Fin 32) (f : CopyEngine → CopyEngine) : (s.updEngine e f).cores = s.cores := rfl
@[simp] theorem State.updEngine_disps (e : Fin 32) (f : CopyEngine → CopyEngine) : (s.updEngine e f).disps = s.disps := rfl
@[simp] theorem State.updEngine_gsuites (e : Fin 32) (f : CopyEngine → CopyEngine) : (s.updEngine e f).gsuites = s.gsuites := rfl
@[simp] theorem State.updEngine_reqs (e : Fin 32) (f : CopyEngine → CopyEngine) : (s.updEngine e f).reqs = s.reqs := rfl
@[simp] theorem State.updEngine_nextReq (e : Fin 32) (f : CopyEngine → CopyEngine) : (s.updEngine e f).nextReq = s.nextReq := rfl
@[simp] theorem State.updEngine_ext (e : Fin 32) (f : CopyEngine → CopyEngine) : (s.updEngine e f).ext = s.ext := rfl
@[simp] theorem State.updEngine_extKeys (e : Fin 32) (f : CopyEngine → CopyEngine) : (s.updEngine e f).extKeys = s.extKeys := rfl
@[simp] theorem State.updEngine_pageKeys (e : Fin 32) (f : CopyEngine → CopyEngine) : (s.updEngine e f).pageKeys = s.pageKeys := rfl
@[simp] theorem State.updEngine_ctlKeys (e : Fin 32) (f : CopyEngine → CopyEngine) : (s.updEngine e f).ctlKeys = s.ctlKeys := rfl
@[simp] theorem State.updEngine_extPoison (e : Fin 32) (f : CopyEngine → CopyEngine) : (s.updEngine e f).extPoison = s.extPoison := rfl
@[simp] theorem State.updEngine_slices (e : Fin 32) (f : CopyEngine → CopyEngine) : (s.updEngine e f).slices = s.slices := rfl
@[simp] theorem State.updEngine_lines (e : Fin 32) (f : CopyEngine → CopyEngine) : (s.updEngine e f).lines = s.lines := rfl
@[simp] theorem State.updEngine_dirs (e : Fin 32) (f : CopyEngine → CopyEngine) : (s.updEngine e f).dirs = s.dirs := rfl
@[simp] theorem State.updEngine_misses (e : Fin 32) (f : CopyEngine → CopyEngine) : (s.updEngine e f).misses = s.misses := rfl
@[simp] theorem State.updEngine_evicted (e : Fin 32) (f : CopyEngine → CopyEngine) : (s.updEngine e f).evicted = s.evicted := rfl
@[simp] theorem State.updEngine_partials (e : Fin 32) (f : CopyEngine → CopyEngine) : (s.updEngine e f).partials = s.partials := rfl
@[simp] theorem State.updEngine_snoops (e : Fin 32) (f : CopyEngine → CopyEngine) : (s.updEngine e f).snoops = s.snoops := rfl
@[simp] theorem State.updEngine_nextSnoop (e : Fin 32) (f : CopyEngine → CopyEngine) : (s.updEngine e f).nextSnoop = s.nextSnoop := rfl
@[simp] theorem State.updEngine_busyLines (e : Fin 32) (f : CopyEngine → CopyEngine) : (s.updEngine e f).busyLines = s.busyLines := rfl
@[simp] theorem State.updEngine_tallies (e : Fin 32) (f : CopyEngine → CopyEngine) : (s.updEngine e f).tallies = s.tallies := rfl
@[simp] theorem State.updEngine_parlours (e : Fin 32) (f : CopyEngine → CopyEngine) : (s.updEngine e f).parlours = s.parlours := rfl
@[simp] theorem State.updEngine_harts (e : Fin 32) (f : CopyEngine → CopyEngine) : (s.updEngine e f).harts = s.harts := rfl
@[simp] theorem State.updEngine_mcs (e : Fin 32) (f : CopyEngine → CopyEngine) : (s.updEngine e f).mcs = s.mcs := rfl
@[simp] theorem State.updEngine_byPorts (e : Fin 32) (f : CopyEngine → CopyEngine) : (s.updEngine e f).byPorts = s.byPorts := rfl
@[simp] theorem State.updEngine_bzPorts (e : Fin 32) (f : CopyEngine → CopyEngine) : (s.updEngine e f).bzPorts = s.bzPorts := rfl
@[simp] theorem State.updEngine_sessions (e : Fin 32) (f : CopyEngine → CopyEngine) : (s.updEngine e f).sessions = s.sessions := rfl
@[simp] theorem State.updEngine_colls (e : Fin 32) (f : CopyEngine → CopyEngine) : (s.updEngine e f).colls = s.colls := rfl
@[simp] theorem State.updEngine_i3cAddr (e : Fin 32) (f : CopyEngine → CopyEngine) : (s.updEngine e f).i3cAddr = s.i3cAddr := rfl
@[simp] theorem State.updEngine_tap (e : Fin 32) (f : CopyEngine → CopyEngine) : (s.updEngine e f).tap = s.tap := rfl
@[simp] theorem State.updEngine_lastRead (e : Fin 32) (f : CopyEngine → CopyEngine) : (s.updEngine e f).lastRead = s.lastRead := rfl
@[simp] theorem State.updEngine_lastOk (e : Fin 32) (f : CopyEngine → CopyEngine) : (s.updEngine e f).lastOk = s.lastOk := rfl
@[simp] theorem State.updEngine_msis (e : Fin 32) (f : CopyEngine → CopyEngine) : (s.updEngine e f).msis = s.msis := rfl

/-! ## `State.updSess` -/

@[simp] theorem State.updSess_pending (p : Fin 2) (n : Nat) (f : PeerSess → PeerSess) : (s.updSess p n f).pending = s.pending := rfl
@[simp] theorem State.updSess_freeCtr (p : Fin 2) (n : Nat) (f : PeerSess → PeerSess) : (s.updSess p n f).freeCtr = s.freeCtr := rfl
@[simp] theorem State.updSess_on (p : Fin 2) (n : Nat) (f : PeerSess → PeerSess) : (s.updSess p n f).on = s.on := rfl
@[simp] theorem State.updSess_pins (p : Fin 2) (n : Nat) (f : PeerSess → PeerSess) : (s.updSess p n f).pins = s.pins := rfl
@[simp] theorem State.updSess_power (p : Fin 2) (n : Nat) (f : PeerSess → PeerSess) : (s.updSess p n f).power = s.power := rfl
@[simp] theorem State.updSess_hearth (p : Fin 2) (n : Nat) (f : PeerSess → PeerSess) : (s.updSess p n f).hearth = s.hearth := rfl
@[simp] theorem State.updSess_bw (p : Fin 2) (n : Nat) (f : PeerSess → PeerSess) : (s.updSess p n f).bw = s.bw := rfl
@[simp] theorem State.updSess_delivered (p : Fin 2) (n : Nat) (f : PeerSess → PeerSess) : (s.updSess p n f).delivered = s.delivered := rfl
@[simp] theorem State.updSess_hopsOut (p : Fin 2) (n : Nat) (f : PeerSess → PeerSess) : (s.updSess p n f).hopsOut = s.hopsOut := rfl
@[simp] theorem State.updSess_stamps (p : Fin 2) (n : Nat) (f : PeerSess → PeerSess) : (s.updSess p n f).stamps = s.stamps := rfl
@[simp] theorem State.updSess_wings (p : Fin 2) (n : Nat) (f : PeerSess → PeerSess) : (s.updSess p n f).wings = s.wings := rfl
@[simp] theorem State.updSess_rooms (p : Fin 2) (n : Nat) (f : PeerSess → PeerSess) : (s.updSess p n f).rooms = s.rooms := rfl
@[simp] theorem State.updSess_cores (p : Fin 2) (n : Nat) (f : PeerSess → PeerSess) : (s.updSess p n f).cores = s.cores := rfl
@[simp] theorem State.updSess_disps (p : Fin 2) (n : Nat) (f : PeerSess → PeerSess) : (s.updSess p n f).disps = s.disps := rfl
@[simp] theorem State.updSess_gsuites (p : Fin 2) (n : Nat) (f : PeerSess → PeerSess) : (s.updSess p n f).gsuites = s.gsuites := rfl
@[simp] theorem State.updSess_reqs (p : Fin 2) (n : Nat) (f : PeerSess → PeerSess) : (s.updSess p n f).reqs = s.reqs := rfl
@[simp] theorem State.updSess_nextReq (p : Fin 2) (n : Nat) (f : PeerSess → PeerSess) : (s.updSess p n f).nextReq = s.nextReq := rfl
@[simp] theorem State.updSess_ext (p : Fin 2) (n : Nat) (f : PeerSess → PeerSess) : (s.updSess p n f).ext = s.ext := rfl
@[simp] theorem State.updSess_extKeys (p : Fin 2) (n : Nat) (f : PeerSess → PeerSess) : (s.updSess p n f).extKeys = s.extKeys := rfl
@[simp] theorem State.updSess_pageKeys (p : Fin 2) (n : Nat) (f : PeerSess → PeerSess) : (s.updSess p n f).pageKeys = s.pageKeys := rfl
@[simp] theorem State.updSess_ctlKeys (p : Fin 2) (n : Nat) (f : PeerSess → PeerSess) : (s.updSess p n f).ctlKeys = s.ctlKeys := rfl
@[simp] theorem State.updSess_extPoison (p : Fin 2) (n : Nat) (f : PeerSess → PeerSess) : (s.updSess p n f).extPoison = s.extPoison := rfl
@[simp] theorem State.updSess_slices (p : Fin 2) (n : Nat) (f : PeerSess → PeerSess) : (s.updSess p n f).slices = s.slices := rfl
@[simp] theorem State.updSess_lines (p : Fin 2) (n : Nat) (f : PeerSess → PeerSess) : (s.updSess p n f).lines = s.lines := rfl
@[simp] theorem State.updSess_dirs (p : Fin 2) (n : Nat) (f : PeerSess → PeerSess) : (s.updSess p n f).dirs = s.dirs := rfl
@[simp] theorem State.updSess_misses (p : Fin 2) (n : Nat) (f : PeerSess → PeerSess) : (s.updSess p n f).misses = s.misses := rfl
@[simp] theorem State.updSess_evicted (p : Fin 2) (n : Nat) (f : PeerSess → PeerSess) : (s.updSess p n f).evicted = s.evicted := rfl
@[simp] theorem State.updSess_partials (p : Fin 2) (n : Nat) (f : PeerSess → PeerSess) : (s.updSess p n f).partials = s.partials := rfl
@[simp] theorem State.updSess_snoops (p : Fin 2) (n : Nat) (f : PeerSess → PeerSess) : (s.updSess p n f).snoops = s.snoops := rfl
@[simp] theorem State.updSess_nextSnoop (p : Fin 2) (n : Nat) (f : PeerSess → PeerSess) : (s.updSess p n f).nextSnoop = s.nextSnoop := rfl
@[simp] theorem State.updSess_busyLines (p : Fin 2) (n : Nat) (f : PeerSess → PeerSess) : (s.updSess p n f).busyLines = s.busyLines := rfl
@[simp] theorem State.updSess_tallies (p : Fin 2) (n : Nat) (f : PeerSess → PeerSess) : (s.updSess p n f).tallies = s.tallies := rfl
@[simp] theorem State.updSess_parlours (p : Fin 2) (n : Nat) (f : PeerSess → PeerSess) : (s.updSess p n f).parlours = s.parlours := rfl
@[simp] theorem State.updSess_harts (p : Fin 2) (n : Nat) (f : PeerSess → PeerSess) : (s.updSess p n f).harts = s.harts := rfl
@[simp] theorem State.updSess_mcs (p : Fin 2) (n : Nat) (f : PeerSess → PeerSess) : (s.updSess p n f).mcs = s.mcs := rfl
@[simp] theorem State.updSess_byPorts (p : Fin 2) (n : Nat) (f : PeerSess → PeerSess) : (s.updSess p n f).byPorts = s.byPorts := rfl
@[simp] theorem State.updSess_engines (p : Fin 2) (n : Nat) (f : PeerSess → PeerSess) : (s.updSess p n f).engines = s.engines := rfl
@[simp] theorem State.updSess_bzPorts (p : Fin 2) (n : Nat) (f : PeerSess → PeerSess) : (s.updSess p n f).bzPorts = s.bzPorts := rfl
@[simp] theorem State.updSess_colls (p : Fin 2) (n : Nat) (f : PeerSess → PeerSess) : (s.updSess p n f).colls = s.colls := rfl
@[simp] theorem State.updSess_i3cAddr (p : Fin 2) (n : Nat) (f : PeerSess → PeerSess) : (s.updSess p n f).i3cAddr = s.i3cAddr := rfl
@[simp] theorem State.updSess_tap (p : Fin 2) (n : Nat) (f : PeerSess → PeerSess) : (s.updSess p n f).tap = s.tap := rfl
@[simp] theorem State.updSess_lastRead (p : Fin 2) (n : Nat) (f : PeerSess → PeerSess) : (s.updSess p n f).lastRead = s.lastRead := rfl
@[simp] theorem State.updSess_lastOk (p : Fin 2) (n : Nat) (f : PeerSess → PeerSess) : (s.updSess p n f).lastOk = s.lastOk := rfl
@[simp] theorem State.updSess_msis (p : Fin 2) (n : Nat) (f : PeerSess → PeerSess) : (s.updSess p n f).msis = s.msis := rfl

/-! ## `State.updColl` -/

@[simp] theorem State.updColl_pending (p : Fin 2) (n : Nat) (f : CollSlot → CollSlot) : (s.updColl p n f).pending = s.pending := rfl
@[simp] theorem State.updColl_freeCtr (p : Fin 2) (n : Nat) (f : CollSlot → CollSlot) : (s.updColl p n f).freeCtr = s.freeCtr := rfl
@[simp] theorem State.updColl_on (p : Fin 2) (n : Nat) (f : CollSlot → CollSlot) : (s.updColl p n f).on = s.on := rfl
@[simp] theorem State.updColl_pins (p : Fin 2) (n : Nat) (f : CollSlot → CollSlot) : (s.updColl p n f).pins = s.pins := rfl
@[simp] theorem State.updColl_power (p : Fin 2) (n : Nat) (f : CollSlot → CollSlot) : (s.updColl p n f).power = s.power := rfl
@[simp] theorem State.updColl_hearth (p : Fin 2) (n : Nat) (f : CollSlot → CollSlot) : (s.updColl p n f).hearth = s.hearth := rfl
@[simp] theorem State.updColl_bw (p : Fin 2) (n : Nat) (f : CollSlot → CollSlot) : (s.updColl p n f).bw = s.bw := rfl
@[simp] theorem State.updColl_delivered (p : Fin 2) (n : Nat) (f : CollSlot → CollSlot) : (s.updColl p n f).delivered = s.delivered := rfl
@[simp] theorem State.updColl_hopsOut (p : Fin 2) (n : Nat) (f : CollSlot → CollSlot) : (s.updColl p n f).hopsOut = s.hopsOut := rfl
@[simp] theorem State.updColl_stamps (p : Fin 2) (n : Nat) (f : CollSlot → CollSlot) : (s.updColl p n f).stamps = s.stamps := rfl
@[simp] theorem State.updColl_wings (p : Fin 2) (n : Nat) (f : CollSlot → CollSlot) : (s.updColl p n f).wings = s.wings := rfl
@[simp] theorem State.updColl_rooms (p : Fin 2) (n : Nat) (f : CollSlot → CollSlot) : (s.updColl p n f).rooms = s.rooms := rfl
@[simp] theorem State.updColl_cores (p : Fin 2) (n : Nat) (f : CollSlot → CollSlot) : (s.updColl p n f).cores = s.cores := rfl
@[simp] theorem State.updColl_disps (p : Fin 2) (n : Nat) (f : CollSlot → CollSlot) : (s.updColl p n f).disps = s.disps := rfl
@[simp] theorem State.updColl_gsuites (p : Fin 2) (n : Nat) (f : CollSlot → CollSlot) : (s.updColl p n f).gsuites = s.gsuites := rfl
@[simp] theorem State.updColl_reqs (p : Fin 2) (n : Nat) (f : CollSlot → CollSlot) : (s.updColl p n f).reqs = s.reqs := rfl
@[simp] theorem State.updColl_nextReq (p : Fin 2) (n : Nat) (f : CollSlot → CollSlot) : (s.updColl p n f).nextReq = s.nextReq := rfl
@[simp] theorem State.updColl_ext (p : Fin 2) (n : Nat) (f : CollSlot → CollSlot) : (s.updColl p n f).ext = s.ext := rfl
@[simp] theorem State.updColl_extKeys (p : Fin 2) (n : Nat) (f : CollSlot → CollSlot) : (s.updColl p n f).extKeys = s.extKeys := rfl
@[simp] theorem State.updColl_pageKeys (p : Fin 2) (n : Nat) (f : CollSlot → CollSlot) : (s.updColl p n f).pageKeys = s.pageKeys := rfl
@[simp] theorem State.updColl_ctlKeys (p : Fin 2) (n : Nat) (f : CollSlot → CollSlot) : (s.updColl p n f).ctlKeys = s.ctlKeys := rfl
@[simp] theorem State.updColl_extPoison (p : Fin 2) (n : Nat) (f : CollSlot → CollSlot) : (s.updColl p n f).extPoison = s.extPoison := rfl
@[simp] theorem State.updColl_slices (p : Fin 2) (n : Nat) (f : CollSlot → CollSlot) : (s.updColl p n f).slices = s.slices := rfl
@[simp] theorem State.updColl_lines (p : Fin 2) (n : Nat) (f : CollSlot → CollSlot) : (s.updColl p n f).lines = s.lines := rfl
@[simp] theorem State.updColl_dirs (p : Fin 2) (n : Nat) (f : CollSlot → CollSlot) : (s.updColl p n f).dirs = s.dirs := rfl
@[simp] theorem State.updColl_misses (p : Fin 2) (n : Nat) (f : CollSlot → CollSlot) : (s.updColl p n f).misses = s.misses := rfl
@[simp] theorem State.updColl_evicted (p : Fin 2) (n : Nat) (f : CollSlot → CollSlot) : (s.updColl p n f).evicted = s.evicted := rfl
@[simp] theorem State.updColl_partials (p : Fin 2) (n : Nat) (f : CollSlot → CollSlot) : (s.updColl p n f).partials = s.partials := rfl
@[simp] theorem State.updColl_snoops (p : Fin 2) (n : Nat) (f : CollSlot → CollSlot) : (s.updColl p n f).snoops = s.snoops := rfl
@[simp] theorem State.updColl_nextSnoop (p : Fin 2) (n : Nat) (f : CollSlot → CollSlot) : (s.updColl p n f).nextSnoop = s.nextSnoop := rfl
@[simp] theorem State.updColl_busyLines (p : Fin 2) (n : Nat) (f : CollSlot → CollSlot) : (s.updColl p n f).busyLines = s.busyLines := rfl
@[simp] theorem State.updColl_tallies (p : Fin 2) (n : Nat) (f : CollSlot → CollSlot) : (s.updColl p n f).tallies = s.tallies := rfl
@[simp] theorem State.updColl_parlours (p : Fin 2) (n : Nat) (f : CollSlot → CollSlot) : (s.updColl p n f).parlours = s.parlours := rfl
@[simp] theorem State.updColl_harts (p : Fin 2) (n : Nat) (f : CollSlot → CollSlot) : (s.updColl p n f).harts = s.harts := rfl
@[simp] theorem State.updColl_mcs (p : Fin 2) (n : Nat) (f : CollSlot → CollSlot) : (s.updColl p n f).mcs = s.mcs := rfl
@[simp] theorem State.updColl_byPorts (p : Fin 2) (n : Nat) (f : CollSlot → CollSlot) : (s.updColl p n f).byPorts = s.byPorts := rfl
@[simp] theorem State.updColl_engines (p : Fin 2) (n : Nat) (f : CollSlot → CollSlot) : (s.updColl p n f).engines = s.engines := rfl
@[simp] theorem State.updColl_bzPorts (p : Fin 2) (n : Nat) (f : CollSlot → CollSlot) : (s.updColl p n f).bzPorts = s.bzPorts := rfl
@[simp] theorem State.updColl_sessions (p : Fin 2) (n : Nat) (f : CollSlot → CollSlot) : (s.updColl p n f).sessions = s.sessions := rfl
@[simp] theorem State.updColl_i3cAddr (p : Fin 2) (n : Nat) (f : CollSlot → CollSlot) : (s.updColl p n f).i3cAddr = s.i3cAddr := rfl
@[simp] theorem State.updColl_tap (p : Fin 2) (n : Nat) (f : CollSlot → CollSlot) : (s.updColl p n f).tap = s.tap := rfl
@[simp] theorem State.updColl_lastRead (p : Fin 2) (n : Nat) (f : CollSlot → CollSlot) : (s.updColl p n f).lastRead = s.lastRead := rfl
@[simp] theorem State.updColl_lastOk (p : Fin 2) (n : Nat) (f : CollSlot → CollSlot) : (s.updColl p n f).lastOk = s.lastOk := rfl
@[simp] theorem State.updColl_msis (p : Fin 2) (n : Nat) (f : CollSlot → CollSlot) : (s.updColl p n f).msis = s.msis := rfl

/-! ## `State.setStamp` -/

@[simp] theorem State.setStamp_pending (e : Endpoint) (v : W64) : (s.setStamp e v).pending = s.pending := rfl
@[simp] theorem State.setStamp_freeCtr (e : Endpoint) (v : W64) : (s.setStamp e v).freeCtr = s.freeCtr := rfl
@[simp] theorem State.setStamp_on (e : Endpoint) (v : W64) : (s.setStamp e v).on = s.on := rfl
@[simp] theorem State.setStamp_pins (e : Endpoint) (v : W64) : (s.setStamp e v).pins = s.pins := rfl
@[simp] theorem State.setStamp_power (e : Endpoint) (v : W64) : (s.setStamp e v).power = s.power := rfl
@[simp] theorem State.setStamp_hearth (e : Endpoint) (v : W64) : (s.setStamp e v).hearth = s.hearth := rfl
@[simp] theorem State.setStamp_bw (e : Endpoint) (v : W64) : (s.setStamp e v).bw = s.bw := rfl
@[simp] theorem State.setStamp_delivered (e : Endpoint) (v : W64) : (s.setStamp e v).delivered = s.delivered := rfl
@[simp] theorem State.setStamp_hopsOut (e : Endpoint) (v : W64) : (s.setStamp e v).hopsOut = s.hopsOut := rfl
@[simp] theorem State.setStamp_wings (e : Endpoint) (v : W64) : (s.setStamp e v).wings = s.wings := rfl
@[simp] theorem State.setStamp_rooms (e : Endpoint) (v : W64) : (s.setStamp e v).rooms = s.rooms := rfl
@[simp] theorem State.setStamp_cores (e : Endpoint) (v : W64) : (s.setStamp e v).cores = s.cores := rfl
@[simp] theorem State.setStamp_disps (e : Endpoint) (v : W64) : (s.setStamp e v).disps = s.disps := rfl
@[simp] theorem State.setStamp_gsuites (e : Endpoint) (v : W64) : (s.setStamp e v).gsuites = s.gsuites := rfl
@[simp] theorem State.setStamp_reqs (e : Endpoint) (v : W64) : (s.setStamp e v).reqs = s.reqs := rfl
@[simp] theorem State.setStamp_nextReq (e : Endpoint) (v : W64) : (s.setStamp e v).nextReq = s.nextReq := rfl
@[simp] theorem State.setStamp_ext (e : Endpoint) (v : W64) : (s.setStamp e v).ext = s.ext := rfl
@[simp] theorem State.setStamp_extKeys (e : Endpoint) (v : W64) : (s.setStamp e v).extKeys = s.extKeys := rfl
@[simp] theorem State.setStamp_pageKeys (e : Endpoint) (v : W64) : (s.setStamp e v).pageKeys = s.pageKeys := rfl
@[simp] theorem State.setStamp_ctlKeys (e : Endpoint) (v : W64) : (s.setStamp e v).ctlKeys = s.ctlKeys := rfl
@[simp] theorem State.setStamp_extPoison (e : Endpoint) (v : W64) : (s.setStamp e v).extPoison = s.extPoison := rfl
@[simp] theorem State.setStamp_slices (e : Endpoint) (v : W64) : (s.setStamp e v).slices = s.slices := rfl
@[simp] theorem State.setStamp_lines (e : Endpoint) (v : W64) : (s.setStamp e v).lines = s.lines := rfl
@[simp] theorem State.setStamp_dirs (e : Endpoint) (v : W64) : (s.setStamp e v).dirs = s.dirs := rfl
@[simp] theorem State.setStamp_misses (e : Endpoint) (v : W64) : (s.setStamp e v).misses = s.misses := rfl
@[simp] theorem State.setStamp_evicted (e : Endpoint) (v : W64) : (s.setStamp e v).evicted = s.evicted := rfl
@[simp] theorem State.setStamp_partials (e : Endpoint) (v : W64) : (s.setStamp e v).partials = s.partials := rfl
@[simp] theorem State.setStamp_snoops (e : Endpoint) (v : W64) : (s.setStamp e v).snoops = s.snoops := rfl
@[simp] theorem State.setStamp_nextSnoop (e : Endpoint) (v : W64) : (s.setStamp e v).nextSnoop = s.nextSnoop := rfl
@[simp] theorem State.setStamp_busyLines (e : Endpoint) (v : W64) : (s.setStamp e v).busyLines = s.busyLines := rfl
@[simp] theorem State.setStamp_tallies (e : Endpoint) (v : W64) : (s.setStamp e v).tallies = s.tallies := rfl
@[simp] theorem State.setStamp_parlours (e : Endpoint) (v : W64) : (s.setStamp e v).parlours = s.parlours := rfl
@[simp] theorem State.setStamp_harts (e : Endpoint) (v : W64) : (s.setStamp e v).harts = s.harts := rfl
@[simp] theorem State.setStamp_mcs (e : Endpoint) (v : W64) : (s.setStamp e v).mcs = s.mcs := rfl
@[simp] theorem State.setStamp_byPorts (e : Endpoint) (v : W64) : (s.setStamp e v).byPorts = s.byPorts := rfl
@[simp] theorem State.setStamp_engines (e : Endpoint) (v : W64) : (s.setStamp e v).engines = s.engines := rfl
@[simp] theorem State.setStamp_bzPorts (e : Endpoint) (v : W64) : (s.setStamp e v).bzPorts = s.bzPorts := rfl
@[simp] theorem State.setStamp_sessions (e : Endpoint) (v : W64) : (s.setStamp e v).sessions = s.sessions := rfl
@[simp] theorem State.setStamp_colls (e : Endpoint) (v : W64) : (s.setStamp e v).colls = s.colls := rfl
@[simp] theorem State.setStamp_i3cAddr (e : Endpoint) (v : W64) : (s.setStamp e v).i3cAddr = s.i3cAddr := rfl
@[simp] theorem State.setStamp_tap (e : Endpoint) (v : W64) : (s.setStamp e v).tap = s.tap := rfl
@[simp] theorem State.setStamp_lastRead (e : Endpoint) (v : W64) : (s.setStamp e v).lastRead = s.lastRead := rfl
@[simp] theorem State.setStamp_lastOk (e : Endpoint) (v : W64) : (s.setStamp e v).lastOk = s.lastOk := rfl
@[simp] theorem State.setStamp_msis (e : Endpoint) (v : W64) : (s.setStamp e v).msis = s.msis := rfl
@[simp] theorem State.setStamp_stamps (e : Endpoint) (v : W64) : (s.setStamp e v).stamps = Table.set s.stamps (endpointKey e) v := rfl

/-! ## `State.drawBits` -/

@[simp] theorem State.drawBits_pending : s.drawBits.2.pending = s.pending := rfl
@[simp] theorem State.drawBits_freeCtr : s.drawBits.2.freeCtr = s.freeCtr + 1 := rfl
@[simp] theorem State.drawBits_on : s.drawBits.2.on = s.on := rfl
@[simp] theorem State.drawBits_pins : s.drawBits.2.pins = s.pins := rfl
@[simp] theorem State.drawBits_power : s.drawBits.2.power = s.power := rfl
@[simp] theorem State.drawBits_hearth : s.drawBits.2.hearth = s.hearth := rfl
@[simp] theorem State.drawBits_bw : s.drawBits.2.bw = s.bw := rfl
@[simp] theorem State.drawBits_delivered : s.drawBits.2.delivered = s.delivered := rfl
@[simp] theorem State.drawBits_hopsOut : s.drawBits.2.hopsOut = s.hopsOut := rfl
@[simp] theorem State.drawBits_stamps : s.drawBits.2.stamps = s.stamps := rfl
@[simp] theorem State.drawBits_wings : s.drawBits.2.wings = s.wings := rfl
@[simp] theorem State.drawBits_rooms : s.drawBits.2.rooms = s.rooms := rfl
@[simp] theorem State.drawBits_cores : s.drawBits.2.cores = s.cores := rfl
@[simp] theorem State.drawBits_disps : s.drawBits.2.disps = s.disps := rfl
@[simp] theorem State.drawBits_gsuites : s.drawBits.2.gsuites = s.gsuites := rfl
@[simp] theorem State.drawBits_reqs : s.drawBits.2.reqs = s.reqs := rfl
@[simp] theorem State.drawBits_nextReq : s.drawBits.2.nextReq = s.nextReq := rfl
@[simp] theorem State.drawBits_ext : s.drawBits.2.ext = s.ext := rfl
@[simp] theorem State.drawBits_extKeys : s.drawBits.2.extKeys = s.extKeys := rfl
@[simp] theorem State.drawBits_pageKeys : s.drawBits.2.pageKeys = s.pageKeys := rfl
@[simp] theorem State.drawBits_ctlKeys : s.drawBits.2.ctlKeys = s.ctlKeys := rfl
@[simp] theorem State.drawBits_extPoison : s.drawBits.2.extPoison = s.extPoison := rfl
@[simp] theorem State.drawBits_slices : s.drawBits.2.slices = s.slices := rfl
@[simp] theorem State.drawBits_lines : s.drawBits.2.lines = s.lines := rfl
@[simp] theorem State.drawBits_dirs : s.drawBits.2.dirs = s.dirs := rfl
@[simp] theorem State.drawBits_misses : s.drawBits.2.misses = s.misses := rfl
@[simp] theorem State.drawBits_evicted : s.drawBits.2.evicted = s.evicted := rfl
@[simp] theorem State.drawBits_partials : s.drawBits.2.partials = s.partials := rfl
@[simp] theorem State.drawBits_snoops : s.drawBits.2.snoops = s.snoops := rfl
@[simp] theorem State.drawBits_nextSnoop : s.drawBits.2.nextSnoop = s.nextSnoop := rfl
@[simp] theorem State.drawBits_busyLines : s.drawBits.2.busyLines = s.busyLines := rfl
@[simp] theorem State.drawBits_tallies : s.drawBits.2.tallies = s.tallies := rfl
@[simp] theorem State.drawBits_parlours : s.drawBits.2.parlours = s.parlours := rfl
@[simp] theorem State.drawBits_harts : s.drawBits.2.harts = s.harts := rfl
@[simp] theorem State.drawBits_mcs : s.drawBits.2.mcs = s.mcs := rfl
@[simp] theorem State.drawBits_byPorts : s.drawBits.2.byPorts = s.byPorts := rfl
@[simp] theorem State.drawBits_engines : s.drawBits.2.engines = s.engines := rfl
@[simp] theorem State.drawBits_bzPorts : s.drawBits.2.bzPorts = s.bzPorts := rfl
@[simp] theorem State.drawBits_sessions : s.drawBits.2.sessions = s.sessions := rfl
@[simp] theorem State.drawBits_colls : s.drawBits.2.colls = s.colls := rfl
@[simp] theorem State.drawBits_i3cAddr : s.drawBits.2.i3cAddr = s.i3cAddr := rfl
@[simp] theorem State.drawBits_tap : s.drawBits.2.tap = s.tap := rfl
@[simp] theorem State.drawBits_lastRead : s.drawBits.2.lastRead = s.lastRead := rfl
@[simp] theorem State.drawBits_lastOk : s.drawBits.2.lastOk = s.lastOk := rfl
@[simp] theorem State.drawBits_msis : s.drawBits.2.msis = s.msis := rfl

/-! ## `State.drawBool` -/

@[simp] theorem State.drawBool_pending : s.drawBool.2.pending = s.pending := rfl
@[simp] theorem State.drawBool_freeCtr : s.drawBool.2.freeCtr = s.freeCtr + 1 := rfl
@[simp] theorem State.drawBool_on : s.drawBool.2.on = s.on := rfl
@[simp] theorem State.drawBool_pins : s.drawBool.2.pins = s.pins := rfl
@[simp] theorem State.drawBool_power : s.drawBool.2.power = s.power := rfl
@[simp] theorem State.drawBool_hearth : s.drawBool.2.hearth = s.hearth := rfl
@[simp] theorem State.drawBool_bw : s.drawBool.2.bw = s.bw := rfl
@[simp] theorem State.drawBool_delivered : s.drawBool.2.delivered = s.delivered := rfl
@[simp] theorem State.drawBool_hopsOut : s.drawBool.2.hopsOut = s.hopsOut := rfl
@[simp] theorem State.drawBool_stamps : s.drawBool.2.stamps = s.stamps := rfl
@[simp] theorem State.drawBool_wings : s.drawBool.2.wings = s.wings := rfl
@[simp] theorem State.drawBool_rooms : s.drawBool.2.rooms = s.rooms := rfl
@[simp] theorem State.drawBool_cores : s.drawBool.2.cores = s.cores := rfl
@[simp] theorem State.drawBool_disps : s.drawBool.2.disps = s.disps := rfl
@[simp] theorem State.drawBool_gsuites : s.drawBool.2.gsuites = s.gsuites := rfl
@[simp] theorem State.drawBool_reqs : s.drawBool.2.reqs = s.reqs := rfl
@[simp] theorem State.drawBool_nextReq : s.drawBool.2.nextReq = s.nextReq := rfl
@[simp] theorem State.drawBool_ext : s.drawBool.2.ext = s.ext := rfl
@[simp] theorem State.drawBool_extKeys : s.drawBool.2.extKeys = s.extKeys := rfl
@[simp] theorem State.drawBool_pageKeys : s.drawBool.2.pageKeys = s.pageKeys := rfl
@[simp] theorem State.drawBool_ctlKeys : s.drawBool.2.ctlKeys = s.ctlKeys := rfl
@[simp] theorem State.drawBool_extPoison : s.drawBool.2.extPoison = s.extPoison := rfl
@[simp] theorem State.drawBool_slices : s.drawBool.2.slices = s.slices := rfl
@[simp] theorem State.drawBool_lines : s.drawBool.2.lines = s.lines := rfl
@[simp] theorem State.drawBool_dirs : s.drawBool.2.dirs = s.dirs := rfl
@[simp] theorem State.drawBool_misses : s.drawBool.2.misses = s.misses := rfl
@[simp] theorem State.drawBool_evicted : s.drawBool.2.evicted = s.evicted := rfl
@[simp] theorem State.drawBool_partials : s.drawBool.2.partials = s.partials := rfl
@[simp] theorem State.drawBool_snoops : s.drawBool.2.snoops = s.snoops := rfl
@[simp] theorem State.drawBool_nextSnoop : s.drawBool.2.nextSnoop = s.nextSnoop := rfl
@[simp] theorem State.drawBool_busyLines : s.drawBool.2.busyLines = s.busyLines := rfl
@[simp] theorem State.drawBool_tallies : s.drawBool.2.tallies = s.tallies := rfl
@[simp] theorem State.drawBool_parlours : s.drawBool.2.parlours = s.parlours := rfl
@[simp] theorem State.drawBool_harts : s.drawBool.2.harts = s.harts := rfl
@[simp] theorem State.drawBool_mcs : s.drawBool.2.mcs = s.mcs := rfl
@[simp] theorem State.drawBool_byPorts : s.drawBool.2.byPorts = s.byPorts := rfl
@[simp] theorem State.drawBool_engines : s.drawBool.2.engines = s.engines := rfl
@[simp] theorem State.drawBool_bzPorts : s.drawBool.2.bzPorts = s.bzPorts := rfl
@[simp] theorem State.drawBool_sessions : s.drawBool.2.sessions = s.sessions := rfl
@[simp] theorem State.drawBool_colls : s.drawBool.2.colls = s.colls := rfl
@[simp] theorem State.drawBool_i3cAddr : s.drawBool.2.i3cAddr = s.i3cAddr := rfl
@[simp] theorem State.drawBool_tap : s.drawBool.2.tap = s.tap := rfl
@[simp] theorem State.drawBool_lastRead : s.drawBool.2.lastRead = s.lastRead := rfl
@[simp] theorem State.drawBool_lastOk : s.drawBool.2.lastOk = s.lastOk := rfl
@[simp] theorem State.drawBool_msis : s.drawBool.2.msis = s.msis := rfl

/-! ## `State.drawKey` -/

@[simp] theorem State.drawKey_pending : s.drawKey.2.pending = s.pending := rfl
@[simp] theorem State.drawKey_freeCtr : s.drawKey.2.freeCtr = s.freeCtr + 1 := rfl
@[simp] theorem State.drawKey_on : s.drawKey.2.on = s.on := rfl
@[simp] theorem State.drawKey_pins : s.drawKey.2.pins = s.pins := rfl
@[simp] theorem State.drawKey_power : s.drawKey.2.power = s.power := rfl
@[simp] theorem State.drawKey_hearth : s.drawKey.2.hearth = s.hearth := rfl
@[simp] theorem State.drawKey_bw : s.drawKey.2.bw = s.bw := rfl
@[simp] theorem State.drawKey_delivered : s.drawKey.2.delivered = s.delivered := rfl
@[simp] theorem State.drawKey_hopsOut : s.drawKey.2.hopsOut = s.hopsOut := rfl
@[simp] theorem State.drawKey_stamps : s.drawKey.2.stamps = s.stamps := rfl
@[simp] theorem State.drawKey_wings : s.drawKey.2.wings = s.wings := rfl
@[simp] theorem State.drawKey_rooms : s.drawKey.2.rooms = s.rooms := rfl
@[simp] theorem State.drawKey_cores : s.drawKey.2.cores = s.cores := rfl
@[simp] theorem State.drawKey_disps : s.drawKey.2.disps = s.disps := rfl
@[simp] theorem State.drawKey_gsuites : s.drawKey.2.gsuites = s.gsuites := rfl
@[simp] theorem State.drawKey_reqs : s.drawKey.2.reqs = s.reqs := rfl
@[simp] theorem State.drawKey_nextReq : s.drawKey.2.nextReq = s.nextReq := rfl
@[simp] theorem State.drawKey_ext : s.drawKey.2.ext = s.ext := rfl
@[simp] theorem State.drawKey_extKeys : s.drawKey.2.extKeys = s.extKeys := rfl
@[simp] theorem State.drawKey_pageKeys : s.drawKey.2.pageKeys = s.pageKeys := rfl
@[simp] theorem State.drawKey_ctlKeys : s.drawKey.2.ctlKeys = s.ctlKeys := rfl
@[simp] theorem State.drawKey_extPoison : s.drawKey.2.extPoison = s.extPoison := rfl
@[simp] theorem State.drawKey_slices : s.drawKey.2.slices = s.slices := rfl
@[simp] theorem State.drawKey_lines : s.drawKey.2.lines = s.lines := rfl
@[simp] theorem State.drawKey_dirs : s.drawKey.2.dirs = s.dirs := rfl
@[simp] theorem State.drawKey_misses : s.drawKey.2.misses = s.misses := rfl
@[simp] theorem State.drawKey_evicted : s.drawKey.2.evicted = s.evicted := rfl
@[simp] theorem State.drawKey_partials : s.drawKey.2.partials = s.partials := rfl
@[simp] theorem State.drawKey_snoops : s.drawKey.2.snoops = s.snoops := rfl
@[simp] theorem State.drawKey_nextSnoop : s.drawKey.2.nextSnoop = s.nextSnoop := rfl
@[simp] theorem State.drawKey_busyLines : s.drawKey.2.busyLines = s.busyLines := rfl
@[simp] theorem State.drawKey_tallies : s.drawKey.2.tallies = s.tallies := rfl
@[simp] theorem State.drawKey_parlours : s.drawKey.2.parlours = s.parlours := rfl
@[simp] theorem State.drawKey_harts : s.drawKey.2.harts = s.harts := rfl
@[simp] theorem State.drawKey_mcs : s.drawKey.2.mcs = s.mcs := rfl
@[simp] theorem State.drawKey_byPorts : s.drawKey.2.byPorts = s.byPorts := rfl
@[simp] theorem State.drawKey_engines : s.drawKey.2.engines = s.engines := rfl
@[simp] theorem State.drawKey_bzPorts : s.drawKey.2.bzPorts = s.bzPorts := rfl
@[simp] theorem State.drawKey_sessions : s.drawKey.2.sessions = s.sessions := rfl
@[simp] theorem State.drawKey_colls : s.drawKey.2.colls = s.colls := rfl
@[simp] theorem State.drawKey_i3cAddr : s.drawKey.2.i3cAddr = s.i3cAddr := rfl
@[simp] theorem State.drawKey_tap : s.drawKey.2.tap = s.tap := rfl
@[simp] theorem State.drawKey_lastRead : s.drawKey.2.lastRead = s.lastRead := rfl
@[simp] theorem State.drawKey_lastOk : s.drawKey.2.lastOk = s.lastOk := rfl
@[simp] theorem State.drawKey_msis : s.drawKey.2.msis = s.msis := rfl

/-! ## The unit that changed, and the others -/

@[simp] theorem State.core_updCore_same (c : CoreId) (f : Core → Core) : (s.updCore c f).core c = f (s.core c) := Table.get_upd_same _ _ _ _
theorem State.core_updCore_other (c : CoreId) (f : Core → Core) (d : CoreId) (h : coreKey d ≠ coreKey c) : (s.updCore c f).core d = s.core d :=
  Table.get_upd_other _ _ _ h

@[simp] theorem State.room_updRoom_same (r : RoomId) (f : Room → Room) : (s.updRoom r f).room r = f (s.room r) := Table.get_upd_same _ _ _ _
theorem State.room_updRoom_other (r : RoomId) (f : Room → Room) (q : RoomId) (h : roomKey q ≠ roomKey r) : (s.updRoom r f).room q = s.room q :=
  Table.get_upd_other _ _ _ h

@[simp] theorem State.wing_updWing_same (k : Fin 8) (f : Wing → Wing) : (s.updWing k f).wing k = f (s.wing k) := Table.get_upd_same _ _ _ _
theorem State.wing_updWing_other (k : Fin 8) (f : Wing → Wing) (j : Fin 8) (h : j.val ≠ k.val) : (s.updWing k f).wing j = s.wing j :=
  Table.get_upd_other _ _ _ h

@[simp] theorem State.disp_updDisp_same (k : Fin 8) (f : Dispatcher → Dispatcher) : (s.updDisp k f).disp k = f (s.disp k) := Table.get_upd_same _ _ _ _
theorem State.disp_updDisp_other (k : Fin 8) (f : Dispatcher → Dispatcher) (j : Fin 8) (h : j.val ≠ k.val) : (s.updDisp k f).disp j = s.disp j :=
  Table.get_upd_other _ _ _ h

@[simp] theorem State.gsuite_updGsuite_same (n : BitVec 8) (f : GSuite → GSuite) : (s.updGsuite n f).gsuite n = f (s.gsuite n) := Table.get_upd_same _ _ _ _
theorem State.gsuite_updGsuite_other (n : BitVec 8) (f : GSuite → GSuite) (m : BitVec 8) (h : m.toNat ≠ n.toNat) : (s.updGsuite n f).gsuite m = s.gsuite m :=
  Table.get_upd_other _ _ _ h

@[simp] theorem State.suite_updSuite_same (n : BitVec 8) (f : Suite → Suite) : (s.updSuite n f).suite n = f (s.suite n) := Table.get_upd_same _ _ _ _
theorem State.suite_updSuite_other (n : BitVec 8) (f : Suite → Suite) (m : BitVec 8) (h : m.toNat ≠ n.toNat) : (s.updSuite n f).suite m = s.suite m :=
  Table.get_upd_other _ _ _ h

@[simp] theorem State.parlour_updParlour_same (n : Fin 2) (f : Parlour → Parlour) : (s.updParlour n f).parlour n = f (s.parlour n) := Table.get_upd_same _ _ _ _
theorem State.parlour_updParlour_other (n : Fin 2) (f : Parlour → Parlour) (m : Fin 2) (h : m.val ≠ n.val) : (s.updParlour n f).parlour m = s.parlour m :=
  Table.get_upd_other _ _ _ h

@[simp] theorem State.hart_updHart_same (h : Fin 128) (f : Hart → Hart) : (s.updHart h f).hart h = f (s.hart h) := Table.get_upd_same _ _ _ _
theorem State.hart_updHart_other (h : Fin 128) (f : Hart → Hart) (i : Fin 128) (hi : i.val ≠ h.val) :
    (s.updHart h f).hart i = s.hart i := Table.get_upd_other _ _ _ hi

@[simp] theorem State.mc_updMc_same (m : Ctl) (f : Mc → Mc) : (s.updMc m f).mc m = f (s.mc m) := Table.get_upd_same _ _ _ _
theorem State.mc_updMc_other (m : Ctl) (f : Mc → Mc) (n : Ctl) (h : ctlKey n ≠ ctlKey m) : (s.updMc m f).mc n = s.mc n :=
  Table.get_upd_other _ _ _ h

@[simp] theorem State.slice_updSlice_same (k : Nat) (f : SliceReg → SliceReg) : (s.updSlice k f).slice k = f (s.slice k) := Table.get_upd_same _ _ _ _
theorem State.slice_updSlice_other (k : Nat) (f : SliceReg → SliceReg) (j : Nat) (h : j ≠ k) : (s.updSlice k f).slice j = s.slice j :=
  Table.get_upd_other _ _ _ h

@[simp] theorem State.byPort_updByPort_same (i : Fin 4) (f : ByPort → ByPort) : (s.updByPort i f).byPort i = f (s.byPort i) := Table.get_upd_same _ _ _ _
theorem State.byPort_updByPort_other (i : Fin 4) (f : ByPort → ByPort) (j : Fin 4) (h : j.val ≠ i.val) : (s.updByPort i f).byPort j = s.byPort j :=
  Table.get_upd_other _ _ _ h

@[simp] theorem State.bzPort_updBzPort_same (i : Fin 6) (f : BzPort → BzPort) : (s.updBzPort i f).bzPort i = f (s.bzPort i) := Table.get_upd_same _ _ _ _
theorem State.bzPort_updBzPort_other (i : Fin 6) (f : BzPort → BzPort) (j : Fin 6) (h : j.val ≠ i.val) : (s.updBzPort i f).bzPort j = s.bzPort j :=
  Table.get_upd_other _ _ _ h

@[simp] theorem State.engine_updEngine_same (e : Fin 32) (f : CopyEngine → CopyEngine) : (s.updEngine e f).engine e = f (s.engine e) := Table.get_upd_same _ _ _ _
theorem State.engine_updEngine_other (e : Fin 32) (f : CopyEngine → CopyEngine) (d : Fin 32) (h : d.val ≠ e.val) : (s.updEngine e f).engine d = s.engine d :=
  Table.get_upd_other _ _ _ h

@[simp] theorem State.slot_updSlot_same (g : GroupRef) (f : Slot → Slot) : (s.updSlot g f).slot g = f (s.slot g) := by
  simp [State.slot, State.updSlot]

@[simp] theorem State.stamp_setStamp_same (e : Endpoint) (v : W64) : (s.setStamp e v).stamp e = v := Table.get_set_same _ _ _ _

theorem State.stamp_setStamp_other (e : Endpoint) (v : W64) (d : Endpoint) (h : endpointKey d ≠ endpointKey e) :
    (s.setStamp e v).stamp d = s.stamp d := Table.get_set_other _ _ _ h

end Sys2Proof.Machine
end

