-- ==== Sys2Proof/Laws/Issue.lean ====
section
/-! SUPPORT. What the issue of a group's instruction does. -/

namespace Sys2Proof.Machine

variable {s : State} {g : GroupRef} {w l : W64}

/-- An instruction that can issue and finds no fault leaves its group as its effect says. -/
theorem State.issue_runs {legal : Insn → Slot → Bool} {use : Insn → Slot → Use}
    {eff : Insn → Slot → Slot → State → Except GroupFault Slot × State} {x : Slot} {t : State}
    (h : s.Issues g w l (legal (insn w l) (s.slot g)) (use (insn w l) (s.slot g)))
    (e : eff (insn w l) (s.slot g)
      { (s.slot g).clearMarks (use (insn w l) (s.slot g)) with pc := (s.slot g).pc + (insn w l).units } s = (.ok x, t)) :
    s.issue g w l legal use eff = t.updSlot g (fun _ => x) := by
  simp only [insn] at h e
  simp [State.issue, h.can, h.code, h.opc, h.form, h.ready, h.clean, e]

/-- The same for an instruction that changes only its group. -/
theorem State.issueSlot_runs {legal : Insn → Slot → Bool} {use : Insn → Slot → Use}
    {eff : Insn → Slot → Slot → Except GroupFault Slot} {x : Slot}
    (h : s.Issues g w l (legal (insn w l) (s.slot g)) (use (insn w l) (s.slot g)))
    (e : eff (insn w l) (s.slot g)
      { (s.slot g).clearMarks (use (insn w l) (s.slot g)) with pc := (s.slot g).pc + (insn w l).units } = .ok x) :
    s.issueSlot g w l legal use eff = .next (s.updSlot g (fun _ => x)) := by
  simp only [State.issueSlot]
  rw [State.issue_runs h (by rw [e])]

/-- An instruction that finds a fault parks its group and has no other effect. -/
theorem State.issue_faults {legal : Insn → Slot → Bool} {use : Insn → Slot → Use}
    {eff : Insn → Slot → Slot → State → Except GroupFault Slot × State} {f : GroupFault} {t : State}
    (h : s.Issues g w l (legal (insn w l) (s.slot g)) (use (insn w l) (s.slot g)))
    (e : eff (insn w l) (s.slot g)
      { (s.slot g).clearMarks (use (insn w l) (s.slot g)) with pc := (s.slot g).pc + (insn w l).units } s = (.error f, t)) :
    s.issue g w l legal use eff = t.updSlot g (fun x => x.park f.cause f.addr) := by
  simp only [insn] at h e
  simp [State.issue, h.can, h.code, h.opc, h.form, h.ready, h.clean, e]

/-- No two cores share a number. -/
theorem coreKey_inj {c d : CoreId} (h : coreKey c = coreKey d) : c = d := by
  obtain ⟨⟨r, k⟩, n⟩ := c
  obtain ⟨⟨r2, k2⟩, n2⟩ := d
  simp only [coreKey, roomKey] at h
  have h1 : n = n2 := by omega
  have h2 : k = k2 := by omega
  have h3 : r = r2 := by omega
  rw [h1, h2, h3]

/-- A change of one slot changes only its group. -/
theorem State.onlyGroup_updSlot (s : State) (g : GroupRef) (f : Slot → Slot) : s.OnlyGroup (s.updSlot g f) g where
  rest := rfl
  cores := fun c hc => State.core_updCore_other s g.core _ c (fun h => hc (coreKey_inj h))
  core := by simp [State.updSlot]
  slots := fun i hi => by
    simp only [State.slot, State.updSlot, State.core_updCore_same]
    exact Table.get_upd_other _ _ _ (fun h => hi (Fin.ext h))

/-- A whole write takes the marks of its places; no write leaves them all. -/
@[simp] theorem Slot.clearMarks_none (sl : Slot) (e : Engine) (rs : List Place) (p : Bool) :
    sl.clearMarks { engine := e, reads := rs, writes := [], part := p } = sl := by
  cases p <;> simp [Slot.clearMarks]

end Sys2Proof.Machine
end

