-- ==== Sys2Proof/Machine/Sideband.lean ====
section
/-! DEFINITION. What the lands carry, the I3C target and the test access port (R451 to R455, R466, R469). No row of the opcode table is
an event of these buses but the register accesses of R443: the operations stand here for the rules' sake, and no command calls them. -/

namespace Sys2Proof.Machine

/-! ## Lands (R451 to R455) -/

/-- A signal of one sub-channel of a DDR5 channel, with the names of JESD79-5. -/
inductive DdrSignal where
  | dq (n : Nat)
  | dqsT (nibble : Nat)
  | dqsC (nibble : Nat)
  | dca (n : Nat)
  | dpar
  | dcs (n : Nat)
  | dckT
  | dckC
  | alert
  | reset
deriving DecidableEq, Repr

/-- The signals of row 1 of the centre, from column 37, but its GND lands (R455). -/
inductive CentreSignal where
  | refclk (porch : Fin 2) (neg : Bool)
  | en
  | rst
  | throt
  | modOn
  | thermtrip
  | i3cScl
  | i3cSda
  | spdScl (parlour : Fin 2)
  | spdSda (parlour : Fin 2)
  | tck
  | tms
  | tdi
  | tdo
  | trst
deriving DecidableEq, Repr

/-- What a land carries. A SerDes pair is pair q of a Porch: lane, direction and port follow from q (R453). -/
inductive Land where
  | gnd
  | vin
  | ddr (channel : Fin 12) (sub : Fin 2) (signal : DdrSignal)
  | pair (porch : Fin 2) (q : Nat) (neg : Bool)
  | centre (signal : CentreSignal)
deriving DecidableEq, Repr

/-- The land of a half of a DDR5 channel's columns, in the order in which the half is filled (R454). -/
def ddrLand (ch : Fin 12) (sub : Fin 2) (i : Nat) : Land :=
  let k := i / 8
  if i < 80 then
    match i % 8 with
    | 4 => .ddr ch sub (.dqsT k)
    | 5 => .ddr ch sub (.dqsC k)
    | 6 => .gnd
    | 7 => .gnd
    | d => .ddr ch sub (.dq (4 * k + d))
  else if i < 87 then .ddr ch sub (.dca (i - 80))
  else
    match i with
    | 87 => .ddr ch sub .dpar
    | 88 => .ddr ch sub (.dcs 0)
    | 89 => .ddr ch sub (.dcs 1)
    | 90 => .ddr ch sub .dckT
    | 91 => .ddr ch sub .dckC
    | 92 => .ddr ch sub (if sub = 0 then .alert else .reset)
    | _ => .gnd

/-- Row 1 of the centre. -/
def centreLand (col : Nat) : Land :=
  match col with
  | 37 => .centre (.refclk 0 false)
  | 38 => .centre (.refclk 0 true)
  | 40 => .centre .en
  | 41 => .centre .rst
  | 42 => .centre .throt
  | 43 => .centre .modOn
  | 44 => .centre .thermtrip
  | 46 => .centre .i3cScl
  | 47 => .centre .i3cSda
  | 49 => .centre (.spdScl 0)
  | 50 => .centre (.spdSda 0)
  | 51 => .centre (.spdScl 1)
  | 52 => .centre (.spdSda 1)
  | 54 => .centre .tck
  | 55 => .centre .tms
  | 56 => .centre .tdi
  | 57 => .centre .tdo
  | 58 => .centre .trst
  | 59 => .centre (.refclk 1 false)
  | 60 => .centre (.refclk 1 true)
  | _ => .gnd

/-- A land of a SerDes region, by row and by column from its first (R453). -/
def serdesLand (porch : Fin 2) (row x : Nat) : Land :=
  let r := row - 1
  let s := 2 * (r / 3) + r % 3
  if r % 3 = 2 || 32 ≤ s || x % 3 = 2 then .gnd else .pair porch (4 * s + x / 3) (x % 3 = 1)

/-- The land at a row (1 to 52) and a column (1 to 96). -/
def landAt (row col : Nat) : Land :=
  let ddr := fun (first c : Nat) =>
    ddrLand (Fin.ofNat 12 (first + c / 4)) (if row ≤ 26 then 0 else 1) (4 * ((row - 1) % 26) + c % 4)
  if col ≤ 24 then ddr 0 (col - 1)
  else if col ≤ 36 then serdesLand 0 row (col - 25)
  else if col ≤ 60 then (if row = 1 then centreLand col else if row ≤ 19 then .vin else .gnd)
  else if col ≤ 72 then serdesLand 1 row (col - 61)
  else ddr 6 (col - 73)

/-! ## The I3C target (R466) -/

/-- Common command codes that reach the target. -/
inductive Ccc where
  | rstdaa
  | entdaa (addr : BitVec 7)
  | setdasa (static : BitVec 7) (addr : BitVec 7)
  | getpid
  | getbcr
  | getdcr
  | getstatus
  | getmrl
  | getmwl
  | other
deriving DecidableEq, Repr

/-- The static address. -/
def i3cStatic : BitVec 7 := 0x4E

/-- The target acknowledges a CCC. ENTDAA and SETDASA reach one that has no dynamic address. -/
def State.cccAck (s : State) (c : Ccc) : Bool :=
  match c with
  | .other => false
  | .entdaa _ => s.i3cAddr.isNone
  | .setdasa a _ => s.i3cAddr.isNone && a = i3cStatic
  | _ => true

/-- The dynamic address after a CCC. -/
def State.ccc (s : State) (c : Ccc) : State :=
  match c with
  | .rstdaa => { s with i3cAddr := none }
  | .entdaa a => if s.cccAck c then { s with i3cAddr := some a } else s
  | .setdasa _ a => if s.cccAck c then { s with i3cAddr := some a } else s
  | _ => s

/-- The length that GETMRL and GETMWL give: 8 B read, 257 B written. What the other GET codes return the spec does not say. -/
def cccLength (c : Ccc) : Option Nat :=
  match c with
  | .getmrl => some 8
  | .getmwl => some 257
  | _ => none

/-- The target answers a private transfer to an address, in I3C or in legacy I²C. -/
def State.i3cAnswers (s : State) (legacy : Bool) (addr : BitVec 7) : Bool :=
  match s.i3cAddr with
  | none => legacy && addr = i3cStatic
  | some a => !legacy && addr = a

/-! ## The test access port (R385, R469) -/

/-- The port is open: in BLANK and RETURN, and in FIELD under R387. -/
def Hearth.tapIsOpen (h : Hearth) : Bool :=
  match h.life with
  | .blank => true
  | .return_ => true
  | .field => h.tapOpen
  | _ => false

/-- The data register between TDI and TDO. -/
inductive TapReg where
  | idcode
  | bypass
  | boundary
deriving DecidableEq, Repr

/-- The IDCODE. -/
def tapIdcode : BitVec 32 := 0x1E508B67

/-- The register an instruction selects: IDCODE in Test-Logic-Reset; while the port is closed only IDCODE and BYPASS act, and every other
instruction selects the bypass register. Open, the model has the others select the boundary scan (DESIGN CHOICE, log 192). -/
def State.tapReg (s : State) : TapReg :=
  if s.tap.trstLow then .idcode
  else
    match s.tap.insn with
    | .idcode => .idcode
    | .bypass => .bypass
    | .other _ => if s.hearth.tapIsOpen then .boundary else .bypass

/-- TRST_N takes a level: low keeps the port in Test-Logic-Reset, and nothing else of the module changes. -/
def State.tapTrst (s : State) (low : Bool) : State :=
  { s with tap := { trstLow := low, insn := if low then .idcode else s.tap.insn } }

/-- An instruction is loaded. -/
def State.tapLoad (s : State) (i : TapInsn) : State := if s.tap.trstLow then s else { s with tap := { s.tap with insn := i } }

/-- The boundary scan covers a land: every land of the DDR5 regions and of row 1 of the centre but the reference clocks. -/
def landScanned (row col : Nat) : Bool :=
  match landAt row col with
  | .pair _ _ _ => false
  | .vin => false
  | .centre (.refclk _ _) => false
  | _ => decide (col ≤ 24) || decide (73 ≤ col) || (decide (row = 1) && decide (37 ≤ col) && decide (col ≤ 60))

end Sys2Proof.Machine
end

