-- ==== Sys2Proof/Tests/Slice0.lean ====
section
/-! SUPPORT. Tests of the model, and for each statement of the obligations a state that meets its hypotheses. The expected values
come from the spec's own examples and tables, or from hand calculation. -/

set_option maxRecDepth 4000
set_option exponentiation.threshold 800

namespace Sys2Proof.Tests

open Sys2Proof Sys2Proof.Machine

/-! ## Well-formed commands: each check refuses an ill-formed command -/

def c0 : CoreId := ⟨⟨0, 0⟩, 0⟩
def g0 : GroupRef := ⟨c0, 0⟩
def mail0 (cmd : BitVec 8) (len : BitVec 3) : MailMsg :=
  { cmd := cmd, len := len, auth := false, ack := false, rsvd := false, suite := 1, gen := 1, seqno := 1, opa := 0, opb := 0, opc := 0,
    opd := 0, tag := 0, payload := [] }
def hacc0 (pa : W64) (size : Fin 33) : HartAcc :=
  { va := pa, pa := pa, pa2 := 0, pbmt := 0, pbmt2 := 0, size := size, mmode := false }
def block0 (n : Nat) : ResBlock :=
  { rowLo := 0, rowHi := 0, colLo := 0, colHi := 0, slices := 1, cpy := 0, win := 0, resLpd := 0, ctx := 0, harts := 0, lpdGlobal := 0,
    lpdLocal := List.replicate n 0, ddrPages := 0, resDdr := 0, rsvd := 0, tpk := 0 }
def image0 (n : Nat) : ImageCopy :=
  { magic := 0, version := 0, length := 0, stageOff := List.replicate n 0, stageLen := List.replicate n 0, digests := List.replicate n 0,
    actual := List.replicate n 0, header := [], sig := 0 }
def sensors0 (wings ends : Nat) : Sensors :=
  { wingDie := List.replicate wings 0, wingCellar := List.replicate wings 0, plrDie := List.replicate ends 0,
    porchDie := List.replicate ends 0, modulePower := 0, wingPower := List.replicate wings 0, plrPower := List.replicate ends 0,
    wingPowered := List.replicate wings 0, wingStretch := List.replicate wings 0, plrPowered := List.replicate ends 0,
    plrStretch := List.replicate ends 0, throtLow := false }
def hdr0 (type : BitVec 8) (count : BitVec 10) : BeyfyHdr :=
  { type := type, len := 0, session := 0, suite := 1, gen := 1, status := 0, tag := 0, count := count, addr := 0, arg := 0 }
def burst0 (n : Nat) : Burst := { sectors := List.replicate n [], tagErr := 0 }

theorem test_wf_opcode : (Instr.sadd g0 0x21 0).wf = false ∧ (Instr.sadd g0 0x20 0).wf = true ∧ (Instr.sadd g0 0 0).wf = true := by decide
theorem test_wf_straps : (Instr.dieIdentityCheck []).wf = false ∧ (Instr.dieIdentityCheck (List.replicate 8 0)).wf = true := by decide
theorem test_wf_image : (Instr.firmwareVerify (image0 3) (image0 4)).wf = false ∧ (Instr.firmwareVerify (image0 4) (image0 4)).wf = true := by
  decide
theorem test_wf_memory_training : (Instr.memoryTraining [] [] 0).wf = false := by decide
theorem test_wf_access_size :
    (Instr.controlRegisterWrite .hearth 0 3 0).wf = false ∧ (Instr.rcFieldRead .hearth 0 16 0).wf = false
      ∧ (Instr.rcFieldRead .hearth 0 8 0).wf = true := by decide
theorem test_wf_mail : (Instr.mail 0 (hdr0 1 0) (mail0 2 1)).wf = false ∧ (Instr.mail 0 (hdr0 1 0) (mail0 2 0)).wf = true := by decide
theorem test_wf_line :
    (Instr.wbD 0 0 (2 ^ 41)).wf = false ∧ (Instr.memoryFill 0 (2 ^ 41) 0).wf = false ∧ (Instr.wbD 0 0 (2 ^ 41 - 1)).wf = true := by decide
theorem test_wf_burst :
    (Instr.sectorBurstReturn 0 0 0 (burst0 5) (burst0 0)).wf = false ∧ (Instr.sectorBurstReturn 0 0 0 (burst0 4) (burst0 0)).wf = true := by
  decide
theorem test_wf_hart_access :
    (Instr.lr 0 (hacc0 0 0) 0).wf = false ∧ (Instr.hartLoad 0 (hacc0 (2 ^ 56) 8) (.x 0) false).wf = false
      ∧ (Instr.hartLoad 0 (hacc0 (2 ^ 56 - 8) 8) (.x 0) false).wf = true := by decide
theorem test_wf_vm_exit : (Instr.vmExit 0 0 [0, 0, 0, 0, 0]).wf = false ∧ (Instr.vmExit 0 0 [0, 0, 0, 0]).wf = true := by decide
theorem test_wf_payload :
    (Instr.dmaRdata 0 (hdr0 0x21 8) [0]).wf = false ∧ (Instr.winWr 0 (hdr0 0x11 8) (List.replicate 16 0)).wf = true := by decide
theorem test_wf_res_block :
    (Instr.suiteCreate (.inModule 0 0) 1 (block0 7)).wf = false ∧ (Instr.suiteGrow (.inModule 0 0) 1 1 (block0 9)).wf = false
      ∧ (Instr.suiteShrink (.inModule 0 0) 1 1 (block0 8)).wf = true := by decide
theorem test_wf_sensors : (Instr.powerEvaluation (sensors0 7 2)).wf = false ∧ (Instr.powerEvaluation (sensors0 8 2)).wf = true := by decide
theorem test_wf_fw_data : (Instr.fwData .bmc []).wf = false ∧ (Instr.fwData .bmc [0]).wf = true := by decide

/-! ## Encodings: the four words of the example under R92 -/

theorem test_word_vfma :
    let i := insn 0x0020_0605_0406_0043 0
    i.bits 0 8 = 0x43 ∧ i.rd = 6 ∧ i.ra = 4 ∧ i.rb = 5 ∧ i.rc = 6 ∧ i.ty = 2 ∧ i.x = false ∧ i.units = 1 := by decide
theorem test_word_vld :
    let i := insn 0x0000_1000_4604_0088 0
    i.bits 0 8 = 0x88 ∧ i.rd = 4 ∧ i.base = 6 ∧ i.sp = 1 ∧ i.sz = 2 := by decide
theorem test_word_brd :
    let i := insn 0x0000_4800_0203_0005 0
    i.bits 0 8 = 0x05 ∧ i.ps = 3 ∧ 0x40 + i.toff2 = 0x52 ∧ 0x40 + i.joff2 = 0x60 := by decide
theorem test_word_sli :
    let i := insn 0x0000_0000_0009_203F 0x0000_0004_0000_0000
    i.bits 0 8 = 0x3F ∧ i.rd = 9 ∧ i.x = true ∧ i.units = 2 ∧ i.okI 63 0 = true := by decide
/-- The table gives no row any bits, so no word spells a command. -/
theorem test_no_word : decodeTableWord 64 0x0000_4800_0203_0005 = none ∧ State.reset.withFetchWord 64 0x20 = State.reset := by
  exact ⟨rfl, rfl⟩
/-- R93: opcode 0x00 and 0x12 are unassigned, 0x11 and 0xC0 are assigned. -/
theorem test_assigned :
    assignedOpcode 0 = false ∧ assignedOpcode 0x12 = false ∧ assignedOpcode 0x11 = true ∧ assignedOpcode 0xC0 = true
      ∧ assignedOpcode 0xC1 = false := by decide

/-! ## A group of 16 threads with a little of everything -/

/-- A group of 16 threads at pc 0 of a kernel of 64 units, with 8 vector registers, 4 tiles and 2 accumulators. -/
def sl0 : Slot :=
  { Slot.reset with
    state := .active, suite := 1, gen := 1, width := 16, gregs := 8, ntiles := 4, naccs := 2, ngroups := 1, codeLen := 64,
    p := [(0, 0xFFFF), (3, 0x00FF)], s := [(1, 5), (2, 7)] }
def on0 : State := { State.reset with on := true }
/-- A powered module whose one group is the one given. -/
def one (sl : Slot) : State := on0.updSlot g0 (fun _ => sl)

/-- Whether an instruction of a group may take its effect: the hypotheses of the statements about instructions, as one test. -/
def issues (s : State) (w l : W64) (legal : Bool) (u : Use) : Bool :=
  (s.slot g0).canIssue && (s.slot g0).fetchOk (insn w l).units.toNat && assignedOpcode ((insn w l).bits 0 8) && legal
    && (s.slot g0).ready u && decide ((s.slot g0).poisonHit u = none)

theorem issues_of {s : State} {w l : W64} {legal : Bool} {u : Use} (h : issues s w l legal u = true) : s.Issues g0 w l legal u := by
  simp only [issues, Bool.and_eq_true, decide_eq_true_eq] at h
  obtain ⟨⟨⟨⟨⟨a, b⟩, c⟩, d⟩, e⟩, f⟩ := h
  exact ⟨a, b, c, d, e, f⟩

def use0 (e : Engine) (reads writes : List Place) : Use := { engine := e, reads := reads, writes := writes, part := false }

/-- One instruction of the group of `one sl0`: what it leaves of the group. -/
def after (c : GroupRef → W64 → W64 → Instr) (sl : Slot) (w l : W64) : Slot :=
  match exec (c g0 w l) (one sl) with
  | .next t => t.slot g0
  | .fault _ => Slot.reset
  | .refused _ => Slot.reset

/-! ### Scalar instructions -/

theorem witness_scalar_register :
    State.Issues (one sl0) g0 0x0002_0103_0020 0 ((insn 0x0002_0103_0020 0).okR 63 63 63 0)
      (use0 .scalar [.sreg 1, .sreg 2] [.sreg 3]) := issues_of (by decide)
theorem witness_scalar_register_extension :
    State.Issues (one sl0) g0 0x0000_3F3F_202E 9 ((insn 0x0000_3F3F_202E 9).okR 63 63 63 0) (use0 .scalar [.sreg 63] [.sreg 63]) :=
  issues_of (by decide)
theorem witness_scalar_immediate :
    State.Issues (one sl0) g0 0xFFFF_FFFF_0103_0030 0 ((insn 0xFFFF_FFFF_0103_0030 0).okI 63 63) (use0 .scalar [.sreg 1] [.sreg 3]) :=
  issues_of (by decide)
theorem witness_sli :
    State.Issues (one sl0) g0 0x0000_0000_0009_203F 0x4_0000_0000 ((insn 0x0000_0000_0009_203F 0x4_0000_0000).okI 63 0)
      (use0 .scalar [] [.sreg 9]) := issues_of (by decide)
theorem test_sadd : (after .sadd sl0 0x0002_0103_0020 0).sreg 3 = 12 ∧ (after .sadd sl0 0x0002_0103_0020 0).pc = 1 := by decide
/-- 5 − 7 wraps modulo 2⁶⁴. -/
theorem test_ssub : (after .ssub sl0 0x0002_0103_0021 0).sreg 3 = 0xFFFF_FFFF_FFFF_FFFE := by decide
/-- The immediate −1 is sign-extended. -/
theorem test_sadd_imm : (after .saddImm sl0 0xFFFF_FFFF_0103_0030 0).sreg 3 = 4 := by decide
theorem test_sli :
    (after .sli sl0 0x0000_0000_0009_203F 0x4_0000_0000).sreg 9 = 0x4_0000_0000
      ∧ (after .sli sl0 0x0000_0000_0009_203F 0x4_0000_0000).pc = 2 := by decide
/-- An instruction whose opcode is unassigned parks its group with ILLEGAL. -/
theorem test_unassigned : (after .sadd sl0 0 0).fault = some { cause := .illegal, addr := 0 } ∧ (after .sadd sl0 0 0).pc = 0 := by decide
theorem witness_unassigned : ((one sl0).slot g0).canIssue = true ∧ assignedOpcode ((insn 0 0).bits 0 8) = false := by decide
theorem witness_no_issue : ((one { sl0 with state := .parked }).slot g0).canIssue = false := by decide

/-! ### Branches -/

theorem witness_nop : State.Issues (one sl0) g0 0x01 0 (insn 0x01 0).okN (use0 .scalar [] []) := issues_of (by decide)
/-- BR with CC 0 to 6. -/
theorem witness_br :
    State.Issues (one sl0) g0 0x1000_0820_0002 0 (brLegal (insn 0x1000_0820_0002 0)) (use0 .scalar [.sreg 2, .sreg 2] [])
      ∧ State.Issues (one sl0) g0 0x1006_0000_0002 0 (brLegal (insn 0x1006_0000_0002 0)) (use0 .scalar [] []) :=
  ⟨issues_of (by decide), issues_of (by decide)⟩
theorem witness_br_illegal :
    ((one sl0).slot g0).canIssue = true ∧ (insn 0x1007_0000_0002 0).cc = 7 ∧ (insn 0x1006_0010_0002 0).cc = 6
      ∧ (insn 0x1006_0010_0002 0).sa ≠ 0 := by decide
theorem witness_br_masks :
    State.Issues (one sl0) g0 0x1000_0003_0003 0 (brMaskLegal (insn 0x1000_0003_0003 0)) (use0 .scalar [] [])
      ∧ State.Issues (one sl0) g0 0x1000_0003_0004 0 (brMaskLegal (insn 0x1000_0003_0004 0)) (use0 .scalar [] []) :=
  ⟨issues_of (by decide), issues_of (by decide)⟩
theorem witness_jmpr : State.Issues (one sl0) g0 0x0200_0007 0 ((insn 0x0200_0007 0).okR 0 63 0 0) (use0 .scalar [.sreg 2] []) :=
  issues_of (by decide)
/-- s1 < s2 signed: the branch is taken 16 units on. -/
theorem test_br_taken : (after .br sl0 0x1002_0810_0002 0).pc = 0x10 ∧ (after .br sl0 0x1003_0810_0002 0).pc = 1 := by decide
/-- CZ compares with 0 and ignores SB. -/
theorem test_br_zero : (after .br sl0 0x1009_FC10_0002 0).pc = 0x10 := by decide
theorem test_brany : (after .brany sl0 0x1000_0003_0003 0).pc = 0x10 ∧ (after .brnone sl0 0x1000_0003_0004 0).pc = 1 := by decide
theorem test_jmpr : (after .jmpr sl0 0x0200_0007 0).pc = 7 := by decide

/-- The BRD of the example under R92: p3 has threads 0 to 7, the others fall through. -/
theorem test_brd :
    let t := after .brd sl0 0x0000_4800_0203_0005 0
    t.pc = 18 ∧ t.mask 0 = 0x00FF ∧ t.stack = [{ join := 32, all := 0xFFFF, pend := 0xFF00, pc := 1 }] := by decide
theorem witness_brd : State.Issues (one sl0) g0 0x0000_4800_0203_0005 0
    ((insn 0x0000_4800_0203_0005 0).headerOk false && !(insn 0x0000_4800_0203_0005 0).x) (use0 .scalar [] []) := issues_of (by decide)
/-- A seventeenth entry overflows the stack. -/
theorem test_brd_overflow :
    let sl := { sl0 with stack := List.replicate 16 { join := 32, all := 0xFFFF, pend := 0, pc := 1 } }
    (after .brd sl 0x0000_4800_0203_0005 0).fault = some { cause := .stackOverflow, addr := 0 }
      ∧ (after .brd sl 0x0000_4800_0203_0005 0).stack.length = 16 := by decide
/-- At the join the pending threads run at their program counter; the second time all go on. -/
theorem test_join :
    let e : StackEntry := { join := 0, all := 0xFFFF, pend := 0xFF00, pc := 9 }
    (after .join { sl0 with stack := [e] } 0x06 0).pc = 9 ∧ (after .join { sl0 with stack := [e] } 0x06 0).mask 0 = 0xFF00
      ∧ (after .join { sl0 with stack := [{ e with pend := 0 }] } 0x06 0).pc = 1
      ∧ (after .join { sl0 with stack := [{ e with pend := 0 }] } 0x06 0).stack = [] := by decide
theorem witness_join : State.Issues (one sl0) g0 0x06 0 (insn 0x06 0).okN (use0 .scalar [] []) := issues_of (by decide)

/-! ### Control -/

theorem witness_control :
    State.Issues (one sl0) g0 0x1000_0050_0008 0
        ((insn 0x1000_0050_0008 0).okB1 && (insn 0x1000_0050_0008 0).ps = 0 && (insn 0x1000_0050_0008 0).sb = 0
          && (insn 0x1000_0050_0008 0).cc = 0 && !(insn 0x1000_0050_0008 0).cz) (use0 .scalar [] [.sreg 5])
      ∧ State.Issues (one sl0) g0 0x09 0 ((insn 0x09 0).okN && !((one sl0).slot g0).inMx) (use0 .scalar [] [])
      ∧ State.Issues (one sl0) g0 0x0A 0 ((insn 0x0A 0).okI 0 0) (use0 .scalar [] [])
      ∧ State.Issues (one sl0) g0 0x0B 0 ((insn 0x0B 0).okN && !((one sl0).slot g0).inMx) (use0 .scalar [] [])
      ∧ ((one sl0).slot g0).mask 0 = ((one sl0).slot g0).full :=
  ⟨issues_of (by decide), issues_of (by decide), issues_of (by decide), issues_of (by decide), by decide⟩
theorem witness_mxend :
    State.Issues (one { sl0 with inMx := true }) g0 0x0C 0 ((insn 0x0C 0).okN && ((one { sl0 with inMx := true }).slot g0).inMx)
      (use0 .scalar [] []) := issues_of (by decide)
theorem witness_twait :
    let s := one { sl0 with tokens := [(7, 1)] }
    State.Issues s g0 0x0000_0001_0007_0010 0 ((insn 0x0000_0001_0007_0010 0).okI 7 0) (use0 .scalar [] [])
      ∧ 1 ≤ (Table.get 0 (s.slot g0).tokens 7).toNat := ⟨issues_of (by decide), by decide⟩
theorem witness_gsr : State.Issues (one sl0) g0 0x0100_0000_0003_0011 0 ((insn 0x0100_0000_0003_0011 0).okR 63 0 0 1)
    (use0 .scalar [] [.sreg 3]) := issues_of (by decide)
theorem test_call : (after .call sl0 0x1000_0050_0008 0).sreg 5 = 1 ∧ (after .call sl0 0x1000_0050_0008 0).pc = 0x10 := by decide
theorem test_exit : (after .exit sl0 0x09 0).state = .draining := by decide
theorem test_trap : (after .trap sl0 0x0000_0123_0000_000A 0).fault = some { cause := .trap, addr := 0x123 } := by decide
theorem test_twait : (after .twait { sl0 with tokens := [(7, 3)] } 0x0000_0002_0007_0010 0).tokens = [(7, 1)] := by decide
theorem test_gsr :
    (after .gsr { sl0 with fenceErr := true } 0x0100_0000_0003_0011 0).sreg 3 = 1
      ∧ (after .gsr { sl0 with fenceErr := true } 0x0100_0000_0003_0011 0).fenceErr = false := by decide
/-- EFENCE of all engines on all engines at CORE scope, and RBAR of 192 on barrier 15. -/
theorem witness_fences :
    (let i := insn 0x00FF_000D 0
     State.Issues (one sl0) g0 0x00FF_000D 0 (i.okF && i.bits 16 4 ≠ 0 && i.bits 20 4 ≠ 0 && i.bits 24 2 ≠ 3 && i.bits 32 8 = 0)
       (use0 .scalar [] []))
      ∧ (let i := insn 0x00C0_000F_000E 0
         State.Issues (one sl0) g0 0x00C0_000F_000E 0
           (i.okF && i.bits 20 4 = 0 && i.bits 24 2 = 0 && decide (1 ≤ i.bits 32 8) && decide (i.bits 32 8 ≤ 192)) (use0 .scalar [] [])) :=
  ⟨issues_of (by decide), issues_of (by decide)⟩
theorem test_rbar : (after .rbar sl0 0x00C0_000F_000E 0).wait = .rbar 15 192 := by decide
/-! ### Barriers, fences and spawns -/

/-- The first of two groups waits at barrier 5; a second arrival would open it. -/
theorem witness_barrier :
    let s := one { sl0 with wait := .rbar 5 2 }
    (s.slot g0).wait = .rbar 5 2 ∧ (s.slot g0).outstanding false 15 = []
      ∧ (Table.get { count := 0, want := 0, phase := 0 } (s.room c0.room).barriers 5).count + 1 ≠ 2
      ∧ (Table.get { count := 0, want := 0, phase := 0 } (s.room c0.room).barriers 5).count = 0 := by decide
theorem witness_barrier_last :
    let s := (one { sl0 with wait := .rbar 5 2 }).updRoom c0.room (fun r => { r with barriers := [(5, { count := 1, want := 2, phase := 0 })] })
    Table.get { count := 0, want := 0, phase := 0 } (s.room c0.room).barriers 5 = { count := 1, want := 2, phase := 0 }
      ∧ (s.slot g0).wait = .rbar 5 2 ∧ (s.slot g0).outstanding false 15 = [] := by decide
/-- A state after a command. -/
def run (c : Instr) (s : State) : State :=
  match exec c s with
  | .next t => t
  | .fault _ => State.reset
  | .refused _ => State.reset
/-- The only group of a barrier of one passes it at once. -/
theorem test_barrier_of_one : ((run (.rbarArrival g0) (one { sl0 with wait := .rbar 5 1 })).slot g0).wait = .none := by decide
theorem witness_efence_complete :
    let s := one { sl0 with fences := [{ core := false, dst := 15, await := [3] }], ops := [{ MemOp.blank 0 .scalar with id := 4, load := true }] }
    (s.slot g0).fences = [] ++ { core := false, dst := 15, await := [3] } :: [] ∧ ∀ o ∈ [3], o ∉ (s.slot g0).outstanding false 15 := by decide
theorem test_efence_complete :
    ((run (.efenceComplete g0) (one { sl0 with fences := [{ core := false, dst := 15, await := [3] }] })).slot g0).fences = [] := by decide
/-- SPAWN with a descriptor in Room memory. -/
theorem witness_spawn :
    State.Issues (one sl0) g0 0x0100_0000_0403_000F 0 ((insn 0x0100_0000_0403_000F 0).okR 63 63 0 1)
        (use0 .scalar [.sreg 4] [.sreg 3])
      ∧ ((one sl0).checkAccess 1 true .load 0 64).1 = .ok none := ⟨issues_of (by decide), rfl⟩
def spawned0 : State := one { sl0 with wait := .spawn true 0 3, spawns := 1 }
theorem witness_spawn_answer :
    (spawned0.slot g0).wait = .spawn true 0 3 ∧ (spawned0.slot g0).outstanding false 15 = [] ∧ (spawned0.core c0).dma = []
      ∧ (spawned0.gsuite 1).spawned.find? (fun e => e.1 = (0, 0, 1)) = none
      ∧ ((spawned0.updGsuite 1 (fun x => { x with spawned := [((0, 0, 1), 0x2_0000)] })).gsuite 1).spawned.find? (fun e => e.1 = (0, 0, 1))
          = some ((0, 0, 1), 0x2_0000) := by decide
/-- A restarted task gets the answer that was recorded for the ordinal. -/
theorem test_spawn_again :
    ((run (.spawnAnswer ⟨g0, .clean⟩) (spawned0.updGsuite 1 (fun x => { x with spawned := [((0, 0, 1), 0x2_0000)] }))).slot g0).sreg 3 = 0x2_0000 := by
  decide

/-! ### Vector, mask and matrix instructions -/

/-- Thread 0 has 1 in g1 and 0xFFFFFFFF in g2. -/
def slv : Slot := { sl0 with g := [(gKey 1 0, 1), (gKey 2 0, 0xFFFF_FFFF)] }
theorem witness_vector :
    let i := insn 0x0000_0002_0103_0040 0
    State.Issues (one slv) g0 0x0000_0002_0103_0040 0
        (decide (i.ty ≤ 6) && i.fn = 0 && vecSrcLegal i slv true false (tyWide i.ty) && dstLegal slv (tyWide i.ty) i.rd)
        (vecUse true false false false i slv) ∧ slv.width ≤ 128 ∧ inMask (slv.active i) 15 = true :=
  ⟨issues_of (by decide), by decide⟩
theorem witness_vector_wide :
    let i := insn 0x0050_0402_0006_0043 0
    State.Issues (one slv) g0 0x0050_0402_0006_0043 0
        (decide (i.ty ≤ 6) && i.fn = 0 && vecSrcLegal i slv true true (tyWide i.ty) && dstLegal slv (tyWide i.ty) i.rd)
        (vecUse true true true true i slv) := issues_of (by decide)
/-- U32 sum wraps: 1 + 0xFFFFFFFF = 0; the other threads get 0 + 0. -/
theorem test_vadd : (after .vadd slv 0x0000_0002_0103_0040 0).greg 3 0 = 0 ∧ (after .vadd slv 0x0000_0002_0103_0040 0).greg 3 1 = 0 := by decide
/-- U32: 1 − 0xFFFFFFFF = 2, and 1 × 0xFFFFFFFF = 0xFFFFFFFF. -/
theorem test_vsub_vmul :
    (after .vsub slv 0x0000_0002_0103_0041 0).greg 3 0 = 2 ∧ (after .vmul slv 0x0000_0002_0103_0042 0).greg 3 0 = 0xFFFF_FFFF := by decide
theorem witness_integer_values : (6 = 0 ∨ 6 = 1 ∨ 6 = 5 ∨ 6 = 6) ∧ 2 ^ 64 - 1 < 2 ^ tyWidth 6 ∧ (2 ^ 32 - 1 < 2 ^ tyWidth 0) := by decide
/-- The FP32 sum 1 + 1 is 2. -/
theorem test_fp32_add : vArith 0 2 0x3F80_0000 0x3F80_0000 0 = 0x4000_0000 := by decide
theorem witness_vector_moves :
    (let i := insn 0x0220_0000_0103_004B 0
     State.Issues (one slv) g0 0x0220_0000_0103_004B 0
       (decide (i.ty ≤ 8) && decide (i.fn % 16 ≤ 8) && decide (i.fn < 128) && vecSrcLegal i slv false false (tyWide i.ty)
         && (!(tyWide i.ty || tyWide (i.fn % 16)) || ((bitOf i.sk 0 || i.ra % 2 = 0) && i.rd % 2 = 0))
         && dstLegal slv (tyWide (i.fn % 16)) i.rd) (vecUse false false false false i slv))
      ∧ (let i := insn 0x0000_0F02_0103_004D 0
         State.Issues (one slv) g0 0x0000_0F02_0103_004D 0
           (decide (i.ty ≤ 6) && i.fn = 0 && decide (i.rc ≤ 15) && !bitOf i.sk 2
             && vecSrcLegal { i with w := putBits i.w 40 8 0 } slv true false (tyWide i.ty) && dstLegal slv (tyWide i.ty) i.rd)
           (vecUse true false false false i slv))
      ∧ (let i := insn 0x0000_0002_0103_004F 0
         State.Issues (one slv) g0 0x0000_0002_0103_004F 0
           (decide (i.ty ≤ 6) && i.fn = 0 && vecSrcLegal i slv true false (tyWide i.ty) && dstLegal slv (tyWide i.ty) i.rd)
           (vecUse true false false false i slv))
      ∧ (let i := insn 0x0420_0000_0103_0050 0
         State.Issues (one slv) g0 0x0420_0000_0103_0050 0
           (i.ty = 2 && decide (i.fn ≤ 4) && vecSrcLegal i slv false false false && dstLegal slv false i.rd)
           (vecUse false false false false i slv)) :=
  ⟨issues_of (by decide), issues_of (by decide), issues_of (by decide), issues_of (by decide)⟩
/-- VSHFL takes thread g2 mod 16 = 15 for thread 0, and thread 0 for the others. -/
theorem test_vshfl : (after .vshfl slv 0x0000_0002_0103_004F 0).greg 3 0 = 0 ∧ (after .vshfl slv 0x0000_0002_0103_004F 0).greg 3 1 = 1 := by decide
theorem test_vsel : (after .vsel slv 0x0000_0302_0103_004D 0).greg 3 0 = 1 ∧ (after .vsel slv 0x0000_0002_0103_004D 0).greg 3 0 = 1 := by decide
theorem witness_masks :
    State.Issues (one slv) g0 0x0000_0003_0005_0058 0 ((insn 0x0000_0003_0005_0058 0).okR 15 15 15 0) (use0 .vector [] [])
      ∧ State.Issues (one slv) g0 0x0000_0000_0005_005C 0 ((insn 0x0000_0000_0005_005C 0).okR 15 15 0 0) (use0 .vector [] [])
      ∧ State.Issues (one slv) g0 0x0000_0002_0105_005D 0 ((insn 0x0000_0002_0105_005D 0).okR 15 63 63 0)
          (use0 .vector [.sreg 1, .sreg 2] [])
      ∧ State.Issues (one slv) g0 0x0100_0000_0005_005E 0 ((insn 0x0100_0000_0005_005E 0).okR 63 15 0 1) (use0 .vector [] [.sreg 5])
      ∧ State.Issues (one slv) g0 0x0000_0000_0005_005F 0 ((insn 0x0000_0000_0005_005F 0).okR 63 15 0 0) (use0 .vector [] [.sreg 5])
      ∧ (insn 0x0000_0003_0005_0058 0).rd ≠ 0 :=
  ⟨issues_of (by decide), issues_of (by decide), issues_of (by decide), issues_of (by decide), issues_of (by decide), by decide⟩
theorem witness_vcmp :
    let i := insn 0x0500_0002_0104_004C 0
    State.Issues (one slv) g0 0x0500_0002_0104_004C 0
        (decide (i.ty ≤ 6) && decide (i.fn ≤ 7) && (decide (i.fn ≤ 5) || !tyInteger i.ty) && vecSrcLegal i slv true false (tyWide i.ty)
          && decide (i.rd ≤ 15)) { vecUse true false false false i slv with writes := [], part := false }
      ∧ slv.inMx = false ∧ slv.width ≤ 128 := ⟨issues_of (by decide), by decide⟩
/-- p0 ∧ p3, ¬p0, and s2:s1 as a mask cut to 16 threads. -/
theorem test_masks :
    (after .pand slv 0x0000_0003_0005_0058 0).mask 5 = 0x00FF ∧ (after .pnot slv 0x0000_0000_0005_005C 0).mask 5 = 0
      ∧ (after .pfroms slv 0x0000_0002_0105_005D 0).mask 5 = 5 ∧ (after .pcnt slv 0x0000_0000_0305_005F 0).sreg 5 = 8 := by decide
/-- U32 GE of g1 and g2: false for thread 0 (1 < 0xFFFFFFFF), true for the others (0 ≥ 0). -/
theorem test_vcmp : (after .vcmp slv 0x0500_0002_0104_004C 0).mask 4 = 0xFFFE := by decide

/-- A group inside a matrix region. -/
def slm : Slot := { sl0 with inMx := true, s := [(2, 0x1_0005)] }
theorem witness_matrix :
    State.Issues (one slm) g0 0x0000_0000_0101_00A0 0 (mmaLegal false (insn 0x0000_0000_0101_00A0 0) slm)
        (mmaUse false (insn 0x0000_0000_0101_00A0 0) slm)
      ∧ State.Issues (one slm) g0 0x0000_0000_1201_00A1 0 (mmaLegal true (insn 0x0000_0000_1201_00A1 0) slm)
        (mmaUse true (insn 0x0000_0000_1201_00A1 0) slm)
      ∧ (let i := insn 0x0000_0200_0001_00A2 0
         State.Issues (one slm) g0 0x0000_0200_0001_00A2 0
           (mxLegal i slm && decide (i.dt < slm.naccs) && i.xsa = 0 && i.xsb = 0 && i.xsm = 0 && i.fa = 0 && i.fb = 0 && i.mod = 0)
           (use0 .matrix [.sreg 2] []))
      ∧ (let i := insn 0x0000_0000_0013_00A5 0
         State.Issues (one slm) g0 0x0000_0000_0013_00A5 0
           (mxLegal i slm && decide (i.dt < slm.ntiles) && decide (i.xsa < slm.ntiles) && i.xsb = 0 && i.xsm = 0 && i.fa = 0 && i.fb = 0
             && i.ss = 0 && i.mod = 0) (use0 .matrix (pTile 1) (pTile 3)))
      ∧ (let i := insn 0x0001_0300_0010_00A4 0
         State.Issues (one slm) g0 0x0001_0300_0010_00A4 0
           (mxLegal i slm && i.dt = 0 && decide (i.xsa < slm.naccs) && i.xsb = 0 && i.xsm = 0 && i.fa = 0 && i.fb = 0
             && decide (i.mod ≤ 1)) (use0 .matrix [] [.sreg 3])) :=
  ⟨issues_of (by decide), issues_of (by decide), issues_of (by decide), issues_of (by decide), issues_of (by decide)⟩
/-- s2 = 0x10005: FP32 mode, anchor 5. -/
theorem test_aclr :
    ((after .aclr slm 0x0000_0200_0001_00A2 0).acc 1).fp32 = true ∧ ((after .aclr slm 0x0000_0200_0001_00A2 0).acc 1).anchor = 5 := by decide
/-- AFLG of a cleared accumulator in FP32 mode with anchor −1: MODE and the anchor, sign-extended. -/
theorem test_aflg :
    (after .aflg { slm with accs := [(1, { elems := [], anchor := 0xFFF, fp32 := true, inexact := true, wrap := false })] }
      0x0001_0300_0010_00A4 0).sreg 3 = 0xFFFF_FFFF_0000_0005 := by decide
theorem test_mx_outside : (after .aclr { slm with inMx := false } 0x0000_0200_0001_00A2 0).fault = some { cause := .illegal, addr := 0 } := by
  decide
theorem witness_acvt :
    let i := insn 0x0000_0008_0012_00A3 0
    State.Issues (one slm) g0 0x0000_0008_0012_00A3 0
      (mxLegal i slm && decide (i.dt < slm.ntiles) && decide (i.xsa < slm.naccs) && i.xsb = 0 && i.xsm = 0 && i.fb = 0 && i.ss = 0
        && (acvtFmt i.fa).isSome && decide (i.mod < 8) && (!bitOf i.mod 0 || i.fa = 8) && (!bitOf i.mod 1 || decide (i.fa ≤ 1)))
      { engine := .matrix, reads := [], writes := acvtRows i, part := false } := issues_of (by decide)

/-! ### Memory instructions, with their data in Room memory -/

def slr : Slot := { sl0 with s := [(4, 48 * 2 ^ 20 - 8)] }
theorem witness_loads :
    State.Issues (one slr) g0 0x0000_1800_4403_0080 0 (scalarMemLegal false true (insn 0x0000_1800_4403_0080 0) slr)
        (use0 .scalar [.sreg 4] [.sreg 3])
      ∧ (one slr).checkAll g0 slr true .load 8 [(0, slr.scalarAddr (insn 0x0000_1800_4403_0080 0))]
          = (.ok [(0, 48 * 2 ^ 20 - 8, targetOf c0.room (48 * 2 ^ 20 - 8) none)], one slr)
      ∧ State.Issues (one slr) g0 0x0000_1000_4203_0088 0 (vecMemLegal false true (insn 0x0000_1000_4203_0088 0) slr)
        { use0 .vector [.sreg 2] (pG false 3) with part := slr.active (insn 0x0000_1000_4203_0088 0) != slr.full }
      ∧ State.Issues (one { slr with inMx := true }) g0 0x0000_0000_4203_0090 0 (tileMemLegal false (insn 0x0000_0000_4203_0090 0) { slr with inMx := true })
        (use0 .matrix [.sreg 2] (pTile 3)) :=
  ⟨issues_of (by decide), by rfl, issues_of (by decide), issues_of (by decide)⟩
/-- The last address of Room memory, and the first beyond it. -/
theorem test_room_bounds :
    ((one slr).checkAccess 1 true .load (48 * 2 ^ 20 - 8) 8).1 = .ok none
      ∧ ((one slr).checkAccess 1 true .load (48 * 2 ^ 20) 8).1 = .error { cause := .region, addr := BitVec.ofNat 64 (48 * 2 ^ 20) }
      ∧ ((one slr).checkAccess 1 true .load 4 8).1 = .error { cause := .align, addr := 4 } := ⟨rfl, rfl, rfl⟩
theorem witness_stores :
    State.Issues (one slr) g0 0x0000_1800_4403_0081 0 (scalarMemLegal true false (insn 0x0000_1800_4403_0081 0) slr)
        (use0 .scalar [.sreg 4, .sreg 3] [])
      ∧ State.Issues (one slr) g0 0x000F_1800_4403_0084 0 (scalarMemLegal true false (insn 0x000F_1800_4403_0084 0) slr)
        (use0 .scalar [.sreg 4, .sreg 3] [])
      ∧ (one slr).checkAccess 1 true .store (slr.scalarAddr (insn 0x000F_1800_4403_0084 0)) 8 = (.ok none, one slr)
      ∧ State.Issues (one slr) g0 0x0000_1000_4203_0089 0 (vecMemLegal true false (insn 0x0000_1000_4203_0089 0) slr)
        (use0 .vector ([.sreg 2] ++ pG false 3) [])
      ∧ State.Issues (one { slr with inMx := true }) g0 0x0000_0000_4203_0091 0 (tileMemLegal true (insn 0x0000_0000_4203_0091 0) { slr with inMx := true })
        (use0 .matrix ([.sreg 2] ++ pTile 3) []) :=
  ⟨issues_of (by decide), issues_of (by decide), by rfl, issues_of (by decide), issues_of (by decide)⟩
theorem witness_rel_store :
    let s := one { slr with wait := .rel true 0 0 [1] .wbA none }
    (s.slot g0).wait = .rel true 0 0 [1] .wbA none ∧ (s.slot g0).outstanding false 15 = [] := by decide
/-- One thread is active for the reductions. -/
def sl1 : Slot := { slr with p := [(0, 1)] }
theorem witness_vatom :
    State.Issues (one sl1) g0 0x0000_1000_4202_008A 0 (vatomLegal (insn 0x0000_1000_4202_008A 0) sl1)
        { use0 .vector ([.sreg 2] ++ pG false 2) (pG false 2) with part := sl1.active (insn 0x0000_1000_4202_008A 0) != sl1.full }
      ∧ (one sl1).checkAll g0 sl1 true .atomic 4 (sl1.threadAccesses (insn 0x0000_1000_4202_008A 0) 4 true)
          = (.ok [(0, 0, targetOf c0.room 0 none)], one sl1) := ⟨issues_of (by decide), by rfl⟩
/-- A VREDADD of no active thread. -/
theorem witness_vredadd :
    let sl := { slr with p := [(0, 0)] }
    State.Issues (one sl) g0 0x0000_0000_0202_008B 0 (vredLegal (insn 0x0000_0000_0202_008B 0) sl)
        (use0 .vector ([.sreg 2] ++ pG false 2) [])
      ∧ (one sl).checkRed g0 sl false (sl.threadAccesses (insn 0x0000_0000_0202_008B 0) 16 false) = (.ok [], one sl) :=
  ⟨issues_of (by decide), by rfl⟩
/-! ### A Suite with external memory -/

def page1 : PageEntry := { PageEntry.reset with owner := 1, valid := true }
/-- Suite 1 has Room [0,0] and slice 0, and three regions of 2 MiB: WB-A at 0, RO at 2 MiB and RED at 4 MiB. -/
def suite1 : Suite :=
  { Suite.reset with
    state := .active, gen := 1, slices := 1, rect := some { rowLo := 0, rowHi := 0, colLo := 0, colHi := 0 },
    regions := [(0, { w0 := 0, w1 := 1, w2 := 16, w3 := 0 }), (1, { w0 := 2 ^ 21, w1 := 1, w2 := 20, w3 := 0 }),
      (2, { w0 := 2 ^ 22, w1 := 1, w2 := 21, w3 := 0 })] }
/-- A module with Suite 1 in it: one leaf of 1 GiB maps virtual address 0 to 1 GiB, through a table in its first page. A kernel header
(GREGS 0, 1 group, 16 threads, ENTRY 2, CODE_LEN 64) stands at virtual address 2 MiB. -/
def ext1 : State :=
  { on0 with
    ext := [(0x40100000, 0x01), (0x40100001, 0x04), (0x40100002, 0x04), (0x40100003, 0x10), (0x40101000, 0xCF), (0x40101003, 0x10),
      (0x40200003, 0x01), (0x40200004, 0x02), (0x40200008, 0x40)],
    hearth := { on0.hearth with
      life := .field, ready := true, bands := [(1, 1)], pages := [(512, page1), (513, page1), (514, page1)], suites := [(1, suite1)] } }.updGsuite 1
      (fun g => { g with root := 0x40100000 })
/-- The same with a group in it. -/
def extOne (sl : Slot) : State := ext1.updSlot g0 (fun _ => sl)

/-- A page may be written, a page of RO data may not. -/
theorem test_locate :
    (ext1.locate 1 0x1008 true false).1.map (fun l => l.pa) = some 0x40001008
      ∧ (ext1.checkAccess 1 false .store 0x200000 8).1 = .error { cause := .region, addr := 0x200000 }
      ∧ (ext1.checkAccess 1 false .store 0x40000000 8).1 = .error { cause := .translation, addr := 0x40000000 } := by
  refine ⟨by decide, by rfl, by rfl⟩
theorem witness_load_external :
    ∃ l s1, (extOne sl0).checkAll g0 sl0 false .load 8 [(0, 0)] = (.ok [(0, 0, targetOf c0.room 0 l)], s1) := ⟨_, _, by rfl⟩

/-- The same with leaves of 2 MiB, for a contribution and its tally. -/
def ext2 : State :=
  { ext1 with
    ext := [(0x40100000, 0x01), (0x40100001, 0x04), (0x40100002, 0x04), (0x40100003, 0x10), (0x40101000, 0x01), (0x40101001, 0x08),
      (0x40101002, 0x04), (0x40101003, 0x10), (0x40102000, 0xCF), (0x40102003, 0x10), (0x40102010, 0xCF), (0x40102012, 0x10),
      (0x40102013, 0x10)] }
/-- A contribution of one thread to the RED region at 4 MiB, whose tallies stand at virtual address 0. -/
theorem witness_vredadd_one :
    let sl := { sl1 with s := [(2, 0x400010)] }
    sl.threadAccesses (insn 0x0000_0000_0202_008B 0) 16 false = [(0, 0x400010)]
      ∧ ∃ ts s1, (ext2.updSlot g0 (fun _ => sl)).checkRed g0 sl false [(0, 0x400010)] = (.ok ts, s1) := ⟨by decide, _, _, by rfl⟩

/-! ### Room DMA and the ends of operations -/

/-- One row of 64 bytes from Room offset 0 to Room offset 128: s4 to s7. -/
def sld : Slot := { sl0 with s := [(4, 0), (5, 128), (6, 64 + 2 ^ 42 + 2 ^ 44), (7, 0)] }
theorem witness_dmaq :
    State.Issues (one sld) g0 0x0800_0000_0400_00C0 0
        ((insn 0x0800_0000_0400_00C0 0).okR 0 60 0 15 && (insn 0x0800_0000_0400_00C0 0).ra % 4 = 0
          && (bitOf (insn 0x0800_0000_0400_00C0 0).fn 3 || (insn 0x0800_0000_0400_00C0 0).fn = 0))
        (use0 .dma [.sreg 4, .sreg 5, .sreg 6, .sreg 7] [])
      ∧ ((one sld).core c0).dma.length < 16
      ∧ ∃ srcs dsts, (one sld).dmaPlan 1 c0.room { src := 0, dst := 128, w2 := 64 + 2 ^ 42 + 2 ^ 44, w3 := 0 } = (.ok (srcs, dsts, []), one sld) :=
  ⟨issues_of (by decide), by decide, _, _, by rfl⟩
theorem test_dmaq :
    let t := after .dmaq sld 0x0800_0000_0400_00C0 0
    t.pc = 1 ∧ t.ops.length = 1 ∧ t.ops.all (fun o => o.token = some 0) = true := by decide
def req1 (o : Owner) (k : ReqKind) : Req := { Req.blank o k 1 1 with room := some c0.room, size := 8 }
def withReq (s : State) (r : Req) : State := { s with reqs := [(7, r)] }
theorem witness_dma_ends :
    let r := { req1 (.dma g0 3 0) .read with stage := .answered }
    Table.find (withReq on0 r).reqs 7 = some r ∧ dmaOwner c0 r.owner = some (g0, 3, 0) ∧ r.back = false ∧ r.gone = false := by decide
theorem witness_dma_timeout :
    let r := { req1 (.dma g0 3 0) .write with attr := .dev }
    Table.find (withReq on0 r).reqs 7 = some r ∧ dmaOwner c0 r.owner = some (g0, 3, 0) ∧ r.attr = .dev ∧ r.stage ≠ .answered := by decide
theorem witness_load_return :
    let o := { MemOp.blank 3 .scalar with load := true, dest := .sreg 3, size := 8 }
    let s := withReq (one { sl0 with ops := [o] }) { req1 (.group g0 3) .read with stage := .answered, answer := List.replicate 8 1 }
    (s.slot g0).ops.find? (fun x => x.id = 3) = some o ∧ o.load = true ∧ ∀ e ∈ s.opReqs g0 3, e.2.stage = .answered := by decide
/-- The eight bytes of a 64-bit load reach sRD, and the request ends. -/
theorem test_load_return :
    let o := { MemOp.blank 3 .scalar with load := true, dest := .sreg 3, size := 8 }
    let s := withReq (one { sl0 with ops := [o] }) { req1 (.group g0 3) .read with stage := .answered, answer := [1, 2, 0, 0, 0, 0, 0, 0x80] }
    ((run (.loadDataReturn g0 3) s).slot g0).sreg 3 = 0x8000_0000_0000_0201 ∧ (run (.loadDataReturn g0 3) s).reqs = [] := by decide
theorem witness_token :
    let o := { MemOp.blank 3 .scalar with token := some 7 }
    ((one { sl0 with ops := [o] }).slot g0).ops.find? (fun x => x.id = 3) = some o ∧ o.open_ = 0 := by decide
/-- A counter at 65,535 stays there and sets TOKEN_OVF. -/
theorem test_token_overflow :
    let s := one { sl0 with ops := [{ MemOp.blank 3 .scalar with token := some 7 }], tokens := [(7, 65535)] }
    ((run (.tokenSignal g0 3) s).slot g0).tokens = [(7, 65535)] ∧ ((run (.tokenSignal g0 3) s).slot g0).tokenOvf = true := by decide
theorem witness_dev_timeout :
    let r := { req1 (.group g0 3) .read with attr := .dev, room := none }
    Table.find (withReq on0 r).reqs 7 = some r ∧ r.attr = .dev ∧ r.kind = .read ∧ r.stage ≠ .answered ∧ r.owner = .group g0 3 := by decide

/-! ### The life of a group -/

theorem witness_park :
    let s := one { sl0 with fault := some { cause := .trap, addr := 0 } }
    (s.slot g0).fault = some { cause := .trap, addr := 0 } ∧ (s.slot g0).state = .active ∧ (s.slot g0).ops = [] := by decide
theorem test_park :
    ((run (.groupPark g0) (one { sl0 with fault := some { cause := .trap, addr := 0 } })).slot g0).state = .parked := by decide
theorem witness_free :
    let s := one { sl0 with state := .draining }
    (s.slot g0).state = .draining ∧ s.drained g0 = true := by decide
theorem test_free : ((run (.groupFree g0) (one { sl0 with state := .draining })).slot g0).state = .free := by decide
theorem witness_register_error : (one sl0).on = true ∧ ((one sl0).slot g0).state ≠ .free ∧ (on0.slot g0).state = .free := by decide
/-- LAUNCH of a task whose kernel header stands at 2 MiB. -/
def launch1 : BwMsg := { src := .dispatcher 0, dst := .core c0, suite := 1, gen := 1, stamp := 0, payload := .launch 0 1 0x200000 0x1000 }
def launching : State := { ext1 with delivered := [launch1] }.updCore c0 (fun c => { c with powered := true })
theorem witness_launch :
    launching.takeLaunch c0 = some (launch1, []) ∧ (launching.core c0).powered = true ∧ (launching.core c0).fenced = false
      ∧ (State.readHeader { launching with delivered := [] } 1 0x200000).1
          = some { width := 16, gregs := 8, tiles := 0, accs := 0, groups := 1, side := false, entry := 2, len := 64 }
      ∧ Header.impossible { width := 16, gregs := 8, tiles := 0, accs := 0, groups := 1, side := false, entry := 2, len := 64 } = false
      ∧ (launching.core c0).fits { width := 16, gregs := 8, tiles := 0, accs := 0, groups := 1, side := false, entry := 2, len := 64 } = true := by
  decide
theorem test_launch :
    let t := run (.launch c0) launching
    (t.slot g0).state = .active ∧ (t.slot g0).pc = 2 ∧ (t.slot g0).width = 16 ∧ (t.slot g0).sreg 0 = 0x1000 := by decide
theorem witness_core_upkeep :
    let s := (on0.updCore c0 (fun c => { c with powered := true, powerWait := true })).updRoom c0.room
      (fun r => { r with pwr := 0x40, rect := 2 ^ 16 + 2 ^ 24 + 2 ^ 40 })
    s.on = true ∧ (s.core c0).powered = true ∧ (s.core c0).powerWait = true ∧ bitOf (s.room c0.room).pwr.toNat 6 = true
      ∧ (s.room c0.room).ownerSuite ≠ none ∧ (s.core c0).resident = [] ∧ (s.core c0).gustA ≤ 4 := by decide

/-! ### Register commands -/

theorem witness_writers :
    on0.on = true ∧ suite0OrHearth .hearth = true ∧ suite0OrHearth (.suite 0) = true ∧ suite0OrHearth (.suite 1) = false
      ∧ on0.engineWriter .hearth 0 = true ∧ on0.engineWriter (.suite 1) 0 = false ∧ graphWriter (.suite 1) 1 = true
      ∧ on0.roomWriter .hearth c0.room = true ∧ on0.roomWriter (.suite 1) c0.room = false ∧ on0.sliceWriter .hearth 0 = true
      ∧ on0.sliceWriter (.suite 1) 127 = false ∧ parlourOf 127 = 1 ∧ (∀ k : Fin 6, (on0.core ⟨c0.room, k⟩).resident = []) := by decide
theorem witness_full_wipe : ((on0.updMc (.lpd 31) (fun m => { m with inService := true })).mc (.lpd 31)).inService = true := by decide
theorem test_off_takes_nothing : exec (.fullWipe .hearth (.lpd 0)) State.reset = .next State.reset := by rfl

/-! ### Rooms, the mesh and the Hall -/

theorem witness_bank :
    let q := req1 (.group g0 3) .read
    let s := withReq (one sl0) q
    Table.find s.reqs 7 = some q ∧ q.room = some c0.room ∧ q.waiting = true ∧ q.router = none ∧ (s.room c0.room).lost = false
      ∧ (s.room c0.room).wiping = false ∧ s.mayServe 7 q = true ∧ s.bankTurn c0.room (roomBank q.addr) q.lane = true := by decide
/-- A write of 8 bytes into Room memory, read back. -/
theorem test_bank_write :
    let q := { req1 (.group g0 3) .write with data := [1, 2, 3, 4, 5, 6, 7, 8] }
    ((run (.roomMemoryAccess c0.room 7 .clean) (withReq (one sl0) q)).room c0.room).mem.readN 0 8 = [1, 2, 3, 4, 5, 6, 7, 8] := by decide
/-- A packet of Suite 1 at Room [0,0], bound for Room [0,1] or at its Room. -/
theorem witness_mesh :
    let r1 : RoomId := ⟨0, 1⟩
    let q := { req1 (.dma g0 3 0) .write with router := some c0.room }
    let s := withReq (on0.updRoom c0.room (fun r => { r with portsUp := 15 })) q
    Table.find s.reqs 7 = some q ∧ q.bound = some c0.room ∧ q.gone = false ∧ (s.room c0.room).accepts q = false
      ∧ (s.room c0.room).routerOk = true ∧ (s.room c0.room).portUp (nextHop c0.room r1).2 = true := by decide
/-- The same packet where Room [0,0] is Suite 1's: it leaves the mesh there, and one bound for Room [0,1] finds its port open. -/
theorem witness_mesh_owned :
    let q := { req1 (.dma g0 3 0) .write with router := some c0.room }
    let own : Room → Room := fun r => { r with portsUp := 15, rect := 2 ^ 16 + 2 ^ 24 + 2 ^ 40 }
    let s := withReq ((on0.updRoom c0.room own).updRoom ⟨0, 1⟩ own) q
    (s.room c0.room).accepts q = true ∧ s.meshTurn c0.room c0.room q = true
      ∧ s.meshTurn c0.room ⟨0, 1⟩ { q with room := some ⟨0, 1⟩ } = true ∧ s.portOpen c0.room (meshOutput c0.room ⟨0, 1⟩) = true := by decide
theorem witness_hall :
    let s := on0.updRoom ⟨0, 3⟩ (fun r => { r with portsUp := 2, wiping := true })
    neighbour ⟨0, 3⟩ 1 = some ⟨0, 4⟩ ∧ wingOfRoom ⟨0, 3⟩ ≠ wingOfRoom ⟨0, 4⟩ ∧ (s.room ⟨0, 3⟩).portUp 1 = true
      ∧ s.on = true ∧ (s.room ⟨0, 3⟩).routerOk = true ∧ (s.room ⟨0, 3⟩).wiping = true := by decide
theorem test_wipe :
    let s := on0.updRoom c0.room (fun r => { r with wiping := true, mem := [(5, 1)] })
    ((run (.roomWipeComplete c0.room) s).room c0.room).mem = [] ∧ ((run (.roomWipeComplete c0.room) s).room c0.room).wiping = false := by decide
/-! ### The graph engine -/

def task1 : Task := { newTask 1 1 1 0 0x1000 false [0x200000, 0, 0, 0, 0, 0, 0, 0] with state := .idle }
def msg1 (src dst : Endpoint) (p : Payload) : BwMsg := { src := src, dst := dst, suite := 1, gen := 1, stamp := 0, payload := p }
/-- Suite 1 with a task of Room [0,0] in the table of Wing 0, an edge and a message delivered to the dispatcher. -/
def graph1 (st : TaskState) (p : Payload) : State :=
  ({ ext1 with delivered := [msg1 (.core c0) (.dispatcher 0) p] }.updDisp 0 (fun d =>
    { d with
      tasks := [(0, { task1 with state := st })],
      edges := [(0, { suite := 1, gen := 1, graph := 1, index := 0, producer := none, consumer := none, isCount := true, capacity := 4,
                      threshold := 1, tokens := 0, held := 0, credits := 4, bufRoom := 0, lostBuf := false })] }))
theorem witness_firing : (((graph1 .idle .freed).settle 0).disp 0).able = [0] := by decide
theorem witness_dispatcher :
    (∃ s1, (graph1 .launching (.refuse 0 false)).takeFor (.dispatcher 0) (fun p => match p with | .refuse _ _ => true | _ => false)
        = some (msg1 (.core c0) (.dispatcher 0) (.refuse 0 false), s1) ∧ s1.task 0 0 = some { task1 with state := .launching })
      ∧ (∃ s1, (graph1 .idle .freed).takeFor (.dispatcher 0) (fun p => p = .freed) = some (msg1 (.core c0) (.dispatcher 0) .freed, s1))
      ∧ (∃ s1, (graph1 .running (.done 0 0 0)).takeFor (.dispatcher 0) (fun p => match p with | .done _ _ _ => true | _ => false)
        = some (msg1 (.core c0) (.dispatcher 0) (.done 0 0 0), s1) ∧ s1.task 0 0 = some { task1 with state := .running })
      ∧ (∃ s1 e, (graph1 .idle (.tokenAdd 0 1)).takeFor (.dispatcher 0) (fun p => match p with | .tokenAdd _ _ => true | _ => false)
        = some (msg1 (.core c0) (.dispatcher 0) (.tokenAdd 0 1), s1) ∧ s1.edge 0 = some e ∧ e.suite = 1)
      ∧ (∃ s1 e, (graph1 .idle (.creditRet 0 1)).takeFor (.dispatcher 0) (fun p => match p with | .creditRet _ _ => true | _ => false)
        = some (msg1 (.core c0) (.dispatcher 0) (.creditRet 0 1), s1) ∧ s1.edge 0 = some e ∧ e.suite = 1) := by
  refine ⟨⟨_, rfl, rfl⟩, ⟨_, rfl⟩, ⟨_, rfl, rfl⟩, ⟨_, _, rfl, rfl, rfl⟩, ⟨_, _, rfl, rfl, rfl⟩⟩
/-- Two tokens arrive on a COUNT edge. -/
theorem test_token_add : (((run (.tokenAdd 0) (graph1 .idle (.tokenAdd 0 2))).edge 0).map (fun e => e.tokens)) = some 2 := by decide
def stream1 : Stream :=
  { suite := 1, gen := 1, graph := 1, words := [0, 128 + 2 ^ 32, 0, 2 ^ 58, 0, 0, 1, 0], next := 0, busy := [], dones := [], marked := [],
    stopped := false }
def streaming (x : Stream) : State := ext1.updDisp 0 (fun d => { d with streams := [(0, x)] })
theorem witness_records :
    (∃ s1, (graph1 .idle (.record ⟨0, 0, 0, 0⟩)).takeFor (.dispatcher 0) (fun p => match p with | .record _ => true | _ => false)
        = some (msg1 (.core c0) (.dispatcher 0) (.record ⟨0, 0, 0, 0⟩), s1))
      ∧ (∃ s1, { streaming stream1 with delivered := [msg1 (.hall c0.room) (.dispatcher 0) (.slotDone 0 0 0)] }.takeFor (.dispatcher 0)
          (fun p => match p with | .slotDone _ _ _ => true | _ => false) = some (msg1 (.hall c0.room) (.dispatcher 0) (.slotDone 0 0 0), s1)
        ∧ s1.stream 0 0 = some stream1) := ⟨⟨_, rfl⟩, ⟨_, rfl, rfl⟩⟩
def ctx1 : Ctx :=
  { kvBase := 0, pos := 0, kvLimit := 0, spilled := 0, hotCap := 0, spillTok := 0, segs := 0, parts := [], segUnits := 0, state := 1,
    spillBusy := true, users := 0, retiring := false }
theorem witness_graph_upkeep :
    Table.find ((on0.updGsuite 1 (fun g => { g with ctxs := [(0, ctx1)] })).gsuite 1).ctxs 0 = some ctx1 ∧ ctx1.spillBusy = true
      ∧ (((graph1 .failed .freed).gsuite 1).stalled = false) ∧ ((graph1 .failed .freed).disp 0).tasks = [(0, { task1 with state := .failed })]
      ∧ Task.inFlight { task1 with state := .failed } = false ∧ (graph1 .failed .freed).canFire 0 0 { task1 with state := .failed } = false
      ∧ (let g := { GSuite.reset with sink := 6, sinkQueue := [(7, [⟨0, 0, 0, 0⟩])] }
         Table.get [] g.sinkQueue 7 = [⟨0, 0, 0, 0⟩] ∧ g.sinkRoom = true) := by decide
theorem witness_streams :
    (streaming stream1).stream 0 0 = some stream1 ∧ (streaming stream1).chunkReady stream1 = true
      ∧ ((streaming stream1).chunkFault 1 (pagePieces (stream1.chunkVa 0) stream1.chunkLen)).1 = none := by decide
/-- A chunk at an address that no region holds. -/
theorem witness_stream_fault :
    let x := { stream1 with words := [2 ^ 30, 128 + 2 ^ 32, 0, 2 ^ 58, 0, 0, 1, 0] }
    (streaming x).chunkReady x = true ∧ ((streaming x).chunkFault 1 (pagePieces (x.chunkVa 0) x.chunkLen)).1 = some (2 ^ 30) :=
  ⟨by decide, by rfl⟩
theorem witness_delivered :
    let x := { stream1 with next := 1, busy := [(0, [0])] }
    (streaming x).stream 0 0 = some x ∧ x.busy.find? (fun c => c.2.contains 0) = some (0, [0]) ∧ x.member 0 = some c0.room
      ∧ (streaming x).graphEnded 1 1 = false := by decide
theorem witness_reinstalled :
    ∃ s1, { on0 with delivered := [msg1 .hearth (.hall c0.room) (.reinstalled 512 0)] }.takeFor (.hall c0.room)
      (fun p => match p with | .reinstalled _ _ => true | _ => false) = some (msg1 .hearth (.hall c0.room) (.reinstalled 512 0), s1) :=
  ⟨_, rfl⟩
def mailed (m : MailMsg) : State := ext1.updGsuite 1 (fun g => { g with mail := [(.hart 0, m)], ctxReg := 1, ctxs := [(0, { ctx1 with spillBusy := false })] })
theorem witness_mail :
    ((mailed (mail0 2 0)).gsuite 1).mail = [(.hart 0, mail0 2 0)]
      ∧ (let m := { mail0 5 0 with opb := 1 }
         (mailed m).retireStatus 1 m = 0 ∧ ((mailed m).gsuite 1).ctxsQuiet (mailIndices m) = true ∧ mailIndices m = [0]) := by decide
theorem witness_mail_credit :
    let r : SenderReg := { sender := .session 1, limit := 4, inUse := 0, lastSeq := 0, owed := 2, port := 0 }
    ((on0.updGsuite 1 (fun g => { g with senders := [r] })).gsuite 1).senders.find? (fun x => x.sender = .session 1) = some r ∧ r.owed ≠ 0 := by
  decide

/-! ### Homes, the Window, snoops and fills -/

def line1 : Nat := 0x40000000 / 128
def hreq (k : ReqKind) : Req := { Req.blank (.hart 0) k 1 1 with addr := 0x40000000, size := 8 }
theorem witness_home :
    (let r := { hreq .read with par := .rdS }
     Table.find (withReq ext1 r).reqs 7 = some r ∧ r.stage = .sent ∧ r.gone = false)
      ∧ (withReq ext1 (hreq .read)).mayServe 7 (hreq .read) = true ∧ (hreq .read).waiting = true ∧ rangeOf (hreq .read).addr ≠ .control
      ∧ rangeOf 0xF00000000000 = .control := by decide
def port1 (win : W64) : State := on0.updByPort 0 (fun p => { p with winCtl := win, link := { p.link with state := .active, partner := 1 } })
def windowed (win : W64) : State :=
  { port1 win with hearth := { on0.hearth with suites := [(1, { suite1 with win := 1 })] } }
theorem witness_window :
    ((windowed 0).byPort 0).link.state = .active ∧ winLineOk (hdr0 0x10 128) = true ∧ (windowed 0).current 1 1 = true
      ∧ (windowed 0).msgFormOk 0 (hdr0 0x10 128) 0x10 0 (some 128) true = true
      ∧ (let h := { hdr0 0x11 16 with len := 1 }
         (windowed 0).msgFormOk 0 h 0x11 (unitBytes h.count.toNat) (some 128) true = true ∧ unitBytes h.count.toNat = 16)
      ∧ ((windowed 0).winTarget 0 (hdr0 0x10 128) false).1 = none := by decide
/-- A read through a Window that is off is answered at once and counted. -/
theorem test_window_refused :
    let t := run (.winRd 0 (hdr0 0x10 128)) (windowed 0)
    (t.byPort 0).winRef = 1 ∧ (t.byPort 0).sent.length = 1 ∧ t.reqs = [] := by decide
/-- A Window of Suite 1 over its region at 0, shared with the host. -/
def shared1 : State :=
  (({ ext1 with
    hearth := { ext1.hearth with suites := [(1, { suite1 with win := 1, regions := [(0, { w0 := 0, w1 := 1, w2 := 80, w3 := 0 })] })] } }).updByPort 0
      (fun p => { p with winCtl := 1 + 2 ^ 8 + 2 ^ 16, link := { p.link with state := .active, partner := 1 } }))
theorem witness_window_allowed :
    (∃ l s1, shared1.winTarget 0 (hdr0 0x10 128) false = (some l, s1)) ∧ shared1.msgFormOk 0 (hdr0 0x10 128) 0x10 0 (some 128) true = true
      ∧ shared1.current 1 1 = true := ⟨⟨_, _, by rfl⟩, by decide⟩
theorem witness_window_timeout :
    let r := { hreq .write with owner := .window 0 0xFFFF }
    (withReq on0 r).reqs.find? (fun e => e.2.owner = .window 0 0xFFFF && (e.2.kind = .write) = true) = some (7, r) := by decide

def zeros (n : Nat) : List Byte := List.replicate n 0
def l3 (dirty : Bool) : L3Line := { tag := 1, data := zeros 128, dirty := dirty, poison := false, excl := true }
def cached (dirty : Bool) : State := on0.updParlour 0 (fun p => { p with l3 := [(l3Key line1 1, l3 dirty)] })
theorem witness_victims :
    ((cached true).parlour 0).line line1 1 = some (l3 true) ∧ (l3 true).dirty = true
      ∧ ((cached false).parlour 0).line line1 1 = some (l3 false) ∧ (l3 false).poison = false := by decide
/-- Whatever the home answers to an offer of the line, one of the clauses about it applies: here its slice is off, and here it is on. -/
theorem witness_offer :
    let s := ext1.updParlour 0 (fun p => { p with l3 := [(l3Key line1 1, l3 false)] })
    let slice := s.homeOf 1 (128 * line1)
    let q := (s.victim 0 line1 1).drawBool
    let r := ((s.updSlice slice (fun x => { x with enable := true })).victim 0 line1 1).drawBool
    (q.1 = true ∨ q.1 = false) ∧ (q.2.slice slice).enable = false ∧ (r.2.slice slice).enable = true
      ∧ r.2.heldSectors slice line1 = 0 ∧ r.2.partialOf (lineKey slice line1) = none :=
  ⟨(Bool.eq_false_or_eq_true _), by rfl, by rfl, by rfl, by rfl⟩
def snoop1 (inv answered : Bool) : Snoop := { id := 4, slice := 0, line := line1, parlour := 0, inv := inv, answered := answered, data := none }
theorem witness_snoops :
    (let s := { cached true with snoops := [snoop1 true false] }
     s.snoops.find? (fun y => y.id = 4) = some (snoop1 true false) ∧ s.harts = [])
      ∧ (let s := { on0 with snoops := [snoop1 true true] }
         s.snoops.find? (fun y => y.id = 4) = some (snoop1 true true)
          ∧ s.snoops.find? (fun y => y.slice = (0 : Fin 128).val && y.line = line1) = some (snoop1 true true)) := by decide
/-- An invalidating snoop takes the line out of the die. -/
theorem test_snoop :
    ((run (.snpInv 4) { cached true with snoops := [snoop1 true false] }).parlour 0).line line1 1 = none := by decide
def miss1 (asked want : List Nat) (arrived : List (Nat × List Byte)) : Miss :=
  { attr := .stream, suite := 1, joined := [], want := want, asked := asked, arrived := arrived, filled := [], poison := false }
def missing (m : Miss) : State := { ext1 with misses := [(lineKey 0 line1, m)] }
theorem witness_fills :
    (let m := miss1 [] [] [(3, zeros 32)]
     Table.find (missing m).misses (lineKey (0 : Fin 128).val line1) = some m ∧ m.arrived.find? (fun a => a.1 = (3 : Fin 4).val) = some (3, zeros 32)
      ∧ ((missing m).slice (0 : Fin 128).val).enable = false)
      ∧ (let m := miss1 [0] [] []
         Table.find (missing m).misses (lineKey (0 : Fin 128).val line1) = some m ∧ m.asked ≠ [] ∧ (missing m).snoops = []) := by decide
def part1 : Partial := { elems := [], tallyPa := 0x40100000 }
theorem witness_evictions :
    (let l : SLine := { data := zeros 128, valid := 15, dirty := 15, poison := false }
     Table.find ({ on0 with evicted := [(lineKey 0 line1, .dirty l)] } : State).evicted (lineKey (0 : Fin 128).val line1) = some (.dirty l))
      ∧ (let s := { on0 with evicted := [(lineKey 0 line1, .part part1 true)] }
         Table.find s.evicted (lineKey (0 : Fin 128).val line1) = some (.part part1 true) ∧ s.inAdder line1 = false ∧ s.tallyOpen part1 = false) := by
  decide
theorem witness_adders :
    (let s := { ext1 with evicted := [(lineKey 0 line1, .part part1 false)] }
     Table.find s.evicted (lineKey (0 : Fin 128).val line1) = some (.part part1 false) ∧ s.pkgLost line1 = false
      ∧ (s.mc (s.ctlOf (128 * line1))).rmws = [] ∧ (s.mc (s.ctlOf (128 * line1))).wiping = false)
      ∧ (let w : Rmw := { line := line1, part := part1, slices := [0] }
         let s := { ext1 with evicted := [(lineKey 0 line1, .part part1 true)] }.updMc (.lpd 0) (fun m => { m with rmws := [w] })
         (s.mc (.lpd 0)).rmws.find? (fun x => x.line = line1) = some w ∧ Table.find s.evicted (lineKey 0 line1) = some (.part part1 true)
          ∧ s.extBad line1 = false)
      ∧ (let m : TallyMsg := { pa := 0x40100004, line := line1, suite := 1, t := 1, out := false, inexact := false }
         listAt ({ ext1 with tallies := [m] } : State).tallies 0 = some m ∧ ext1.homeLost (ext1.homeOf 1 (0x40100004 / 128 * 128)) = false
          ∧ ext1.rangeAllows 1 0x40100004 4 false = true) := by decide

/-! ### Translation and maintenance -/

def xlating (op : BitVec 2) (done : Bool) (va pte : W64) : State :=
  ext1.updGsuite 1 (fun g => { g with xbusy := true, xop := op, xdone := done, xva := va, xpte := pte })
theorem witness_translation :
    let g := (xlating 1 false 0x40000000 0x100000CF).gsuite 1
    g.xbusy = true ∧ g.xdone = false ∧ g.xop = 1 ∧ g.xsize < 3 ∧ leafValid g.xsize g.xpte.toNat = true
      ∧ leafValid ((xlating 1 false 0 0).gsuite 1).xsize ((xlating 1 false 0 0).gsuite 1).xpte.toNat = false
      ∧ ((xlating 3 true 0 0).gsuite 1).xdone = true ∧ (xlating 3 true 0 0).cores = [] := by decide
/-- A descriptor at virtual address 0 of Suite 1: CLEAN of 128 bytes. -/
def maint1 (started : Bool) : State :=
  { ext1 with ext := [(0x40000008, 0x80), (0x4000000D, 0x01)] ++ ext1.ext }.updMaint 7 7 (fun m =>
    { m with busy := true, started := started, owner := 1, desc := 0 })
theorem witness_maintenance :
    ((maint1 false).maint 7 7).busy = true ∧ ((maint1 false).maint 7 7).started = false ∧ ((maint1 false).maint 7 7).byHearth = false
      ∧ ∃ bs s1, (maint1 false).gRead ((maint1 false).maint 7 7).owner ((maint1 false).maint 7 7).desc.toNat 32 = (some bs, s1)
        ∧ mntFormOk (wordsOf bs) false = true ∧ bitsOf (wordAt (wordsOf bs) 1) 40 4 = 1 ∧ bitsOf (wordAt (wordsOf bs) 1) 44 2 = 0 :=
  ⟨by decide, by decide, by decide, _, _, by rfl, by decide, by decide, by decide⟩
theorem witness_maintenance_complete :
    ((maint1 true).maint 7 7).busy = true ∧ ((maint1 true).maint 7 7).started = true ∧ ((maint1 true).maint 7 7).doneAddr = 0
      ∧ (maint1 true).mntOwes ((maint1 true).maint 7 7) = false := by decide
theorem witness_write_dropped :
    let r := { req1 (.group g0 3) .write with attr := .dev }
    Table.find (withReq on0 r).reqs 7 = some r ∧ r.kind ≠ .read ∧ (∀ h, r.owner ≠ .hart h) ∧ r.stage ≠ .answered
      ∧ (∃ reason : BitVec 2, (withReq on0 r).dropHolds r reason = true) := by
  refine ⟨by decide, by decide, by decide, by decide, ?_⟩
  decide
/-! ### Memory controllers -/

def reading (m : Miss) (rs : List CtlReq) : State := (missing m).updMc (.lpd 0) (fun x => { x with reqs := rs, strict := false })
theorem witness_controller_request :
    let m := miss1 [] [0] []
    Table.find (reading m []).misses (lineKey (0 : Fin 128).val line1) = some m ∧ m.want = (0 : Fin 4).val :: []
      ∧ (reading m []).ctlOf (128 * line1) = .lpd 0 ∧ ((reading m []).mc (.lpd 0)).wiping = false
      ∧ ((reading m []).mc (.lpd 0)).entryFor (.lpd 0) 1 = some false := by decide
def ctlReq0 : CtlReq := { slice := 0, line := line1, sector := 0, suite := 1, reserved := false, run := false }
theorem witness_sector_return :
    let m := miss1 [0] [] []
    let s := reading m [ctlReq0]
    Table.find s.misses (lineKey (0 : Fin 128).val line1) = some m ∧ (s.mc (s.ctlOf (128 * line1))).reqs = [ctlReq0]
      ∧ ctlReq0.sector = (0 : Fin 4).val ∧ (0 : Fin 4).val ∈ m.asked
      ∧ (s.mc (s.ctlOf (128 * line1))).paused.getLsbD (s.channelOf line1) = false ∧ s.pkgLost line1 = false
      ∧ m.filled.length + m.arrived.length + (m.brings (isDdr (s.ctlOf (128 * line1))) 0).length ≠ 4 := by decide
/-- A read without an error is good, and the last sector of a line that was read as it is stored has the right tag. -/
theorem witness_sector_good :
    let m := miss1 [0] [] []
    let s := reading m [ctlReq0]
    (s.readAttempt line1 0 (burst0 0)).1 = .good ∧ s.tagOk line1 (m.filled ++ m.arrived ++ [(0, (s.readAttempt line1 0 (burst0 0)).2)]) 0 = true
      ∧ s.tagOk line1 [] 1 = false := by decide +kernel
/-- A symbol in error in one place is corrected; a poisoned sector is seen as such. -/
theorem witness_sector_errors :
    (match (ext1.readAttempt line1 0 { sectors := [[1]], tagErr := 0 }).1 with | .fixed _ => true | _ => false) = true
      ∧ ({ ext1 with extPoison := [line1] }.readAttempt line1 0 (burst0 0)).1 = .poisoned := by decide +kernel
theorem witness_controller_upkeep :
    on0.on = true ∧ (on0.mc (.ddr 11)).failed = false ∧ hasChannel (.ddr 11) 0 = true ∧ hasChannel (.lpd 31) 3 = true
      ∧ (on0.mc (.ddr 11)).paused.getLsbD 0 = false ∧ (on0.mc (.ddr 11)).calMode = false
      ∧ (let s := on0.updMc (.lpd 0) (fun x => { x with calMode := true, due := 1, paused := 2, nextMap := some (false, []), wiping := true })
         (s.mc (.lpd 0)).calMode = true ∧ bitOf (s.mc (.lpd 0)).calMsi.toNat 0 = false ∧ (s.mc (.lpd 0)).due.getLsbD 0 = true
          ∧ (s.mc (.lpd 0)).paused.getLsbD 1 = true ∧ (s.mc (.lpd 0)).calWait = 0 ∧ (s.mc (.lpd 0)).nextMap = some (false, [])
          ∧ (s.mc (.lpd 0)).wiping = true)
      ∧ (let s := on0.updMc (.lpd 0) (fun x => { x with wipePage := some 512 })
         (s.mc (.lpd 0)).wipePage = some 512 ∧ (s.mc (.lpd 0)).wiping = false) := by decide

/-! ### Harts -/

/-- Hart 0 runs under Suite 1. -/
def hart1 (h : Hart) : State := ext1.updHart 0 (fun _ => { h with started := true, inReset := false, mxsuite := 0x101 })
def hacc1 (pbmt : BitVec 2) : HartAcc := { va := 0x1000, pa := 0x40000000, pa2 := 0, pbmt := pbmt, pbmt2 := 0, size := 8, mmode := false }
theorem witness_hart_access :
    (hart1 Hart.reset).hartReady 0 = true ∧ hartSizeOk (.x 5) (hacc1 0).size.val = true ∧ (hart1 Hart.reset).hartCheck .load (hacc1 0) = none
      ∧ (hart1 Hart.reset).hartCheck .store (hacc1 0) = none ∧ (hart1 Hart.reset).hartCheck .lr (hacc1 0) = none
      ∧ (hart1 Hart.reset).hartCheck .sc (hacc1 0) = none ∧ (hart1 Hart.reset).hartCheck .amo (hacc1 0) = none
      ∧ hartIo (hacc1 0).pa.toNat 0 = false ∧ hartIo (hacc1 2).pa.toNat 2 = true ∧ hartCached (hacc1 1).pa.toNat 1 = false
      ∧ (hart1 Hart.reset).ncRefused 0 (hacc1 1) true = none ∧ (hart1 Hart.reset).hartCheck .load (hacc1 2) = none
      ∧ (hart1 Hart.reset).hartCheck .load (hacc0 0xE00000000000 8) = some (5, 0xE00000000000)
      ∧ (hart1 Hart.reset).cboLine 0 (hacc1 0) true = some line1 ∧ (hart1 Hart.reset).cboLine 0 (hacc1 0) false = some line1 := by decide
theorem witness_sc :
    let s := (hart1 { Hart.reset with reserve := some line1 }).updParlour 0 (fun p => { p with l3 := [(l3Key line1 1, l3 false)] })
    (s.hart 0).reserve = some (0x40000000 / 128) ∧ s.hartHas 0 (0x40000000 / 128) true = true
      ∧ ((hart1 Hart.reset).hart 0).reserve ≠ some (0x40000000 / 128) := by decide
/-- An SC without a reservation answers 1 and stores nothing. -/
theorem test_sc_fails :
    let t := run (.sc 0 (hacc1 0) 5 6 false) (hart1 Hart.reset)
    (t.hart 0).reg 5 = 1 ∧ t.ext = ext1.ext := by decide
theorem witness_hart_events :
    let s := withReq (hart1 { Hart.reset with devStores := [7], mstatusVs := 1 }) { hreq .write with attr := .dev }
    s.on = true ∧ (7 : Nat) ∈ (s.hart 0).devStores ∧ s.hartReady 0 = true ∧ msendFields 0x0000028B = some (5, 0)
      ∧ (s.hart 0).vsOff = false ∧ msendFields 0x0010028B = none
      ∧ ((withReq (hart1 { Hart.reset with wait := .devLoad 7 (hacc1 2) (.x 5) false }) (hreq .read)).hart 0).wait = .devLoad 7 (hacc1 2) (.x 5) false := by
  decide
theorem witness_msend_answer :
    let m : HartMail := { rd := 5, msg := mail0 1 0, after := [3] }
    let s := hart1 { Hart.reset with mail := some m, devStores := [4] }
    (s.hart 0).mail = some m ∧ (∀ k ∈ m.after, k ∉ (s.hart 0).devStores) ∧ (s.hart 0).tag = (mail0 1 0).suite
      ∧ (s.hart 0).tag ≠ ({ mail0 1 0 with suite := 2 } : MailMsg).suite ∧ (s.offerMail 1 (.hart (0 : Fin 128).val) (mail0 1 0) false).1 = 2 := by
  decide
theorem test_mtime : ((run (.mtimeTick 1) (on0.updParlour 1 (fun p => { p with refLocked := true }))).parlour 1).mtime = 1 := by decide
theorem witness_mtime : ((on0.updParlour 1 (fun p => { p with refLocked := true })).parlour 1).refLocked = true := by decide
def vhart1 : VHart :=
  { suite := 1, hart := 0, entry := 0, root := 0, a0 := 0, started := false, lastTime := 0, delta := 0, kicked := false, file := 0, die := 0, regs := [],
    fregs := [], vregs := [], vscsr := [(0x200, 0x200)], vsxerr := false }
def monitored (x : Table W64) : State :=
  let s := hart1 { Hart.reset with x := x, owner := 1 }
  { s with hearth := { s.hearth with vharts := [(1, vhart1)] } }.updHart 127 (fun h => { h with inReset := false, started := false })
theorem witness_monitor :
    (monitored [(10, 1)]).hartCalls 0 = true ∧ ((monitored [(10, 1)]).hart 0).reg 10 = 1
      ∧ Table.find (monitored [(10, 1)]).hearth.vharts 1 = some vhart1 ∧ ((monitored [(10, 1)]).hart 0).owner = vhart1.suite
      ∧ (monitored [(10, 1)]).vhartOn 1 = none ∧ vhart1.file = 0
      ∧ Table.find (monitored [(10, 2)]).hearth.vharts 2 = none
      ∧ ((monitored [(10, 127)]).hart 127).inReset = false ∧ ((monitored [(10, 127)]).hart 127).started = false
      ∧ ((monitored [(10, 1), (11, 0)]).hart 0).reg 11 = 0 := by decide
theorem witness_vm_exit :
    ((hart1 { Hart.reset with vhart := some 1 }).hart 0).vhart = some 1 ∧ ((hart1 { Hart.reset with vhart := some 1 }).hart 0).wait = .none := by
  decide

/-! ### Supply, reset and start-up -/

def charged : State := { State.reset with pins := { State.reset.pins with charged := true } }
theorem witness_power_up :
    charged.on = false ∧ 40000 ≤ 40000 ∧ 60000 ≤ 60000 ∧ charged.pins.charged = true ∧ charged.pins.thermtrip = false
      ∧ 39999 < 40000 ∧ 60000 < 60001 := by decide
theorem test_power_up :
    (run (.powerUp 40000 true true true) charged).on = true ∧ (run (.powerUp 60000 true true true) charged).hearth.step = 1
      ∧ (run (.powerUp 39999 true true true) charged).on = false ∧ (run (.powerUp 60001 true true true) charged).on = false := by decide
theorem witness_inrush : ({ State.reset with pins := { State.reset.pins with inRange := true } } : State).pins.inRange = true := by decide
/-- The fuses outlast a loss of supply. -/
theorem test_power_loss :
    let t := run .powerLoss ext1
    t.on = false ∧ t.hearth.life = .field ∧ t.ext = [] ∧ t.hearth.suites = [] := by decide
def starting (n : Nat) (life : Life) : State := { on0 with hearth := { on0.hearth with step := n, life := life } }
theorem witness_reset_requests :
    on0.on = true ∧ on0.hearth.step ≠ 1 ∧ on0.hearth.resetReq = none ∧ on0.mgmtWriter .hearth = some 3 ∧ on0.mgmtWriter (.suite 1) = none
      ∧ on0.hearth.lifeHalt = false ∧ (hart1 { Hart.reset with x := [(10, 1)] }).hartCalls 0 = true := by decide
theorem witness_firmware :
    let h := { on0.hearth with fwState := 2 }
    ({ on0 with pins := { on0.pins with modOn := true } } : State).pins.modOn = true ∧ on0.hearth.lifeHalt = false
      ∧ on0.hearth.writing = false ∧ h.fwState = 2 ∧ h.writing = true ∧ h.fwWritten.toNat + 256 ≤ (if h.fwTarget then 2 ^ 24 else 2 ^ 26) := by
  decide
def configCopy0 : ConfigCopy :=
  { magic := 0x43585645, version := 1, length := 2 ^ 24, bootOff := 4096, bootLen := 15 * 2 ^ 20, modes := 0, opKey := 0, digest := 0, actual := 0,
    boot := [] }
/-- A configuration block at the limits of its length and of its boot image. -/
theorem test_config_ok :
    configOk configCopy0 = true ∧ configOk { configCopy0 with bootLen := 15 * 2 ^ 20 + 1 } = false
      ∧ configOk { configCopy0 with digest := 1 } = false ∧ chooseCopy 1 2 true true = some true := by decide
theorem witness_startup :
    (starting 1 .blank).hearth.step = 1 ∧ (starting 1 .blank).hearth.life = .blank ∧ (starting 1 .field).hearth.life ≠ .blank
      ∧ (starting 7 .field).wipesDone (List.range 32) = true ∧ (starting 8 .field).wipesDone (List.range 44) = true
      ∧ imageOk 3 (image0 4) = false := by
  refine ⟨by decide, by decide, by decide, by decide, by decide, by rfl⟩
theorem test_rom :
    (run (.hearthRomStart true) (starting 1 .scrapped)).hearth.fault = 8 ∧ (run (.hearthRomStart false) (starting 1 .field)).hearth.fault = 7
      ∧ (run (.hearthRomStart true) (starting 1 .field)).hearth.step = 2 := by decide
/-- Two Wings that report the same number are both left out (R21). -/
theorem test_die_identity :
    let t := run (.dieIdentityCheck [8, 8, 2, 11, 4, 13, 14, 7]) (starting 2 .field)
    (t.wing 0).included = false ∧ (t.wing 1).included = false ∧ (t.wing 3).included = true := by decide

/-! ### Power, Bellwire and losses -/

theorem witness_power :
    on0.on = true ∧ 38999 < 39000 ∧ on0.power.uv = false ∧ sensorsTrip (sensors0 8 2) = false
      ∧ sensorsTrip { sensors0 8 2 with wingDie := [440, 0, 0, 0, 0, 0, 0, 0] } = true
      ∧ ({ on0 with power := { on0.power with tripCount := 1 } } : State).power.tripCount = 1
      ∧ ((on0.updThr 15 6 (fun r => { r with running := true })).thr 15 6).running = true
      ∧ ((on0.updThr 15 6 (fun r => { r with running := true })).thr 15 6).active = false
      ∧ (on0.unit (wingOfRoom c0.room).val).hotZero = false ∧ on0.jobWriter .bmc = none ∧ on0.jobWriter (.suite 0) = some 0 := by decide
/-- 40 V at 62.5 A is 2,500 W: one sample of 16 cycles at 400 MHz, 40 ns, is 100 µJ. -/
theorem test_energy : (run (.energySample 40000 6250) on0).power.energy = 100 := by decide
theorem witness_bellwire :
    let s := { ext1 with bw := [msg1 (.core c0) (.parlour 0) .beat, msg1 (.core c0) (.parlour 0) .freed] }
    listAt s.bw 0 = some (msg1 (.core c0) (.parlour 0) .beat) ∧ s.bw.take 0 = [] ∧ s.endpointUp (.parlour 0) = true
      ∧ s.staleMsg (msg1 (.core c0) (.parlour 0) .freed) = false ∧ s.staleMsg { msg1 (.core c0) (.parlour 0) .freed with gen := 2 } = true
      ∧ ({ s with hopsOut := [.parlour 0] } : State).endpointUp (.parlour 0) = false := by decide
def rec1 : RasRec := { rep := RasRep.zero, reporter := 0, stamp := 0, hstamp := 0, seq := 0 }
theorem witness_ras :
    (∃ s1, { on0 with delivered := [msg1 (.core c0) .hearth (.ras RasRep.zero)] }.takeFor .hearth
        (fun p => match p with | .ras _ => true | _ => false) = some (msg1 (.core c0) .hearth (.ras RasRep.zero), s1))
      ∧ ({ on0.hearth with ringReg := 6, rasQueue := [rec1] }).rasRoom = true := ⟨⟨_, rfl⟩, by decide⟩
theorem witness_losses :
    let s := on0.updWing 7 (fun w => { w with included := true })
    (s.wing 7).lost = false ∧ (s.wing 7).included = true ∧ linkExists 0x08 = true ∧ linkExists 0x48 = false
      ∧ linkExists 0x4B = true ∧ (linkCellars 0x08).head? = some 0 ∧ s.lostLinks.contains (0x08 : Nat) = false
      ∧ s.hearth.routes.contains (0x08 : Nat) = false := by decide

/-! ### Ports, copy engines and peers -/

def linked (p : Port) (st : PortState) : State := on0.updLink p (fun l => { l with state := st })
theorem witness_links :
    ((linked (.by 3) .active).link (.by 3)).state = .active ∧ ((linked (.bz 5) .config).link (.bz 5)).state = .config
      ∧ ((linked (.bz 5) .config).link (.bz 5)).secondTry = false
      ∧ lanesWidth (.by 0) 0xFF = some false ∧ lanesWidth (.by 0) 0x0F = some true ∧ lanesWidth (.by 0) 0x0E = none
      ∧ lanesWidth (.bz 0) 0xFF00 = some true ∧ ((linked (.by 0) .detect).link (.by 0)).state = .detect
      ∧ ((linked (.by 0) .eq).link (.by 0)).state = .eq ∧ ((linked (.by 0) .align).link (.by 0)).state = .align := by decide
theorem witness_config_modid : ∃ modid : W64, modid ≠ Config.modid := ⟨Config.modid + 1, by intro h; simp at h⟩
/-- The first failed training of a port returns it to DETECT, the second takes it down. -/
theorem test_training :
    ((run (.trainingStateTimeout (.by 0)) (linked (.by 0) .eq)).link (.by 0)).state = .detect
      ∧ ((run (.trainingStateTimeout (.by 0)) ((linked (.by 0) .eq).updLink (.by 0) (fun l => { l with secondTry := true }))).link (.by 0)).state
          = .down := by decide
/-- Copy engine 0 of Suite 1 with a descriptor in hand: SRC, DST, LEN and OP, and so on. -/
def copying (ws : List W64) (moved : Bool) (next : Nat) : State :=
  ext1.updEngine 0 (fun x => { x with busy := true, own := 0x101, words := some ws, moved := moved, next := next })
theorem witness_copy :
    let x := (copying [0, 0x1000, 128 + 2 ^ 40, 0, 0, 0, 0, 0] false 0).engine 0
    x.busy = true ∧ x.words.isSome = true ∧ x.op = 1 ∧ x.next < x.len ∧ x.status = 0 ∧ x.owner = some 1 ∧ x.gcm = false ∧ x.srcHost = false
      ∧ x.dstHost = false ∧ ((copying [0, 0x1000, 128 + 2 ^ 40 + 2 ^ 44, 0, 0, 0, 0, 0] false 0).engine 0).srcHost = true
      ∧ (copying [0, 0x1000, 128 + 2 ^ 40 + 2 ^ 44, 0, 0, 0, 0, 0] false 0).hostRoom 0 1 = true
      ∧ ((copying [0, 0x1000, 4096 + 2 ^ 40 + 2 ^ 44 + 2 ^ 48, 0, 0, 0, 0, 0] false 0).engine 0).gcm = true
      ∧ ((copying [0, 0x1000, 128 + 2 ^ 41, 0, 0, 0, 0, 0] false 0).engine 0).op = 2 := by decide
theorem witness_atom :
    let s := copying [5, 8, 8 + 3 * 2 ^ 40, 0, 0, 0, 0, 0] false 0
    (s.engine 0).op = 3 ∧ (s.engine 0).next < (s.engine 0).len ∧ (s.engine 0).status = 0
      ∧ (match (s.updEngine 0 (fun y => { y with moved := true, next := (s.engine 0).len })).locate 1 ((s.engine 0).word 1) true true with
         | (none, _) => false
         | (some l, t) =>
           decide (l.region.attr = .wbA) && !l.region.common && t.rangeAllows 1 l.pa 8 false
             && t.porchReaches (enginePorch 0) (t.homeOf 1 l.pa) && !t.pkgLost (l.pa / 128)
             && decide ((t.sysRead 1 l.pa 8 l.region.attr).1 = (zeros 8, false))) = true := by decide +kernel
theorem witness_copy_end :
    let x := (copying [0, 0x1000, 128 + 2 ^ 40, 0, 0, 0, 0, 0] true 128).engine 0
    x.busy = true ∧ x.moved = true ∧ x.open_ = [] ∧ x.len ≤ x.next ∧ x.note = false ∧ x.flag 50 = false := by decide
def hostReq0 (kind : BitVec 2) : HostReq := { tag := 9, kind := kind, pos := 0, len := 16, addr := 0, data := [], again := false }
def answered (kind : BitVec 2) : State :=
  ((copying [0, 0x1000, 128 + 2 ^ 40 + 2 ^ 44, 0, 0, 0, 0, 0] true 16).updEngine 0 (fun x => { x with open_ := [hostReq0 kind] })).updByPort 0
    (fun p => { p with link := { p.link with state := .active, partner := 1 } })
theorem witness_host_answers :
    let hr := { hdr0 0x21 16 with len := 1, tag := 9 }
    let hw := { hdr0 0x23 0 with tag := 9 }
    ((answered 0).engine 0).open_.find? (fun y => y.tag = 9) = some (hostReq0 0) ∧ (answered 0).current 1 1 = true
      ∧ ((answered 0).engine 0).owner = some hr.suite
      ∧ (answered 0).msgFormOk 0 hr 0x21 (unitBytes hr.count.toNat) (some 512) false = true ∧ (zeros 16).length = unitBytes hr.count.toNat
      ∧ (answered 0).hostReqOf 0 hr.tag true = some (0, hostReq0 0) ∧ hr.status = 0 ∧ hr.count.toNat = (hostReq0 0).len
      ∧ (answered 1).msgFormOk 0 hw 0x23 0 none false = true ∧ (answered 1).hostReqOf 0 hw.tag false = some (0, hostReq0 1) := by decide
theorem gcmOpen_self (k : BitVec 256) (n a c : List Byte) : (gcmOpen k n a c (Config.gcmTag k n a c)).isSome = true := by simp [gcmOpen]
/-- A CPY_START whose tag is the tag of its session's key. -/
def session1 : Session :=
  { suite := 1, gen := 1, cmdKey := 0, h2mKey := 0, m2hKey := 0, lastSeq := 0, cpySeq := 0, dseqIn := 0, dseqOut := 0 }
def chdr0 : BeyfyHdr := { hdr0 6 0 with len := 2, session := 1, tag := 3 }
theorem witness_cpy_start :
    (let s := { answered 0 with hearth := { (answered 0).hearth with sessions := [(1, session1)] } }
     s.msgFormOk 0 chdr0 6 32 none true = true ∧ s.sessionOf 1 1 1 = some session1 ∧ s.copySeqOk 1 1 session1 1 = true
      ∧ chdr0.arg.toNat % 32 = (0 : Fin 32).val ∧ (∀ r ∈ s.reqs, r.2.kind ≠ .write))
      ∧ ∀ zero8 : W64, ∃ tag,
          (gcmOpen session1.cmdKey (cmdNonce 4 1 1) (beyfyBytes chdr0 ++ leBytes 8 1 ++ leBytes 8 zero8.toNat) [] tag).isSome = true :=
  ⟨by decide, fun _ => ⟨_, gcmOpen_self _ _ _ _⟩⟩
def phdr0 (type : BitVec 4) (len : BitVec 9) (tag : BitVec 128) : PeerHdr :=
  { type := type, len := len, psess := 1, status := 0, xtag := 2, offset := 0, arg := 0, tag := tag }
/-- Session 1 of port BZ0 is open for Suite 1. -/
def peered (out : List (BitVec 16 × Nat)) : State :=
  (ext1.updBzPort 0 (fun p => { p with link := { p.link with state := .active } })).updSess 0 1 (fun x =>
    { x with lo := sessWord 1 1 0 true, pwrOut := out })
/-- A message of every form, with the tag of its session's key, is taken in; one with another tag is not. -/
theorem witness_peer_messages (type : BitVec 4) (len : BitVec 9) (payload : List Byte) (tag : BitVec 128)
    (h : peerFormOk (phdr0 type len tag) payload = true) :
    ((peered []).peerOpen 0 (phdr0 type len tag) type.toNat payload).1.isSome
      = decide (Config.gcmTag 0 (peerNonce 0 1) (peerHead (phdr0 type len tag)) payload = tag) := by
  have ha : ((peered []).bzPort 0).link.state = .active := by decide
  have hl : (peered []).sessLive 0 1 = true := by decide
  have hp : ((peered []).sess 0 1).port 0 = 0 := by decide
  have hk : ((peered []).sess 0 1).rxKey = 0 ∧ ((peered []).sess 0 1).rxCount = 0 := by decide
  have ht : (phdr0 type len tag).type = type ∧ (phdr0 type len tag).psess = 1 ∧ (phdr0 type len tag).tag = tag := ⟨rfl, rfl, rfl⟩
  have hq : porchOf (.bz 0) = 0 := rfl
  have hs : ((peered []).sess 0 (1 : BitVec 8).toNat) = (peered []).sess 0 1 := rfl
  simp only [State.peerOpen, ht, hq, hs, hk, hl, hp, ha, h, gcmOpen]
  rw [if_neg (by decide), if_neg (by simp), if_neg (by decide)]
  by_cases e : Config.gcmTag 0 (peerNonce 0 1) (peerHead (phdr0 type len tag)) payload = tag
  · rw [if_pos e, decide_eq_true e]
    rfl
  · rw [if_neg e, decide_eq_false e]
    rfl
theorem witness_peer_forms :
    peerFormOk (phdr0 1 1 0) (zeros 16) = true ∧ peerFormOk (phdr0 2 0 0) [] = true ∧ peerFormOk (phdr0 3 4 0) (zeros 64) = true
      ∧ peerFormOk (phdr0 4 1 0) (zeros 16) = true ∧ peerFormOk (phdr0 4 0 0) [] = false ∧ peerFormOk (phdr0 6 0 0) [] = true ∧ peerFormOk (phdr0 7 1 0) (zeros 16) = true
      ∧ peerFormOk { phdr0 0 0 0 with psess := 0 } [] = true ∧ ((peered []).bzPort 0).link.state = .active := by decide
theorem witness_peer_answers :
    ((peered [(2, 0)]).sess 0 1).pwrOut.find? (fun z => z.1 = 2) = some (2, 0) ∧ ((peered []).sess 0 1).pwrOut = []
      ∧ (peered [(2, 0)]).sessBusy 0 1 = true ∧ (peered []).sessLive 0 1 = true ∧ ((peered []).sess 0 1).port 0 = 0 := by decide
def collective (started : Bool) (op : Nat) : State :=
  on0.updColl 1 7 (fun x =>
    { x with busy := true, started := started, dstDone := true, words := some [0, 0, BitVec.ofNat 64 (op * 2 ^ 32), 2, 0, 0, 0, 0], doneFrom := [1] })
theorem witness_collectives :
    ((collective false 1).coll 1 (7 : Fin 8).val).op = 1 ∧ ((collective false 5).coll 1 (7 : Fin 8).val).op = 5
      ∧ ((collective false 1).coll 1 (7 : Fin 8).val).started = false ∧ ((collective false 1).coll 1 (7 : Fin 8).val).words.isSome = true
      ∧ ((collective true 1).coll 1 (7 : Fin 8).val).dstDone = true
      ∧ (∀ r, r < ((collective true 1).coll 1 (7 : Fin 8).val).nrank → r ≠ ((collective true 1).coll 1 (7 : Fin 8).val).rank →
          r ∈ ((collective true 1).coll 1 (7 : Fin 8).val).doneFrom)
      ∧ ((collective true 5).coll 1 (7 : Fin 8).val).putOpen = 0 := by decide

/-! ### Hearth calls -/

/-- A module in FIELD with Suites 0 and 1. -/
def calls : State := { ext1 with hearth := { ext1.hearth with suites := [(0, { suite1 with gen := 0, regions := [] }), (1, suite1)] } }
theorem witness_calls :
    calls.mayCall 0 ∧ calls.mayCall 1 ∧ (calls.entered 0).mayName 1 1 ∧ (calls.entered 1).mayName 1 1 := by
  refine ⟨⟨by decide, by decide⟩, ⟨by decide, by decide⟩, ⟨by decide, by decide, by decide⟩, ⟨by decide, by decide, by decide⟩⟩
theorem witness_operator :
    calls.hearth.life = .field ∧ calls.hearth.debugOpen = false ∧ resBlockFormOk (block0 8) = true ∧ (block0 8).slices ≠ 0
      ∧ ((calls.entered 0).suite 2).state = .absent ∧ ((calls.entered 0).suite 2).retired = false ∧ (block0 8).tpk = 0
      ∧ (resBlockRect (block0 8)).isSome = true ∧ ((calls.entered 0).suite 1).afterRemove = false ∧ (calls.entered 0).otherCall 1 = false
      ∧ ((calls.entered 0).suite 1).state = .active ∧ (calls.entered 0).suiteBusy 1 = false 
      ∧ (calls.entered 0).namedOk 1 1 = 0 ∧ resBlockNoPages (block0 8) = true ∧ lifeOf 3 = some .return_ := by decide
/-- A core and its Room under test: the Room has no owner, and its Wing is in the configuration. -/
theorem witness_selftest :
    let s := calls.updWing 0 (fun w => { w with included := true })
    testRoom 0 = some c0.room ∧ bitOf (s.room c0.room).rect.toNat 40 = false ∧ s.roomTested c0.room = false
      ∧ (s.wing (wingOfRoom c0.room)).included = true := by decide
theorem test_get_nonce_answered : (run (.nonce (.inModule 0 1)) calls).hearth.nonces.length = 1 := by decide
/-- A tenant may not set the strict mode. -/
theorem test_strict_refused : (run (.strictSet (.inModule 1 1) true) calls).hearth.strict = false := by decide
theorem witness_tenant :
    let t := calls.entered 1
    (∃ x : Session, x.suite = 1)
      ∧ ((calls.updHart 0 (fun h => { h with owner := 1 })).entered 1).hart 0 = { Hart.reset with owner := 1 } ∧ (t.gsuite 1).senders = []
      ∧ regionFormOk { w0 := 2 ^ 30, w1 := 1, w2 := 16, w3 := 0 } = true ∧ (t.suite 1).regionTaken 63 { w0 := 2 ^ 30, w1 := 1, w2 := 16, w3 := 0 } = false
      ∧ t.ownPage 1 0x40000000 = true ∧ pageListOk [0x40000000] = true ∧ calls.hearth.life = .field
      ∧ (t.hearth.sessions.filter (fun e => e.2.suite = 1)).length < 16 ∧ (t.hearth.vharts.filter (fun e => e.2.suite = 1)).length < 256 := by
  refine ⟨⟨{ suite := 1, gen := 1, cmdKey := 0, h2mKey := 0, m2hKey := 0, lastSeq := 0, cpySeq := 0, dseqIn := 0, dseqOut := 0 }, rfl⟩, ?_⟩
  decide
theorem test_root_set :
    let t := run (.rootSet (.inModule 1 1) 1 1 0x40001000) calls
    (t.gsuite 1).root = 0x40001000 ∧ (t.suite 1).callBusy = false := by decide
/-- A common region of one page, published by Suite 1 and read by nobody. -/
def common1 : CommonRegion :=
  { CommonRegion.reset with valid := true, publisher := 1, pages4k := 512, pages := [512], digests := [0], repairing := [0] }
def commoned : State := { calls with hearth := { calls.hearth with commons := [(3, common1)] }, extPoison := [0x40000000 / 128] }
theorem witness_common :
    Table.get CommonRegion.reset (commoned.entered 1).hearth.commons (3 : BitVec 4).toNat = common1 ∧ common1.valid = true
      ∧ common1.readers = 0 ∧ common1.backing = [] ∧ (3 : BitVec 4) ≠ 15
      ∧ regionFormOk { commonEntry common1 (2 ^ 30) with w2 := BitVec.ofNat 64 (4 + 16) } = true
      ∧ ((commoned.entered 1).suite 1).regionTaken 63 (commonEntry common1 (2 ^ 30)) = false ∧ (0 : Nat) ∈ common1.repairing
      ∧ ((commoned.entered 1).gRead 1 0x1000 16).1.isSome = true := by
  decide
theorem witness_common_page :
    (0 : BitVec 32).toNat < common1.pages4k.toNat ∧ common1.backed = false ∧ (∃ l ∈ commoned.extPoison, l / 32 = common1.pagePa 0 / 4096) := by
  refine ⟨by decide, by decide, ⟨_, List.mem_singleton.mpr rfl, by decide⟩⟩
theorem witness_vhart_call :
    (0 : BitVec 8).toNat < 128 ∧ ((calls.updHart 0 (fun h => { h with owner := 1 })).hart (Fin.ofNat 128 0)).owner = 1
      ∧ Table.find (monitored []).hearth.vharts 1 = some vhart1 ∧ vhart1.suite = 1 := by decide
theorem witness_peer_calls :
    (calls.entered 1).psessTaken (porchOf (.bz 5)) 1 = false ∧ ((peered []).entered 1).psessTaken 0 1 = true
      ∧ (((peered []).entered 1).sess 0 (1 : BitVec 8).toNat).suite = 1 ∧ (((peered []).entered 1).sess 0 (1 : BitVec 8).toNat).valid = true := by decide
theorem test_peer_close : ((run (.peerClose (.inModule 1 1) 1 1 0 1) (peered [])).sess 0 1).valid = false := by decide
def inState (st : SuiteState) (wiped : Bool) (ch : Option Change) : State :=
  { calls with hearth := { calls.hearth with suites := [(1, { suite1 with state := st, wiped := wiped, change := ch })] } }
def change1 : Change :=
  { rect := none, dropped := [], added := [], slices := 1, cpy := 0, win := 0, harts := 0, ctx := 0, resLpd := 0, resDdr := 0, newPages := [],
    killed := false, lead := none }
theorem witness_call_ends :
    ((inState .building false none).suite 1).state = .building ∧ (∀ r ∈ rectRooms suite1.rect, ((inState .building false none).room r).wiping = false)
      ∧ (inState .building false none).pagesWiped [] = true
      ∧ ((inState .changing false (some change1)).suite 1).change = some change1 ∧ (inState .changing false (some change1)).changeReady 1 change1 = true
      ∧ ((inState .resetting true none).suite 1).wiped = true ∧ ((inState .removing true none).suite 1).state = .removing
      ∧ ((calls.updGsuite 1 (fun g => { g with moving := true })).gsuite 1).moving = true
      ∧ (let r : Running := { call := 0x26, suite := 1, via := .inModule 1 1, pages := [512] }
         ({ calls with hearth := { calls.hearth with running := [r] } } : State).hearth.running = [r] ∧ calls.pagesWiped r.pages = true)
      ∧ (testRoom 0 = some c0.room ∧ testCores 0 = [c0] ∧ bitOf (testResult 1) 0 = true) := by decide
/-- A Suite that is still occupied by a group is not quiet. -/
theorem witness_quiesce :
    (({ inState .changing false (some { change1 with dropped := [c0.room] }) with cores := (one sl0).cores } : State).roomsQuiet [c0.room]) = false := by
  decide
theorem test_suite_built : ((run (.suiteBuildComplete 1 false) (inState .building false none)).suite 1).state = .active := by decide

/-! ### More witnesses: the clauses beside the first of each statement -/

/-- EFENCE at ROOM scope, and at CORE scope with a write on its way. -/
theorem witness_fence_scopes :
    (let i := insn 0x01FF_000D 0
     State.Issues (one sl0) g0 0x01FF_000D 0
       (i.okF && i.bits 16 4 ≠ 0 && i.bits 20 4 ≠ 0 && i.bits 24 2 ≠ 3 && i.bits 32 8 = 0 && i.bits 24 2 ≠ 0) (use0 .scalar [] []))
      ∧ (insn 0x00FF_000D 0).bits 24 2 = 0
      ∧ (let o := MemOp.blank 3 .scalar
         let r := req1 (.group g0 3) .write
         let s := withReq (one { sl0 with ops := [o] }) r
         Table.find s.reqs 7 = some r ∧ o ∈ (s.slot g0).ops ∧ (15 : BitVec 4).getLsbD (engineBit o.engine) = true) :=
  ⟨issues_of (by decide), by decide, by decide⟩
/-- A group parked for a poisoned Room block that has since been written, with a notice for its page. -/
def repaired : State :=
  let r := { req1 (.group g0 3) .read with va := 64, addr := 64 }
  (one { sl0 with
    state := .parked, fault := some { cause := .poison, addr := 64 },
    marks := [{ place := .sreg 3, op := 3, addr := 64 }], kept := [{ MemOp.blank 3 .scalar with load := true, replay := [r] }] }).updCore c0 (fun x => { x with reinstalled := [9] })
theorem witness_automatic_replay :
    repaired.on = true ∧ (repaired.core c0).replayMode = false ∧ (repaired.slot ⟨c0, 0⟩).state = .parked
      ∧ (repaired.slot ⟨c0, 0⟩).autoPc ≠ some (repaired.slot ⟨c0, 0⟩).pc ∧ (9 : Nat) ∈ (repaired.core c0).reinstalled
      ∧ repaired.repairedBy ⟨c0, 0⟩ 9 = true ∧ (repaired.slot ⟨c0, 1⟩).state ≠ .parked := by decide
theorem test_automatic_replay :
    ((run (.automaticReplay c0) repaired).slot g0).state = .active ∧ ((run (.automaticReplay c0) repaired).slot g0).ops.length = 1 := by decide
/-- What the register commands ask for beside the right to give them. -/
theorem witness_register_commands :
    (on0.link (.by 0)).state = .down ∧ (on0.engine 31).busy = false
      ∧ ((on0.updEngine 31 (fun x => { x with own := 0x101 })).engine 31).owner = some 1
      ∧ (on0.updEngine 31 (fun x => { x with own := 0x101 })).engineWriter (.suite 1) 31 = true
      ∧ (let v : W64 := 2 ^ 16 + 2 ^ 5
         let s := one { sl0 with state := .parked, parkSeq := 1, fault := some { cause := .trap, addr := 0 } }
         s.roomWriter .hearth c0.room = true ∧ (cmdFields v).2.1 = 1 ∧ (cmdFields (v + 2 ^ 5)).2.1 = 2
          ∧ (s.slot ⟨c0, (cmdFields v).1⟩).state = .parked ∧ (s.slot ⟨c0, (cmdFields v).1⟩).parkSeq = (cmdFields v).2.2
          ∧ (s.slot ⟨c0, (cmdFields v).1⟩).fault = some { cause := .trap, addr := 0 })
      ∧ (on0.slice 127).cleanState = false ∧ ((on0.updSlice 127 (fun x => { x with cleanState := true })).slice 127).cleanState = true
      ∧ (on0.core c0).rocClean = false ∧ ((on0.updCore c0 (fun x => { x with rocClean := true })).core c0).rocClean = true
      ∧ coreOfId 0x0005 = some ⟨⟨0, 0⟩, 5⟩ ∧ wingOfRoom ⟨0, 0⟩ = 0 ∧ coreOfId 0x1000 = none ∧ hallOfId 0x1000 = some ⟨0, 0⟩
      ∧ (on0.gsuite 1).xbusy = false ∧ graphWriter (.suite 1) 1 = true ∧ parlourOf 64 = 1 := by decide
/-- A register of each kind that the statement about register accesses names. -/
theorem witness_register_access :
    imsicFile 0xF00060000008 = none ∧ accessForm 0xF00060000008 8 = some (true, true) ∧ accessForm 0xF00060000008 4 = some (true, false)
      ∧ accessForm 0xF0006000000C 4 = some (false, true) ∧ regOf 0xF00060000008 = some (.power .own)
      ∧ regOf 0xF00041007FF8 = some (.band 4095) ∧ regOf 0xF0001000C020 = some (.room ⟨0, 0⟩ .pwr)
      ∧ regOf 0xF0001000C018 = some (.room ⟨0, 0⟩ .meshCnt) ∧ on0.writable .hearth (.power .own) = true
      ∧ on0.writable (.suite 1) (.power .own) = false ∧ on0.readable .hearth (.power .own) = true
      ∧ on0.readable (.suite 1) (.room ⟨0, 0⟩ .meshCnt) = false
      ∧ (imsicFile 0xF0002807F000).isSome = true ∧ imsicForm 0xF0002807F000 4 = true := by decide
theorem test_register_write :
    (run (.controlRegisterWrite .hearth 0xF00060000008 8 5) on0).power.owner = 5
      ∧ (run (.controlRegisterWrite (.suite 1) 0xF00060000008 8 5) on0).lastOk = false := by decide
/-- A mesh counter is cleared by its read. -/
theorem test_rc_read :
    let t := run (.rcFieldRead .hearth 0xF0001000C018 8 0) (on0.updRoom c0.room (fun r => { r with discard := 3 }))
    t.lastRead ≠ 0 ∧ (t.room c0.room).discard = 0 := by decide
/-- A record of an earlier generation of its Suite, and of the present one. -/
theorem witness_record_generation :
    (msg1 (.core c0) (.dispatcher 0) (.record ⟨0, 0, 0, 0⟩)).gen = ext1.genOf 1 ∧ (ext1.suite 1).staleAll = false
      ∧ ({ msg1 (.core c0) (.dispatcher 0) (.record ⟨0, 0, 0, 0⟩) with gen := 0 } : BwMsg).gen ≠ ext1.genOf 1 := by decide
/-- A spill of a context none of whose parts is valid ends at once. -/
theorem witness_spill :
    let s := on0.updGsuite 1 (fun g => { g with ctxs := [(0, ctx1)] })
    s.stairLanes (ctx1.validParts.map (fun p => (p.1, p.2.1))) = (some [], s) ∧ s.spillCopy 1 ctx1 (Table.get 14 []) [] = (none, s) :=
  ⟨by rfl, by rfl⟩
/-- A Hall whose lanes 14 and 15 are empty has one for a stream, whichever it is. -/
theorem witness_stair_lane :
    (∃ l, (on0.stairLane c0.room).1 = some l) ∧ ∃ lanes q, (streaming stream1).stairLanes stream1.members = (some lanes, q) :=
  ⟨⟨_, by rfl⟩, _, _, by rfl⟩

/-- A read, a write, an atomic and a contribution of Suite 1 to a line of its own page, which its home's slice holds whole. -/
def full1 : SLine := { data := zeros 128, valid := 15, dirty := 0, poison := false }
def homed (r : Req) : State :=
  { withReq ext1 r with lines := [(lineKey (ext1.homeOf 1 0x40000000) line1, full1)] }
def homeReqs : List Req :=
  [{ hreq .read with par := .rdS }, { hreq .read with par := .rdX }, { hreq .read with par := .upg }, hreq .read,
    { hreq .write with data := zeros 8 }, hreq .atomic, { hreq .red with attr := .red }]
theorem home_serves (r : Req) (h : r ∈ homeReqs) : (homed r).HomeServes 7 r := by
  simp only [homeReqs, List.mem_cons, List.not_mem_nil, or_false] at h
  rcases h with rfl | rfl | rfl | rfl | rfl | rfl | rfl <;>
    exact ⟨by decide, by decide, by decide, by decide, by decide, by decide, by decide, by decide, by decide, by decide, by decide, by decide⟩
theorem witness_home_served :
    (let r := hreq .read
     let slice := (homed r).reqHome r
     r.addr / 128 = line1 ∧ (homed r).partialOf (lineKey slice line1) = none ∧ (homed r).heldSectors slice line1 = 15 ∧ r.attr ≠ .dev
      ∧ (homed r).mayServe 7 r = true ∧ r.waiting = true ∧ r.router = none ∧ (homed r).needsWay slice line1 r.attr = false
      ∧ ((homed r).parlour r.die).line line1 r.suite = none)
      ∧ (let r := { hreq .write with data := zeros 8 }
         (homed r).readsFirst r ((homed r).reqHome r) line1 = false)
      ∧ (let r := { hreq .read with par := .upg }
         let s := { homed r with dirs := [(lineKey ((homed r).reqHome r) line1, .e 0)] }.updParlour 0 (fun p =>
           { p with l3 := [(l3Key line1 1, l3 false)] })
         (s.parlour r.die).line line1 r.suite ≠ none ∧ (s.dir (s.reqHome r) line1).holders.contains r.die = true
          ∧ r.snoopsOf (s.dir (s.reqHome r) line1) = [])
      ∧ (let r := { hreq .red with attr := .red }
         Table.find ({ homed r with partials := [(lineKey ((homed r).reqHome r) line1, part1)] } : State).partials
           (lineKey ((homed r).reqHome r) line1) = some part1) := by decide
/-- A slice of fewer than 16 lines has a way; one of 98,304 lines has none free, and one of its ways leaves. -/
theorem witness_ways :
    (∃ q, on0.setFull 0 = (false, q)) ∧ (∃ q, on0.takeWay 0 = (true, q))
      ∧ ∃ q, ({ on0 with lines := (List.range 98304).map (fun k => (lineKey 0 k, full1)) } : State).setFull 0 = (true, q) := by
  have key : ∀ k, k < 98304 → lineKey 0 k / 2 ^ 41 = 0 := fun k h => by unfold lineKey; omega
  refine ⟨⟨_, by simp only [State.setFull]; rw [show on0.sliceKeys 0 = [] from rfl]; simp; rfl⟩,
    ⟨on0.drawBool.2, by simp [State.takeWay, State.setFull, show on0.sliceKeys 0 = [] from rfl]⟩, ?_⟩
  simp only [State.setFull]
  refine ⟨_, Prod.ext ?_ rfl⟩
  simp only [Bool.or_eq_true, decide_eq_true_eq]
  right
  simp only [State.sliceKeys, Table.keys, List.map_map]
  rw [List.filter_eq_self.mpr (by
    intro a ha
    simp only [List.mem_append, List.mem_map, List.mem_range, Function.comp] at ha
    rcases ha with ⟨k, hk, rfl⟩ | ⟨p, hp, _⟩
    · simpa using key k hk
    · exact absurd hp (by simp [on0, State.reset]))]
  simp
theorem witness_installs :
    let s := { missing { miss1 [] [] [(3, zeros 32)] with attr := .wbA } with lines := [(lineKey 0 line1, full1)] }.updSlice 0 (fun x =>
      { x with enable := true })
    (s.slice (0 : Fin 128).val).enable = true ∧ Attr.wbA.allocates = true ∧ s.evictedLine (lineKey 0 line1) = none
      ∧ s.partialOf (lineKey 0 line1) = none ∧ (Table.find s.lines (lineKey 0 line1)).isSome = true
      ∧ Table.find ext1.lines (lineKey 0 line1) = none ∧ ext1.snoops.find? (fun y => y.slice = 0 && y.line = line1) = none := by decide
/-- A partial that an adder asks for while it is still in its slice. -/
theorem witness_partial_asked :
    let s := { ext1 with partials := [(lineKey 0 line1, part1)] }
    Table.find s.partials (lineKey 0 line1) = some part1 ∧ Table.find s.evicted (lineKey 0 line1) = none ∧ s.evictCount 0 < 32
      ∧ (let w : Rmw := { line := line1, part := part1, slices := [0] }
         w ∈ ((s.updMc (.lpd 0) (fun m => { m with rmws := [w] })).mc ((s.updMc (.lpd 0) (fun m => { m with rmws := [w] })).ctlOf (128 * line1))).rmws)
      ∧ (ext1.viewLine (ext1.homeOf 1 0x40100000) (0x40100000 / 128) (sectorMask 4 4)).2 = false
      ∧ ({ ext1 with extPoison := [0x40100000 / 128] }.viewLine (ext1.homeOf 1 0x40100000) (0x40100000 / 128) (sectorMask 4 4)).2 = true := by
  decide
theorem witness_maintenance_line :
    on0.snoops = [] ∧ on0.partialOf (lineKey 0 0) = none ∧ Table.find on0.dirs (lineKey 0 0) = none ∧ on0.inAdder 0 = false
      ∧ on0.pkgLost 0 = false ∧ on0.ext.wf = true := by decide
theorem witness_controller_forms :
    ({ miss1 [] [0] [] with attr := .stream } : Miss).attr = .stream ∧ isDdr (.ddr 0) = true
      ∧ (reading (miss1 [0] [] []) [{ ctlReq0 with run := true }]).pkgLost line1 = false
      ∧ (ext1.readAttempt line1 0 { sectors := [[1, 1, 1]], tagErr := 0 }).1 = .bad := by decide +kernel

/-! ### Mail: what each command names is there -/

/-- The module with pages of 4 KiB: a graph of one task at virtual address 0x3000 with its task at 0x4000, room for its answer at 0x5000,
and a context entry at 0x6000. -/
def texts : State :=
  { ext1 with
    ext := [(0x40003001, 0x40), (0x40003008, 0x40), (0x40003009, 0x40), (0x40003010, 0x40), (0x40003011, 0x40), (0x40003018, 1),
      (0x40003021, 0x50), (0x40003029, 0x50), (0x40004002, 0x20), (0x40006014, 32), (0x40006015, 32), (0x40006028, 1)]
      ++ [(0x40100000, 0x01), (0x40100001, 0x04), (0x40100002, 0x04), (0x40100003, 0x10), (0x40101000, 0x01), (0x40101001, 0x08),
      (0x40101002, 0x04), (0x40101003, 0x10), (0x40102000, 0x01), (0x40102001, 0x0C), (0x40102002, 0x04), (0x40102003, 0x10)]
      ++ [(0x40103018, 0xCF), (0x40103019, 0x0C), (0x4010301B, 0x10), (0x40103020, 0xCF), (0x40103021, 0x10), (0x40103023, 0x10),
      (0x40103028, 0xCF), (0x40103029, 0x14), (0x4010302B, 0x10), (0x40103030, 0xCF), (0x40103031, 0x18), (0x40103033, 0x10)] }
def mailIn (s : State) (m : MailMsg) : State := s.updGsuite 1 (fun g => { g with mail := [(.hart 0, m)], ctxReg := 1 + 6 * 2 ^ 12 })
/-- SUBMIT of that graph is answered with 0 and its task is in the table of Wing 0. -/
theorem witness_submit :
    let m := { mail0 1 0 with opa := 0x3000 }
    ((mailIn texts m).gsuite 1).mail = [(.hart 0, m)] ∧ mailPlain m false false false false = true
      ∧ (match (mailIn texts m).readGraph 1 0x3000 with
         | (some (some g), s1) =>
           decide (s1.graphStatus 1 1 g = 0) && decide ((s1.gsuite 1).freeHandle = 1)
             && (match s1.placeTasks 1 1 1 (wordAt g.hdr 0) 0 g.tasks with
               | (some ps, s2) =>
                 decide (ps = [(0, 0)]) && (s2.placeEdges 1 1 1 ps 0 g.edges).1.isSome && (s2.placeStreams 1 1 1 g.streams).1.isSome
                   && (s2.gWrite 1 (wordAt g.hdr 4) (leBytes 4 0)).1
               | _ => false)
         | _ => false) = true
      ∧ ∀ s5 : State, (s5.gWrite 1 0x5000 []).1 = true :=
  ⟨by decide, by decide, by decide +kernel, fun _ => rfl⟩
/-- The edge of `graph1`, a COUNT edge with both ends external. -/
theorem witness_mail_edges :
    let s := graph1 .lost .freed
    (∃ e, s.suiteEdge 1 0 = some e ∧ e.producer = none ∧ e.consumer = none ∧ e.lostBuf = false ∧ e.isCount = true ∧ e.credits + 0 ≤ e.capacity
      ∧ s.graphEnded 1 e.graph = false)
      ∧ mailPlain { mail0 2 0 with opb := 65535 } true true false true = true ∧ mailPlain { mail0 3 0 with opb := 1 } true false false false = true
      ∧ mailPlain { mail0 2 1 with opb := 1, payload := zeros 64 } true true false true = true
      ∧ (let e : Edge := { suite := 1, gen := 1, graph := 1, index := 0, producer := none, consumer := none, isCount := false, capacity := 4,
                           threshold := 1, tokens := 0, held := 0, credits := 4, bufRoom := 0x80, lostBuf := false }
         e.buffers = some c0.room ∧ e.tokens + e.held + 1 ≤ e.capacity) := by
  refine ⟨⟨_, rfl, rfl, rfl, rfl, rfl, by decide, by decide⟩, by decide⟩
theorem witness_admit :
    mailIndicesOk { mail0 4 0 with opb := 1 } = true
      ∧ (match (mailIn texts { mail0 4 0 with opb := 1 }).readCtxs 1 (mailIndices { mail0 4 0 with opb := 1 }) with
         | (.inr l, _) => decide (l.map (fun e => e.1) = [0])
         | _ => false) = true := by decide +kernel
/-- A graph with one task, which is lost: it may end and its task may be placed again. -/
theorem witness_end_and_resubmit :
    let g : Graph := { tasks := [(0, 0)], edges := [], streams := [], ended := false }
    let s := (graph1 .lost .freed).updGsuite 1 (fun x => { x with graphs := [(1, g)] })
    Table.find (s.gsuite 1).graphs 1 = some g ∧ g.ended = false ∧ listAt g.tasks 0 = some (0, 0)
      ∧ s.task 0 0 = some { task1 with state := .lost } ∧ word1Ok 0 = true ∧ bitsOf 0 32 21 = 0 ∧ roomOfWord1 0 = some c0.room
      ∧ s.roomUsable 1 (some c0.room) = true ∧ mailPlain { mail0 7 0 with opa := 1 } true true true false = true
      ∧ mailPlain { mail0 6 0 with opa := 1 } false false false false = true := by decide
theorem witness_order :
    let s := ({ graph1 .idle .freed with hearth := { (graph1 .idle .freed).hearth with wingIn := 255 } }).updGsuite 1 (fun g => { g with mode := 1 })
    let m := { mail0 8 0 with opa := 0, opb := 0x5000, opc := 1 }
    mailPlain m true true false false = true ∧ (s.gsuite 1).hostOrder = true ∧ s.hearth.wingIn.getLsbD 0 = true
      ∧ (match s.gRead 1 0x5000 2 with
         | (some bs, s1) => decide (leNat bs = 0) && (s.task 0 0).isSome && decide ((s1.orderList 1 0).length + 1 ≤ 65536)
         | _ => false) = true := by decide +kernel
/-- A context that is being retired, with nothing that runs on it. -/
theorem witness_retiring :
    let m := { mail0 5 0 with opb := 1 }
    let s := mailIn (on0.updGsuite 1 (fun g => { g with ctxs := [(0, { ctx1 with spillBusy := false, retiring := true })] })) m
    s.retireStatus 1 m = 0 ∧ (s.gsuite 1).ctxsQuiet (mailIndices m) = true ∧ mailIndices m = [0]
      ∧ Table.find (s.gsuite 1).ctxs 0 = some { ctx1 with spillBusy := false, retiring := true }
      ∧ ((mailIn (on0.updGsuite 1 (fun g => { g with ctxs := [(0, ctx1)] })) m).gsuite 1).ctxsQuiet [0] = false := by decide
/-- A host's message on an active port from a registered sender. -/
theorem witness_mail_message :
    let q : SenderReg := { sender := .session 1, limit := 4, inUse := 0, lastSeq := 0, owed := 0, port := 0 }
    let s := ((ext1.updByPort 0 (fun p => { p with link := { p.link with state := .active } })).updGsuite 1 (fun g => { g with senders := [q] }))
    let hdr := { hdr0 1 0 with session := 1, len := 4 }
    (s.byPort 0).link.state = .active ∧ s.msgFormOk 0 hdr 1 (64 + 64 * (mail0 2 0).len.toNat) none true = true ∧ s.current 1 1 = true
      ∧ (s.gsuite 1).senders.find? (fun x => x.sender = .session 1) = some q ∧ (s.gsuite 1).moving = false ∧ q.inUse < q.limit
      ∧ q.lastSeq < (mail0 2 0).seqno.toNat ∧ (s.suite 1).staleAll = false ∧ mailAssigned 2 = true := by decide

/-! ### Harts, start-up and links: the clauses beside the first -/

/-- A hart whose die holds the line it asks for, exclusive. -/
def holding : State := (hart1 { Hart.reset with x := [(5, 7)] }).updParlour 0 (fun p => { p with l3 := [(l3Key line1 1, l3 false)] })
theorem witness_held :
    (∀ q ∈ hartLines (hacc1 0), holding.hartHas 0 q.1 true = true ∧ holding.hartHas 0 q.1 false = true)
      ∧ (holding.hartRead 0 (hacc1 0)).1 = (zeros 8, false) ∧ (holding.hart 0).owedReg (.x 5) = false ∧ (holding.hart 0).owed 5 = false := by
  decide
theorem test_hart_store :
    (((run (.hartStore 0 (hacc1 0) (.x 5)) holding).parlour 0).line line1 1).map (fun l => (l.dirty, l.data.take 2)) = some (true, [7, 0]) := by
  decide
theorem witness_virtual_harts :
    vhart1.die = (parlourOf 0).val ∧ ((monitored [(10, 1), (11, 127)]).hart 0).reg 11 = 127
      ∧ ((monitored [(10, 1)]).updHart 127 (fun h => { h with owner := 1 })).hart 127 = { ((monitored [(10, 1)]).hart 127) with owner := 1 }
      ∧ ((monitored [(10, 1)]).updHart 3 (fun h => { h with vhart := some 1 })).vhartOn 1 = some 3 := by decide
/-- Two sticks of one kind in the two first channels of Parlour 0. -/
theorem witness_startup_steps :
    (starting 2 .field).hearth.fuses.ok = true
      ∧ ({ (starting 2 .field).hearth with fuses := { (starting 2 .field).hearth.fuses with plrLock := 1 } } : Hearth).fuses.ok = false
      ∧ ((starting 4 .field).updWing 0 (fun w => { w with included := true })).hearth.faultList = []
      ∧ (starting 8 .field).hearth.step = 8 ∧ (3 : BitVec 8).toNat ∈ stepFaults 7 := by decide

/-! ### Messages, flits and peers: the clauses beside the first -/

/-- A message of no class and one of an operation that its class does not assign; the endpoints of the heartbeat. -/
theorem witness_no_endpoint :
    8 ≤ payloadClass (.other 9 0) ∧ payloadClass (.other 0 5) < 8 ∧ opAssigned 0 5 = false ∧ opAssigned 0 1 = true
      ∧ on0.endpointUp .hearth = true ∧ (ext1.updWing 0 (fun w => { w with included := true })).endpointUp (.hall ⟨0, 0⟩) = true
      ∧ payloadClass .beat = 7 ∧ payloadClass .freed = 2 := by decide
def flit0 (seq : BitVec 12) (bad : Bool) : Flit :=
  { ftype := 1, fseq := seq, ackseq := 0, ackValid := false, nak := false, crHreq := 0, crMreq := 0, fecCorr := false, bad := bad }
theorem witness_flits :
    ((linked (.by 3) .active).link (.by 3)).state = .active ∧ (flit0 0 false).fseq = ((linked (.by 3) .active).link (.by 3)).expect
      ∧ (flit0 1 false).fseq ≠ ((linked (.by 3) .active).link (.by 3)).expect ∧ (flit0 0 false).fecCorr = false
      ∧ (flit0 0 false).fseq = ((peered []).bzPort 0).link.expect ∧ ({ flit0 0 false with nak := true } : Flit).nak = true := by decide
/-- A flit in sequence moves FSEQ on; one out of sequence does not. -/
theorem test_flit :
    ((run (.beyfyFlit 3 (flit0 0 false)) (linked (.by 3) .active)).link (.by 3)).expect = 1
      ∧ ((run (.beyfyFlit 3 (flit0 5 false)) (linked (.by 3) .active)).link (.by 3)).expect = 0 := by decide
/-- A collective of Suite 1 over 16 elements at 0x1000 with its result at 0x2000, and a PUT. -/
def collWords (op : Nat) : List W64 := [0x1000, 0x2000, BitVec.ofNat 64 (16 + op * 2 ^ 32), 2, 0, 0, 0, 0]
def collOn (op : Nat) : State :=
  ext1.updColl 0 7 (fun x => { x with busy := true, owner := 1, words := some (collWords op) })
theorem witness_collective_starts :
    ((collOn 1).coll 0 7).busy = true ∧ ((collOn 1).coll 0 7).started = false ∧ ((collOn 1).coll 0 7).words.isSome = true
      ∧ ((collOn 1).coll 0 7).op = 1 ∧ ((collOn 5).coll 0 7).op = 5 ∧ ((collOn 4).coll 0 7).rank = 0
      ∧ (let x := (collOn 1).coll 0 7
         match ((collOn 1).updColl 0 7 (fun y => { y with started := true })).markedRead x.owner (collAllows false) (x.word 0) x.srcBytes with
         | (some (_, false), _) => true
         | _ => false) = true := by decide +kernel
/-- What a peer may send about a collective: slot 2 runs over session 1, slot 3 waits. -/
def peeredColl : State :=
  (peered []).updColl 0 2 (fun x =>
    { x with busy := true, started := true, hdrOk := true, owner := 1, words := some [0, 0, BitVec.ofNat 64 (16 + 2 ^ 32), 2 + 2 ^ 16 + 2 ^ 24, 0, 0, 0, 0] })
theorem witness_peer_collective :
    let y := peeredColl.coll 0 2
    y.words.isSome = true ∧ y.op ≠ 5 ∧ y.prevSess = 1 ∧ y.nextSess = 1 ∧ y.collId = 0 ∧ y.hdrOk = true ∧ y.busy = true ∧ y.started = true
      ∧ (∀ n ∈ List.range 8, ((peered []).coll 0 n).words.isSome = false)
      ∧ ((peered []).sess 0 1).landSize < 16 := by decide

/-! ### Hearth calls: the clauses beside the first -/

/-- A module whose Wings, Porches and first Parlour are in the configuration, with Suites 0 and 1. -/
def whole : State :=
  (List.finRange 8).foldl (fun t k => t.updWing k (fun w => { w with included := true }))
    { calls with hearth := { calls.hearth with wingIn := 255, porchIn := 3 } }
/-- A block of Room [1,0] and slice 20. -/
def block1 : ResBlock := { block0 8 with rowLo := 1, rowHi := 1, slices := 2 ^ 20 }
theorem witness_create :
    let s := (whole.entered 0).updSuite 2 (fun x => { x with gen := x.gen + 1 })
    whole.mayCall 0 ∧ whole.hearth.life = .field ∧ resBlockFormOk block1 = true ∧ ((whole.entered 0).suite 2).state = .absent
      ∧ resBlockRect block1 = some (some { rowLo := 1, rowHi := 1, colLo := 0, colHi := 0 })
      ∧ (s.suitesNow.filter (fun e => e.1 ≠ 0)).length < 96 ∧ s.edgesUp { rowLo := 1, rowHi := 1, colLo := 0, colHi := 0 } = true
      ∧ s.unitsFree (rectRooms (some { rowLo := 1, rowHi := 1, colLo := 0, colHi := 0 })) block1 = true ∧ s.quotasFit 2 0 0 0 = true
      ∧ (s.pickAll block1).1 = some ([], []) ∧ s.hearth.freeKeySlot = some 18
      ∧ s.leadFor (some { rowLo := 1, rowHi := 1, colLo := 0, colHi := 0 }) = some (0, 4) ∧ s.hearth.strict = false := by
  refine ⟨⟨by decide, by decide⟩, ?_⟩
  decide
/-- A call that grows the quota alone, and one that gives up slice 0 of two. -/
theorem witness_grow_and_shrink :
    let t := whole.entered 0
    let q : Option Rect := some { rowLo := 0, rowHi := 0, colLo := 0, colHi := 0 }
    let b := { block0 8 with slices := 0, ctx := 8 }
    resBlockRect b = some q ∧ q = (t.suite 1).rect ∧ rectWithin (t.suite 1).rect q = true ∧ t.newLead 1 q = some none ∧ resBlockNoPages b = true
      ∧ t.edgesUp { rowLo := 0, rowHi := 0, colLo := 0, colHi := 0 } = true ∧ t.quotasFit 1 8 0 0 = true
      ∧ rectWithin (t.suite 1).rect (some { rowLo := 1, rowHi := 1, colLo := 0, colHi := 0 }) = false
      ∧ (let u := t.updSuite 1 (fun x => { x with slices := 3 })
         u.shrinkFormOk 1 (block0 8) = true ∧ u.placedOn 1 [] = false ∧ u.leadHeld 1 q none = false
          ∧ (u.gsuite 1).ctxs.length ≤ (u.suite 1).ctx.toNat - (block0 8).ctx.toNat) := by decide
/-- A change that takes slices away while a group of the Suite still runs. -/
theorem witness_quiesce_slices :
    (({ inState .changing false (some { change1 with slices := 0 }) with cores := (one sl0).cores } : State).groupsGone 1) = false
      ∧ ({ change1 with slices := 0 } : Change).slices ≠ ((inState .changing false (some { change1 with slices := 0 })).suite 1).slices
      ∧ change1.slices = ((inState .changing false (some change1)).suite 1).slices := by decide
theorem witness_page_repair :
    (∀ k, k < 32 → commoned.extBad (0x40200000 / 128 + k) = false) ∧ ({ common1 with backed := true } : CommonRegion).backed = true
      ∧ commoned.hearth.repairMode = false := by decide
/-- MXRED of accumulator 1 with a stride of 0 from 4 MiB on: the row's page is a page of the RED region and its first tally word is there. -/
theorem witness_mxred :
    let sl := { slm with s := [(2, 0x400000)] }
    let i := insn 0x0000_0103_0201_0092 0
    State.Issues (one sl) g0 0x0000_0103_0201_0092 0 (mxredLegal i sl) (use0 .matrix (tileAddrPlaces i) []) ∧ sl.strideOk i 1024 = true
      ∧ sl.rowAddr i 0 = 0x400000 ∧ sl.rowAddr i 31 = 0x400000
      ∧ (match ext2.locate 1 0x400000 true false with
         | (some l, s1) => decide (l.region.attr = .red) && (match (s1.checkTally 1 l.region 0x400000).1 with | .ok _ => true | .error _ => false)
         | _ => false) = true := ⟨issues_of (by decide), by decide⟩

/-! ### The machine as a whole -/

theorem witness_inv : State.reset.Inv ∧ step State.reset = .next State.reset := ⟨⟨rfl, by decide⟩, rfl⟩
/-- The queue is first in, first out. -/
theorem test_queue :
    (match step { charged with pending := [.powerUp 40000 true true true, .powerLoss] } with
     | .next t => decide (t.pending = [.powerLoss]) && t.on
     | .fault _ => false
     | .refused _ => false) = true := by decide

/-- The state after reset, as the obligation ResetState lists it. -/
theorem test_reset : (∃ h : State.reset.pending = [], h = rfl ∧ State.reset.on = false) ∧ State.reset.cores = [] ∧ State.reset.ext = []
    ∧ State.reset.hearth.life = .field ∧ State.reset.hearth.debugCount = 0 ∧ State.reset.hearth.ready = false := by
  refine ⟨⟨rfl, rfl, rfl⟩, ?_⟩; decide

end Sys2Proof.Tests
end

section
/-! SUPPORT. What each command does to the machine as a whole: it answers a next state, and that state follows (R9, R85, R421). -/

namespace Sys2Proof.Machine

variable {s t : State}

/-! ## Outcomes that continue -/

/-- An outcome is a next state, and that state follows: `completes` and `outFollows` in one. -/
def continues (s : State) (o : Host.Outcome State Fault Refusal) : Prop := ∃ t, o = .next t ∧ s.Follows t

theorem continues_iff {o : Host.Outcome State Fault Refusal} : continues s o ↔ completes o ∧ outFollows s o := by
  constructor
  · rintro ⟨t, rfl, h⟩
    exact ⟨⟨t, rfl⟩, outFollows_next.2 h⟩
  · rintro ⟨⟨t, rfl⟩, h⟩
    exact ⟨t, rfl, outFollows_next.1 h⟩

@[simp] theorem continues_next : continues s (.next t) ↔ s.Follows t :=
  ⟨fun ⟨_, e, h⟩ => by cases e; exact h, fun h => ⟨t, rfl, h⟩⟩

@[simp] theorem continues_ite {c : Prop} [Decidable c] {a b : Host.Outcome State Fault Refusal} :
    continues s (if c then a else b) ↔ (c → continues s a) ∧ (¬c → continues s b) := by
  split <;> simp_all

theorem continues_of_completes {o : Host.Outcome State Fault Refusal} (h : completes o) (hf : outFollows s o) :
    continues s o := continues_iff.2 ⟨h, hf⟩

theorem completes_next : completes (.next t) := ⟨t, rfl⟩

/-! ## The shared forms of a row -/

@[simp] theorem State.issueSlot_continues {g w l legal use eff} : continues s (s.issueSlot g w l legal use eff) :=
  continues_of_completes completes_next (State.issueSlot_follows (.refl s))

@[simp] theorem scalarOp_continues {f g w l} : continues s (scalarOp f g w l s) := State.issueSlot_continues

@[simp] theorem scalarImm_continues {f g w l} : continues s (scalarImm f g w l s) := State.issueSlot_continues

@[simp] theorem vecOp_continues {useB useC tys f g w l} : continues s (vecOp useB useC tys f g w l s) :=
  State.issueSlot_continues

@[simp] theorem maskOp_continues {rbMax f g w l} : continues s (maskOp rbMax f g w l s) := State.issueSlot_continues

@[simp] theorem scalarLoad_continues {acquire roInval g w l} : continues s (scalarLoad acquire roInval g w l s) :=
  continues_of_completes completes_next (scalarLoad_follows (.refl s))

@[simp] theorem State.regCommand_continues {a e may eff} (he : ∀ u, State.Follows u (eff u)) :
    continues s (s.regCommand a e may eff) := by
  refine continues_of_completes ?_ (State.regCommand_follows he (.refl s))
  unfold State.regCommand
  split <;> exact completes_next

@[simp] theorem parlourRequest_continues {p req ecc} : continues s (parlourRequest p req ecc s) := by
  refine continues_of_completes ?_ (parlourRequest_follows (.refl s))
  unfold parlourRequest
  repeat' split
  all_goals exact completes_next

@[simp] theorem takeSnoop_continues {inv id} : continues s (takeSnoop inv id s) := by
  refine continues_of_completes ?_ (takeSnoop_follows (.refl s))
  unfold takeSnoop
  dsimp only
  repeat' split
  all_goals exact completes_next

@[simp] theorem runMaint_continues {op wing slot} : continues s (runMaint op wing slot s) := by
  refine continues_of_completes ?_ (runMaint_follows (.refl s))
  unfold runMaint
  dsimp only
  repeat' split
  all_goals exact completes_next

@[simp] theorem cbo_continues {h a isRead f} (hf : ∀ u x y, State.Follows u (f u x y)) :
    continues s (cbo h a isRead f s) := by
  refine continues_of_completes ?_ (cbo_follows hf (.refl s))
  unfold cbo
  repeat' split
  all_goals exact completes_next

@[simp] theorem runColl_continues {op porch slot} : continues s (runColl op porch slot s) := by
  refine continues_of_completes ?_ (runColl_follows (.refl s))
  unfold runColl
  dsimp only
  split <;> exact completes_next

@[simp] theorem collRow_continues {type port hdr payload} : continues s (collRow type port hdr payload s) := by
  refine continues_of_completes ?_ (collRow_follows (.refl s))
  unfold collRow
  dsimp only
  split <;> exact completes_next

@[simp] theorem fwCommand_continues {a f} (hf : ∀ y, Hearth.SameFuses y (f y)) : continues s (fwCommand a s f) := by
  refine continues_of_completes ?_ (fwCommand_follows hf (.refl s))
  unfold fwCommand
  repeat' split
  all_goals exact completes_next

@[simp] theorem jobRow_continues {a v} : continues s (jobRow a v s) := by
  refine continues_of_completes ?_ (jobRow_follows (.refl s))
  unfold jobRow
  repeat' split
  all_goals exact completes_next

@[simp] theorem xlatRow_continues {op f n} : continues s (xlatRow op f n s) := by
  refine continues_of_completes ?_ (xlatRow_follows (.refl s))
  unfold xlatRow
  dsimp only
  split <;> exact completes_next

@[simp] theorem copyMove_continues {op e} : continues s (copyMove op e s) := by
  refine continues_of_completes ?_ (copyMove_follows (.refl s))
  unfold copyMove
  dsimp only
  repeat' split
  all_goals exact completes_next

@[simp] theorem copyAtomic_continues {op new e} : continues s (copyAtomic op new e s) := by
  refine continues_of_completes ?_ (copyAtomic_follows (.refl s))
  unfold copyAtomic
  dsimp only
  repeat' split
  all_goals exact completes_next

/-! ## Calls of the Hearth -/

theorem hearthCall_completes {via call n gen open0 run} : completes (hearthCall via call n gen open0 run s) := by
  unfold hearthCall
  dsimp only
  repeat' split
  all_goals exact completes_next

theorem suiteCall_completes {via call n gen may run} : completes (suiteCall via call n gen may run s) :=
  hearthCall_completes

theorem tenantCall_completes {via call n gen run} : completes (tenantCall via call n gen run s) := suiteCall_completes

@[simp] theorem hearthCall_continues {via call n gen open0 run} (hr : ∀ who u, State.Follows u (run who u).2) :
    continues s (hearthCall via call n gen open0 run s) :=
  continues_of_completes hearthCall_completes (hearthCall_follows hr (.refl s))

@[simp] theorem operatorCall_continues {via call n gen run} (hr : ∀ u, State.Follows u (run u).2) :
    continues s (operatorCall via call n gen run s) :=
  continues_of_completes hearthCall_completes (operatorCall_follows hr (.refl s))

@[simp] theorem suiteCall_continues {via call n gen may run} (hr : ∀ u, State.Follows u (run u).2) :
    continues s (suiteCall via call n gen may run s) :=
  continues_of_completes suiteCall_completes (suiteCall_follows hr (.refl s))

@[simp] theorem tenantCall_continues {via call n gen run} (hr : ∀ u, State.Follows u (run u).2) :
    continues s (tenantCall via call n gen run s) :=
  continues_of_completes tenantCall_completes (tenantCall_follows hr (.refl s))

@[simp] theorem publisherCall_continues {via call n gen cid run} (hr : ∀ c u, State.Follows u (run c u).2) :
    continues s (publisherCall via call n gen cid run s) :=
  continues_of_completes tenantCall_completes (publisherCall_follows hr (.refl s))

@[simp] theorem innerCall_continues {via call n gen run} (hr : ∀ u, State.Follows u (run u).2) :
    continues s (innerCall via call n gen run s) :=
  continues_of_completes tenantCall_completes (innerCall_follows hr (.refl s))

/-! ## The rows, by the model's file -/

/-! ### `Control` -/

theorem execTwait_continues {g w l} : continues s (execTwait g w l s) := by simp [execTwait]

theorem execEfence_continues {g w l} : continues s (execEfence g w l s) := by simp [execEfence]

theorem execEfenceComplete_continues {g} : continues s (execEfenceComplete g s) := by
  unfold execEfenceComplete
  dsimp only
  split <;> simp

theorem execRbarArrival_continues {g} : continues s (execRbarArrival g s) := by
  unfold execRbarArrival
  dsimp only
  split
  · split
    · simp
    split
    · simp
    split
    · exact continues_next.2 (State.releaseBarrier_follows (by simp))
    · simp
  · simp

/-! ### `Vector` -/

theorem execVadd_continues {g w l} : continues s (execVadd g w l s) := vecOp_continues

theorem execVsub_continues {g w l} : continues s (execVsub g w l s) := vecOp_continues

theorem execVmul_continues {g w l} : continues s (execVmul g w l s) := vecOp_continues

theorem execVfma_continues {g w l} : continues s (execVfma g w l s) := vecOp_continues

theorem execVmin_continues {g w l} : continues s (execVmin g w l s) := vecOp_continues

theorem execVmax_continues {g w l} : continues s (execVmax g w l s) := vecOp_continues

theorem execVand_continues {g w l} : continues s (execVand g w l s) := vecOp_continues

theorem execVor_continues {g w l} : continues s (execVor g w l s) := vecOp_continues

theorem execVxor_continues {g w l} : continues s (execVxor g w l s) := vecOp_continues

theorem execVshl_continues {g w l} : continues s (execVshl g w l s) := vecOp_continues

theorem execVshr_continues {g w l} : continues s (execVshr g w l s) := vecOp_continues

theorem execVmov_continues {g w l} : continues s (execVmov g w l s) := vecOp_continues

theorem execPand_continues {g w l} : continues s (execPand g w l s) := maskOp_continues

theorem execPor_continues {g w l} : continues s (execPor g w l s) := maskOp_continues

theorem execPxor_continues {g w l} : continues s (execPxor g w l s) := maskOp_continues

theorem execPandn_continues {g w l} : continues s (execPandn g w l s) := maskOp_continues

theorem execPnot_continues {g w l} : continues s (execPnot g w l s) := maskOp_continues

/-! ### `EngineMem` -/

theorem execSst_continues {g w l} : continues s (execSst g w l s) := by
  refine continues_next.2 (State.issue_follows (fun i sl nx u => ?_) (.refl s))
  dsimp only
  split
  · simp
  · exact State.launchOp_follows (State.makeReqs_follows (State.takeOp_follows (State.checkAll_follows (.refl u))))

theorem execRel_continues {g w l} : continues s (execRel g w l s) := by
  refine continues_next.2 (State.issue_follows (fun i sl nx u => ?_) (.refl s))
  dsimp only
  split <;> exact State.checkAccess_follows (.refl u)

theorem execVld_continues {g w l} : continues s (execVld g w l s) := by
  refine continues_next.2 (State.issue_follows (fun i sl nx u => ?_) (.refl s))
  dsimp only
  split
  · simp
  · exact State.launchOp_follows (State.makeReqs_follows (State.takeOp_follows (State.checkAll_follows (.refl u))))

theorem execVst_continues {g w l} : continues s (execVst g w l s) := by
  refine continues_next.2 (State.issue_follows (fun i sl nx u => ?_) (.refl s))
  dsimp only
  split
  · simp
  · exact State.launchOp_follows (State.makeReqs_follows (State.takeOp_follows (State.checkAll_follows (.refl u))))

theorem execVatom_continues {g w l} : continues s (execVatom g w l s) := by
  refine continues_next.2 (State.issue_follows (fun i sl nx u => ?_) (.refl s))
  dsimp only
  split
  · simp
  · exact State.launchOp_follows (State.Follows.foldl2 (fun _ _ => State.makeReq_follows (.refl _))
      (State.takeOp_follows (State.checkAll_follows (.refl u))))

theorem execVredadd_continues {g w l} : continues s (execVredadd g w l s) := by
  refine continues_next.2 (State.issue_follows (fun i sl nx u => ?_) (.refl s))
  dsimp only
  split
  · simp
  · exact State.launchOp_follows (State.takeOp_follows (State.checkRed_follows (.refl u)))

theorem execTld_continues {g w l} : continues s (execTld g w l s) := by
  refine continues_next.2 (State.issue_follows (fun i sl nx u => ?_) (.refl s))
  dsimp only
  split
  · simp
  split
  · simp
  · exact State.launchOp_follows (State.makeReqs_follows (State.takeOp_follows (State.checkAll_follows (.refl u))))

theorem execTst_continues {g w l} : continues s (execTst g w l s) := by
  refine continues_next.2 (State.issue_follows (fun i sl nx u => ?_) (.refl s))
  dsimp only
  split
  · simp
  split
  · simp
  · exact State.launchOp_follows (State.makeReqs_follows (State.takeOp_follows (State.checkAll_follows (.refl u))))

theorem execMxred_continues {g w l} : continues s (execMxred g w l s) := by
  refine continues_next.2 (State.issue_follows (fun i sl nx u => ?_) (.refl s))
  split
  · simp
  extract_lets rows
  have hrows : u.Follows rows.2 := by
    refine State.Follows.foldl2 (fun a r => ?_) (.refl u)
    dsimp only
    split
    · simp
    · split <;> exact State.checkRedRow_follows (.refl a.2)
  split
  · exact hrows
  · exact State.launchOp_follows (State.takeOp_follows hrows)

theorem execSpawn_continues {g w l} : continues s (execSpawn g w l s) := by
  refine continues_next.2 (State.issue_follows (fun i sl nx u => ?_) (.refl s))
  dsimp only
  split <;> exact State.checkAccess_follows (.refl u)

/-! ### `Requests` -/

theorem execLoadDataReturn_continues {g op} : continues s (execLoadDataReturn g op s) := by
  unfold execLoadDataReturn
  dsimp only
  split
  · simp
  split
  · simp
  · have hfill : s.Follows (((s.opReqs g op).map (fun e => e.2)).foldl (fun t r => t.fillRoc g.core r) s) :=
      .foldl (fun _ _ => by simp) (.refl s)
    refine continues_next.2 (State.updSlot_follows ?_)
    split
    · exact State.dropRoc_follows (.mk_same hfill)
    · exact .mk_same hfill

theorem execTokenSignal_continues {g op} : continues s (execTokenSignal g op s) := by
  unfold execTokenSignal
  dsimp only
  split <;> simp

theorem execDeviceRegionLoadTimeout_continues {g req} : continues s (execDeviceRegionLoadTimeout g req s) := by
  unfold execDeviceRegionLoadTimeout
  split <;> simp

/-! ### `Life` -/

theorem execLaunch_continues {c} : continues s (execLaunch c s) := by
  unfold execLaunch
  split
  · simp
  split
  · dsimp only
    split
    · simp
    split
    · simp
    · have hread : ∀ n v ds, s.Follows (State.readHeader { s with delivered := ds } n v).2 := fun _ _ _ => by simp
      repeat' split
      · simp [hread]
      · simp [hread]
      · simp [hread]
      · exact continues_next.2 (State.updDisp_follows (by simp [hread]))
  · simp

theorem execGroupPark_continues {g} : continues s (execGroupPark g s) := by
  unfold execGroupPark
  dsimp only
  split <;> simp

theorem execReplay_continues {agent c value} : continues s (execReplay agent c value s) := by simp [execReplay]

theorem execDiscard_continues {agent c value} : continues s (execDiscard agent c value s) := by simp [execDiscard]

theorem execAutomaticReplay_continues {c} : continues s (execAutomaticReplay c s) := by
  unfold execAutomaticReplay
  dsimp only
  split
  · simp
  · refine continues_next.2 (State.updCore_follows (.foldl (fun _ _ => ?_) (.refl s)))
    split <;> simp

theorem execGroupFree_continues {g} : continues s (execGroupFree g s) := by
  unfold execGroupFree
  dsimp only
  split
  · simp
  · have h2 : ∀ rs f f', s.Follows ((State.updSlot { s with reqs := rs } g f).updTaskSlots g.core (s.slot g) f') :=
      fun _ _ _ => State.updTaskSlots_follows (State.updSlot_follows (.mk_same (.refl s)))
    refine continues_next.2 ?_
    split
    · refine State.send_follows ?_
      split <;> simp only [h2, State.send_follows]
    · split <;> simp only [h2, State.send_follows]

theorem execRegisterFileUe_continues {g idleFill} : continues s (execRegisterFileUe g idleFill s) := by
  unfold execRegisterFileUe
  dsimp only
  split
  · simp
  · refine continues_next.2 (State.fenceTest_follows ?_)
    split
    · simp
    · exact State.updTaskSlots_follows (by simp)

theorem execErrorCountWindow_continues {c bank} : continues s (execErrorCountWindow c bank s) := by
  unfold execErrorCountWindow
  repeat' split
  all_goals simp

theorem execHallLaneFailure_continues {c} : continues s (execHallLaneFailure c s) := by simp [execHallLaneFailure]

/-! ### `Firing` -/

theorem execFiring_continues {wing} : continues s (execFiring wing s) := by
  unfold execFiring
  dsimp only
  split
  · simp
  · exact continues_next.2 (State.settleAll_follows (State.fire_follows (by simp)))

theorem execLaunchRefuse_continues {wing} : continues s (execLaunchRefuse wing s) := by
  unfold execLaunchRefuse
  split
  · simp
  next m u hu =>
    have hu := State.takeFor_follows (.refl s) hu
    split
    · split
      · simp [hu]
      split
      · simp [hu]
      split
      · exact continues_next.2 (State.settleAll_follows (by simp [hu]))
      · simp [hu]
    · simp [hu]

theorem execFreed_continues {wing} : continues s (execFreed wing s) := by
  unfold execFreed
  split
  · simp
  next m u hu =>
    exact continues_next.2 (.foldl (fun _ _ => by simp) (State.takeFor_follows (.refl s) hu))

theorem execDone_continues {wing} : continues s (execDone wing s) := by
  unfold execDone
  split
  · simp
  next m u hu =>
    have hu := State.takeFor_follows (.refl s) hu
    split
    · split
      · simp [hu]
      split
      · simp [hu]
      · exact continues_next.2 (State.settleAll_follows (.foldl (fun _ _ => by simp) (State.firingEnds_follows hu)))
    · simp [hu]

theorem execTokenAdd_continues {wing} : continues s (execTokenAdd wing s) := by
  unfold execTokenAdd
  split
  · simp
  next m u hu =>
    have hu := State.takeFor_follows (.refl s) hu
    repeat' split
    all_goals simp [hu]

theorem execCreditReturn_continues {wing} : continues s (execCreditReturn wing s) := by
  unfold execCreditReturn
  split
  · simp
  next m u hu =>
    have hu := State.takeFor_follows (.refl s) hu
    repeat' split
    all_goals simp [hu]

theorem execGraphStall_continues {suite} : continues s (execGraphStall suite s) := by simp [execGraphStall]

theorem execEventRecord_continues {wing} : continues s (execEventRecord wing s) := by
  unfold execEventRecord
  split
  · simp
  next m u hu =>
    have hu := State.takeFor_follows (.refl s) hu
    repeat' split
    all_goals simp [hu]

theorem execSinkQueueDrain_continues {wing suite} : continues s (execSinkQueueDrain wing suite s) := by
  refine continues_next.2 (.foldl (fun _ _ => ?_) (.refl s))
  dsimp only
  split <;> simp

theorem execGraphModeWrite_continues {agent suite value} : continues s (execGraphModeWrite agent suite value s) :=
  by simp [execGraphModeWrite]

theorem execSpillComplete_continues {suite x} : continues s (execSpillComplete suite x s) := by
  unfold execSpillComplete
  dsimp only
  split
  · simp
  split
  · simp
  split
  · simp
  next lanes _ =>
    have hcopy : ∀ c l, s.Follows ((s.stairLanes l).2.spillCopy suite c (Table.get 14 lanes) x.eccs).2 := fun _ _ => by simp
    split
    · exact continues_next.2 (State.settleAll_follows (State.reportHeld_follows (by simp [hcopy])))
    · exact continues_next.2 (State.settleAll_follows (State.publishCtx_follows (by simp [hcopy])))

theorem execSpawnAnswer_continues {c} : continues s (execSpawnAnswer c s) := by
  unfold execSpawnAnswer
  dsimp only
  split
  · split
    · simp
    · refine continues_next.2 (State.settleAll_follows (State.updSlot_follows ?_))
      split
      · simp
      · split <;> simp
  · simp

/-! ### `Streams` -/

theorem execStreamChunkIssue_continues {wing stream} : continues s (execStreamChunkIssue wing stream s) := by
  unfold execStreamChunkIssue
  dsimp only
  split
  · simp
  split
  · simp
  split
  · exact continues_next.2 (State.note_follows (by simp))
  split
  · simp
  · refine continues_next.2 (State.updStream_follows (State.Follows.foldl2 (fun _ _ => ?_) (State.stairLanes_follows (by simp))))
    split <;> simp

theorem execStreamChunkDelivered_continues {wing stream member} :
    continues s (execStreamChunkDelivered wing stream member s) := by
  unfold execStreamChunkDelivered
  split
  · simp
  split
  · extract_lets s1 left busy s2
    have h2 : s.Follows s2 := State.updStream_follows (by simp [s1])
    simp [h2]
  · simp

theorem execSlotDone_continues {wing} : continues s (execSlotDone wing s) := by
  unfold execSlotDone
  split
  · simp
  next m u hu =>
    have hu := State.takeFor_follows (.refl s) hu
    repeat' split
    all_goals simp [hu]

theorem execPageReinstalledReport_continues {r} : continues s (execPageReinstalledReport r s) := by
  unfold execPageReinstalledReport
  split
  · simp
  next m u hu =>
    have hu := State.takeFor_follows (.refl s) hu
    split
    · dsimp only
      split
      · simp
      · refine continues_next.2 (.foldl (fun _ _ => by simp)
          (.foldl (fun _ _ => .foldl (fun _ _ => .foldl (fun t2 _ => ?_) (.refl _)) (.refl _)) (State.stairLane_follows hu)))
        split
        · simp
        · exact .foldl (fun _ _ => by simp) (.refl t2)
    · simp [hu]

/-! ### `Mail` -/

theorem execMailCredit_continues {suite session} : continues s (execMailCredit suite session s) := by
  unfold execMailCredit
  dsimp only
  split <;> simp

theorem execSubmit_continues {suite} : continues s (execSubmit suite s) := by simp [execSubmit]

theorem execToken_continues {suite} : continues s (execToken suite s) := by simp [execToken]

theorem execCredit_continues {suite} : continues s (execCredit suite s) := by simp [execCredit]

theorem execAdmitCtxs_continues {suite} : continues s (execAdmitCtxs suite s) := by simp [execAdmitCtxs]

theorem execRetire_continues {suite} : continues s (execRetire suite s) := by
  unfold execRetire
  split <;> simp

theorem execRetireComplete_continues {suite} : continues s (execRetireComplete suite s) := by
  unfold execRetireComplete
  split <;> simp

theorem execEndGraph_continues {suite} : continues s (execEndGraph suite s) := by simp [execEndGraph]

theorem execResubmit_continues {suite} : continues s (execResubmit suite s) := by simp [execResubmit]

theorem execOrder_continues {suite} : continues s (execOrder suite s) := by simp [execOrder]

/-! ### `RoomDma` -/

theorem execDmaq_continues {g w l} : continues s (execDmaq g w l s) := by
  unfold execDmaq
  dsimp only
  split
  · simp
  refine continues_next.2 (State.issue_follows (fun i sl nx u => ?_) (.refl s))
  split
  · simp
  · exact State.startDma_follows (State.updCore_follows (State.takeOp_follows (by simp)))

theorem execDmaReadReturn_continues {c req} : continues s (execDmaReadReturn c req s) := by
  unfold execDmaReadReturn
  split
  · simp
  split
  · simp
  split
  · simp
  · exact continues_next.2 (State.startDma_follows (State.sendReady_follows (by simp)))

theorem execDmaWriteAck_continues {c req} : continues s (execDmaWriteAck c req s) := by
  unfold execDmaWriteAck
  repeat' split
  all_goals simp

theorem execDmaRequestTimeout_continues {c req} : continues s (execDmaRequestTimeout c req s) := by
  unfold execDmaRequestTimeout
  repeat' split
  all_goals simp

theorem execRelStoreIssue_continues {g} : continues s (execRelStoreIssue g s) := by
  unfold execRelStoreIssue
  dsimp only
  split
  · split
    · simp
    · exact continues_next.2 (State.addReqs_follows (State.updSlot_follows (by simp)))
  · simp

/-! ### `RoomMem` -/

theorem execRoomMemoryAccess_continues {r req ecc} : continues s (execRoomMemoryAccess r req ecc s) := by
  unfold execRoomMemoryAccess
  split <;> simp

theorem execMeshPacketForward_continues {req} : continues s (execMeshPacketForward req s) := by
  unfold execMeshPacketForward
  repeat' split
  all_goals simp

theorem execRoomLaneBeat_continues {r dir crc} : continues s (execRoomLaneBeat r dir crc s) := by
  unfold execRoomLaneBeat
  split
  · simp
  dsimp only
  split
  · simp
  split
  · simp
  · simp
  · exact continues_next.2 (State.report_follows (by simp))

theorem execRouterFailure_continues {r} : continues s (execRouterFailure r s) := by
  unfold execRouterFailure
  split
  · simp
  · refine continues_next.2 (State.loseRoom_follows (State.dropCrossing_follows (State.reportLost_follows
      (State.Follows.foldl (fun _ _ => ?_) (State.updRoom_follows (.refl s))))))
    split <;> simp

theorem execHallFailure_continues {r trigger} : continues s (execHallFailure r trigger s) := by simp [execHallFailure]

theorem execRoomRectWrite_continues {agent r value} : continues s (execRoomRectWrite agent r value s) :=
  by simp [execRoomRectWrite]

theorem execRoomWipeComplete_continues {r} : continues s (execRoomWipeComplete r s) := by simp [execRoomWipeComplete]

theorem execWingFenceCmdCore_continues {agent wing value} : continues s (execWingFenceCmdCore agent wing value s) :=
  by simp [execWingFenceCmdCore]

theorem execWingFenceCmdRoom_continues {agent wing value} : continues s (execWingFenceCmdRoom agent wing value s) :=
  by simp [execWingFenceCmdRoom]

/-! ### `Home` -/

theorem execWbD_continues {parlour tag line} : continues s (execWbD parlour tag line s) := by
  unfold execWbD
  split <;> simp

theorem execOfferC_continues {parlour tag line} : continues s (execOfferC parlour tag line s) := by
  unfold execOfferC
  split
  · simp
  split
  · simp
  dsimp only
  have hdraw : ∀ n, s.Follows ((s.victim parlour line tag).setFull n).2.drawBool.2.drawBits.2 := fun _ =>
    State.drawBits_follows (State.drawBool_follows (by simp))
  split
  · simp
  split
  · exact continues_next.2 (State.putIn_follows (by simp))
  split
  · split <;> simp [hdraw]
  · simp [hdraw]

theorem execSnoopAnswer_continues {snoop ecc} : continues s (execSnoopAnswer snoop ecc s) := by
  unfold execSnoopAnswer
  split
  · simp
  split
  · simp
  split
  · simp
  · refine continues_next.2 (State.lineFree_follows (State.snoopTaken_follows ?_))
    split <;> simp

theorem execMemoryFill_continues {slice line sector} : continues s (execMemoryFill slice line sector s) := by
  unfold execMemoryFill
  extract_lets key
  split
  · simp
  split
  · simp
  next q d _ =>
    extract_lets m1 s1 fill w s2
    have h1 : s.Follows s1 := .mk_same (.refl s)
    have hw : s.Follows w.2 := by unfold w; split <;> simp [h1]
    have h2 : s.Follows s2 := by unfold s2; split <;> simp [hw]
    split
    · exact continues_next.2 ⟨rfl, hw.draws, id, Nat.le_refl _, id, fun h => ⟨Nat.le_refl _, h⟩⟩
    · simp [h2]

theorem execEvictionAck_continues {slice line} : continues s (execEvictionAck slice line s) := by
  unfold execEvictionAck
  dsimp only
  split
  · simp
  · exact continues_next.2 (State.lineFree_follows (.mk_same (by simp)))
  · split <;> simp

theorem execHomeResponseTimeout_continues {slice line} : continues s (execHomeResponseTimeout slice line s) := by
  unfold execHomeResponseTimeout
  dsimp only
  split
  · simp
  split
  · split
    · simp
    · exact continues_next.2 (State.closeMiss_follows (.mk_same (by simp)))
  · exact continues_next.2 (State.lineFree_follows (.mk_same (by simp)))
  · exact continues_next.2 (State.lineFree_follows (.mk_same (by simp)))
  · simp

theorem execRedContribution_continues {req} : continues s (execRedContribution req s) := by
  unfold execRedContribution
  split <;> simp

theorem execAdderPartial_continues {slice line} : continues s (execAdderPartial slice line s) := by
  unfold execAdderPartial
  extract_lets key s0
  have h0 : s.Follows s0 := by
    unfold s0
    split
    · split <;> simp
    · simp
  clear_value s0
  split
  · split
    · exact continues_next.2 (State.lineFree_follows (.mk_same (State.partialLost_follows h0)))
    split
    · exact continues_next.2 h0
    · exact continues_next.2 (State.adderTake_follows (.mk_same h0))
  · exact continues_next.2 h0

theorem execAdderRmwComplete_continues {pkg line ecc} : continues s (execAdderRmwComplete pkg line ecc s) := by
  unfold execAdderRmwComplete
  dsimp only
  split
  · simp
  · refine continues_next.2 (.foldl (fun u _ => ?_) (State.adderEnd_follows ?_))
    · split
      · split <;> simp
      · simp
    · split <;> simp

theorem execTallyAdd_continues {index} : continues s (execTallyAdd index s) := by
  unfold execTallyAdd
  split
  · simp
  next m _ =>
    extract_lets s0 line off slice s1 v s2
    have h1 : s.Follows s1 := State.portTaken_follows (State.snoopNow_follows (State.settleLine_follows (.mk_same (.refl s))))
    have h2 : s.Follows s2 := by unfold s2; split <;> simp [h1]
    split
    · exact continues_next.2 (.mk_same (.refl s))
    split
    · exact continues_next.2 h1
    · exact continues_next.2 (State.writeLine_follows h2)

/-! ### `Controllers` -/

theorem execMsiWrite_continues {tag addr data} : continues s (execMsiWrite tag addr data s) := by simp [execMsiWrite]

theorem execControllerReadRequest_continues {slice line sector} :
    continues s (execControllerReadRequest slice line sector s) := by
  unfold execControllerReadRequest
  dsimp only
  split
  · simp
  split
  · simp
  split
  · simp
  · exact continues_next.2 (.mk_same (State.updMc_follows (by simp)))

theorem execSectorBurstReturn_continues {slice line sector first retry} :
    continues s (execSectorBurstReturn slice line sector first retry s) := by
  unfold execSectorBurstReturn
  dsimp only
  have h0 : ∀ f, s.Follows (s.updMc (s.ctlOf (128 * line)) f) := fun _ => State.updMc_follows (.refl s)
  have h1 : ∀ f f', s.Follows ((s.updMc (s.ctlOf (128 * line)) f).updMc (s.ctlOf (128 * line)) f') := fun _ _ => State.updMc_follows (h0 _)
  split
  · simp
  split
  · simp
  split
  · simp [h0]
  split
  · simp [h0]
  · repeat' split
    all_goals simp [h0, h1]
  · repeat' split
    all_goals simp [h0, h1]

theorem execRefresh_continues {m channel bank} : continues s (execRefresh m channel bank s) := by simp [execRefresh]

theorem execCalibrationPause_continues {m channel idle} : continues s (execCalibrationPause m channel idle s) :=
  by simp [execCalibrationPause]

theorem execCalibrationDue_continues {m channel} : continues s (execCalibrationDue m channel s) :=
  by simp [execCalibrationDue]

theorem execCalibrationGo_continues {agent m mask} : continues s (execCalibrationGo agent m mask s) :=
  by simp [execCalibrationGo]

theorem execCalibrationDeadline_continues {m channel} : continues s (execCalibrationDeadline m channel s) :=
  by simp [execCalibrationDeadline]

theorem execCalibrationDone_continues {m channel} : continues s (execCalibrationDone m channel s) :=
  by simp [execCalibrationDone]

theorem execSlotMapApply_continues {m} : continues s (execSlotMapApply m s) := by
  unfold execSlotMapApply
  split <;> simp

theorem execFullWipe_continues {agent m} : continues s (execFullWipe agent m s) := by simp [execFullWipe]

theorem execPageWipe_continues {agent m page} : continues s (execPageWipe agent m page s) := by simp [execPageWipe]

theorem execWipeDone_continues {m} : continues s (execWipeDone m s) := by
  unfold execWipeDone
  dsimp only
  split
  · split <;> simp
  split
  · simp
  · exact continues_next.2 (State.kickWipes_follows (State.wipeReported_follows (by simp)))

theorem execPackageFailure_continues {m trigger} : continues s (execPackageFailure m trigger s) := by
  unfold execPackageFailure
  split
  · simp
  · cases m <;> exact continues_next.2 (State.reportLost_follows (State.listFault_follows (by simp)))

/-! ### `Maint` -/

theorem execSliceEnable_continues {agent slice} : continues s (execSliceEnable agent slice s) :=
  by simp [execSliceEnable]

theorem execSliceDisable_continues {agent slice} : continues s (execSliceDisable agent slice s) :=
  by simp [execSliceDisable]

theorem execRocEnable_continues {agent c} : continues s (execRocEnable agent c s) := by simp [execRocEnable]

theorem execRocInval_continues {agent c} : continues s (execRocInval agent c s) := by simp [execRocInval]

theorem execMaintenanceComplete_continues {wing slot} : continues s (execMaintenanceComplete wing slot s) := by
  unfold execMaintenanceComplete
  dsimp only
  split
  · simp
  · have hclean : s.Follows ((s.maint wing slot.val).slices.foldl State.cleanState s) := .foldl (fun _ _ => by simp) (.refl s)
    refine continues_next.2 (State.updMaint_follows ?_)
    split
    · exact hclean
    · split <;> simp [hclean]

theorem execWriteDropped_continues {req reason} : continues s (execWriteDropped req reason s) := by
  unfold execWriteDropped
  split <;> simp

/-! ### `ParlourRows` -/

theorem execHartLoad_continues {h a rd signed} : continues s (execHartLoad h a rd signed s) := by
  unfold execHartLoad
  repeat' split
  all_goals simp

theorem execHartStore_continues {h a rs2} : continues s (execHartStore h a rs2 s) := by
  unfold execHartStore
  repeat' split
  all_goals simp

theorem execLr_continues {h a rd} : continues s (execLr h a rd s) := by
  unfold execLr
  repeat' split
  all_goals simp

theorem execSc_continues {h a rd rs2 spurious} : continues s (execSc h a rd rs2 spurious s) := by
  unfold execSc
  split
  · simp
  split
  · simp
  dsimp only
  split
  · exact continues_next.2 (State.updHart_follows (by simp))
  · simp

theorem execLrHoldExpiry_continues {h} : continues s (execLrHoldExpiry h s) := by simp [execLrHoldExpiry]

theorem execAmo_continues {h a op rd rs2} : continues s (execAmo h a op rd rs2 s) := by
  unfold execAmo
  repeat' split
  all_goals simp

theorem execCboClean_continues {h a} : continues s (execCboClean h a s) := by simp [execCboClean]

theorem execCboFlush_continues {h a} : continues s (execCboFlush h a s) := by simp [execCboFlush]

theorem execCboInval_continues {h a} : continues s (execCboInval h a s) := by simp [execCboInval]

theorem execCboZero_continues {h a} : continues s (execCboZero h a s) := by simp [execCboZero]

theorem execHartDevStoreTimeout_continues {h req} : continues s (execHartDevStoreTimeout h req s) :=
  by simp [execHartDevStoreTimeout]

theorem execHartDevLoadTimeout_continues {h req} : continues s (execHartDevLoadTimeout h req s) := by
  unfold execHartDevLoadTimeout
  split
  · split
    · exact continues_next.2 (State.hartTrap_follows (by simp))
    · simp
  · simp

theorem State.csrWrite_follows {h : Fin 128} {level num : Nat} {v : W64} (ht : s.csrWrite h level num v = some t) :
    s.Follows t := by
  unfold State.csrWrite at ht
  dsimp only at ht
  split at ht
  · cases ht
  · cases ht
    exact State.updHart_follows (.refl s)

theorem execMxsuiteWrite_continues {h mmode value} : continues s (execMxsuiteWrite h mmode value s) := by
  unfold execMxsuiteWrite
  split
  · simp
  split
  · simp
  next hu => exact continues_next.2 (State.csrWrite_follows hu)

theorem execMsend_continues {h insn} : continues s (execMsend h insn s) := by
  unfold execMsend
  split <;> simp

theorem execMsendAnswer_continues {h} : continues s (execMsendAnswer h s) := by
  unfold execMsendAnswer
  split
  · simp
  split
  · simp
  · refine continues_next.2 (State.takeLate_follows (State.updHart_follows ?_))
    split <;> simp

theorem execKmonVersion_continues {c} : continues s (execKmonVersion c s) := by simp [execKmonVersion]

theorem execKmonHartOwner_continues {h} : continues s (execKmonHartOwner h s) := by simp [execKmonHartOwner]

theorem execKmonRun_continues {h} : continues s (execKmonRun h s) := by
  unfold execKmonRun
  dsimp only
  repeat' split
  all_goals simp

theorem execVmExit_continues {h cause passed} : continues s (execVmExit h cause passed s) := by
  unfold execVmExit
  dsimp only
  repeat' split
  all_goals simp

theorem execKmonMove_continues {h} : continues s (execKmonMove h s) := by
  unfold execKmonMove
  dsimp only
  split
  · simp
  split
  · simp
  split
  · simp
  · refine continues_next.2 (State.sbiRet_follows (State.updVhart_follows ?_))
    split <;> simp

theorem execKmonKick_continues {h} : continues s (execKmonKick h s) := by
  unfold execKmonKick
  dsimp only
  repeat' split
  all_goals simp

theorem execSbiHsmStart_continues {h} : continues s (execSbiHsmStart h s) := by
  unfold execSbiHsmStart
  dsimp only
  split
  · simp
  split
  · simp
  split
  · simp
  · exact continues_next.2 (State.sbiRet_follows (by simp))

theorem execMtimeTick_continues {parlour} : continues s (execMtimeTick parlour s) := by simp [execMtimeTick]

theorem execMtimecmpWrite_continues {agent parlour core value} :
    continues s (execMtimecmpWrite agent parlour core value s) := by
  unfold execMtimecmpWrite
  extract_lets may fault
  have hfault : ∀ u, s.Follows u → s.Follows (fault u) := fun u hu => by
    unfold fault
    split
    · split <;> simp [hu]
    · exact hu
  split
  · simp
  · refine continues_next.2 (hfault _ (State.ctlExchange_follows (fun u => ?_) (.refl s)))
    split <;> simp

theorem execWingStampRead_continues {reader agent wing} : continues s (execWingStampRead reader agent wing s) :=
  State.regCommand_continues (fun u => .mk_same (by simp))

/-! ### `Ras` -/

theorem execBellwireMessageReceive_continues {index crc} : continues s (execBellwireMessageReceive index crc s) := by
  unfold execBellwireMessageReceive
  split
  · simp
  extract_lets ahead s0 s1 noEnd s2
  have h1 : s.Follows s1 := by unfold s1 s0; split <;> simp
  have hend : ∀ u e, s.Follows u → s.Follows (noEnd u e) := fun _ _ hu => State.countWing_follows hu
  have h2 : s.Follows s2 := State.receiveStamp_follows h1
  repeat' split
  all_goals simp [h1, h2, hend]

theorem execHeartbeat_continues {source} : continues s (execHeartbeat source s) := by simp [execHeartbeat]

theorem execRasReport_continues : continues s (execRasReport s) := by
  unfold execRasReport
  split
  · simp
  next m u hu =>
    have hu := State.takeFor_follows (.refl s) hu
    split
    · exact continues_next.2 (State.suiteNotices_follows (State.rasTake_follows (by simp [hu])))
    · simp [hu]

theorem execRasQueueDrain_continues : continues s (execRasQueueDrain s) := by
  unfold execRasQueueDrain
  refine continues_next.2 (.foldl (fun _ _ => ?_) (.refl s))
  split <;> simp

theorem execRasSuppressionWindow_continues {page subject} : continues s (execRasSuppressionWindow page subject s) :=
  by simp [execRasSuppressionWindow]

theorem execWingLoss_continues {wing trigger} : continues s (execWingLoss wing trigger s) := by
  unfold execWingLoss
  split
  · simp
  · exact continues_next.2 (State.answerCutOff_follows (.foldl (fun _ _ => by simp)
      (State.reportLost_follows (State.listFault_follows (by simp)))))

theorem execCellarLinkFailure_continues {link crc} : continues s (execCellarLinkFailure link crc s) := by
  unfold execCellarLinkFailure
  dsimp only
  split
  · simp
  split
  · simp
  · simp
  · split
    · simp
    · exact continues_next.2 (State.answerCutOff_follows (by simp))

/-! ### `Beyfy` -/

theorem execBeyfyFlit_continues {port f} : continues s (execBeyfyFlit port f s) :=
  continues_next.2 (State.updByPort_follows (State.takeFlit_follows (.refl s)))

theorem execPortRetrain_continues {agent port} : continues s (execPortRetrain agent port s) :=
  by simp [execPortRetrain]

theorem execMail_continues {port hdr msg} : continues s (execMail port hdr msg s) := by
  unfold execMail
  dsimp only
  split
  · simp
  split
  · simp
  split
  · simp
  split
  · simp
  · exact continues_next.2 (State.beyfySend_follows (by simp))

/-! ### `Copy` -/

theorem execCpyGo_continues {agent engine value} : continues s (execCpyGo agent engine value s) := by simp [execCpyGo]

theorem execCpyStart_continues {port hdr seqno zero8 tag} :
    continues s (execCpyStart port hdr seqno zero8 tag s) := by
  unfold execCpyStart
  dsimp only
  split
  · simp
  split
  · simp
  split
  · simp
  split
  · simp
  split
  · simp
  split
  · simp
  split
  · simp
  split
  · simp
  · exact continues_next.2 (State.startChain_follows (by simp))

theorem execCopyDescriptorEnd_continues {engine} : continues s (execCopyDescriptorEnd engine s) := by
  unfold execCopyDescriptorEnd
  extract_lets x s1 s2
  have h1 : s.Follows s1 := by unfold s1; split <;> simp
  have h2 : s.Follows s2 := by unfold s2; split <;> simp [h1]
  simp [h1, h2]

/-! ### `Peer` -/

theorem execCollectiveComplete_continues {porch slot} : continues s (execCollectiveComplete porch slot s) :=
  by simp [execCollectiveComplete]

theorem execLctl_continues {port hdr} : continues s (execLctl port hdr s) := by
  unfold execLctl
  split
  · simp
  split
  · simp
  · exact continues_next.2 (State.updBzPort_follows (State.updLink_follows (.refl s)))

theorem execBreezewayFlit_continues {port f hdr payload} : continues s (execBreezewayFlit port f hdr payload s) :=
  by simp [execBreezewayFlit]

theorem execPwr_continues {port hdr data} : continues s (execPwr port hdr data s) := by
  unfold execPwr
  dsimp only
  split
  · simp
  · refine continues_next.2 (State.sessSend_follows ?_)
    split <;> simp

theorem execPeerWriteTimeout_continues {port hdr} : continues s (execPeerWriteTimeout port hdr s) := by
  unfold execPeerWriteTimeout
  dsimp only
  split
  · simp
  split
  · simp
  split
  · simp
  · exact continues_next.2 (State.sessSend_follows (by simp))

theorem execPwack_continues {port hdr} : continues s (execPwack port hdr s) := by
  unfold execPwack
  dsimp only
  split
  · simp
  split
  · simp
  · exact continues_next.2 (State.updColl_follows (by simp))

theorem execProg_continues {port hdr} : continues s (execProg port hdr s) := by simp [execProg]

theorem execProgSend_continues {porch psess} : continues s (execProgSend porch psess s) := by simp [execProgSend]

theorem execPeerLost_continues {porch psess} : continues s (execPeerLost porch psess s) := by simp [execPeerLost]

/-! ### `Training` -/

theorem execNak_continues {port ackseq again retrainOk} : continues s (execNak port ackseq again retrainOk s) := by
  unfold execNak
  dsimp only
  split
  · simp
  split
  · simp
  · refine continues_next.2 ?_
    split
    · simp
    · exact State.portLost_follows (by simp)

theorem execTrainingDetectLock_continues {port} : continues s (execTrainingDetectLock port s) :=
  by simp [execTrainingDetectLock]

theorem execTrainingEqReport_continues {port passed} : continues s (execTrainingEqReport port passed s) := by
  unfold execTrainingEqReport
  repeat' split
  all_goals simp

theorem execTrainingAlign_continues {port} : continues s (execTrainingAlign port s) := by simp [execTrainingAlign]

theorem execTrainingConfig_continues {port partner modid peerPort bufA bufB} :
    continues s (execTrainingConfig port partner modid peerPort bufA bufB s) := by
  unfold execTrainingConfig
  repeat' split
  all_goals simp

theorem execTrainingStateTimeout_continues {port} : continues s (execTrainingStateTimeout port s) := by
  unfold execTrainingStateTimeout
  split <;> simp

/-! ### `Startup` -/

theorem execPowerUp_continues {vinMv en ref0 ref1} : continues s (execPowerUp vinMv en ref0 ref1 s) :=
  by simp [execPowerUp]

theorem execInrushComplete_continues : continues s (execInrushComplete s) := by simp [execInrushComplete]

theorem execEnableDeassert_continues : continues s (execEnableDeassert s) := by simp [execEnableDeassert]

theorem execPowerLoss_continues : continues s (execPowerLoss s) := by simp [execPowerLoss]

theorem execBrownOut_continues : continues s (execBrownOut s) := by simp [execBrownOut]

theorem execRefclkLoss_continues {porch} : continues s (execRefclkLoss porch s) := by simp [execRefclkLoss]

theorem execResetInput_continues {widthNs} : continues s (execResetInput widthNs s) := by simp [execResetInput]

theorem execModuleReset_continues {agent key} : continues s (execModuleReset agent key s) := by
  unfold execModuleReset
  split
  · simp
  split
  · simp
  split
  · simp
  · exact continues_next.2 (State.hearthReg_follows (fun u => State.resetCmd_follows (by simp)) (.refl s))

theorem execFaultClear_continues {agent key} : continues s (execFaultClear agent key s) := by
  unfold execFaultClear
  split
  · simp
  split
  · simp
  · exact continues_next.2 (State.hearthReg_follows (fun u => State.clearCmd_follows (by simp)) (.refl s))

theorem execSbiSrst_continues {h} : continues s (execSbiSrst h s) := by
  unfold execSbiSrst
  repeat' split
  all_goals simp

theorem execFwOpen_continues {agent config} : continues s (execFwOpen agent config s) :=
  fwCommand_continues (fun y => y.openWrite_sameFuses config)

theorem execFwEraseComplete_continues : continues s (execFwEraseComplete s) := by simp [execFwEraseComplete]

theorem execFwData_continues {agent bytes} : continues s (execFwData agent bytes s) := by
  unfold execFwData
  split
  · simp
  · refine fwCommand_continues (fun y => ?_)
    by_cases hbad : (y.fwState ≠ 2 || bytes = [] || decide (256 < bytes.length)) = true
    · rw [if_pos hbad]; exact .refl y
    · rw [if_neg hbad]
      by_cases hfit : (if y.fwTarget then 2 ^ 24 else 2 ^ 26) < y.fwWritten.toNat + bytes.length
      · rw [if_pos hfit]; exact y.endWrite_sameFuses 5
      · rw [if_neg hfit]; exact ⟨rfl, rfl, rfl⟩

theorem execFwClose_continues {agent} : continues s (execFwClose agent s) :=
  fwCommand_continues Hearth.closeWrite_sameFuses

theorem execFwVerifyComplete_continues {ok} : continues s (execFwVerifyComplete ok s) := by
  unfold execFwVerifyComplete
  extract_lets h n good
  split
  · simp
  · refine continues_next.2 (.updHearth (.refl s) (fun y => ?_))
    split <;> exact ⟨rfl, rfl, rfl⟩

theorem execFwAbort_continues {agent} : continues s (execFwAbort agent s) :=
  fwCommand_continues Hearth.abortWrite_sameFuses

theorem execHearthRomStart_continues {entropyOk} : continues s (execHearthRomStart entropyOk s) :=
  by simp [execHearthRomStart]

theorem execDieIdentityCheck_continues {straps} : continues s (execDieIdentityCheck straps s) := by
  unfold execDieIdentityCheck
  split
  · simp
  extract_lets strap num ok put s1
  have h1 : s.Follows s1 := .foldl (fun _ _ => State.updWing_follows (.refl _)) (.refl s)
  split
  · simp [h1]
  · exact continues_next.2 (State.enterStep_follows (by simp [h1]))

theorem execFirmwareVerify_continues {a b} : continues s (execFirmwareVerify a b s) := by
  unfold execFirmwareVerify
  dsimp only
  split
  · simp
  split
  · simp
  · exact continues_next.2 (State.enterStep_follows (by simp))

theorem execLinkTrainingBoot_continues {corridors parlourLinks porchLinks stairs} :
    continues s (execLinkTrainingBoot corridors parlourLinks porchLinks stairs s) := by
  unfold execLinkTrainingBoot
  extract_lets h listed wingOk mask wings links ends plr por has pkgs out link degraded s1 s2 s3
  have h1 : s.Follows s1 := State.Follows.foldl (fun v _ => State.updWing_follows (.refl v)) (.refl s)
  have h2 : s.Follows s2 := State.Follows.foldl (fun v _ => State.updRoom_follows (.refl v)) h1
  have h3 : s.Follows s3 := State.updHearth_follows h2 (fun _ => ⟨rfl, rfl, rfl⟩)
  clear_value s3
  split
  · simp
  split
  · simp [h3]
  · split <;> simp [h3]

theorem execMemoryTraining_continues {lpdRates spds ddrTrained} :
    continues s (execMemoryTraining lpdRates spds ddrTrained s) := by
  unfold execMemoryTraining
  extract_lets h rates here good pkgs rate s1 s2 s3 listed inc spd all d dr bits plr s4 ddr s5
  have h1 : s.Follows s1 := State.Follows.foldl (fun v _ => State.listFault_follows (.refl v)) (.refl s)
  have h2 : s.Follows s2 := State.updHearth_follows h1 (fun y => by split <;> exact ⟨rfl, rfl, rfl⟩)
  have h3 : s.Follows s3 := State.Follows.foldl (fun v _ => State.updMc_follows (.refl v)) h2
  have h4 : s.Follows s4 := by
    refine State.Follows.foldl (fun v _ => State.updParlour_follows (.refl v)) ?_
    split
    · exact h3
    · exact State.drawBits_follows h3
  have h5 : s.Follows s5 := State.Follows.foldl (fun v _ => State.updMc_follows (.refl v)) h4
  clear_value s5
  split
  · simp
  · split <;> simp [h5]

theorem execStartupWipe_continues : continues s (execStartupWipe s) := by
  unfold execStartupWipe
  split
  · simp
  · refine continues_next.2 (State.enterStep_follows (.mk_same (.foldl (fun _ _ => ?_) (.refl s))))
    split <;> simp

theorem execStartupMonitorLoad_continues {a b monitorDigest} :
    continues s (execStartupMonitorLoad a b monitorDigest s) := by
  unfold execStartupMonitorLoad
  dsimp only
  split
  · simp
  split
  · simp
  split
  · exact continues_next.2 (State.enterStep_follows (by simp))
  · refine continues_next.2 (State.enterStep_follows (State.placeMonitor_follows (State.updHearth_follows
      (State.Follows.foldl (fun v _ => State.drawSlot_follows (.refl v)) (State.drawKey_follows ?_)) (fun _ => ⟨rfl, rfl, rfl⟩))))
    exact State.updHearth_follows (.refl s) (fun _ => ⟨rfl, rfl, rfl⟩)

theorem execStartupReady_continues : continues s (execStartupReady s) := by
  unfold execStartupReady
  dsimp only
  split
  · simp
  · exact continues_next.2 (State.startPorts_follows (State.startHarts_follows (State.updHearth_follows
      (State.applyModes_follows (State.putExt_follows (State.putExt_follows (State.createSuite0_follows (by simp)))))
      (fun _ => ⟨rfl, rfl, rfl⟩))))

theorem execStartupStepOverrun_continues {fault} : continues s (execStartupStepOverrun fault s) :=
  by simp [execStartupStepOverrun]

/-! ### `Power` -/

theorem execSupplyDroop_continues {c stretched} : continues s (execSupplyDroop c stretched s) :=
  by simp [execSupplyDroop]

theorem execVoltageAverage_continues {mv} : continues s (execVoltageAverage mv s) := by simp [execVoltageAverage]

theorem execPowerEvaluation_continues {x} : continues s (execPowerEvaluation x s) := by
  unfold execPowerEvaluation
  split
  · simp
  extract_lets trips
  clear_value trips
  split
  · exact continues_next.2 (.mk_same (State.powerOff_follows (.refl s)))
  · refine continues_next.2 (State.Follows.foldl (fun v _ => State.evalPort_follows (.refl v))
      (State.Follows.foldl (fun v _ => State.evalReasons_follows (.refl v))
        (State.Follows.foldl (fun v _ => State.updUnit_follows (.refl v))
          (State.caps_follows (State.Follows.foldl (fun v _ => State.updUnit_follows (.refl v)) ?_)))))
    exact .mk_same (.refl s)

theorem execThrottleEpisodeEnd_continues {u r ownCycles} : continues s (execThrottleEpisodeEnd u r ownCycles s) :=
  by simp [execThrottleEpisodeEnd]

theorem execGustWindow_continues {c wanted} : continues s (execGustWindow c wanted s) := by simp [execGustWindow]

theorem execEnergySample_continues {mv tenMa} : continues s (execEnergySample mv tenMa s) :=
  by simp [execEnergySample]

theorem execCorePowerGate_continues {c} : continues s (execCorePowerGate c s) := by simp [execCorePowerGate]

theorem execCorePowerReady_continues {c} : continues s (execCorePowerReady c s) := by simp [execCorePowerReady]

/-! ### `XlatOps` -/

theorem execWalkModeWrite_continues {agent suite value} : continues s (execWalkModeWrite agent suite value s) :=
  by simp [execWalkModeWrite]

theorem execXlatOpComplete_continues {suite} : continues s (execXlatOpComplete suite s) :=
  by simp [execXlatOpComplete]

/-! ### `Calls` -/

theorem execSuiteCreate_continues {via suite b} : continues s (execSuiteCreate via suite b s) := by
  unfold execSuiteCreate
  repeat' split
  all_goals simp

theorem execSuiteBuildComplete_continues {suite wipeFailed} :
    continues s (execSuiteBuildComplete suite wipeFailed s) := by
  unfold execSuiteBuildComplete
  dsimp only
  split
  · simp
  split
  · exact continues_next.2 (State.answerRunning_follows (by simp))
  split
  · simp
  · exact continues_next.2 (State.answerRunning_follows (State.judgeTenancy_follows (State.refillSlots_follows
      (State.writeRoot_follows (by simp)))))

theorem execSuiteGrow_continues {via suite gen b} : continues s (execSuiteGrow via suite gen b s) := by
  unfold execSuiteGrow
  split <;> simp

theorem execSuiteShrink_continues {via suite gen b} : continues s (execSuiteShrink via suite gen b s) := by
  unfold execSuiteShrink
  split <;> simp

theorem execQuiesceTimeout_continues {suite} : continues s (execQuiesceTimeout suite s) := by
  unfold execQuiesceTimeout
  split <;> simp

theorem execMailSlotMove_continues {suite} : continues s (execMailSlotMove suite s) := by simp [execMailSlotMove]

theorem execSuiteChangeComplete_continues {suite} : continues s (execSuiteChangeComplete suite s) := by
  unfold execSuiteChangeComplete
  split
  · simp
  split
  · simp
  · exact continues_next.2 (State.thenRemove_follows (State.answerRunning_follows (by simp)))

theorem execSuiteReset_continues {via suite gen} : continues s (execSuiteReset via suite gen s) := by
  unfold execSuiteReset
  refine hearthCall_continues (fun who u => ?_)
  extract_lets st t1
  have h1 : u.Follows t1 := State.updSuite_follows (State.silence_follows (.refl u))
  have hr := State.resetSteps_follows (n := suite) h1
  repeat' split
  all_goals simp [hr]

theorem execSuiteResetComplete_continues {suite} : continues s (execSuiteResetComplete suite s) := by
  unfold execSuiteResetComplete
  split
  · simp
  dsimp only
  split
  · simp
  · exact continues_next.2 (State.thenRemove_follows (State.answerRunning_follows (State.refillSlots_follows (by simp))))

theorem execSuiteRemove_continues {via suite gen} : continues s (execSuiteRemove via suite gen s) :=
  by simp [execSuiteRemove]

theorem execSuiteRemoveComplete_continues {suite} : continues s (execSuiteRemoveComplete suite s) := by
  unfold execSuiteRemoveComplete
  dsimp only
  split
  · simp
  · have hgone : s.Follows (((s.removeSteps suite).suiteGone suite).refillSlots.answerRunning suite (fun _ => true) 0 []) :=
      State.answerRunning_follows (State.refillSlots_follows (by simp))
    repeat' split
    all_goals simp [hgone]

/-! ### `Services` -/

theorem execGetId_continues {via} : continues s (execGetId via s) := by simp [execGetId]

theorem execNonce_continues {via} : continues s (execNonce via s) := by
  refine hearthCall_continues (fun who u => ?_)
  split <;> simp

theorem execSessionOpen_continues {via suite gen qt nt sig} :
    continues s (execSessionOpen via suite gen qt nt sig s) :=
  by simp [execSessionOpen]

theorem execSessionClose_continues {via suite gen session} :
    continues s (execSessionClose via suite gen session s) := by
  refine tenantCall_continues (fun u => ?_)
  split
  · simp
  · split <;> simp

theorem execSenderSet_continues {via suite gen isHart sender limit} :
    continues s (execSenderSet via suite gen isHart sender limit s) :=
  by simp [execSenderSet]

theorem execRegionSet_continues {via suite gen index e} : continues s (execRegionSet via suite gen index e s) :=
  by simp [execRegionSet]

theorem execRootSet_continues {via suite gen pa} : continues s (execRootSet via suite gen pa s) :=
  by simp [execRootSet]

theorem execPageRelease_continues {via suite gen pages} : continues s (execPageRelease via suite gen pages s) := by
  refine tenantCall_continues (fun u => ?_)
  split
  · simp
  split
  · simp
  · exact State.writeRoot_follows (State.updSuite_follows (.foldl (fun _ _ => by simp) (.refl u)))

theorem execPageShare_continues {via suite gen on pages} : continues s (execPageShare via suite gen on pages s) := by
  refine tenantCall_continues (fun u => ?_)
  split
  · exact failCall_follows (.refl u)
  split
  · exact failCall_follows (.refl u)
  · dsimp only
    refine State.kickWipes_follows (State.Follows.foldl (fun v i => ?_) (.refl u))
    exact State.changePage_follows (.refl v)

theorem execPageChangeComplete_continues : continues s (execPageChangeComplete s) := by
  refine continues_next.2 (.foldl (fun _ _ => ?_) (.refl s))
  exact State.answerRunning_follows (by simp)

theorem execAttest_continues {via suite gen nonce} : continues s (execAttest via suite gen nonce s) :=
  by simp [execAttest]

theorem execStrictSet_continues {via strict} : continues s (execStrictSet via strict s) := by
  refine operatorCall_continues (fun u => ?_)
  split <;> simp

theorem execSelftest_continues {via unit} : continues s (execSelftest via unit s) := by
  refine operatorCall_continues (fun u => ?_)
  split
  · simp
  split
  · simp
  split
  · simp
  · dsimp only
    refine State.updHearth_follows (State.Follows.foldl (fun v _ => ?_) (.refl u)) (fun y => ⟨rfl, rfl, rfl⟩)
    exact State.updCore_follows (.refl v)

theorem execSelftestComplete_continues {unit result} : continues s (execSelftestComplete unit result s) := by
  unfold execSelftestComplete
  split
  next r _ _ =>
    extract_lets v part cores bad lose s1 s2 s3 s4 s5 s6
    have h1 : s.Follows s1 := by unfold s1; split <;> simp
    have h2 : s.Follows s2 := by
      unfold s2
      cases bad with
      | none => exact h1
      | some c => exact State.settleAll_follows (State.fenceCore_follows h1)
    have h3 : s.Follows s3 := by unfold s3; split <;> simp [h2]
    have h5 : s.Follows s5 := State.updHearth_follows (.foldl (fun _ _ => State.updCore_follows (.refl _)) h3) (fun _ => ⟨rfl, rfl, rfl⟩)
    exact continues_next.2 (State.answerCall_follows (State.report_follows h5))
  · simp

theorem Life.rank_le_of_step {a b : Life} (h : ¬(decide (b ≠ .scrapped)
    && !((decide (a = .blank) && decide (b = .provisioned)) || (decide (a = .provisioned) && decide (b = .field))
        || (decide (a = .field) && decide (b = .return_)))) = true) : a.rank ≤ b.rank := by
  cases a <;> cases b <;> simp_all [Life.rank]

theorem execLifecycle_continues {via target tok} : continues s (execLifecycle via target tok s) := by
  refine operatorCall_continues (fun u => ?_)
  dsimp only
  split
  · simp
  next l _ =>
  split
  · simp
  next hstep =>
  split
  · simp
  · refine State.requestReset_follows ?_
    refine ⟨rfl, Nat.le_refl _, id, Life.rank_le_of_step hstep, fun h => ?_, fun h => ⟨Nat.le_refl _, h⟩⟩
    simp [State.updHearth, h]

theorem execDebugOpen_continues {via tok} : continues s (execDebugOpen via tok s) := by simp [execDebugOpen]

theorem execCommonInstall_continues {via suite gen image count list sig backed} :
    continues s (execCommonInstall via suite gen image count list sig backed s) := by
  refine tenantCall_continues (fun u => ?_)
  have hread : ∀ a n, u.Follows ((u.gRead suite list.toNat (48 * count.toNat)).2.gRead suite a n).2 := by simp
  split
  · simp
  dsimp only
  split
  · simp
  split
  · simp
  split
  · exact failCall_follows (hread _ _)
  split
  · exact failCall_follows (hread _ _)
  · exact State.installCommon_follows (hread _ _)

theorem execCommonMap_continues {via suite gen cid root index va} :
    continues s (execCommonMap via suite gen cid root index va s) := by
  refine tenantCall_continues (fun u => ?_)
  dsimp only
  repeat' split
  all_goals simp

theorem execCommonRemove_continues {via suite gen cid} : continues s (execCommonRemove via suite gen cid s) := by
  refine publisherCall_continues (fun c u => ?_)
  split
  · simp
  · dsimp only
    refine State.updHearth_follows (State.Follows.foldl (fun v _ => ?_) (.refl u)) (fun y => ⟨rfl, rfl, rfl⟩)
    exact State.freePage_follows (.refl v)

theorem execCommonPageRepair_continues {cid index lastingAgain} :
    continues s (execCommonPageRepair cid index lastingAgain s) :=
  by simp [execCommonPageRepair]

theorem execCommonRepair_continues {via suite gen cid index src} :
    continues s (execCommonRepair via suite gen cid index src s) := by
  refine publisherCall_continues (fun c u => ?_)
  dsimp only
  split
  · simp
  split
  · simp
  · split <;> simp

theorem execVhartCreate_continues {via suite gen hart entry root a0} :
    continues s (execVhartCreate via suite gen hart entry root a0 s) :=
  by simp [execVhartCreate]

theorem execVhartDestroy_continues {via suite gen handle} :
    continues s (execVhartDestroy via suite gen handle s) := by
  refine tenantCall_continues (fun u => ?_)
  split
  · simp
  · split <;> simp

theorem execPeerOffer_continues {via suite gen port psess modid buf} :
    continues s (execPeerOffer via suite gen port psess modid buf s) := by
  refine innerCall_continues (fun u => ?_)
  have hdraw : u.Follows u.drawKey.2.drawKey.2.drawKey.2 := State.drawKey_follows (by simp)
  dsimp only
  repeat' split
  all_goals simp [hdraw]

theorem execPeerAccept_continues {via suite gen port offer answer} :
    continues s (execPeerAccept via suite gen port offer answer s) := by
  refine innerCall_continues (fun u => ?_)
  have hdraw : ∀ a n, u.Follows (u.gRead suite a n).2.drawKey.2.drawKey.2.drawKey.2 := fun _ _ =>
    State.drawKey_follows (State.drawKey_follows (by simp))
  dsimp only
  repeat' split
  all_goals simp [hdraw]

theorem execPeerFinish_continues {via suite gen answer} : continues s (execPeerFinish via suite gen answer s) := by
  refine innerCall_continues (fun u => ?_)
  dsimp only
  repeat' split
  all_goals simp

theorem execPeerClose_continues {via suite gen porch psess} :
    continues s (execPeerClose via suite gen porch psess s) :=
  by simp [execPeerClose]

/-! ### `RegRead` -/

theorem execRcFieldRead_continues {agent addr size added} : continues s (execRcFieldRead agent addr size added s) :=
  by simp [execRcFieldRead]

/-! ### `RegWrite` -/

theorem execControlRegisterWrite_continues {agent addr size value} :
    continues s (execControlRegisterWrite agent addr size value s) :=
  by simp [execControlRegisterWrite]

/-! ### `CopyRun` -/

theorem execAtomAdd64_continues {engine} : continues s (execAtomAdd64 engine s) := copyAtomic_continues

theorem execAtomCas64_continues {engine} : continues s (execAtomCas64 engine s) := copyAtomic_continues

theorem execDmaRdata_continues {port hdr data} : continues s (execDmaRdata port hdr data s) := by
  unfold execDmaRdata
  repeat' split
  all_goals simp

theorem execDmaWack_continues {port hdr} : continues s (execDmaWack port hdr s) := by
  unfold execDmaWack
  repeat' split
  all_goals simp

theorem execCopyHostTimeout_continues {engine tag} : continues s (execCopyHostTimeout engine tag s) := by
  unfold execCopyHostTimeout
  split <;> simp

/-! ### `HomeRow` -/

theorem execHomeRequest_continues {req ecc} : continues s (execHomeRequest req ecc s) := by
  unfold execHomeRequest
  split <;> simp

theorem execWinRd_continues {port hdr} : continues s (execWinRd port hdr s) := by
  unfold execWinRd
  dsimp only
  split
  · simp
  split
  · simp
  split
  · simp
  split
  · exact continues_next.2 (State.beyfySend_follows (by simp))
  · exact continues_next.2 (State.winReq_follows (by simp))

theorem execWinWr_continues {port hdr data} : continues s (execWinWr port hdr data s) := by
  unfold execWinWr
  dsimp only
  repeat' split
  all_goals simp

theorem execWindowTimeout_continues {port write tag} : continues s (execWindowTimeout port write tag s) := by
  unfold execWindowTimeout
  split <;> simp
/-! ## Every command -/

/-- Every command answers a next state, and that state follows the one it was given. -/
theorem exec_continues (c : Instr) (s : State) : continues s (exec c s) := by
  cases c with
  | nop | br | brany | brnone | brd | join | jmpr | call | exit | trap | mxbegin | mxend | rbar | gsr | sli
  | vcvt | vcmp | vsel | vshfl | vsfu | pfroms | sfromp | pcnt | mma | mmas | aclr | acvt | aflg | tmov => exact State.issueSlot_continues
  | sadd | ssub | smul | sand | sor | sxor | sshl | sshr | ssra | smin | smax | sminu | smaxu | sslt | ssltu => exact scalarOp_continues
  | saddImm | ssubImm | smulImm | sandImm | sorImm | sxorImm | sshlImm | sshrImm | ssraImm | sminImm | smaxImm
  | sminuImm | smaxuImm | ssltImm | ssltuImm => exact scalarImm_continues
  | sld | acq | acqRo => exact scalarLoad_continues
  | rdS | rdX | upg => exact parlourRequest_continues
  | snpSh | snpInv => exact takeSnoop_continues
  | clean | inval | cleanInval | zero | prefetch | last => exact runMaint_continues
  | copy | copyZero => exact copyMove_continues
  | allreduce | reduceScatter | allgather | broadcast | put => exact runColl_continues
  | collHdr | collData | collDone | abort => exact collRow_continues
  | jobStart | jobStop => exact jobRow_continues
  | fill | invalVa | invalAll => exact xlatRow_continues
  | powerUp => exact execPowerUp_continues
  | inrushComplete => exact execInrushComplete_continues
  | enableDeassert => exact execEnableDeassert_continues
  | powerLoss => exact execPowerLoss_continues
  | refclkLoss => exact execRefclkLoss_continues
  | brownOut => exact execBrownOut_continues
  | resetInput => exact execResetInput_continues
  | moduleReset => exact execModuleReset_continues
  | hearthRomStart => exact execHearthRomStart_continues
  | dieIdentityCheck => exact execDieIdentityCheck_continues
  | firmwareVerify => exact execFirmwareVerify_continues
  | linkTrainingBoot => exact execLinkTrainingBoot_continues
  | memoryTraining => exact execMemoryTraining_continues
  | startupWipe => exact execStartupWipe_continues
  | startupMonitorLoad => exact execStartupMonitorLoad_continues
  | startupReady => exact execStartupReady_continues
  | startupStepOverrun => exact execStartupStepOverrun_continues
  | controlRegisterWrite => exact execControlRegisterWrite_continues
  | rcFieldRead => exact execRcFieldRead_continues
  | heartbeat => exact execHeartbeat_continues
  | bellwireMessageReceive => exact execBellwireMessageReceive_continues
  | wingStampRead => exact execWingStampRead_continues
  | mtimeTick => exact execMtimeTick_continues
  | mtimecmpWrite => exact execMtimecmpWrite_continues
  | launch => exact execLaunch_continues
  | efence => exact execEfence_continues
  | efenceComplete => exact execEfenceComplete_continues
  | rbarArrival => exact execRbarArrival_continues
  | spawn => exact execSpawn_continues
  | spawnAnswer => exact execSpawnAnswer_continues
  | twait => exact execTwait_continues
  | vadd => exact execVadd_continues
  | vsub => exact execVsub_continues
  | vmul => exact execVmul_continues
  | vfma => exact execVfma_continues
  | vmin => exact execVmin_continues
  | vmax => exact execVmax_continues
  | vand => exact execVand_continues
  | vor => exact execVor_continues
  | vxor => exact execVxor_continues
  | vshl => exact execVshl_continues
  | vshr => exact execVshr_continues
  | vmov => exact execVmov_continues
  | pand => exact execPand_continues
  | por => exact execPor_continues
  | pxor => exact execPxor_continues
  | pandn => exact execPandn_continues
  | pnot => exact execPnot_continues
  | sst => exact execSst_continues
  | rel => exact execRel_continues
  | relStoreIssue => exact execRelStoreIssue_continues
  | vld => exact execVld_continues
  | vst => exact execVst_continues
  | vatom => exact execVatom_continues
  | vredadd => exact execVredadd_continues
  | tld => exact execTld_continues
  | tst => exact execTst_continues
  | mxred => exact execMxred_continues
  | dmaq => exact execDmaq_continues
  | loadDataReturn => exact execLoadDataReturn_continues
  | tokenSignal => exact execTokenSignal_continues
  | groupPark => exact execGroupPark_continues
  | replay => exact execReplay_continues
  | discard => exact execDiscard_continues
  | automaticReplay => exact execAutomaticReplay_continues
  | registerFileUe => exact execRegisterFileUe_continues
  | groupFree => exact execGroupFree_continues
  | roomMemoryAccess => exact execRoomMemoryAccess_continues
  | roomRectWrite => exact execRoomRectWrite_continues
  | roomWipeComplete => exact execRoomWipeComplete_continues
  | dmaReadReturn => exact execDmaReadReturn_continues
  | dmaWriteAck => exact execDmaWriteAck_continues
  | dmaRequestTimeout => exact execDmaRequestTimeout_continues
  | meshPacketForward => exact execMeshPacketForward_continues
  | roomLaneBeat => exact execRoomLaneBeat_continues
  | routerFailure => exact execRouterFailure_continues
  | mail => exact execMail_continues
  | mailCredit => exact execMailCredit_continues
  | submit => exact execSubmit_continues
  | token => exact execToken_continues
  | credit => exact execCredit_continues
  | admitCtxs => exact execAdmitCtxs_continues
  | retire => exact execRetire_continues
  | retireComplete => exact execRetireComplete_continues
  | endGraph => exact execEndGraph_continues
  | resubmit => exact execResubmit_continues
  | order => exact execOrder_continues
  | firing => exact execFiring_continues
  | launchRefuse => exact execLaunchRefuse_continues
  | freed => exact execFreed_continues
  | done => exact execDone_continues
  | spillComplete => exact execSpillComplete_continues
  | tokenAdd => exact execTokenAdd_continues
  | creditReturn => exact execCreditReturn_continues
  | graphStall => exact execGraphStall_continues
  | streamChunkIssue => exact execStreamChunkIssue_continues
  | streamChunkDelivered => exact execStreamChunkDelivered_continues
  | slotDone => exact execSlotDone_continues
  | pageReinstalledReport => exact execPageReinstalledReport_continues
  | eventRecord => exact execEventRecord_continues
  | sinkQueueDrain => exact execSinkQueueDrain_continues
  | graphModeWrite => exact execGraphModeWrite_continues
  | homeRequest => exact execHomeRequest_continues
  | wbD => exact execWbD_continues
  | offerC => exact execOfferC_continues
  | snoopAnswer => exact execSnoopAnswer_continues
  | memoryFill => exact execMemoryFill_continues
  | evictionAck => exact execEvictionAck_continues
  | homeResponseTimeout => exact execHomeResponseTimeout_continues
  | redContribution => exact execRedContribution_continues
  | adderPartial => exact execAdderPartial_continues
  | adderRmwComplete => exact execAdderRmwComplete_continues
  | tallyAdd => exact execTallyAdd_continues
  | sliceEnable => exact execSliceEnable_continues
  | sliceDisable => exact execSliceDisable_continues
  | rocEnable => exact execRocEnable_continues
  | rocInval => exact execRocInval_continues
  | maintenanceComplete => exact execMaintenanceComplete_continues
  | lr => exact execLr_continues
  | sc => exact execSc_continues
  | lrHoldExpiry => exact execLrHoldExpiry_continues
  | amo => exact execAmo_continues
  | cboClean => exact execCboClean_continues
  | cboFlush => exact execCboFlush_continues
  | cboInval => exact execCboInval_continues
  | cboZero => exact execCboZero_continues
  | mxsuiteWrite => exact execMxsuiteWrite_continues
  | hartDevStoreTimeout => exact execHartDevStoreTimeout_continues
  | hartDevLoadTimeout => exact execHartDevLoadTimeout_continues
  | msend => exact execMsend_continues
  | msendAnswer => exact execMsendAnswer_continues
  | kmonVersion => exact execKmonVersion_continues
  | kmonHartOwner => exact execKmonHartOwner_continues
  | kmonRun => exact execKmonRun_continues
  | vmExit => exact execVmExit_continues
  | kmonMove => exact execKmonMove_continues
  | kmonKick => exact execKmonKick_continues
  | sbiHsmStart => exact execSbiHsmStart_continues
  | sbiSrst => exact execSbiSrst_continues
  | msiWrite => exact execMsiWrite_continues
  | controllerReadRequest => exact execControllerReadRequest_continues
  | sectorBurstReturn => exact execSectorBurstReturn_continues
  | refresh m channel bank => exact execRefresh_continues (bank := bank)
  | calibrationPause => exact execCalibrationPause_continues
  | calibrationDue => exact execCalibrationDue_continues
  | calibrationGo => exact execCalibrationGo_continues
  | calibrationDeadline => exact execCalibrationDeadline_continues
  | calibrationDone => exact execCalibrationDone_continues
  | slotMapApply => exact execSlotMapApply_continues
  | fullWipe => exact execFullWipe_continues
  | pageWipe => exact execPageWipe_continues
  | wipeDone => exact execWipeDone_continues
  | packageFailure => exact execPackageFailure_continues
  | beyfyFlit => exact execBeyfyFlit_continues
  | nak => exact execNak_continues
  | trainingDetectLock => exact execTrainingDetectLock_continues
  | trainingEqReport => exact execTrainingEqReport_continues
  | trainingAlign => exact execTrainingAlign_continues
  | trainingConfig => exact execTrainingConfig_continues
  | trainingStateTimeout => exact execTrainingStateTimeout_continues
  | portRetrain => exact execPortRetrain_continues
  | cpyGo => exact execCpyGo_continues
  | cpyStart => exact execCpyStart_continues
  | atomAdd64 => exact execAtomAdd64_continues
  | atomCas64 => exact execAtomCas64_continues
  | dmaRdata => exact execDmaRdata_continues
  | dmaWack => exact execDmaWack_continues
  | copyDescriptorEnd => exact execCopyDescriptorEnd_continues
  | copyHostTimeout => exact execCopyHostTimeout_continues
  | winRd => exact execWinRd_continues
  | winWr => exact execWinWr_continues
  | windowTimeout => exact execWindowTimeout_continues
  | breezewayFlit => exact execBreezewayFlit_continues
  | lctl => exact execLctl_continues
  | pwr => exact execPwr_continues
  | pwack => exact execPwack_continues
  | peerWriteTimeout => exact execPeerWriteTimeout_continues
  | collectiveComplete => exact execCollectiveComplete_continues
  | prog => exact execProg_continues
  | progSend => exact execProgSend_continues
  | peerLost => exact execPeerLost_continues
  | getId => exact execGetId_continues
  | sessionOpen => exact execSessionOpen_continues
  | nonce => exact execNonce_continues
  | suiteCreate => exact execSuiteCreate_continues
  | suiteBuildComplete => exact execSuiteBuildComplete_continues
  | suiteGrow => exact execSuiteGrow_continues
  | suiteShrink => exact execSuiteShrink_continues
  | suiteChangeComplete => exact execSuiteChangeComplete_continues
  | quiesceTimeout => exact execQuiesceTimeout_continues
  | mailSlotMove => exact execMailSlotMove_continues
  | suiteReset => exact execSuiteReset_continues
  | suiteResetComplete => exact execSuiteResetComplete_continues
  | suiteRemove => exact execSuiteRemove_continues
  | suiteRemoveComplete => exact execSuiteRemoveComplete_continues
  | strictSet => exact execStrictSet_continues
  | selftest => exact execSelftest_continues
  | selftestComplete => exact execSelftestComplete_continues
  | lifecycle => exact execLifecycle_continues
  | debugOpen => exact execDebugOpen_continues
  | attest => exact execAttest_continues
  | sessionClose => exact execSessionClose_continues
  | senderSet => exact execSenderSet_continues
  | regionSet => exact execRegionSet_continues
  | rootSet => exact execRootSet_continues
  | pageRelease => exact execPageRelease_continues
  | pageShare => exact execPageShare_continues
  | pageChangeComplete => exact execPageChangeComplete_continues
  | commonInstall => exact execCommonInstall_continues
  | commonMap => exact execCommonMap_continues
  | commonRemove => exact execCommonRemove_continues
  | commonRepair => exact execCommonRepair_continues
  | commonPageRepair => exact execCommonPageRepair_continues
  | vhartCreate => exact execVhartCreate_continues
  | vhartDestroy => exact execVhartDestroy_continues
  | peerOffer => exact execPeerOffer_continues
  | peerAccept => exact execPeerAccept_continues
  | peerFinish => exact execPeerFinish_continues
  | peerClose => exact execPeerClose_continues
  | powerEvaluation => exact execPowerEvaluation_continues
  | voltageAverage => exact execVoltageAverage_continues
  | energySample => exact execEnergySample_continues
  | gustWindow => exact execGustWindow_continues
  | throttleEpisodeEnd => exact execThrottleEpisodeEnd_continues
  | corePowerGate => exact execCorePowerGate_continues
  | corePowerReady => exact execCorePowerReady_continues
  | rasReport => exact execRasReport_continues
  | rasQueueDrain => exact execRasQueueDrain_continues
  | rasSuppressionWindow => exact execRasSuppressionWindow_continues
  | writeDropped => exact execWriteDropped_continues
  | errorCountWindow => exact execErrorCountWindow_continues
  | wingFenceCmdCore => exact execWingFenceCmdCore_continues
  | wingFenceCmdRoom => exact execWingFenceCmdRoom_continues
  | wingLoss => exact execWingLoss_continues
  | cellarLinkFailure => exact execCellarLinkFailure_continues
  | faultClear => exact execFaultClear_continues
  | fwOpen => exact execFwOpen_continues
  | fwEraseComplete => exact execFwEraseComplete_continues
  | fwData => exact execFwData_continues
  | fwClose => exact execFwClose_continues
  | fwVerifyComplete => exact execFwVerifyComplete_continues
  | fwAbort => exact execFwAbort_continues
  | walkModeWrite => exact execWalkModeWrite_continues
  | xlatOpComplete => exact execXlatOpComplete_continues
  | supplyDroop => exact execSupplyDroop_continues
  | deviceRegionLoadTimeout => exact execDeviceRegionLoadTimeout_continues
  | hartLoad => exact execHartLoad_continues
  | hartStore => exact execHartStore_continues
  | hallFailure => exact execHallFailure_continues
  | hallLaneFailure => exact execHallLaneFailure_continues

/-- A step on a waiting command leaves the rest of the queue waiting. -/
theorem step_pops {c : Instr} {rest : List Instr} (h : s.pending = c :: rest) : ∃ t, step s = .next t ∧ t.pending = rest := by
  obtain ⟨t, ht, hf⟩ := exec_continues c { s with pending := rest }
  refine ⟨t, ?_, hf.queue⟩
  unfold step
  simp only [h, ht]

theorem State.run_drains (q : List Instr) : ∀ s : State, s.pending = q → ∃ t, State.run q.length s = some t ∧ t.pending = [] := by
  induction q with
  | nil => exact fun s h => ⟨s, rfl, h⟩
  | cons c rest ih =>
    intro s h
    obtain ⟨u, hu, hq⟩ := step_pops h
    obtain ⟨t, ht, hp⟩ := ih u hq
    exact ⟨t, by simp only [List.length_cons, State.run, hu, ht], hp⟩

end Sys2Proof.Machine

open Sys2Proof Sys2Proof.Machine

/-- Settles O1: `step` takes the head of the queue and gives `exec` the tail; log 1 for the empty queue. -/
theorem stepTakesFront : Obligations.StepTakesFront := by
  refine ⟨fun s c rest => rfl, fun s h => ?_⟩
  unfold step
  rw [h]

/-- Settles O2, by the lemma that every row continues. -/
theorem everyCommandCompletes : Obligations.EveryCommandCompletes := fun c s => (continues_iff.1 (exec_continues c s)).1

/-- Settles O3, by induction on the queue: a command leaves the queue behind it as it is. -/
theorem queueDrains : Obligations.QueueDrains := fun s => State.run_drains s.pending s rfl

end

section
/-! SUPPORT. Accesses of control registers: the exchange that carries one, and what the unit that takes it does (R8 to R11, R43, R181). -/

namespace Sys2Proof.Machine

variable {s : State} {a : Agent} {e : Endpoint} {may : Bool} {effect : State → State}

/-! ## The state that a unit sees -/

/-- The state at the register's endpoint when an access is accepted there: only stamps have moved, and the access is marked accepted. -/
def State.granted (s : State) (st : Table W64) : State := { s with stamps := st, lastOk := true }

/-- A message of class CTL moves nothing but stamps. -/
theorem State.ctlAsk_eq_stamps (s : State) (src dst : Endpoint) : s.ctlAsk src dst = { s with stamps := (s.ctlAsk src dst).stamps } := by
  unfold State.ctlAsk
  split
  · rfl
  · rfl

theorem State.ctlAsk_acceptedAccess (s : State) (src dst : Endpoint) :
    (s.ctlAsk src dst).acceptedAccess = s.granted (s.ctlAsk src dst).stamps :=
  congrArg State.acceptedAccess (s.ctlAsk_eq_stamps src dst)

@[simp] theorem State.ctlAsk_lastOk (src dst : Endpoint) : (s.ctlAsk src dst).lastOk = s.lastOk := by rw [State.ctlAsk_eq_stamps]
@[simp] theorem State.ctlAsk_lastRead (src dst : Endpoint) : (s.ctlAsk src dst).lastRead = s.lastRead := by rw [State.ctlAsk_eq_stamps]
@[simp] theorem State.ctlAsk_power (src dst : Endpoint) : (s.ctlAsk src dst).power = s.power := by rw [State.ctlAsk_eq_stamps]
@[simp] theorem State.ctlAsk_hearth (src dst : Endpoint) : (s.ctlAsk src dst).hearth = s.hearth := by rw [State.ctlAsk_eq_stamps]
@[simp] theorem State.ctlAsk_room (src dst : Endpoint) (r : RoomId) : (s.ctlAsk src dst).room r = s.room r := by
  rw [State.ctlAsk_eq_stamps]; rfl

@[simp] theorem State.acceptedAccess_lastOk : s.acceptedAccess.lastOk = true := rfl
@[simp] theorem State.acceptedAccess_power : s.acceptedAccess.power = s.power := rfl
@[simp] theorem State.acceptedAccess_hearth : s.acceptedAccess.hearth = s.hearth := rfl
@[simp] theorem State.acceptedAccess_room (r : RoomId) : s.acceptedAccess.room r = s.room r := rfl

/-! ## The three answers of a command register -/

/-- A permitted command takes its effect at the endpoint: `f` need only agree with it on what the unit sees there. -/
theorem State.regCommand_acts {f : State → State} (hon : s.on = true) (hmay : may = true)
    (h : ∀ st, effect (s.granted st) = f { s with stamps := st }) :
    s.regCommand a e may effect = .next (s.ctlExchange (agentEndpoint a) e f) := by
  have hf : f (s.ctlAsk (agentEndpoint a) e) = effect (s.ctlAsk (agentEndpoint a) e).acceptedAccess := by
    rw [State.ctlAsk_acceptedAccess, h, ← State.ctlAsk_eq_stamps]
  unfold State.regCommand State.ctlExchange
  simp only [hon, hmay, Bool.not_true, Bool.false_eq_true, if_false, if_true, hf]

theorem State.regCommand_refused (hon : s.on = true) (hmay : may = false) :
    s.regCommand a e may effect = .next (s.ctlExchange (agentEndpoint a) e State.refusedAccess) := by
  unfold State.regCommand
  simp only [hon, hmay, Bool.not_true, Bool.false_eq_true, if_false]

theorem State.regCommand_off (hoff : s.on = false) : s.regCommand a e may effect = .next s := by
  simp [State.regCommand, hoff]

/-! ## The rows that are register commands -/

section
variable {c : CoreId} {v : W64} {m : Ctl} {k : Fin 8} {n : BitVec 8}

theorem exec_portRetrain {p : Port} : exec (.portRetrain a p) s
    = s.regCommand a (.porch (porchOf p)) (suite0OrHearth a) (fun t => t.retrainPort p) := rfl

theorem exec_calibrationGo {q : BitVec 4} : exec (.calibrationGo a m q) s
    = s.regCommand a (ctlEndpoint m) (suite0OrHearth a) (fun t => t.updMc m (fun x => x.go m q)) := rfl

theorem exec_pageWipe {p : BitVec 27} : exec (.pageWipe a m p) s
    = s.regCommand a (ctlEndpoint m) (a = .hearth) (fun t => t.updMc m (fun x => x.startPage p.toNat)) := rfl

theorem exec_fullWipe : exec (.fullWipe a m) s
    = s.regCommand a (ctlEndpoint m) (a = .hearth) (fun t => if (s.mc m).inService then t.updMc m Mc.startFull else t) := rfl

theorem exec_cpyGo {g : Fin 32} : exec (.cpyGo a g v) s
    = s.regCommand a (.porch (enginePorch g)) (s.engineWriter a g) (fun t => t.copyGo g v) := rfl

theorem exec_graphModeWrite : exec (.graphModeWrite a n v) s
    = s.regCommand a (.dispatcher (s.gsuite n).leadWing) (graphWriter a n) (fun t => t.setGraphMode n (bitOf v.toNat 0)) := rfl

theorem exec_replay : exec (.replay a c v) s
    = s.regCommand a (.core c) (s.roomWriter a c.room) (fun t => t.replayCmd c v) := rfl

theorem exec_discard : exec (.discard a c v) s
    = s.regCommand a (.core c) (s.roomWriter a c.room) (fun t => t.discardCmd c v) := rfl

theorem exec_sliceEnable {j : Fin 128} : exec (.sliceEnable a j) s
    = s.regCommand a (homeEndpoint j.val) (s.sliceWriter a j.val) (fun t => t.updSlice j.val SliceReg.turnOn) := rfl

theorem exec_sliceDisable {j : Fin 128} : exec (.sliceDisable a j) s
    = s.regCommand a (homeEndpoint j.val) (s.sliceWriter a j.val) (fun t => t.turnOff j.val) := rfl

theorem exec_rocEnable : exec (.rocEnable a c) s
    = s.regCommand a (.core c) (s.roomWriter a c.room) (fun t => t.updCore c Core.rocOn) := rfl

theorem exec_rocInval : exec (.rocInval a c) s
    = s.regCommand a (.core c) (s.roomWriter a c.room) (fun t => t.rocInvalidate c) := rfl

theorem exec_wingFenceCmdCore : exec (.wingFenceCmdCore a k v) s
    = s.regCommand a (.cellar k) (suite0OrHearth a) (fun t => t.fenceCmd k v) := rfl

theorem exec_wingFenceCmdRoom : exec (.wingFenceCmdRoom a k v) s
    = s.regCommand a (.cellar k) (suite0OrHearth a) (fun t => t.fenceCmd k v) := rfl

theorem exec_walkModeWrite : exec (.walkModeWrite a n v) s
    = s.regCommand a (.dispatcher (s.gsuite n).leadWing) (graphWriter a n) (fun t => t.updGsuite n (fun g => g.writeWalk v)) := rfl

theorem exec_roomRectWrite {r : RoomId} : exec (.roomRectWrite a r v) s
    = s.regCommand a (.hall r) (a = .hearth)
        (fun t => if (List.finRange 6).all (fun q => (s.core ⟨r, q⟩).resident == []) then t.setRect r v else t) := rfl

theorem exec_wingStampRead : exec (.wingStampRead e a k) s
    = s.regCommand a (agentEndpoint a) (suite0OrHearth a)
        (fun t => { (t.exchangeStamp e k).2 with lastRead := (t.exchangeStamp e k).1 }) := rfl

end

/-! ## What the units do -/

theorem Table.upd_congr {α : Type} {d : α} {t : Table α} {i : Nat} {f g : α → α} (h : f (Table.get d t i) = g (Table.get d t i)) :
    Table.upd d t i f = Table.upd d t i g := congrArg (Table.set t i) h

theorem State.updCore_congr {c : CoreId} {f g : Core → Core} (h : f (s.core c) = g (s.core c)) : s.updCore c f = s.updCore c g :=
  congrArg (fun x => { s with cores := x }) (Table.upd_congr h)

theorem State.updSlice_congr {k : Nat} {f g : SliceReg → SliceReg} (h : f (s.slice k) = g (s.slice k)) : s.updSlice k f = s.updSlice k g :=
  congrArg (fun x => { s with slices := x }) (Table.upd_congr h)

theorem State.updGsuite_congr {n : BitVec 8} {f g : GSuite → GSuite} (h : f (s.gsuite n) = g (s.gsuite n)) :
    s.updGsuite n f = s.updGsuite n g :=
  congrArg (fun x => { s with gsuites := x }) (Table.upd_congr h)

theorem State.retrainPort_of_down {p : Port} (h : (s.link p).state = .down) : s.retrainPort p = s.updLink p Link.fresh := if_pos h

theorem State.retrainPort_of_not_down {p : Port} (h : (s.link p).state ≠ .down) : s.retrainPort p = s := if_neg h

theorem State.copyGo_of_idle {g : Fin 32} {v : W64} {n : BitVec 8} (ho : (s.engine g).owner = some n) (hb : (s.engine g).busy = false) :
    s.copyGo g v = s.startChain g n (bitsOf v.toNat 6 42 * 64) := by
  simp [State.copyGo, ho, hb]

theorem State.copyGo_of_unowned_or_busy {g : Fin 32} {v : W64} (h : (s.engine g).owner = none ∨ (s.engine g).busy = true) :
    s.copyGo g v = s.updEngine g (fun y => { y with goRefused := true }) := by
  cases ho : (s.engine g).owner with
  | none => simp [State.copyGo, ho]
  | some n =>
    have hb : (s.engine g).busy = true := h.resolve_left (by simp [ho])
    simp [State.copyGo, ho, hb]

theorem State.replayCmd_of_parked {c : CoreId} {v : W64} (hcmd : (cmdFields v).2.1 = 1)
    (hp : (s.slot ⟨c, (cmdFields v).1⟩).state = .parked) (hq : (s.slot ⟨c, (cmdFields v).1⟩).parkSeq = (cmdFields v).2.2) :
    s.replayCmd c v = s.resume ⟨c, (cmdFields v).1⟩ := by
  simp [State.replayCmd, hcmd, hp, hq]

theorem State.replayCmd_of_stale {c : CoreId} {v : W64} (hcmd : (cmdFields v).2.1 = 1)
    (h : ¬((s.slot ⟨c, (cmdFields v).1⟩).state = .parked ∧ (s.slot ⟨c, (cmdFields v).1⟩).parkSeq = (cmdFields v).2.2)) :
    s.replayCmd c v = s.staleCmd c := by
  simp only [State.replayCmd, hcmd, ne_eq, not_true_eq_false, if_false]
  exact if_pos (by simpa [imp_iff_not_or] using h)

theorem State.discardCmd_of_parked {c : CoreId} {v : W64} {f : GroupFault} (hcmd : (cmdFields v).2.1 = 2)
    (hp : (s.slot ⟨c, (cmdFields v).1⟩).state = .parked) (hq : (s.slot ⟨c, (cmdFields v).1⟩).parkSeq = (cmdFields v).2.2)
    (hf : (s.slot ⟨c, (cmdFields v).1⟩).fault = some f) :
    s.discardCmd c v
      = (s.updTaskSlots c (s.slot ⟨c, (cmdFields v).1⟩) (fun x => x.endWith (BitVec.ofNat 8 (1 + 16 * causeCode f.cause)))).updSlot
          ⟨c, (cmdFields v).1⟩ (fun x => { x with state := .draining, fault := none, marks := [], kept := [] }) := by
  simp [State.discardCmd, hcmd, hp, hq, hf]

theorem State.updSlice_turnOn_of_clean {k : Nat} (h : (s.slice k).cleanState = true) :
    s.updSlice k SliceReg.turnOn = s.updSlice k (fun x => { x with enable := true }) := State.updSlice_congr (if_pos h)

theorem State.updSlice_turnOn_of_unclean {k : Nat} (h : (s.slice k).cleanState = false) :
    s.updSlice k SliceReg.turnOn = s.updSlice k (fun x => { x with refused := true }) :=
  State.updSlice_congr (if_neg (Bool.eq_false_iff.1 h))

theorem State.updCore_rocOn_of_clean {c : CoreId} (h : (s.core c).rocClean = true) :
    s.updCore c Core.rocOn = s.updCore c (fun x => { x with rocEnable := true }) := State.updCore_congr (if_pos h)

theorem State.updCore_rocOn_of_unclean {c : CoreId} (h : (s.core c).rocClean = false) :
    s.updCore c Core.rocOn = s.updCore c (fun x => { x with rocRefused := true }) :=
  State.updCore_congr (if_neg (Bool.eq_false_iff.1 h))

theorem State.fenceCmd_of_core {k : Fin 8} {v : W64} {c : CoreId} (hc : coreOfId (bitsOf v.toNat 0 16) = some c)
    (hw : wingOfRoom c.room = k) (hf : (s.core c).fenced = false) : s.fenceCmd k v = (s.fenceCore c 4).settleAll := by
  simp [State.fenceCmd, hc, hw, hf]

theorem State.fenceCmd_of_room {k : Fin 8} {v : W64} {r : RoomId} (hc : coreOfId (bitsOf v.toNat 0 16) = none)
    (hr : hallOfId (bitsOf v.toNat 0 16) = some r) (hw : wingOfRoom r = k) (hl : (s.room r).lost = false) :
    s.fenceCmd k v = s.loseRoom r 5 := by
  simp [State.fenceCmd, hc, hr, hw, hl]

theorem State.updGsuite_writeWalk_of_idle {n : BitVec 8} {v : W64} (h : (s.gsuite n).xbusy = false) :
    s.updGsuite n (fun g => g.writeWalk v)
      = s.updGsuite n (fun g => { g with walkMode := bitOf v.toNat 0, xbusy := true, xop := 3, xdone := true, xlats := [] }) :=
  State.updGsuite_congr (if_neg (Bool.eq_false_iff.1 h))

theorem bitOf_zero_eq_getLsbD (v : W64) : bitOf v.toNat 0 = v.getLsbD 0 := by
  simp [bitOf, BitVec.getLsbD, Nat.testBit_zero]

theorem quiet_of_resident_nil {r : RoomId} (h : ∀ k : Fin 6, (s.core ⟨r, k⟩).resident = []) :
    ((List.finRange 6).all fun k => (s.core ⟨r, k⟩).resident == []) = true := by
  simp [h]

/-! ## PLR_MTIMECMP (R279, R282) -/

theorem execMtimecmpWrite_own {h : Fin 128} {p : Fin 2} {c : Fin 64} {v : W64} (hon : s.on = true) (hp : parlourOf h = p) :
    execMtimecmpWrite (.mmode h) p c v s
      = .next (s.ctlExchange (agentEndpoint (.mmode h)) (.parlour p) (fun t => t.acceptedAccess.setMtimecmp p c v)) := by
  simp [execMtimecmpWrite, hon, hp]

theorem execMtimecmpWrite_other {h : Fin 128} {p : Fin 2} {c : Fin 64} {v : W64} (hon : s.on = true) (hp : parlourOf h ≠ p) :
    execMtimecmpWrite (.mmode h) p c v s
      = .next ((s.ctlExchange (agentEndpoint (.mmode h)) (.parlour p) State.refusedAccess).hartTrap h 7
          (BitVec.ofNat 64 (0xF00020001000 + 0x1000000 * p.val + 8 * c.val))) := by
  simp [execMtimecmpWrite, hon, hp]

theorem execMtimecmpWrite_not_mmode {p : Fin 2} {c : Fin 64} {v : W64} (hon : s.on = true) (ha : ∀ h, a ≠ .mmode h) :
    execMtimecmpWrite a p c v s = .next (s.ctlExchange (agentEndpoint a) (.parlour p) State.refusedAccess) := by
  cases a with
  | mmode h => exact absurd rfl (ha h)
  | hearth | suite | bmc => simp [execMtimecmpWrite, hon]

end Sys2Proof.Machine

open Sys2Proof Sys2Proof.Machine

/-- Settles O28: each row is `State.regCommand` at its endpoint, and its effect there is what the unit does with the command. -/
theorem registerCommandsAct : Obligations.RegisterCommandsAct := by
  refine ⟨?portDown, ?portUp, ?calibrate, ?pageWipe, ?fullWipe, ?copyGo, ?copyRefused, ?graphMode, ?replay, ?discard, ?stale, ?sliceOn,
    ?sliceRefused, ?sliceOff, ?rocOn, ?rocRefused, ?rocInval, ?fenceCore, ?fenceRoom, ?walkMode, ?mtimecmp, ?rect, ?wingStamp⟩
  case portDown =>
    intro a p s hon ⟨ha, hd⟩
    exact exec_portRetrain.trans (State.regCommand_acts hon ha fun st => State.retrainPort_of_down hd)
  case portUp =>
    intro a p s hon ⟨ha, hd⟩
    exact exec_portRetrain.trans (State.regCommand_acts hon ha fun st => State.retrainPort_of_not_down hd)
  case calibrate =>
    intro a m k s hon ha
    exact exec_calibrationGo.trans (State.regCommand_acts hon ha fun st => rfl)
  case pageWipe =>
    intro a m p s hon ha
    exact exec_pageWipe.trans (State.regCommand_acts hon (decide_eq_true ha) fun st => rfl)
  case fullWipe =>
    intro a m s hon ⟨ha, hin⟩
    exact exec_fullWipe.trans (State.regCommand_acts hon (decide_eq_true ha) fun st => if_pos hin)
  case copyGo =>
    intro a g v n s hon ⟨ha, ho, hb⟩
    exact exec_cpyGo.trans (State.regCommand_acts hon ha fun st => State.copyGo_of_idle ho hb)
  case copyRefused =>
    intro a g v s hon ⟨ha, hr⟩
    exact exec_cpyGo.trans (State.regCommand_acts hon ha fun st => State.copyGo_of_unowned_or_busy hr)
  case graphMode =>
    intro a n v s hon ha
    exact exec_graphModeWrite.trans (State.regCommand_acts hon ha fun st => congrArg _ (bitOf_zero_eq_getLsbD v))
  case replay =>
    intro a c v s hon ⟨ha, hcmd, hp, hq⟩
    exact exec_replay.trans (State.regCommand_acts hon ha fun st => State.replayCmd_of_parked hcmd hp hq)
  case discard =>
    intro a c v f s hon ⟨⟨ha, hcmd, hp, hq⟩, hf⟩
    exact exec_discard.trans (State.regCommand_acts hon ha fun st => State.discardCmd_of_parked hcmd hp hq hf)
  case stale =>
    intro a c v s hon ⟨ha, hcmd, hg⟩
    exact exec_replay.trans (State.regCommand_acts hon ha fun st => State.replayCmd_of_stale hcmd fun hpq => hg ⟨ha, hcmd, hpq⟩)
  case sliceOn =>
    intro a k s hon ⟨ha, hc⟩
    exact exec_sliceEnable.trans (State.regCommand_acts hon ha fun st => State.updSlice_turnOn_of_clean hc)
  case sliceRefused =>
    intro a k s hon ⟨ha, hc⟩
    exact exec_sliceEnable.trans (State.regCommand_acts hon ha fun st => State.updSlice_turnOn_of_unclean hc)
  case sliceOff =>
    intro a k s hon ha
    exact exec_sliceDisable.trans (State.regCommand_acts hon ha fun st => rfl)
  case rocOn =>
    intro a c s hon ⟨ha, hc⟩
    exact exec_rocEnable.trans (State.regCommand_acts hon ha fun st => State.updCore_rocOn_of_clean hc)
  case rocRefused =>
    intro a c s hon ⟨ha, hc⟩
    exact exec_rocEnable.trans (State.regCommand_acts hon ha fun st => State.updCore_rocOn_of_unclean hc)
  case rocInval =>
    intro a c s hon ha
    exact exec_rocInval.trans (State.regCommand_acts hon ha fun st => rfl)
  case fenceCore =>
    intro a k v c s hon ⟨ha, hc, hw, hf⟩
    exact exec_wingFenceCmdCore.trans (State.regCommand_acts hon ha fun st => State.fenceCmd_of_core hc hw hf)
  case fenceRoom =>
    intro a k v r s hon ⟨ha, hc, hr, hw, hl⟩
    exact exec_wingFenceCmdRoom.trans (State.regCommand_acts hon ha fun st => State.fenceCmd_of_room hc hr hw hl)
  case walkMode =>
    intro a n v s hon ⟨ha, hx⟩
    exact exec_walkModeWrite.trans (State.regCommand_acts hon ha fun st => State.updGsuite_writeWalk_of_idle hx)
  case mtimecmp =>
    intro h p c v s hon hp
    exact execMtimecmpWrite_own hon hp
  case rect =>
    intro a r v s hon ⟨ha, hq⟩
    exact exec_roomRectWrite.trans (State.regCommand_acts hon (decide_eq_true ha) fun st => if_pos (quiet_of_resident_nil hq))
  case wingStamp =>
    intro g a k s hon ha
    exact exec_wingStampRead.trans (State.regCommand_acts hon ha fun st => rfl)

/-- Settles O29: `State.regCommand` of an agent that may not, and of a module that is off. -/
theorem registerCommandsRefused : Obligations.RegisterCommandsRefused := by
  refine ⟨fun s hon => ⟨?port, ?calibrate, ?pageWipe, ?fullWipe, ?copyGo, ?replay, ?discard, ?sliceOn, ?sliceOff, ?rect, ?notMmode,
    ?otherParlour⟩, fun s a c m v p n hoff => ⟨exec_replay.trans (State.regCommand_off hoff), exec_discard.trans (State.regCommand_off hoff),
    exec_rocEnable.trans (State.regCommand_off hoff), exec_fullWipe.trans (State.regCommand_off hoff), ?write, ?read, ?job, ?beat⟩⟩
  case port => exact fun a p ha => exec_portRetrain.trans (State.regCommand_refused hon ha)
  case calibrate => exact fun a m k ha => exec_calibrationGo.trans (State.regCommand_refused hon ha)
  case pageWipe => exact fun a m p ha => exec_pageWipe.trans (State.regCommand_refused hon (decide_eq_false ha))
  case fullWipe => exact fun a m ha => exec_fullWipe.trans (State.regCommand_refused hon (decide_eq_false ha))
  case copyGo => exact fun a g v ha => exec_cpyGo.trans (State.regCommand_refused hon ha)
  case replay => exact fun a c v ha => exec_replay.trans (State.regCommand_refused hon ha)
  case discard => exact fun a c v ha => exec_discard.trans (State.regCommand_refused hon ha)
  case sliceOn => exact fun a k ha => exec_sliceEnable.trans (State.regCommand_refused hon ha)
  case sliceOff => exact fun a k ha => exec_sliceDisable.trans (State.regCommand_refused hon ha)
  case rect => exact fun a r v ha => exec_roomRectWrite.trans (State.regCommand_refused hon (decide_eq_false ha))
  case notMmode => exact fun a p c v ha => execMtimecmpWrite_not_mmode hon ha
  case otherParlour => exact fun h p c v hp => execMtimecmpWrite_other hon hp
  case write => exact if_pos (by simp [hoff])
  case read => exact if_pos (by simp [hoff])
  case job => exact if_pos (by simp [hoff])
  case beat => exact if_pos (by simp [hoff])

end

section
/-! SUPPORT. The control-register write and read: what `accessWrite` and `accessRead` do with each form of access (R8 to R11). -/

namespace Sys2Proof.Machine

variable {s : State} {a : Agent} {w : Endpoint} {r : Reg} {addr size value : Nat} {lo hi : Bool}

/-! ## Forms -/

theorem accessForm_eight (h : addr % 8 = 0) : accessForm addr 8 = some (true, true) := by simp [accessForm, h]

theorem div_mul_eight (h : addr % 8 = 0) : addr / 8 * 8 = addr := Nat.div_mul_cancel (Nat.dvd_of_mod_eq_zero h)

/-- The value of a write with the halves that it does not cover zero. -/
def writtenValue (lo hi : Bool) (value : Nat) : Nat :=
  if lo && hi then value else if lo then value % 2 ^ 32 else value % 2 ^ 32 * 2 ^ 32

/-- What a read returns of a register's value. -/
def returnedValue (lo hi : Bool) (n : Nat) : Nat := if lo && hi then n else if lo then n % 2 ^ 32 else bitsOf n 32 32

/-- The endpoint that an access travels to. -/
def State.accessTarget (s : State) (w : Endpoint) (a : Agent) (r : Reg) : Endpoint := if a = .bmc then w else s.regEndpoint r

/-- A read that is answered with a value. -/
def State.answered (s : State) (n : Nat) : State := { s with lastOk := true, lastRead := BitVec.ofNat 64 n }

@[simp] theorem State.answered_room (n : Nat) (x : RoomId) : (s.answered n).room x = s.room x := rfl

/-! ## The answers -/

section
variable (hfile : imsicFile addr = none) (hform : accessForm addr size = some (lo, hi)) (hreg : regOf (addr / 8 * 8) = some r)
  (hsize : a = .bmc → size = 8)
include hfile hform hreg

theorem State.accessWrite_refused (h : s.writable a r = false ∨ (r.hasWo = true ∧ ¬(lo = true ∧ hi = true))) :
    s.accessWrite w a addr size value = s.ctlExchange w (s.accessTarget w a r) State.refusedAccess := by
  simp only [State.accessWrite, hfile, hform, hreg, Option.isSome_none, Bool.false_eq_true, if_false]
  refine if_pos ?_
  rcases h with hwr | ⟨hwo, hhalf⟩
  · simp [hwr]
  · have hl : lo = false ∨ hi = false := by simpa [imp_iff_not_or] using hhalf
    simp [hwo, hl]

theorem State.accessRead_refused (hrd : s.readable a r = false) :
    (s.accessRead w a addr size value).lastOk = false ∧ (s.accessRead w a addr size value).lastRead = 0 := by
  simp [State.accessRead, hfile, hform, hreg, hrd, State.ctlExchange, State.refusedAccess]

include hsize

theorem State.accessWrite_accepted (hv : value < 2 ^ 64) (hwr : s.writable a r = true) (hwo : r.hasWo = true → lo = true ∧ hi = true) :
    s.accessWrite w a addr size value
      = s.ctlExchange w (s.accessTarget w a r) (fun t => t.acceptedAccess.regWrite a r ⟨lo, hi, writtenValue lo hi value⟩) := by
  simp only [State.accessWrite, hfile, hform, hreg, Option.isSome_none, Bool.false_eq_true, if_false, Nat.mod_eq_of_lt hv]
  refine if_neg ?_
  simpa [hwr] using ⟨hwo, hsize⟩

theorem State.accessRead_accepted (hrd : s.readable a r = true) :
    s.accessRead w a addr size value
      = (((s.ctlAsk w (s.accessTarget w a r)).regCount a r ⟨lo, hi, value⟩).ctlAsk (s.accessTarget w a r) w).answered
          (returnedValue lo hi ((s.ctlAsk w (s.accessTarget w a r)).regValue a r)) := by
  simp only [State.accessRead, hfile, hform, hreg, Option.isSome_none, Bool.false_eq_true, if_false]
  refine if_neg ?_
  simpa [hrd] using hsize

end

theorem State.accessWrite_imsic (ha : a ≠ .bmc) (hfile : (imsicFile addr).isSome = true) (hform : imsicForm addr size = true) :
    s.accessWrite w a addr size value = s.acceptedAccess.msiTo (agentTag a) addr (BitVec.ofNat 32 value) := by
  simp [State.accessWrite, hfile, ha, hform]

theorem exec_controlRegisterWrite {p : PA} {v : W64} (hon : s.on = true) :
    exec (.controlRegisterWrite a p size v) s = .next (s.accessWrite (agentEndpoint a) a p.toNat size v.toNat) :=
  if_neg (by simp [hon])

theorem exec_rcFieldRead {p : PA} {v : W64} (hon : s.on = true) :
    exec (.rcFieldRead a p size v) s = .next (s.accessRead (agentEndpoint a) a p.toNat size v.toNat) :=
  if_neg (by simp [hon])

/-! ## Accesses of a whole register -/

/-- A write of both halves gives the RW fields of the mask their values, whatever the register held (R9). -/
theorem RegWrite.put_both (v : W64) (old : W64) (n : Nat) :
    (⟨true, true, v.toNat⟩ : RegWrite).put old (2 ^ n - 1) = BitVec.ofNat 64 (v.toNat % 2 ^ n) := by
  have h : v.toNat % 2 ^ 32 + v.toNat / 2 ^ 32 * 2 ^ 32 = v.toNat := by omega
  simp only [RegWrite.put, if_true, h, Nat.and_two_pow_sub_one_eq_mod]

/-- A read of a whole register with nothing added in its cycle clears an RC field (R11). -/
theorem RcRead.field_both {n : Nat} (pos width : Nat) (x : BitVec n) : (⟨true, true, 0⟩ : RcRead).field pos width x = 0 := by
  simp [RcRead.field, bitsOf]

/-- An accepted write of a whole register, read off its endpoint. -/
theorem exec_controlRegisterWrite_whole {p : PA} {v : W64} (hon : s.on = true) (ha : a ≠ .bmc) (hfile : imsicFile p.toNat = none)
    (hal : p.toNat % 8 = 0) (hreg : regOf p.toNat = some r) (hwr : s.writable a r = true) :
    exec (.controlRegisterWrite a p 8 v) s
      = .next (s.ctlExchange (agentEndpoint a) (s.regEndpoint r) (fun t => t.acceptedAccess.regWrite a r ⟨true, true, v.toNat⟩)) := by
  rw [exec_controlRegisterWrite hon, State.accessWrite_accepted hfile (accessForm_eight hal) (by rw [div_mul_eight hal, hreg])
    (fun h => absurd h ha) v.isLt hwr (fun _ => ⟨rfl, rfl⟩), State.accessTarget, if_neg ha]
  rfl

theorem exec_rcFieldRead_whole {p : PA} (hon : s.on = true) (ha : a ≠ .bmc) (hfile : imsicFile p.toNat = none)
    (hal : p.toNat % 8 = 0) (hreg : regOf p.toNat = some r) (hrd : s.readable a r = true) :
    exec (.rcFieldRead a p 8 0) s
      = .next ((((s.ctlAsk (agentEndpoint a) (s.regEndpoint r)).regCount a r ⟨true, true, 0⟩).ctlAsk (s.regEndpoint r)
          (agentEndpoint a)).answered ((s.ctlAsk (agentEndpoint a) (s.regEndpoint r)).regValue a r)) := by
  rw [exec_rcFieldRead hon, State.accessRead_accepted hfile (accessForm_eight hal) (by rw [div_mul_eight hal, hreg])
    (fun h => absurd h ha) hrd, State.accessTarget, if_neg ha]
  rfl

/-! ## What the write of a whole register does, by kind -/

theorem State.regWrite_power_own (s : State) (a : Agent) (v : W64) :
    s.regWrite a (.power .own) ⟨true, true, v.toNat⟩ = { s with power := { s.power with owner := BitVec.ofNat 8 (v.toNat % 256) } } := by
  simp only [State.regWrite, State.writePower, RegWrite.put_both, bitsOf]
  simp

theorem State.regWrite_band (s : State) (a : Agent) (b : Fin 4096) (v : W64) :
    s.regWrite a (.band b) ⟨true, true, v.toNat⟩
      = s.updHearth (fun h => { h with bands := Table.set h.bands b.val (BitVec.ofNat 64 (v.toNat % 2 ^ 22)) }) := by
  simp only [State.regWrite, RegWrite.put_both]

theorem State.regWrite_room_pwr (s : State) (a : Agent) (r : RoomId) (v : W64) :
    s.regWrite a (.room r .pwr) ⟨true, true, v.toNat⟩
      = s.updRoom r (fun x => { x with pwr := pwrClamped (BitVec.ofNat 64 (v.toNat % 2 ^ 7)) }) := by
  have hput : ∀ old, (⟨true, true, v.toNat⟩ : RegWrite).put old 0x7F = BitVec.ofNat 64 (v.toNat % 2 ^ 7) :=
    fun old => RegWrite.put_both v old 7
  simp only [State.regWrite, hput]

theorem State.regCount_room_meshCnt (s : State) (a : Agent) (r : RoomId) :
    s.regCount a (.room r .meshCnt) ⟨true, true, 0⟩ = s.updRoom r (fun x => { x with discard := 0, laneRetry := 0 }) := by
  simp only [State.regCount, RcRead.field_both]

theorem State.regValue_room_meshCnt_ctlAsk (src dst : Endpoint) (r : RoomId) :
    (s.ctlAsk src dst).regValue a (.room r .meshCnt) = s.roomValue r .meshCnt := by
  simp [State.regValue, State.roomValue]

theorem State.writable_power_own : s.writable .hearth (.power .own) = true := rfl

theorem State.writable_band (b : Fin 4096) : s.writable .hearth (.band b) = true := rfl

theorem State.writable_room_pwr {r : RoomId} (ha : a ≠ .bmc) (h : s.roomWriter a r = true) : s.writable a (.room r .pwr) = true := by
  simp [State.writable, ha, h]

theorem State.readable_room_meshCnt {r : RoomId} (ha : a ≠ .bmc) (h : suite0OrHearth a = true) :
    s.readable a (.room r .meshCnt) = true := by
  simp [State.readable, ha, h]

end Sys2Proof.Machine

open Sys2Proof Sys2Proof.Machine

/-- Settles O30: by the four answers of `accessWrite` and `accessRead`, and by what each kind of register does with a whole write. -/
theorem controlRegisterAccess : Obligations.ControlRegisterAccess := by
  refine ⟨?forms, ?imsic, ?kinds⟩
  case forms =>
    intro s a p size v lo hi r hon hsize hfile hform hreg
    refine ⟨fun hwr hwo => ?_, fun hno => ?_, fun hrd => ?_, fun hrd => ⟨_, exec_rcFieldRead hon, ?_⟩⟩
    · exact (exec_controlRegisterWrite hon).trans
        (congrArg _ (State.accessWrite_accepted hfile hform hreg hsize v.isLt hwr hwo))
    · exact (exec_controlRegisterWrite hon).trans (congrArg _ (State.accessWrite_refused hfile hform hreg hno))
    · exact (exec_rcFieldRead hon).trans (congrArg _ (State.accessRead_accepted hfile hform hreg hsize hrd))
    · exact State.accessRead_refused hfile hform hreg hrd
  case imsic =>
    intro s a p v hon ha hfile hform
    exact (exec_controlRegisterWrite hon).trans (congrArg _ (State.accessWrite_imsic ha hfile hform))
  case kinds =>
    intro s p v hon hfile hal
    refine ⟨fun hreg => ?own, fun b hreg => ?band, fun r a hreg hw ha => ?pwr, fun r a hreg hr ha => ?meshCnt⟩
    case own =>
      refine ⟨_, exec_controlRegisterWrite_whole hon (by decide) hfile hal hreg State.writable_power_own, ?_⟩
      simp [State.ctlExchange, State.regWrite_power_own]
    case band =>
      refine ⟨_, exec_controlRegisterWrite_whole hon (by decide) hfile hal hreg (State.writable_band b), ?_⟩
      simp [State.ctlExchange, State.regWrite_band, State.updHearth]
    case pwr =>
      refine ⟨_, exec_controlRegisterWrite_whole hon ha hfile hal hreg (State.writable_room_pwr ha hw), ?_⟩
      simp [State.ctlExchange, State.regWrite_room_pwr]
    case meshCnt =>
      refine ⟨_, exec_rcFieldRead_whole hon ha hfile hal hreg (State.readable_room_meshCnt ha hr), rfl, ?_⟩
      rw [State.regValue_room_meshCnt_ctlAsk, State.regCount_room_meshCnt]
      exact ⟨rfl, by simp⟩

end

section
/-! SUPPORT. The start-up rows: what each leaves when its step is due, and what a run over the units does to one unit (R434 to R442). -/

namespace Sys2Proof.Machine

/-! ## Runs over the units -/

/-- A part of the state that no turn of a run changes stays as it was. -/
theorem foldl_keeps {α β γ : Type} {f : α → β → α} {g : α → γ} (l : List β) (a : α)
    (h : ∀ a, ∀ b ∈ l, g (f a b) = g a) : g (l.foldl f a) = g a := by
  induction l generalizing a with
  | nil => rfl
  | cons b l ih =>
    rw [List.foldl_cons, ih _ (fun a c hc => h a c (List.mem_cons_of_mem b hc)), h a b List.mem_cons_self]

/-- A part of the state that only the turn of `b` changes, and which has one turn, has changed once. -/
theorem foldl_changes_once {α β γ : Type} {f : α → β → α} {g : α → γ} {u : γ → γ} {l : List β} {b : β} (a : α)
    (hl : l.Nodup) (hb : b ∈ l) (hsame : ∀ a, g (f a b) = u (g a)) (hother : ∀ a, ∀ c ∈ l, c ≠ b → g (f a c) = g a) :
    g (l.foldl f a) = u (g a) := by
  induction l generalizing a with
  | nil => simp at hb
  | cons c l ih =>
    obtain ⟨hc, hl⟩ := List.nodup_cons.1 hl
    rw [List.foldl_cons]
    by_cases hbc : c = b
    · subst hbc
      rw [foldl_keeps l _ (fun a d hd => hother a d (List.mem_cons_of_mem c hd) (fun h => hc (h ▸ hd))), hsame]
    · have hb : b ∈ l := (List.mem_cons.1 hb).resolve_left (Ne.symm hbc)
      rw [ih _ hl hb (fun a d hd => hother a d (List.mem_cons_of_mem c hd)), hother a c List.mem_cons_self hbc]

/-- A run that changes each Wing by itself. -/
theorem State.wing_foldl_updWing (s : State) (f : Fin 8 → Wing → Wing) (k : Fin 8) :
    ((List.finRange 8).foldl (fun t j => t.updWing j (f j)) s).wing k = f k (s.wing k) :=
  foldl_changes_once (g := fun t : State => t.wing k) s (List.nodup_finRange 8) (List.mem_finRange k)
    (fun t => t.wing_updWing_same k (f k))
    (fun t j _ hj => t.wing_updWing_other j (f j) k (fun h => hj (Fin.ext h.symm)))

/-- The mask of a predicate on the first `n` numbers, as the model sums it. -/
def rangeMask (n : Nat) (p : Nat → Bool) : Nat := (List.range n).foldl (fun v i => if p i then v + 2 ^ i else v) 0

theorem rangeMask_succ (n : Nat) (p : Nat → Bool) :
    rangeMask (n + 1) p = if p n then rangeMask n p + 2 ^ n else rangeMask n p := by
  simp [rangeMask, List.range_succ]

theorem rangeMask_lt (n : Nat) (p : Nat → Bool) : rangeMask n p < 2 ^ n := by
  induction n with
  | zero => simp [rangeMask]
  | succ n ih =>
    rw [rangeMask_succ, Nat.pow_succ]
    split <;> omega

theorem testBit_rangeMask (n : Nat) (p : Nat → Bool) (i : Nat) : (rangeMask n p).testBit i = (decide (i < n) && p i) := by
  induction n with
  | zero => simp [rangeMask]
  | succ n ih =>
    have hsum : (rangeMask n p + 2 ^ n).testBit i = (decide (n = i) || (rangeMask n p).testBit i) := by
      rw [← Nat.or_two_pow_eq_add_of_lt (rangeMask_lt n p), Nat.testBit_or, Nat.testBit_two_pow, Bool.or_comm]
    rw [rangeMask_succ]
    by_cases hi : i = n
    · subst hi
      cases hp : p i <;> simp [hsum, ih, hp]
    · have hlt : i < n + 1 ↔ i < n := by omega
      split <;> simp [hsum, ih, Ne.symm hi, hlt]

theorem getLsbD_rangeMask (p : Nat → Bool) {w i : Nat} (hi : i < w) : (BitVec.ofNat w (rangeMask w p)).getLsbD i = p i := by
  rw [BitVec.getLsbD_ofNat, testBit_rangeMask]
  simp [hi]

/-! ## Controllers and their numbers -/

theorem ctlKey_lt (m : Ctl) : ctlKey m < 44 := by
  cases m with
  | lpd p => simp only [ctlKey]; omega
  | ddr c => simp only [ctlKey]; omega

theorem ctlKey_ctlOfKey {k : Nat} (hk : k < 44) : ctlKey (ctlOfKey k) = k := by
  unfold ctlOfKey
  split
  · exact Nat.mod_eq_of_lt (by omega)
  · simp only [ctlKey, Fin.ofNat]; omega

theorem ctlOfKey_lpd (p : Fin 32) : ctlOfKey p.val = .lpd p := by simp [ctlOfKey]

/-! ## Steps entered, and start-up stopped -/

variable {s : State}

@[simp] theorem State.updHearth_wing (f : Hearth → Hearth) (k : Fin 8) : (s.updHearth f).wing k = s.wing k := rfl
@[simp] theorem State.enterStep_wing (n : Nat) (ph : BitVec 4) (k : Fin 8) : (s.enterStep n ph).wing k = s.wing k := rfl
@[simp] theorem State.enterStep_room (n : Nat) (ph : BitVec 4) (r : RoomId) : (s.enterStep n ph).room r = s.room r := rfl
@[simp] theorem State.enterStep_mc (n : Nat) (ph : BitVec 4) (m : Ctl) : (s.enterStep n ph).mc m = s.mc m := rfl

/-- R439: RECOVERY for NO_IMAGE and NO_CONFIG, HALT for the rest. -/
@[simp] theorem State.stopStartup_phase (f : BitVec 8) : (s.stopStartup f).hearth.phase = if f = 2 ∨ f = 3 then 13 else 14 := by
  simp [State.stopStartup]

/-! ## Step 2: the Hearth ROM -/

theorem exec_hearthRomStart {e : Bool} (hon : s.on = true) (hstep : s.hearth.step = 1) :
    let s1 := { s with pins := { s.pins with modOn := true } }
    exec (.hearthRomStart e) s = .next (if s.hearth.life = .blank ∨ s.hearth.life = .scrapped then s1.stopStartup 8
      else if e then s1.enterStep 2 0 else s1.stopStartup 7) := by
  show execHearthRomStart e s = _
  unfold execHearthRomStart
  rw [if_neg (by simp [hon, hstep])]
  simp only [Bool.or_eq_true, decide_eq_true_eq, apply_ite Host.Outcome.next]
  cases e <;> rfl

/-! ## Step 3: straps and die fuses -/

/-- The Wing of these straps is in the configuration: its parity is right and no other Wing reports its number (R20, R21). -/
def strapFits (straps : List (BitVec 4)) (k : Nat) : Bool :=
  strapParity (listGet 0 straps k)
    && (List.range 8).all (fun j => j = k || (listGet 0 straps j).toNat % 8 ≠ (listGet 0 straps k).toNat % 8)

theorem strapFits_iff {straps : List (BitVec 4)} {k : Fin 8} :
    strapFits straps k.val = true ↔ strapParity (listGet 0 straps k.val) = true
      ∧ ∀ j : Fin 8, j ≠ k → (listGet (0 : BitVec 4) straps j.val).toNat % 8 ≠ (listGet (0 : BitVec 4) straps k.val).toNat % 8 := by
  simp only [strapFits, Bool.and_eq_true, List.all_eq_true, List.mem_range, Bool.or_eq_true, decide_eq_true_eq]
  refine and_congr_right fun _ => ⟨fun h j hj => (h j.val j.isLt).resolve_left (fun e => hj (Fin.ext e)), fun h j hj => ?_⟩
  by_cases hjk : j = k.val
  · exact .inl hjk
  · exact .inr (h ⟨j, hj⟩ (fun e => hjk (congrArg Fin.val e)))

/-- The Wings hold their straps and what these say of them. -/
def State.strapped (s : State) (straps : List (BitVec 4)) : State :=
  (List.finRange 8).foldl (fun t k => t.updWing k (fun w =>
    { w with wpos := BitVec.ofNat 3 ((listGet (0 : BitVec 4) straps k.val).toNat % 8), strapOk := strapParity (listGet 0 straps k.val),
             included := strapFits straps k.val })) s

theorem State.strapped_wing (straps : List (BitVec 4)) (k : Fin 8) :
    (s.strapped straps).wing k = { s.wing k with
      wpos := BitVec.ofNat 3 ((listGet (0 : BitVec 4) straps k.val).toNat % 8), strapOk := strapParity (listGet 0 straps k.val),
      included := strapFits straps k.val } := s.wing_foldl_updWing _ k

theorem exec_dieIdentityCheck {straps : List (BitVec 4)} (hon : s.on = true) (hstep : s.hearth.step = 2) :
    exec (.dieIdentityCheck straps) s = .next (if s.hearth.fuses.ok = false then (s.strapped straps).stopStartup 1
      else ((s.strapped straps).updHearth (fun h => { h with identityOk := (List.range 8).all (strapFits straps) })).enterStep 3 0) := by
  show execDieIdentityCheck straps s = _
  unfold execDieIdentityCheck
  rw [if_neg (by simp [hon, hstep])]
  cases s.hearth.fuses.ok <;> rfl

/-! ## Step 4: the firmware image -/

/-- Copy `n` of the image may be tried. -/
def Hearth.imageUsable (h : Hearth) (n : Nat) : Bool := decide (n ∉ h.flashBad) && decide (n ∉ h.imgBad)

theorem exec_firmwareVerify {a b : ImageCopy} (hon : s.on = true) (hstep : s.hearth.step = 3) :
    let okA := s.hearth.imageUsable 0 && imageOk 3 a
    let okB := s.hearth.imageUsable 1 && imageOk 3 b
    let s1 := s.updHearth (fun y => { y with imgValid := some (okA, okB) })
    exec (.firmwareVerify a b) s = .next ((chooseCopy a.version b.version okA okB).elim (s1.stopStartup 2) fun useB =>
        let c := if useB then b else a
        (s1.updHearth (fun y => { y with imageB := useB, fwDigest := fwChain c, monDigest := listGet 0 c.digests 3,
                                         monLen := (listGet 0 c.stageLen 3).toNat })).enterStep 4 1) := by
  intro okA okB s1
  show execFirmwareVerify a b s = _
  unfold execFirmwareVerify
  rw [if_neg (by simp [hon, hstep])]
  simp only [List.contains_eq_mem, ← decide_not]
  change (match chooseCopy a.version b.version okA okB with | none => _ | some useB => _) = _
  cases chooseCopy a.version b.version okA okB <;> rfl

/-- R437: copy A goes first unless B is the newer. -/
theorem chooseCopy_first {va vb : BitVec 32} {okB : Bool} (h : okB = true → vb.toNat ≤ va.toNat) :
    chooseCopy va vb true okB = some false := by
  cases okB with
  | false => rfl
  | true => simp [chooseCopy, h rfl]

theorem chooseCopy_second {va vb : BitVec 32} {okA : Bool} (h : okA = true → va.toNat < vb.toNat) :
    chooseCopy va vb okA true = some true := by
  cases okA with
  | false => rfl
  | true => simp [chooseCopy, h rfl]

/-! ## Step 5: links -/

/-- Wing `k` is in the configuration: included so far, its Stairs trained, and not listed (R429). -/
def State.wingBoots (s : State) (stairs : BitVec 8) (k : Fin 8) : Bool :=
  (s.wing k).included && stairs.getLsbD k.val && !s.hearth.faultList.contains (3, k.val)

/-- What step 5 leaves: the Wings of the configuration, and a Parlour link that trained. -/
theorem exec_linkTrainingBoot {corridors : BitVec 10} {plr porch : BitVec 4} {stairs : BitVec 8} (hon : s.on = true)
    (hstep : s.hearth.step = 4) :
    ∃ (s3 : State) (links : List ((Nat × Nat) × Nat)),
      exec (.linkTrainingBoot corridors plr porch stairs) s = .next (if s3.hearth.wingIn = 0 then s3.stopStartup 4
        else if links = [] then s3.stopStartup 5 else s3.enterStep 5 2)
      ∧ (∀ k : Fin 8, s3.hearth.wingIn.getLsbD k.val = s.wingBoots stairs k ∧ (s3.wing k).included = s.wingBoots stairs k)
      ∧ (s.wingBoots stairs 0 = true → plr.getLsbD 0 = true → (4, endNumber (0, 0) false) ∉ s.hearth.faultList →
          ((0, 0), 0) ∈ links)
      ∧ (((0, 0), 0) ∈ links → s3.hearth.plrIn.getLsbD 0 = true) := by
  show ∃ s3 links, execLinkTrainingBoot corridors plr porch stairs s = _ ∧ _
  unfold execLinkTrainingBoot
  rw [if_neg (by simp [hon, hstep])]
  extract_lets listed wingOk mask wings links ends plrEnds por has pkgs out link degraded s1 s2 s3
  have hwing : ∀ k : Fin 8, wingOk k.val = s.wingBoots stairs k := fun k => by
    simp [wingOk, listed, State.wingBoots]
  refine ⟨s3, plrEnds, ?row, fun k => ⟨?wingIn, ?included⟩, fun h0 hup hfree => ?link, fun hmem => ?plrIn⟩
  case row => simp only [apply_ite Host.Outcome.next]; rfl
  case wingIn => exact (getLsbD_rangeMask wingOk k.isLt).trans (hwing k)
  case included =>
    have h3 : s3.wing k = s2.wing k := State.updHearth_wing _ k
    have h2 : s2.wing k = s1.wing k := foldl_keeps (g := fun t : State => t.wing k) _ s1 (fun t r _ => rfl)
    rw [h3, h2, ← hwing k]
    exact congrArg Wing.included (s.wing_foldl_updWing _ k)
  case link =>
    have hnot : listed 4 (endNumber (0, 0) false) = false := by simpa [listed] using hfree
    have hok : wingOk 0 = true := (hwing 0).trans h0
    exact List.mem_filter.2 ⟨by decide, by simp [hup, hok, hnot]⟩
  case plrIn => exact (getLsbD_rangeMask (has plrEnds) (by decide)).trans (List.any_eq_true.2 ⟨_, hmem, by simp⟩)

/-! ## Step 6: memory -/

/-- The DDR5 channels of Parlour `n` that step 6 includes. -/
def State.channelsTrained (s : State) (spds : List Spd) (ddrTrained : BitVec 12) (n : Nat) : List Nat :=
  if s.hearth.plrIn.getLsbD n then channelsIn spds ddrTrained (fun c => s.hearth.faultList.contains (5, c)) n else []

/-- The numbers of DDR5 channels are above those of the packages. -/
theorem State.mc_lpd_updMc_of_ddr (t : State) (p : Fin 32) {k : Nat} (hk : 32 ≤ k) (f : Mc → Mc) :
    (t.updMc (ctlOfKey k) f).mc (.lpd p) = t.mc (.lpd p) := by
  have hkey : ctlOfKey k = .ddr (Fin.ofNat 12 (k - 32)) := if_neg (by omega)
  exact t.mc_updMc_other _ f _ (by rw [hkey]; simp only [ctlKey]; omega)

/-- What step 6 leaves: it stops where neither Parlour includes a channel, and every package that trained is in service. -/
theorem exec_memoryTraining {lpdRates : List (BitVec 4)} {spds : List Spd} {ddrTrained : BitVec 12} (hon : s.on = true)
    (hstep : s.hearth.step = 5) :
    ∃ t : State,
      exec (.memoryTraining lpdRates spds ddrTrained) s
        = .next (if s.channelsTrained spds ddrTrained 0 = [] ∧ s.channelsTrained spds ddrTrained 1 = [] then t.stopStartup 6
            else t.enterStep 6 2)
      ∧ ∀ p : Fin 32, s.hearth.pkgIn.getLsbD p.val = true → (listGet (0 : BitVec 4) lpdRates p.val).getLsbD 0 = true →
          (t.mc (.lpd p)).inService = true ∧ (t.mc (.lpd p)).chUp = 15 := by
  show ∃ t, execMemoryTraining lpdRates spds ddrTrained s = _ ∧ _
  unfold execMemoryTraining
  rw [if_neg (by simp [hon, hstep])]
  extract_lets rates here good pkgs rate s1 s2 s3 listed inc spd all d dr bits plr s4 ddr s5
  refine ⟨s5, ?row, fun p hin hrate => ?mc⟩
  case row =>
    have hddr : (ddr = []) = (s.channelsTrained spds ddrTrained 0 = [] ∧ s.channelsTrained spds ddrTrained 1 = []) := by
      simp only [ddr, List.append_eq_nil_iff, List.map_eq_nil_iff]; rfl
    simp only [apply_ite Host.Outcome.next, hddr]
  case mc =>
    have hgood : p.val ∈ good := by
      simp only [good, here, rates, List.mem_filter, List.mem_range]
      refine ⟨⟨p.isLt, hin⟩, ?_⟩
      simpa [bitOf, BitVec.getLsbD, Nat.testBit_zero] using hrate
    have hnodup : good.Nodup := (List.nodup_range.filter _).filter _
    have hlt : ∀ c ∈ good, c < 32 := fun c hc => List.mem_range.1 (List.mem_filter.1 (List.mem_filter.1 hc).1).1
    have h3 : s3.mc (.lpd p) = { s2.mc (.lpd p) with chUp := 15, inService := true, rate := BitVec.ofNat 3 rate } := by
      refine foldl_changes_once (g := fun t : State => t.mc (.lpd p))
        (u := fun c => { c with chUp := 15, inService := true, rate := BitVec.ofNat 3 rate }) s2 hnodup hgood
        (fun t => ?_) (fun t c hc hne => ?_)
      · rw [ctlOfKey_lpd]; exact t.mc_updMc_same _ _
      · refine t.mc_updMc_other _ _ _ ?_
        rw [ctlKey_ctlOfKey (Nat.lt_trans (hlt c hc) (by decide))]
        exact Ne.symm hne
    have h4 : s4.mc (.lpd p) = s3.mc (.lpd p) := by
      have hplr : ∀ t n, (plr t n).mc (.lpd p) = t.mc (.lpd p) := fun t n => rfl
      refine (foldl_keeps (f := plr) (g := fun t : State => t.mc (.lpd p)) _ _ (fun t n _ => hplr t n)).trans ?_
      split <;> rfl
    have h5 : s5.mc (.lpd p) = s4.mc (.lpd p) := by
      refine foldl_keeps (g := fun t : State => t.mc (.lpd p)) ddr s4 (fun t k hk => State.mc_lpd_updMc_of_ddr t p ?_ _)
      obtain hk | hk := List.mem_append.1 hk
      · obtain ⟨c, -, rfl⟩ := List.mem_map.1 hk; omega
      · obtain ⟨c, -, rfl⟩ := List.mem_map.1 hk; omega
    rw [h5, h4, h3]
    exact ⟨rfl, rfl⟩

/-! ## Step 7: the wipes -/

theorem Table.get_mapVals {α : Type} (d : α) (f : Nat → α → α) (t : Table α) (i : Nat) :
    Table.get d (Table.mapVals f t) i = ((Table.find t i).map (f i)).getD d := by
  unfold Table.get
  congr 1
  induction t with
  | nil => rfl
  | cons e t ih =>
    obtain ⟨k, v⟩ := e
    show Table.find ((k, f k v) :: Table.mapVals f t) i = _
    simp only [Table.find]
    split
    · rename_i hik; rw [hik]; rfl
    · exact ih

/-- Every controller in service starts a full wipe. -/
def State.startWipes (s : State) : State :=
  (List.range 44).foldl (fun (t : State) k =>
    if (t.mc (ctlOfKey k)).inService then t.updMc (ctlOfKey k) Mc.startFull else t) s

theorem State.startWipes_mc {m : Ctl} (h : (s.mc m).inService = true) : s.startWipes.mc m = (s.mc m).startFull := by
  have hm : ∀ {k}, k < 44 → k ≠ ctlKey m → ctlKey m ≠ ctlKey (ctlOfKey k) := fun hk hne => by
    rw [ctlKey_ctlOfKey hk]; exact Ne.symm hne
  have hkey : ctlOfKey (ctlKey m) = m := by
    cases m with
    | lpd p => exact ctlOfKey_lpd p
    | ddr c => simp [ctlOfKey, ctlKey]
  have key : s.startWipes.mc m = if (s.mc m).inService then (s.mc m).startFull else s.mc m := by
    refine foldl_changes_once (g := fun t : State => t.mc m) (u := fun c => if c.inService then c.startFull else c) s
      List.nodup_range (List.mem_range.2 (ctlKey_lt m)) (fun t => ?_) (fun t k hk hne => ?_)
    · rw [hkey]; split <;> simp
    · split
      · exact t.mc_updMc_other _ _ _ (hm (List.mem_range.1 hk) hne)
      · rfl
  rw [key, if_pos h]

/-- Every SRAM that can hold a Suite's data is empty. -/
def State.sramWiped (s : State) : State :=
  { s with lines := [], dirs := [], misses := [], evicted := [], partials := [], snoops := [], cores := [],
           rooms := Table.mapVals (fun _ (x : Room) => { x with mem := [], poison := [] }) s.rooms,
           parlours := Table.mapVals (fun _ (p : Parlour) => { p with l3 := [] }) s.parlours }

theorem State.sramWiped_mc (m : Ctl) : s.sramWiped.mc m = s.mc m := rfl

theorem State.sramWiped_room_mem (r : RoomId) : (s.sramWiped.room r).mem = [] := by
  simp only [State.room, State.sramWiped, Table.get_mapVals]
  cases Table.find s.rooms (roomKey r) <;> rfl

theorem exec_startupWipe (hon : s.on = true) (hstep : s.hearth.step = 6) :
    exec .startupWipe s = .next (s.startWipes.sramWiped.enterStep 7 3) := by
  show execStartupWipe s = _
  unfold execStartupWipe
  rw [if_neg (by simp [hon, hstep])]
  rfl

/-! ## Step 8: the monitor -/

theorem State.drawSlot_keys_other (slot : Nat) {k : Nat} (h : k ≠ slot) :
    Table.find (s.drawSlot slot).hearth.keys k = Table.find s.hearth.keys k := Table.find_set_other _ _ h

/-- Slots drawn one after another hold draws of this run, each later than the draws before it. -/
theorem State.foldl_drawSlot (l : List Nat) (s : State) :
    s.freeCtr ≤ (l.foldl State.drawSlot s).freeCtr
      ∧ ∀ k ∈ l, ∃ d, Table.find (l.foldl State.drawSlot s).hearth.keys k = some d
          ∧ s.freeCtr < d ∧ d ≤ (l.foldl State.drawSlot s).freeCtr := by
  induction l generalizing s with
  | nil => exact ⟨Nat.le_refl _, by simp⟩
  | cons x l ih =>
    obtain ⟨hle, hkeys⟩ := ih (s.drawSlot x)
    have hx : (s.drawSlot x).freeCtr = s.freeCtr + 1 := rfl
    refine ⟨by rw [List.foldl_cons]; omega, fun k hk => ?_⟩
    rw [List.foldl_cons]
    by_cases hkl : k ∈ l
    · obtain ⟨d, hd, hlt, hled⟩ := hkeys k hkl
      exact ⟨d, hd, by omega, hled⟩
    · obtain rfl := (List.mem_cons.1 hk).resolve_right hkl
      refine ⟨s.freeCtr + 1, ?_, Nat.lt_succ_self _, by omega⟩
      rw [foldl_keeps (g := fun t : State => Table.find t.hearth.keys k) l _
        (fun t j hj => t.drawSlot_keys_other j (fun h => hkl (h ▸ hj)))]
      exact Table.find_set_same _ _ _

/-- The state before the monitor is placed: the AK and the key slots are drawn, and the configuration copy is taken. -/
def State.configured (s : State) (useB : Bool) (c : ConfigCopy) : State :=
  ([0, 1, 17, 127].foldl State.drawSlot s.drawKey.2).updHearth (fun y =>
    { y with ak := s.drawKey.1, opKey := c.opKey, modes := c.modes, bootLen := c.bootLen.toNat, cfgCopy := some c, configB := useB })

theorem State.configured_keys {useB : Bool} {c : ConfigCopy} {k : Nat} (hk : k ∈ [0, 1, 17, 127]) :
    ∃ d, Table.find (s.configured useB c).hearth.keys k = some d ∧ s.freeCtr < d ∧ d ≤ (s.configured useB c).freeCtr := by
  obtain ⟨d, hd, hlt, hle⟩ := (State.foldl_drawSlot [0, 1, 17, 127] s.drawKey.2).2 k hk
  exact ⟨d, hd, Nat.lt_of_succ_lt hlt, hle⟩

theorem exec_startupMonitorLoad {a b : ConfigCopy} {digest : Digest} (hon : s.on = true) (hstep : s.hearth.step = 7)
    (hwipes : s.wipesDone (List.range 32) = true) :
    let okA := decide (2 ∉ s.hearth.flashBad) && configOk a
    let okB := decide (3 ∉ s.hearth.flashBad) && configOk b
    let s0 := s.updHearth (fun y => { y with cfgValid := some (okA, okB) })
    exec (.startupMonitorLoad a b digest) s = .next ((chooseCopy a.version b.version okA okB).elim (s0.stopStartup 3) fun useB =>
        if digest = s.hearth.monDigest then (s0.configured useB (if useB then b else a)).placeMonitor.enterStep 8 3
        else (s0.updHearth (fun y => { y with imgBad := addOnce (if s.hearth.imageB then 1 else 0) y.imgBad })).enterStep 3 1) := by
  intro okA okB s0
  show execStartupMonitorLoad a b digest s = _
  unfold execStartupMonitorLoad
  rw [if_neg (by simp [hon, hstep, hwipes])]
  simp only [List.contains_eq_mem, ← decide_not]
  change (match chooseCopy a.version b.version okA okB with | none => _ | some useB => _) = _
  cases chooseCopy a.version b.version okA okB with
  | none => rfl
  | some useB =>
    dsimp only
    by_cases hd : digest = s.hearth.monDigest
    · rw [if_neg (not_not.2 hd)]
      exact congrArg _ (if_pos hd).symm
    · rw [if_pos hd]
      exact congrArg _ (if_neg hd).symm

/-! ## Step 9 and overruns -/

theorem exec_startupReady (hon : s.on = true) (hstep : s.hearth.step = 8) (hwipes : s.wipesDone (List.range 44) = true) :
    let s1 := s.updHearth (fun y => { y with phase := 4 })
    let image := ((s.hearth.cfgCopy.map (fun c => c.boot)).getD []).take s.hearth.bootLen
    let s2 := (s1.createSuite0.putExt s1.bootPlace.1 image).putExt s1.bootPlace.2 s1.bootInfo
    exec .startupReady s
      = .next ((s2.applyModes.updHearth (fun y => { y with ready := true, step := 0 })).startHarts.startPorts) := by
  intro s1 image s2
  show execStartupReady s = _
  unfold execStartupReady
  rw [if_neg (by simp [hon, hstep, hwipes])]

theorem exec_startupStepOverrun {f : BitVec 8} (hon : s.on = true) (hstep : s.hearth.step ≠ 0)
    (hf : f = 0 ∨ f.toNat ∈ stepFaults s.hearth.step) : exec (.startupStepOverrun f) s = .next (s.stopStartup f) := by
  show execStartupStepOverrun f s = _
  unfold execStartupStepOverrun
  rw [if_neg]
  simpa [hon, hstep] using fun h => hf.resolve_left h

end Sys2Proof.Machine

open Sys2Proof Sys2Proof.Machine

/-- Settles O49: each row in the state where its step is due, by what it leaves there. -/
theorem startupSequence : Obligations.StartupSequence := by
  intro s hon
  refine ⟨fun hstep => ?rom, fun hstep hfuses straps => ?fuses, fun hstep hfuses straps => ?straps, fun hstep a b => ?image,
    fun hstep corridors plr porch stairs => ?links, fun hstep lpdRates spds ddrTrained => ?memory, fun hstep => ?wipe,
    fun hstep hwipes a b digest => ?monitor, fun hstep hwipes => exec_startupReady hon hstep hwipes,
    fun f hstep hf => exec_startupStepOverrun hon hstep hf, fun f => ⟨rfl, rfl, State.stopStartup_phase f⟩⟩
  case rom =>
    refine ⟨fun hlife e => (exec_hearthRomStart hon hstep).trans (congrArg _ (if_pos hlife)), fun hb hs => ?_⟩
    have hlife : ¬(s.hearth.life = .blank ∨ s.hearth.life = .scrapped) := not_or.2 ⟨hb, hs⟩
    exact ⟨(exec_hearthRomStart hon hstep).trans (congrArg _ (if_neg hlife)),
      (exec_hearthRomStart hon hstep).trans (congrArg _ (if_neg hlife))⟩
  case fuses => exact ⟨_, (exec_dieIdentityCheck hon hstep).trans (congrArg _ (if_pos hfuses)), rfl, rfl, rfl⟩
  case straps =>
    refine ⟨_, (exec_dieIdentityCheck hon hstep).trans (congrArg _ (if_neg (by simp [hfuses]))), rfl, fun k => ?_⟩
    rw [State.enterStep_wing, State.updHearth_wing, State.strapped_wing]
    exact ⟨rfl, strapFits_iff⟩
  case image =>
    intro usable okA okB s1 run
    refine ⟨fun hA hfirst => (exec_firmwareVerify hon hstep).trans (congrArg _ ?_),
      fun hB hsecond => (exec_firmwareVerify hon hstep).trans (congrArg _ ?_),
      fun hA hB => (exec_firmwareVerify hon hstep).trans (congrArg _ ?_)⟩
    · have hc : chooseCopy a.version b.version okA okB = some false := hA ▸ chooseCopy_first hfirst
      exact congrArg (Option.elim · _ _) hc
    · have hc : chooseCopy a.version b.version okA okB = some true := hB ▸ chooseCopy_second hsecond
      exact congrArg (Option.elim · _ _) hc
    · have hc : chooseCopy a.version b.version okA okB = none := by rw [hA, hB]; rfl
      exact congrArg (Option.elim · _ _) hc
  case links =>
    obtain ⟨s3, links, hrow, hwings, hlink, hplr⟩ := exec_linkTrainingBoot (corridors := corridors) (plr := plr) (porch := porch)
      (stairs := stairs) hon hstep
    refine ⟨_, hrow, fun k => ?_, fun hnone => ?_, fun h0 hup hfree => ?_⟩
    · split
      · exact hwings k
      · split <;> exact hwings k
    · have hzero : s3.hearth.wingIn = 0 := by
        refine BitVec.eq_of_getLsbD_eq fun k hk => ?_
        rw [(hwings ⟨k, hk⟩).1]
        exact (hnone ⟨k, hk⟩).trans (by simp)
      rw [if_pos hzero]
      exact ⟨rfl, rfl, rfl⟩
    · have hmem := hlink h0 hup hfree
      have hne : s3.hearth.wingIn ≠ 0 := fun hzero => by
        have hbit : s3.hearth.wingIn.getLsbD 0 = true := (hwings 0).1.trans h0
        simp [hzero] at hbit
      rw [if_neg hne, if_neg (List.ne_nil_of_mem hmem)]
      exact ⟨rfl, hplr hmem⟩
  case memory =>
    obtain ⟨t, hrow, hpkgs⟩ := exec_memoryTraining (lpdRates := lpdRates) (spds := spds) (ddrTrained := ddrTrained) hon hstep
    refine ⟨_, hrow, fun h0 h1 => ?_, fun hsome => ?_, fun p hin hrate => ?_⟩
    · rw [if_pos ⟨h0, h1⟩]
      exact ⟨rfl, rfl⟩
    · rw [if_neg (fun hnone => hsome.elim (· hnone.1) (· hnone.2))]
      rfl
    · split <;> exact hpkgs p hin hrate
  case wipe =>
    refine ⟨_, exec_startupWipe hon hstep, rfl, rfl, rfl, fun r => ?_, fun m hm => ?_⟩
    · rw [State.enterStep_room, State.sramWiped_room_mem]
    · rw [State.enterStep_mc, State.sramWiped_mc, State.startWipes_mc hm]
      exact ⟨rfl, rfl⟩
  case monitor =>
    intro okA okB s0
    have hrow : exec (.startupMonitorLoad a b digest) s = _ := exec_startupMonitorLoad hon hstep hwipes
    refine ⟨fun hc => hrow.trans (congrArg _ (congrArg (Option.elim · _ _) hc)), fun useB hc => ?_⟩
    have hchosen := hrow.trans (congrArg _ (congrArg (Option.elim · _ _) hc))
    refine ⟨fun hd => hchosen.trans (congrArg _ (if_neg hd)), fun hd => ?_⟩
    exact ⟨_, hchosen.trans (congrArg _ (if_pos hd)), rfl, rfl, fun k hk => State.configured_keys hk⟩

end

section
/-! SUPPORT. Hart events and the monitor's calls: the rules of a hart's registers and timers, and each row where its conditions hold
(R47, R49, R270 to R279, R441). -/

namespace Sys2Proof.Machine

variable {s : State} {h : Fin 128}

/-! ## Registers of a hart -/

theorem Hart.reg_setReg_same {x : Hart} {n : Nat} {v : W64} (hn : n ≠ 0) : (x.setReg n v).reg n = v := by
  simp [Hart.reg, Hart.setReg, hn]

theorem Hart.reg_setReg_other {x : Hart} {m n : Nat} {v : W64} (hmn : m ≠ n) : (x.setReg n v).reg m = x.reg m := by
  by_cases hn : n = 0
  · simp [Hart.setReg, hn]
  · simp [Hart.reg, Hart.setReg, hn, Table.get_set_other _ _ _ hmn]

@[simp] theorem State.updHearth_hart (f : Hearth → Hearth) (i : Fin 128) : (s.updHearth f).hart i = s.hart i := rfl
@[simp] theorem State.updParlour_hart (n : Fin 2) (f : Parlour → Parlour) (i : Fin 128) : (s.updParlour n f).hart i = s.hart i := rfl
@[simp] theorem State.updHart_parlour (f : Hart → Hart) (n : Fin 2) : (s.updHart h f).parlour n = s.parlour n := rfl

/-! ## Device timeouts and LR's hold (R270, R272) -/

theorem exec_hartDevStoreTimeout {req : Nat} {r : Req} (hr : Table.find s.reqs req = some r) (hmem : req ∈ (s.hart h).devStores) :
    exec (.hartDevStoreTimeout h req) s = .next (s.dropWrite req 0 0) := by
  show execHartDevStoreTimeout h req s = _
  exact if_pos (by simp [hr, hmem])

theorem exec_hartDevLoadTimeout {req : Nat} {r : Req} {a : HartAcc} {rd : HartReg} {signed : Bool}
    (hr : Table.find s.reqs req = some r) (hw : (s.hart h).wait = .devLoad req a rd signed) :
    exec (.hartDevLoadTimeout h req) s = .next (((s.reportReq r 7 0 0 0).dropReq req).hartTrap h 5 a.va) := by
  show execHartDevLoadTimeout h req s = _
  unfold execHartDevLoadTimeout
  rw [hr, hw]
  exact if_pos rfl

theorem exec_lrHoldExpiry (hon : s.on = true) :
    exec (.lrHoldExpiry h) s = .next (s.updHart h (fun x => { x with lrHold := false })) := by
  show execLrHoldExpiry h s = _
  exact if_neg (by simp [hon])

/-! ## `mxsuite` (R274) -/

theorem State.csrWrite_mxsuite_mmode (v : W64) : s.csrWrite h 3 0x7C0 v = some (s.updHart h (fun y =>
    { y with mxsuite := BitVec.ofNat 64 (bitsOf v.toNat 0 24), reserve := none, lrHold := false })) := rfl

theorem State.csrWrite_mxsuite_below (v : W64) : s.csrWrite h 1 0x7C0 v = none := rfl

theorem exec_mxsuiteWrite_mmode (hready : s.hartReady h = true) (v : W64) :
    exec (.mxsuiteWrite h true v) s = .next (s.updHart h (fun y =>
      { y with mxsuite := BitVec.ofNat 64 (bitsOf v.toNat 0 24), reserve := none, lrHold := false })) := by
  show execMxsuiteWrite h true v s = _
  exact if_neg (by simp [hready])

theorem exec_mxsuiteWrite_below (hready : s.hartReady h = true) (v : W64) :
    exec (.mxsuiteWrite h false v) s = .next (s.hartTrap h 2 0) := by
  show execMxsuiteWrite h false v s = _
  exact if_neg (by simp [hready])

/-! ## MSEND (R278) -/

section
variable {insn : W32} {rd vs : Nat}

theorem exec_msend (hready : s.hartReady h = true) (hmail : (s.hart h).mail = none) (hf : msendFields insn = some (rd, vs))
    (hvs : (s.hart h).vsOff = false) :
    let bs := leBytes 32 (Table.get 0 (s.hart h).v vs).toNat ++ leBytes 32 (Table.get 0 (s.hart h).v (vs + 1)).toNat
    exec (.msend h insn) s
      = .next (s.updHart h (fun y => { y with mail := some { rd := rd, msg := mailOf bs, after := (s.hart h).devStores } })) := by
  intro bs
  show execMsend h insn s = _
  unfold execMsend
  rw [if_neg (by simp [hready, hmail]), hf]
  exact if_neg (by simp [hvs])

theorem exec_msend_illegal (hready : s.hartReady h = true) (hmail : (s.hart h).mail = none)
    (hbad : msendFields insn = none ∨ (s.hart h).vsOff = true) :
    exec (.msend h insn) s = .next (s.hartTrap h 2 (insn.setWidth 64)) := by
  show execMsend h insn s = _
  unfold execMsend
  rw [if_neg (by simp [hready, hmail])]
  cases hf : msendFields insn with
  | none => rfl
  | some fields => exact if_pos (hbad.resolve_left (by simp [hf]))

end

/-- The answer of a Suite's slot: a message under another tag than the hart's is not registered there. -/
def State.mailAnswer (s : State) (h : Fin 128) (m : HartMail) : Nat × State :=
  if (s.hart h).tag ≠ m.msg.suite then (2, s) else s.offerMail m.msg.suite (.hart h.val) m.msg false

theorem exec_msendAnswer {m : HartMail} (hmail : (s.hart h).mail = some m) (hafter : ∀ k ∈ m.after, k ∉ (s.hart h).devStores) :
    exec (.msendAnswer h) s = .next (((s.mailAnswer h m).2.updHart h (fun x =>
      ({ x with mail := none } : Hart).setReg m.rd (BitVec.ofNat 64 (s.mailAnswer h m).1))).takeLate h) := by
  show execMsendAnswer h s = _
  unfold execMsendAnswer
  rw [hmail]
  exact if_neg (by simpa using hafter)

/-! ## mtime and the timer compares (R47, R279) -/

/-- No two cores of a Parlour are the same hart. -/
theorem hartOfCore_ne {n : Fin 2} {c d : Fin 64} (hcd : c ≠ d) :
    (Fin.ofNat 128 (64 * n.val + c.val)).val ≠ (Fin.ofNat 128 (64 * n.val + d.val)).val := by
  simp only [Fin.ofNat]
  omega

@[simp] theorem State.evalTimer_parlour (n m : Fin 2) (c : Fin 64) : (s.evalTimer n c).parlour m = s.parlour m := by
  simp only [State.evalTimer]
  split <;> rfl

theorem State.evalTimer_timerPend (n : Fin 2) (c : Fin 64) :
    ((s.evalTimer n c).hart (Fin.ofNat 128 (64 * n.val + c.val))).timerPend
      = decide ((Table.get (BitVec.allOnes 64) (s.parlour n).mtimecmp c.val).toNat ≤ (s.parlour n).mtime.toNat) := by
  simp only [State.evalTimer]
  split
  case isTrue hsame =>
    simp only [Bool.and_eq_true, decide_eq_true_eq] at hsame
    exact hsame.1.1
  case isFalse => rw [State.hart_updHart_same]

theorem State.evalTimer_hart_other (n : Fin 2) (c : Fin 64) {i : Fin 128} (hi : i.val ≠ (Fin.ofNat 128 (64 * n.val + c.val)).val) :
    (s.evalTimer n c).hart i = s.hart i := by
  simp only [State.evalTimer]
  split
  · rfl
  · exact State.hart_updHart_other _ _ _ _ hi

/-- Every hart of a Parlour has its compare evaluated, and the Parlour stays as it was: the turns of the other cores change neither. -/
theorem State.foldl_evalTimer (s : State) (n : Fin 2) (c : Fin 64) :
    let t := (List.finRange 64).foldl (fun t d => t.evalTimer n d) s
    t.parlour n = s.parlour n ∧ (t.hart (Fin.ofNat 128 (64 * n.val + c.val))).timerPend
      = decide ((Table.get (BitVec.allOnes 64) (s.parlour n).mtimecmp c.val).toNat ≤ (s.parlour n).mtime.toNat) := by
  have hrun := foldl_changes_once (f := fun t d => State.evalTimer t n d)
    (g := fun t : State => (t.parlour n, (t.hart (Fin.ofNat 128 (64 * n.val + c.val))).timerPend))
    (u := fun p => (p.1, decide ((Table.get (BitVec.allOnes 64) p.1.mtimecmp c.val).toNat ≤ p.1.mtime.toNat)))
    s (List.nodup_finRange 64) (List.mem_finRange c)
    (fun t => by rw [State.evalTimer_parlour, State.evalTimer_timerPend])
    (fun t d _ hd => by rw [State.evalTimer_parlour, State.evalTimer_hart_other n d (hartOfCore_ne (Ne.symm hd))])
  exact Prod.mk.inj hrun

theorem exec_mtimeTick {n : Fin 2} (hlock : (s.parlour n).refLocked = true) :
    exec (.mtimeTick n) s = .next ((List.finRange 64).foldl (fun t c => t.evalTimer n c)
      (s.updParlour n (fun p => { p with mtime := p.mtime + 1 }))) := by
  show execMtimeTick n s = _
  exact if_neg (by simp [hlock])

end Sys2Proof.Machine

open Sys2Proof Sys2Proof.Machine

/-- Settles O45: each row by its equation, and the tick by what the run over the die's cores does to one hart. -/
theorem hartEvents : Obligations.HartEvents := by
  intro s h hon
  refine ⟨fun req r hr => ⟨exec_hartDevStoreTimeout hr, fun a rd signed hw => exec_hartDevLoadTimeout hr hw⟩, exec_lrHoldExpiry hon,
    fun hready value => ⟨⟨_, exec_mxsuiteWrite_mmode hready value, ?mxsuite, ?reserve⟩, exec_mxsuiteWrite_below hready value⟩,
    fun hready hmail insn => ⟨fun rd vs hf hvs => exec_msend hready hmail hf hvs, exec_msend_illegal hready hmail⟩,
    fun m hmail hafter => ?answer, fun n hlock => ⟨_, exec_mtimeTick hlock, ?mtime, fun c => ?timer⟩⟩
  case mxsuite =>
    simp only [State.hart_updHart_same, BitVec.toNat_ofNat, bitsOf, Nat.pow_zero, Nat.div_one]
    omega
  case reserve => rw [State.hart_updHart_same]
  case answer =>
    intro ends
    refine ⟨fun htag => (exec_msendAnswer hmail hafter).trans ?_, fun htag code t hoffer => (exec_msendAnswer hmail hafter).trans ?_⟩
    · rw [show s.mailAnswer h m = (2, s) from if_pos htag]
    · rw [show s.mailAnswer h m = (code, t) from (if_neg (not_not.2 htag)).trans hoffer]
  case mtime =>
    rw [(State.foldl_evalTimer _ n 0).1, State.parlour_updParlour_same]
  case timer =>
    rw [(State.foldl_evalTimer _ n c).2, State.parlour_updParlour_same]

end

section
/-! SUPPORT. The monitor's calls and the exit of a virtual hart: what an answer leaves in the caller, and each row where its conditions hold
(R49, R274, R276, R441). -/

namespace Sys2Proof.Machine

variable {s : State} {h : Fin 128} {v : VHart}

/-! ## Answers and virtual harts -/

@[simp] theorem State.sbiRet_hearth (err : Int) (x : W64) : (s.sbiRet h err x).hearth = s.hearth := rfl

theorem State.sbiRet_a0 (err : Int) (x : W64) : ((s.sbiRet h err x).hart h).reg 10 = BitVec.ofInt 64 err := by
  rw [State.sbiRet, State.hart_updHart_same, Hart.reg_setReg_other (by decide), Hart.reg_setReg_same (by decide)]

theorem State.sbiRet_hart_other (err : Int) (x : W64) {i : Fin 128} (hi : i ≠ h) : (s.sbiRet h err x).hart i = s.hart i :=
  State.hart_updHart_other _ _ _ _ (fun he => hi (Fin.ext he))

@[simp] theorem State.updVhart_hart (n : Nat) (x : VHart) (i : Fin 128) : (s.updVhart n x).hart i = s.hart i := rfl

theorem State.find_updVhart_same (n : Nat) (x : VHart) : Table.find (s.updVhart n x).hearth.vharts n = some x :=
  Table.find_set_same _ _ _

theorem State.onDie_same {d : Fin 2} (hd : v.die = d.val) : s.onDie v d = (v, s) := if_pos hd

theorem State.onDie_die (s : State) (v : VHart) (d : Fin 2) : (s.onDie v d).1.die = d.val := by
  unfold State.onDie
  split
  · assumption
  · rfl

theorem State.onDie_regs (s : State) (v : VHart) (d : Fin 2) : (s.onDie v d).1.regs = v.regs := by
  unfold State.onDie
  split <;> rfl

/-! ## The monitor's own calls (R276) -/

section
variable (hcalls : s.hartCalls h = true)
include hcalls

theorem exec_kmonVersion :
    exec (.kmonVersion ⟨h, 0⟩) s = .next (s.sbiRet h 0 (Config.monitorVersion.setWidth 64)) := by
  show execKmonVersion ⟨h, 0⟩ s = _
  exact if_neg (by simp [hcalls])

theorem exec_kmonVersion_unlisted {fid : Nat} (hfid : 5 ≤ fid) :
    exec (.kmonVersion ⟨h, fid⟩) s = .next (s.sbiRet h (-2) 0) := by
  show execKmonVersion ⟨h, fid⟩ s = _
  unfold execKmonVersion
  rw [if_neg (by simp [hcalls]), if_neg (show ¬fid = 0 by omega), if_neg (show ¬fid ≤ 4 by omega)]

theorem exec_kmonHartOwner (ha0 : ((s.hart h).reg 10).toNat < 128) :
    let x := s.hart (Fin.ofNat 128 ((s.hart h).reg 10).toNat)
    exec (.kmonHartOwner h) s = .next (s.sbiRet h 0 (BitVec.ofNat 64 (x.owner.toNat + 256 * x.ownerGen.toNat))) := by
  intro x
  show execKmonHartOwner h s = _
  unfold execKmonHartOwner
  rw [if_neg (by simp [hcalls])]
  exact if_neg (Nat.not_le.2 ha0)

theorem exec_kmonRun (hv : Table.find s.hearth.vharts ((s.hart h).reg 10).toNat = some v) (hown : (s.hart h).owner = v.suite)
    (hout : s.vhartOn ((s.hart h).reg 10).toNat = none) :
    exec (.kmonRun h) s
      = .next ((s.onDie v (parlourOf h)).2.enterVhart h ((s.hart h).reg 10).toNat (s.onDie v (parlourOf h)).1) := by
  show execKmonRun h s = _
  unfold execKmonRun
  rw [if_neg (by simp [hcalls])]
  dsimp only
  rw [hv]
  exact (if_neg (not_not.2 hown)).trans (if_neg (by simp [hout]))

theorem exec_kmonKick_out (hv : Table.find s.hearth.vharts ((s.hart h).reg 10).toNat = some v)
    (hout : v.file = 0 ∨ s.vhartOn ((s.hart h).reg 10).toNat = none) :
    exec (.kmonKick h) s = .next ((s.updVhart ((s.hart h).reg 10).toNat { v with kicked := true }).sbiRet h 0 0) := by
  show execKmonKick h s = _
  unfold execKmonKick
  rw [if_neg (by simp [hcalls])]
  dsimp only
  rw [hv]
  cases hon : s.vhartOn ((s.hart h).reg 10).toNat with
  | none => rfl
  | some t => exact if_pos (hout.resolve_right (by simp [hon]))

theorem exec_kmonKick_runs {t : Fin 128} (hv : Table.find s.hearth.vharts ((s.hart h).reg 10).toNat = some v) (hfile : v.file ≠ 0)
    (hon : s.vhartOn ((s.hart h).reg 10).toNat = some t) :
    exec (.kmonKick h) s = .next ((s.kickFile t v.file).sbiRet h 0 0) := by
  show execKmonKick h s = _
  unfold execKmonKick
  rw [if_neg (by simp [hcalls])]
  dsimp only
  rw [hv, hon]
  exact if_neg hfile

/-- The calls that name a virtual hart find none at an unlisted handle. -/
theorem exec_kmon_unknown (hv : Table.find s.hearth.vharts ((s.hart h).reg 10).toNat = none) :
    exec (.kmonRun h) s = .next (s.sbiRet h (-3) 0) ∧ exec (.kmonMove h) s = .next (s.sbiRet h (-3) 0)
      ∧ exec (.kmonKick h) s = .next (s.sbiRet h (-3) 0) := by
  show execKmonRun h s = _ ∧ execKmonMove h s = _ ∧ execKmonKick h s = _
  unfold execKmonRun execKmonMove execKmonKick
  have hgo : ¬((!s.hartCalls h) = true) := by simp [hcalls]
  rw [if_neg hgo, if_neg hgo, if_neg hgo]
  dsimp only
  rw [hv]
  exact ⟨rfl, rfl, rfl⟩

end

/-! ## KMON_MOVE (R49, R276) -/

/-- A virtual hart as a move to a hart leaves it, and the state then: its time is set for that hart's die only while it is out. -/
def State.movedVhart (s : State) (handle : Nat) (v : VHart) (t : Fin 128) : VHart × State :=
  let d := if (s.vhartOn handle).isSome then (v, s) else s.onDie v (parlourOf t)
  ({ d.1 with hart := t.val }, d.2)

theorem exec_kmonMove {t : Fin 128} (hcalls : s.hartCalls h = true)
    (hv : Table.find s.hearth.vharts ((s.hart h).reg 10).toNat = some v) (ht : ((s.hart h).reg 11).toNat = t.val)
    (hown : (s.hart t).owner = v.suite) :
    let moved := s.movedVhart ((s.hart h).reg 10).toNat v t
    exec (.kmonMove h) s = .next ((moved.2.updVhart ((s.hart h).reg 10).toNat moved.1).sbiRet h 0 0) := by
  intro moved
  show execKmonMove h s = _
  unfold execKmonMove
  rw [if_neg (by simp [hcalls])]
  dsimp only
  rw [hv, ht, Fin.ofNat_val_eq_self]
  dsimp only
  rw [if_neg (by simp [hown])]
  rfl

theorem State.movedVhart_stays {handle : Nat} {t : Fin 128} (hstay : v.die = (parlourOf t).val ∨ (s.vhartOn handle).isSome = true) :
    (s.movedVhart handle v t).1 = { v with hart := t.val } := by
  unfold State.movedVhart
  split
  · rfl
  next hout => rw [State.onDie_same (hstay.resolve_right hout)]

theorem State.movedVhart_die {handle : Nat} {t : Fin 128} (hout : s.vhartOn handle = none) :
    (s.movedVhart handle v t).1.die = (parlourOf t).val := by
  simp [State.movedVhart, hout, State.onDie_die]

theorem State.movedVhart_regs (s : State) (handle : Nat) (v : VHart) (t : Fin 128) : (s.movedVhart handle v t).1.regs = v.regs := by
  unfold State.movedVhart
  split
  · rfl
  · exact State.onDie_regs s v (parlourOf t)

/-! ## SBI HSM start (R441) -/

/-- A hart that the call starts: in HS-mode, with its number in a0 and the opaque value in a1. -/
def Hart.startedAt (x : Hart) (n : Nat) (opq : W64) : Hart :=
  (({ x with started := true, mxsuite := 0 } : Hart).setReg 10 (BitVec.ofNat 64 n)).setReg 11 opq

theorem Hart.startedAt_a0 (x : Hart) (n : Nat) (opq : W64) : (x.startedAt n opq).reg 10 = BitVec.ofNat 64 n := by
  rw [Hart.startedAt, Hart.reg_setReg_other (by decide), Hart.reg_setReg_same (by decide)]

theorem Hart.startedAt_a1 (x : Hart) (n : Nat) (opq : W64) : (x.startedAt n opq).reg 11 = opq :=
  Hart.reg_setReg_same (by decide)

theorem exec_sbiHsmStart {t : Fin 128} (hcalls : s.hartCalls h = true) (ha0 : ((s.hart h).reg 10).toNat = t.val)
    (hreset : (s.hart t).inReset = false) (hstarted : (s.hart t).started = false) :
    exec (.sbiHsmStart h) s = .next (((s.updHart t (fun x => x.startedAt t.val ((s.hart h).reg 12))).updHearth (fun y =>
      { y with hsmWaiting := dropAll t.val y.hsmWaiting })).sbiRet h 0 0) := by
  show execSbiHsmStart h s = _
  unfold execSbiHsmStart
  rw [if_neg (by simp [hcalls])]
  dsimp only
  rw [ha0, Fin.ofNat_val_eq_self, if_neg (by simp [hreset]), if_neg (by simp [hstarted])]
  rfl

/-! ## The exit of a virtual hart (R274, R276) -/

/-- A hart that has left its guest: every register and VS CSR is zero but a1, the cause, and a2 to a5, the passed values. -/
def Hart.exited (y : Hart) (file : Nat) (cause : W64) (passed : List W64) : Hart :=
  (((((y.cleared file).setReg 11 cause).setReg 12 (listGet 0 passed 0)).setReg 13 (listGet 0 passed 1)).setReg 14
    (listGet 0 passed 2)).setReg 15 (listGet 0 passed 3)

theorem Hart.exited_a1 (y : Hart) (file : Nat) (cause : W64) (passed : List W64) : (y.exited file cause passed).reg 11 = cause := by
  simp [Hart.exited, Hart.reg_setReg_other, Hart.reg_setReg_same]

theorem Hart.exited_passed (y : Hart) (file : Nat) (cause : W64) (passed : List W64) (i : Fin 4) :
    (y.exited file cause passed).reg (12 + i.val) = listGet 0 passed i.val := by
  fin_cases i <;> simp [Hart.exited, Hart.reg_setReg_other, Hart.reg_setReg_same]

/-- A virtual hart as its exit leaves it: it holds what the hart held, and no guest file. -/
def VHart.kept (v : VHart) (x : Hart) (time : W64) : VHart :=
  { v with regs := x.x, fregs := x.f, vregs := x.v, vscsr := x.vscsr, vsxerr := x.vsxerr, lastTime := time, file := 0 }

/-- The state at a virtual hart's exit, with what the monitor keeps of it. -/
def State.keepVhart (s : State) (h : Fin 128) (handle : Nat) : State :=
  match Table.find s.hearth.vharts handle with
  | none => s
  | some v => s.updVhart handle (v.kept (s.hart h) (s.hartTime h))

@[simp] theorem State.keepVhart_hart (handle : Nat) (i : Fin 128) : (s.keepVhart h handle).hart i = s.hart i := by
  unfold State.keepVhart
  split <;> rfl

theorem State.find_keepVhart {handle : Nat} (hv : Table.find s.hearth.vharts handle = some v) :
    Table.find (s.keepVhart h handle).hearth.vharts handle = some (v.kept (s.hart h) (s.hartTime h)) := by
  unfold State.keepVhart
  rw [hv]
  exact State.find_updVhart_same _ _

theorem exec_vmExit {hd cause : W64} {passed : List W64} (hv : (s.hart h).vhart = some hd) (hwait : (s.hart h).wait = .none)
    (hmail : (s.hart h).mail = none) :
    let file := ((Table.find s.hearth.vharts hd.toNat).map (fun v => v.file)).getD 0
    exec (.vmExit h cause passed) s
      = .next ((s.keepVhart h hd.toNat).updHart h (fun y => y.exited file cause passed)) := by
  intro file
  show execVmExit h cause passed s = _
  unfold execVmExit
  dsimp only
  rw [hv]
  dsimp only
  rw [if_neg (by simp [hwait, hmail])]
  unfold State.keepVhart
  rfl

end Sys2Proof.Machine

open Sys2Proof Sys2Proof.Machine

/-- Settles O46: each call by its equation; a move, a start and an exit by what they leave of the virtual hart and of the harts. -/
theorem monitorCalls : Obligations.MonitorCalls := by
  intro s h
  refine ⟨fun hcalls => ?calls, fun hd cause passed hv hwait hmail => ⟨_, exec_vmExit hv hwait hmail, ?exit⟩⟩
  case calls =>
    intro a0 ret
    refine ⟨exec_kmonVersion hcalls, fun fid hfid => exec_kmonVersion_unlisted hcalls hfid, exec_kmonHartOwner hcalls,
      fun v hv => ⟨fun hown hout => ⟨exec_kmonRun hcalls hv hown hout, fun hdie => ?run⟩, exec_kmonKick_out hcalls hv,
        fun t hfile hon => exec_kmonKick_runs hcalls hv hfile hon,
        fun t ht hown => ⟨_, exec_kmonMove hcalls hv ht hown,
          ⟨_, State.find_updVhart_same _ _, rfl, State.movedVhart_regs s a0 v t, State.movedVhart_stays,
            fun _ hout => State.movedVhart_die hout⟩, State.sbiRet_a0 0 0⟩⟩,
      exec_kmon_unknown hcalls,
      fun t ht hreset hstarted hne => ⟨_, exec_sbiHsmStart hcalls ht hreset hstarted, ?start⟩⟩
    case run =>
      rw [exec_kmonRun hcalls hv hown hout, State.onDie_same hdie]
    case start =>
      rw [State.sbiRet_hart_other _ _ hne, State.updHearth_hart, State.hart_updHart_same]
      exact ⟨rfl, Hart.startedAt_a0 _ _ _, Hart.startedAt_a1 _ _ _, State.sbiRet_a0 0 0⟩
  case exit =>
    rw [State.hart_updHart_same, State.keepVhart_hart]
    exact ⟨rfl, rfl, Hart.exited_a1 _ _ _ _, rfl, rfl, rfl, rfl, rfl, Hart.exited_passed _ _ _ _,
      fun v hv => ⟨_, State.find_keepVhart hv, rfl, rfl, rfl, rfl, rfl⟩⟩

end

section
/-! SUPPORT. The Bellwire, records and losses: what a run of messages leaves, and each row where its conditions hold
(R43, R44, R181 to R184, R205, R410 to R417, R428, R429). -/

namespace Sys2Proof.Machine

variable {s : State} {m : BwMsg}

/-! ## Receipt (R43, R181 to R184) -/

@[simp] theorem State.countWing_delivered (e : Endpoint) (f : Wing → Wing) : (s.countWing e f).delivered = s.delivered := by
  unfold State.countWing
  split <;> rfl

@[simp] theorem State.countResent_delivered (m : BwMsg) : (s.countResent m).delivered = s.delivered := State.countWing_delivered _ _

@[simp] theorem State.receiveStamp_delivered (e : Endpoint) (w : W32) : (s.receiveStamp e w).delivered = s.delivered := rfl

/-- A message with no place or operation counts on the Wing that finds it so (R181, R184). -/
def State.countNoEnd (s : State) (e : Endpoint) : State := s.countWing e (fun w => { w with noEndp := sat16 w.noEndp 1 })

/-- What an intact message becomes in `t`, the state without it on the wire; `s` says what is there to receive it. -/
def State.arrives (s t : State) (m : BwMsg) : State :=
  let got := t.receiveStamp m.dst m.stamp
  if 8 ≤ payloadClass m.payload then t.countNoEnd m.src
  else if s.endpointUp m.dst = false ∨ opAssigned (payloadClass m.payload) (payloadOp m.payload) = false then got.countNoEnd m.dst
  else if s.staleMsg m then got.countWing m.dst (fun w => { w with staleGen := sat16 w.staleGen 1 })
  else if 4 ≤ payloadClass m.payload then got
  else { got with delivered := got.delivered ++ [m] }

section
variable {i : Nat} (hm : listAt s.bw i = some m)
  (hfirst : ∀ x ∈ s.bw.take i, ¬(x.src = m.src ∧ x.dst = m.dst ∧ payloadClass x.payload = payloadClass m.payload))
include hm hfirst

theorem exec_bellwireMessageReceive_failed :
    exec (.bellwireMessageReceive i .failed) s
      = .next ((State.countResent { s with bw := listDrop s.bw i } m).hopFails m) := by
  show execBellwireMessageReceive i .failed s = _
  unfold execBellwireMessageReceive
  rw [hm]
  exact if_neg (by simpa [and_assoc] using hfirst)

theorem exec_bellwireMessageReceive_intact {crc : Crc} (hcrc : crc ≠ .failed) :
    exec (.bellwireMessageReceive i crc) s
      = .next (s.arrives (if crc = .ok then { s with bw := listDrop s.bw i }
          else State.countResent { s with bw := listDrop s.bw i } m) m) := by
  show execBellwireMessageReceive i crc s = _
  unfold execBellwireMessageReceive
  rw [hm]
  dsimp only
  rw [if_neg (by simpa [and_assoc] using hfirst), if_neg hcrc]
  simp only [State.arrives, State.countNoEnd, decide_eq_true_eq, Bool.or_eq_true, Bool.not_eq_true', apply_ite Host.Outcome.next]

end

section
variable {t : State}

theorem State.arrives_noClass (hcls : 8 ≤ payloadClass m.payload) : s.arrives t m = t.countNoEnd m.src := if_pos hcls

theorem State.arrives_noEnd (hcls : payloadClass m.payload < 8)
    (hno : s.endpointUp m.dst = false ∨ opAssigned (payloadClass m.payload) (payloadOp m.payload) = false) :
    s.arrives t m = (t.receiveStamp m.dst m.stamp).countNoEnd m.dst :=
  (if_neg (Nat.not_le.2 hcls)).trans (if_pos hno)

variable (hcls : payloadClass m.payload < 8) (hup : s.endpointUp m.dst = true)
  (hop : opAssigned (payloadClass m.payload) (payloadOp m.payload) = true)
include hcls hup hop

theorem State.arrives_reached : s.arrives t m
    = if s.staleMsg m then (t.receiveStamp m.dst m.stamp).countWing m.dst (fun w => { w with staleGen := sat16 w.staleGen 1 })
      else if 4 ≤ payloadClass m.payload then t.receiveStamp m.dst m.stamp
      else { t.receiveStamp m.dst m.stamp with delivered := t.delivered ++ [m] } :=
  (if_neg (Nat.not_le.2 hcls)).trans (if_neg (by simp [hup, hop]))

theorem State.arrives_stale (hstale : s.staleMsg m = true) :
    s.arrives t m = (t.receiveStamp m.dst m.stamp).countWing m.dst (fun w => { w with staleGen := sat16 w.staleGen 1 }) :=
  (State.arrives_reached hcls hup hop).trans (if_pos hstale)

theorem State.arrives_delivered (hstale : s.staleMsg m = false) (h4 : payloadClass m.payload < 4) :
    s.arrives t m = { t.receiveStamp m.dst m.stamp with delivered := t.delivered ++ [m] } :=
  (State.arrives_reached hcls hup hop).trans ((if_neg (by simp [hstale])).trans (if_neg (Nat.not_le.2 h4)))

theorem State.arrives_control (hstale : s.staleMsg m = false) (h4 : 4 ≤ payloadClass m.payload) :
    s.arrives t m = t.receiveStamp m.dst m.stamp :=
  (State.arrives_reached hcls hup hop).trans ((if_neg (by simp [hstale])).trans (if_pos h4))

end

/-! ## Heartbeats (R44) -/

/-- A heartbeat with a stamp. -/
def beatMsg (src dst : Endpoint) (v : W64) : BwMsg :=
  { src := src, dst := dst, suite := 0, gen := 0, stamp := BitVec.ofNat 32 v.toNat, payload := .beat }

/-- The heartbeats that an endpoint at stamp `v` sends to a list of others, in order: each carries the next stamp. -/
def beatsFrom (src : Endpoint) : W64 → List Endpoint → List BwMsg
  | _, [] => []
  | v, e :: l => beatMsg src e (v + 1) :: beatsFrom src (v + 1) l

theorem beatsFrom_dst (src : Endpoint) (v : W64) (l : List Endpoint) : (beatsFrom src v l).map (fun m => m.dst) = l := by
  induction l generalizing v with
  | nil => rfl
  | cons e l ih => rw [beatsFrom, List.map_cons, ih, beatMsg]

theorem beatsFrom_length (src : Endpoint) (v : W64) (l : List Endpoint) : (beatsFrom src v l).length = l.length := by
  simpa using congrArg List.length (beatsFrom_dst src v l)

theorem beatsFrom_src_payload {src : Endpoint} {v : W64} {l : List Endpoint} (hm : m ∈ beatsFrom src v l) :
    m.src = src ∧ m.payload = .beat := by
  induction l generalizing v with
  | nil => simp [beatsFrom] at hm
  | cons e l ih =>
    rcases List.mem_cons.1 hm with rfl | hm
    · exact ⟨rfl, rfl⟩
    · exact ih hm

theorem beatsFrom_stamp {src : Endpoint} {v : W64} {l : List Endpoint} {n : Nat} (hm : (beatsFrom src v l)[n]? = some m) :
    m.stamp = BitVec.ofNat 32 (v + BitVec.ofNat 64 (n + 1)).toNat := by
  induction l generalizing v n with
  | nil => simp [beatsFrom] at hm
  | cons e l ih =>
    cases n with
    | zero =>
      obtain rfl := Option.some.inj hm
      rfl
    | succ n =>
      rw [ih hm, BitVec.ofNat_add (n + 1) 1, BitVec.add_comm (BitVec.ofNat 64 (n + 1)), BitVec.add_assoc]
      rfl

theorem State.send_stamp (src dst : Endpoint) (n : BitVec 8) (gen : BitVec 16) (p : Payload) :
    (s.send src dst n gen p).stamp src = s.stamp src + 1 := (s.stamp_setStamp_same src (s.stamp src + 1) :)

theorem State.send_beat_bw (src dst : Endpoint) :
    (s.send src dst 0 0 .beat).bw = s.bw ++ [beatMsg src dst (s.stamp src + 1)] := by
  rw [← State.send_stamp src dst 0 0 .beat]
  rfl

/-- A run of heartbeats puts them on the wire behind what is there, and moves the sender's stamp once for each. -/
theorem State.foldl_send_beat (s : State) (src : Endpoint) (l : List Endpoint) :
    let t := l.foldl (fun t e => t.send src e 0 0 .beat) s
    t.bw = s.bw ++ beatsFrom src (s.stamp src) l ∧ t.stamp src = s.stamp src + BitVec.ofNat 64 l.length := by
  induction l generalizing s with
  | nil => simp [beatsFrom]
  | cons e l ih =>
    obtain ⟨hbw, hstamp⟩ := ih (s.send src e 0 0 .beat)
    rw [List.foldl_cons]
    refine ⟨?_, ?_⟩
    · rw [hbw, State.send_beat_bw, State.send_stamp, List.append_assoc, List.singleton_append, beatsFrom]
    · rw [hstamp, State.send_stamp, List.length_cons, BitVec.ofNat_add l.length 1, BitVec.add_comm (BitVec.ofNat 64 l.length),
        BitVec.add_assoc]
      rfl

theorem exec_heartbeat {e : Endpoint} (hon : s.on = true) (hup : s.endpointUp e = true) :
    exec (.heartbeat e) s = .next ((s.beatTargets e).foldl (fun t d => t.send e d 0 0 .beat) s) := by
  show execHeartbeat e s = _
  exact if_neg (by simp [hon, hup])

/-! ## Records (R410 to R417) -/

theorem exec_rasReport {s1 : State} {r : RasRep}
    (htake : s.takeFor .hearth (fun p => match p with | .ras _ => true | _ => false) = some (m, s1)) (hr : m.payload = .ras r) :
    let s2 := s1.stepStamp .hearth
    let own := s2.stamp .hearth
    exec .rasReport s = .next (((s2.updHearth (fun y => { y with rasSeq := y.rasSeq + 1 })).rasTake
      { rep := r, reporter := endpointId m.src, stamp := extendStamp own m.stamp, hstamp := own,
        seq := s2.hearth.rasSeq }).suiteNotices r) := by
  intro s2 own
  show execRasReport s = _
  unfold execRasReport
  split
  case h_1 hnone => exact absurd (hnone.symm.trans htake) nofun
  case h_2 m' t htake' =>
    obtain ⟨rfl, rfl⟩ := Prod.mk.inj (Option.some.inj (htake'.symm.trans htake))
    rw [hr]

theorem exec_rasQueueDrain_single {x : RasRec} (hq : s.hearth.rasQueue = [x]) (hroom : s.hearth.rasRoom = true) :
    exec .rasQueueDrain s = .next ((s.updHearth (fun y => { y with rasQueue := [] })).rasPut x) := by
  have hdrop : s.updHearth (fun y => { y with rasQueue := y.rasQueue.drop 1 }) = s.updHearth (fun y => { y with rasQueue := [] }) := by
    simp [State.updHearth, hq]
  show execRasQueueDrain s = _
  unfold execRasQueueDrain
  rw [hq, List.foldl_cons, List.foldl_nil, if_pos hroom, hdrop]

/-- The end of a suppression window: it no longer runs. -/
def SupWin.endAt (page : Nat) (subject : BitVec 16) (x : SupWin) : SupWin :=
  if x.page = page && x.subject = subject then { x with running := false } else x

theorem exec_rasSuppressionWindow (s : State) (page : Nat) (subject : BitVec 16) :
    exec (.rasSuppressionWindow page subject) s = .next (s.updHearth (fun y =>
      { y with suppress := (y.suppress.map (SupWin.endAt page subject)).filter (fun x => x.running || x.held ≠ 0) })) := rfl

theorem SupWin.endAt_running {page : Nat} {subject : BitVec 16} {x : SupWin} (hp : (x.endAt page subject).page = page)
    (hs : (x.endAt page subject).subject = subject) : (x.endAt page subject).running = false := by
  unfold SupWin.endAt at hp hs ⊢
  split at hp
  next hsame => rw [if_pos hsame]
  next hother => exact absurd (by simp_all) hother

theorem SupWin.endAt_other {page : Nat} {subject : BitVec 16} {x : SupWin} (h : x.page ≠ page ∨ x.subject ≠ subject) :
    x.endAt page subject = x :=
  if_neg (by simpa using not_and_or.2 h)

/-! ## Losses (R428, R429) -/

/-- The Cellar beside a Wing that reports its loss; where none is left, the Hearth. -/
def State.lossReporter (s : State) (k : Fin 8) : Endpoint :=
  ((s.beatTargets (.cellar k)).find? (fun e => match e with | .cellar j => (s.wing j).included && !(s.wing j).lost | _ => false)).getD
    .hearth

theorem exec_wingLoss {k : Fin 8} {trigger : BitVec 8} (hlost : (s.wing k).lost = false) (hin : (s.wing k).included = true)
    (htrig : trigger = 1 ∨ trigger = 2) :
    exec (.wingLoss k trigger) s
      = .next ((roomsOfWing k.val).foldl (fun t r => t.loseRoom r 0) (((s.updWing k (fun w => { w with lost := true })).listFault
          3 k.val).reportLost (s.lossReporter k) 3 k.val trigger.toNat (endpointId (.cellar k)) none)).answerCutOff := by
  show execWingLoss k trigger s = _
  unfold execWingLoss
  rw [if_neg (by simpa [hlost, hin, or_iff_not_imp_left] using htrig)]
  rfl

theorem linkCellars_head (n : Nat) : (linkCellars n).head? = some (Fin.ofNat 8 n) := by
  unfold linkCellars
  split <;> rfl

section
variable {link : BitVec 8} (hon : s.on = true) (hlink : linkExists link.toNat = true)
include hon hlink

theorem exec_cellarLinkFailure_resent : exec (.cellarLinkFailure link .resent) s
    = .next ((linkCellars link.toNat).foldl (fun t k => t.updWing k (fun w => { w with cfabRetry := sat16 w.cfabRetry 1 })) s) := by
  show execCellarLinkFailure link .resent s = _
  exact if_neg (by simp [hon, hlink])

theorem exec_cellarLinkFailure_failed (hlost : s.lostLinks.contains link.toNat = false)
    (hroute : s.hearth.routes.contains link.toNat = false) :
    let k := Fin.ofNat 8 link.toNat
    exec (.cellarLinkFailure link .failed) s
      = .next ((s.listFault 4 link.toNat).reportLost (.cellar k) 4 link.toNat 1 (endpointId (.cellar k)) none).answerCutOff := by
  intro k
  show execCellarLinkFailure link .failed s = _
  unfold execCellarLinkFailure
  dsimp only
  rw [if_neg (by simp [hon, hlink]), if_neg (by simp only [hlost, hroute]; decide), ← List.head?_eq_getElem?, linkCellars_head]
  rfl

end

end Sys2Proof.Machine

open Sys2Proof Sys2Proof.Machine

/-- Settles O51: a receipt by what an intact message becomes, a heartbeat by its run over the targets, the rest by each row's equation. -/
theorem bellwireAndRas : Obligations.BellwireAndRas := by
  refine ⟨?receipt, fun s e hon hup => ?beat, fun s m s1 r htake hr => ⟨_, exec_rasReport htake hr, rfl, rfl, rfl⟩,
    fun s x hq hroom => exec_rasQueueDrain_single hq hroom,
    fun s page subject => ⟨_, exec_rasSuppressionWindow s page subject, ?ended, ?others⟩,
    fun s k trigger hlost hin htrig => ⟨_, exec_wingLoss hlost hin htrig⟩,
    fun s link hon hlink => ⟨exec_cellarLinkFailure_resent hon hlink,
      fun hlost hroute => ⟨_, linkCellars_head _, exec_cellarLinkFailure_failed hon hlink hlost hroute⟩⟩⟩
  case receipt =>
    intro s i m hm hfirst cls row s0 noEnd
    refine ⟨exec_bellwireMessageReceive_failed hm hfirst, fun crc s1 hs1 => ?_⟩
    have hcrc : crc ≠ .failed := by
      rcases hs1 with ⟨rfl, -⟩ | ⟨rfl, -⟩ <;> decide
    have hrow : row crc = .next (s.arrives s1 m) := by
      rcases hs1 with ⟨rfl, rfl⟩ | ⟨rfl, rfl⟩ <;> exact exec_bellwireMessageReceive_intact hm hfirst hcrc
    have hdel : s1.delivered = s.delivered := by
      rcases hs1 with ⟨-, rfl⟩ | ⟨-, rfl⟩
      · rfl
      · exact State.countResent_delivered m
    rw [hrow, ← hdel]
    exact ⟨fun hcls => congrArg _ (State.arrives_noClass hcls), fun hcls hno => congrArg _ (State.arrives_noEnd hcls hno),
      fun hcls hup hop => ⟨fun hstale => congrArg _ (State.arrives_stale hcls hup hop hstale),
        fun hstale h4 => congrArg _ (State.arrives_delivered hcls hup hop hstale h4),
        fun hstale h4 => congrArg _ (State.arrives_control hcls hup hop hstale h4)⟩⟩
  case beat =>
    obtain ⟨hbw, hstamp⟩ := s.foldl_send_beat e (s.beatTargets e)
    exact ⟨_, _, exec_heartbeat hon hup, hbw, beatsFrom_dst _ _ _, fun m hm => beatsFrom_src_payload hm,
      fun n m hm => beatsFrom_stamp hm, by rw [beatsFrom_length]; exact hstamp⟩
  case ended =>
    intro x hx hp hsub
    obtain ⟨y, -, rfl⟩ := List.mem_map.1 (List.mem_of_mem_filter hx)
    exact SupWin.endAt_running hp hsub
  case others =>
    intro x hx hother hkeep
    refine List.mem_filter.2 ⟨List.mem_map.2 ⟨x, hx, SupWin.endAt_other hother⟩, ?_⟩
    simpa using hkeep

end

section
/-! SUPPORT. Instructions that change only their group: what `issueSlot` leaves, by the forms of statement (R60, R62, R68, R72, R73). -/

namespace Sys2Proof.Machine

variable {c : GroupRef → W64 → W64 → Instr} {legal good : Insn → Slot → Bool} {use : Insn → Slot → Use}
  {eff : Insn → Slot → Slot → Except GroupFault Slot}

/-! ## What an issue leaves -/

/-- The group after its instruction's effect: the slot that the effect gives, or the group with the fault that it found. -/
def Slot.left (sl : Slot) : Except GroupFault Slot → Slot
  | .ok x => x
  | .error f => { sl with fault := some f }

/-- The slot that an effect starts from: past the instruction, without the marks of the places it writes whole. -/
def Slot.issued (sl : Slot) (u : Use) (i : Insn) : Slot := { sl.clearMarks u with pc := sl.pc + i.units }

/-- An instruction that can issue, and that changes only its group, leaves it as its effect says, fault or not. -/
theorem State.issueSlot_leaves {s : State} {g : GroupRef} {w l : W64}
    (h : s.Issues g w l (legal (insn w l) (s.slot g)) (use (insn w l) (s.slot g))) :
    ∃ t, s.issueSlot g w l legal use eff = .next t ∧ s.OnlyGroup t g
      ∧ t.slot g = (s.slot g).left (eff (insn w l) (s.slot g) ((s.slot g).issued (use (insn w l) (s.slot g)) (insn w l))) := by
  cases e : eff (insn w l) (s.slot g) ((s.slot g).issued (use (insn w l) (s.slot g)) (insn w l)) with
  | ok x => exact ⟨_, State.issueSlot_runs h e, s.onlyGroup_updSlot g _, s.slot_updSlot_same g _⟩
  | error f =>
    have hrun := State.issue_faults (eff := fun i sl nx st => (eff i sl nx, st)) h (congrArg (·, s) e)
    exact ⟨_, congrArg Host.Outcome.next hrun, s.onlyGroup_updSlot g _, s.slot_updSlot_same g _⟩

/-- The marks that an instruction leaves before its effect. -/
def Slot.marksLeft (sl : Slot) (u : Use) : List Mark := (sl.clearMarks u).marks

theorem Slot.issued_eq (sl : Slot) (u : Use) (i : Insn) :
    sl.issued u i = { sl with pc := sl.pc + i.units, marks := sl.marksLeft u } := by
  unfold Slot.issued Slot.marksLeft Slot.clearMarks
  split <;> rfl

/-- An instruction that writes no place leaves the marks as they are. -/
@[simp] theorem Slot.issued_no_writes (sl : Slot) (e : Engine) (rs : List Place) (p : Bool) (i : Insn) :
    sl.issued { engine := e, reads := rs, writes := [], part := p } i = { sl with pc := sl.pc + i.units } := by
  simp [Slot.issued]

/-! ## Registers -/

@[simp] theorem Slot.sreg_setS_same (sl : Slot) (r : Nat) (v : W64) : (sl.setS r v).sreg r = v := Table.get_set_same _ _ _ _

theorem Slot.sreg_setS_other (sl : Slot) {r q : Nat} (v : W64) (h : q ≠ r) : (sl.setS r v).sreg q = sl.sreg q :=
  Table.get_set_other _ _ _ h

@[simp] theorem Slot.mask_setP_same (sl : Slot) (r : Nat) (v : BitVec 128) : (sl.setP r v).mask r = v &&& sl.full := by
  show Table.get 0 (Table.set sl.p r (v &&& sl.full)) r &&& sl.full = _
  rw [Table.get_set_same, BitVec.and_assoc, BitVec.and_self]

theorem Slot.mask_setP_other (sl : Slot) {r q : Nat} (v : BitVec 128) (h : q ≠ r) : (sl.setP r v).mask q = sl.mask q :=
  congrArg (· &&& sl.full) (Table.get_set_other _ _ _ h)

/-- A write of a mask register that R68 lets pass. -/
theorem Slot.writeMask_ok {sl : Slot} {r : Nat} {v : BitVec 128} (h : sl.inMx = true → r = 0 → v &&& sl.full = sl.full) :
    sl.writeMask r v = .ok (sl.setP r v) := by
  unfold Slot.writeMask
  refine if_neg (fun hc => ?_)
  simp only [Bool.and_eq_true, decide_eq_true_eq, bne_iff_ne] at hc
  exact hc.2 (h hc.1.1 hc.1.2)

/-- A write of p0 inside a matrix region that leaves out a thread is a DIVERGENCE (R68). -/
theorem Slot.writeMask_divergence {sl : Slot} {v : BitVec 128} (hmx : sl.inMx = true) (hv : v &&& sl.full ≠ sl.full) :
    sl.writeMask 0 v = .error { cause := .divergence, addr := 0 } :=
  if_pos (by simp [hmx, hv])

/-! ## The forms of statement -/

/-- A row that issues an effect on its group alone runs as the statement's function of the group says, where that is what the effect
leaves. -/
theorem RunsGroup.of_issueSlot {after : Insn → Slot → Slot}
    (hc : ∀ g w l s, assignedOpcode ((insn w l).bits 0 8) = true → good (insn w l) (s.slot g) = true →
      exec (c g w l) s = s.issueSlot g w l legal use eff)
    (ha : ∀ i sl, legal i sl = true → good i sl = true → sl.left (eff i sl (sl.issued (use i sl) i)) = after i sl) :
    RunsGroup c legal use good after := by
  intro s g w l h hg
  rw [hc _ _ _ _ h.opc hg, ← ha _ _ h.form hg]
  exact State.issueSlot_leaves h

/-- A row whose effect writes one scalar register. -/
theorem RunsScalar.of_issueSlot {rd : Insn → Nat} {value : Insn → Slot → W64}
    (hc : ∀ g w l s, exec (c g w l) s = s.issueSlot g w l legal use eff)
    (hv : ∀ i sl nx, eff i sl nx = .ok (nx.setS (rd i) (value i sl))) : RunsScalar c legal use rd value := by
  intro s g w l h
  obtain ⟨t, ht, hgroup, hslot⟩ := State.issueSlot_leaves (eff := eff) h
  rw [hv, Slot.issued_eq] at hslot
  rw [hc]
  refine ⟨t, ht, hgroup, ?_⟩
  rw [hslot]
  exact ⟨Slot.sreg_setS_same _ _ _, rfl, fun r hr => Slot.sreg_setS_other _ _ hr, rfl⟩

/-- A row whose effect writes one mask register. -/
theorem RunsMask.of_issueSlot {value : Insn → Slot → BitVec 128}
    (hc : ∀ g w l s, exec (c g w l) s = s.issueSlot g w l legal use eff)
    (hv : ∀ i sl nx, eff i sl nx = nx.writeMask i.rd (value i sl)) : RunsMask c legal use value := by
  intro s g w l h hmx
  obtain ⟨t, ht, hgroup, hslot⟩ := State.issueSlot_leaves (eff := eff) h
  rw [hv, Slot.issued_eq, Slot.writeMask_ok] at hslot
  swap
  · exact hmx
  rw [hc]
  refine ⟨t, ht, hgroup, ?_⟩
  rw [hslot]
  exact ⟨Slot.mask_setP_same _ _ _, rfl, fun r hr => Slot.mask_setP_other _ _ hr, rfl⟩

end Sys2Proof.Machine
end

section
/-! SUPPORT. The scalar instructions: the value of each operation in the terms of R93, and the two formats (R61, R64, R87, R92). -/

namespace Sys2Proof.Machine

/-! ## Values (R93) -/

theorem saddValue_eq (a b : W64) : saddValue a b = BitVec.ofNat 64 (a.toNat + b.toNat) := by
  simp [saddValue, BitVec.ofNat_add]

theorem ssubValue_eq (a b : W64) : ssubValue a b = BitVec.ofInt 64 ((a.toNat : Int) - b.toNat) := by
  rw [ssubValue, BitVec.sub_eq_add_neg, Int.sub_eq_add_neg, BitVec.ofInt_add, BitVec.ofInt_neg]
  simp

theorem smulValue_eq (a b : W64) : smulValue a b = BitVec.ofNat 64 (a.toNat * b.toNat) := by
  simp [smulValue, BitVec.ofNat_mul]

theorem sandValue_eq (a b : W64) : sandValue a b = a &&& b := rfl

theorem sorValue_eq (a b : W64) : sorValue a b = a ||| b := rfl

theorem sxorValue_eq (a b : W64) : sxorValue a b = a ^^^ b := rfl

theorem sshlValue_eq (a b : W64) : sshlValue a b = BitVec.ofNat 64 (a.toNat * 2 ^ (b.toNat % 64)) :=
  BitVec.eq_of_toNat_eq (by simp [sshlValue, BitVec.toNat_shiftLeft, Nat.shiftLeft_eq])

theorem sshrValue_eq (a b : W64) : sshrValue a b = BitVec.ofNat 64 (a.toNat / 2 ^ (b.toNat % 64)) := by
  have hlt : a.toNat / 2 ^ (b.toNat % 64) < 2 ^ 64 := lt_of_le_of_lt (Nat.div_le_self _ _) a.isLt
  apply BitVec.eq_of_toNat_eq
  rw [sshrValue, BitVec.toNat_ushiftRight, Nat.shiftRight_eq_div_pow, BitVec.toNat_ofNat, Nat.mod_eq_of_lt hlt]

theorem ssraValue_eq (a b : W64) : ssraValue a b = BitVec.ofInt 64 (a.toInt / 2 ^ (b.toNat % 64)) := by
  rw [← BitVec.ofInt_toInt (x := ssraValue a b), ssraValue, BitVec.toInt_sshiftRight, Int.shiftRight_eq_div_pow]
  rfl

theorem sminValue_eq (a b : W64) : sminValue a b = BitVec.ofInt 64 (min a.toInt b.toInt) := by
  rw [sminValue, BitVec.slt_eq_decide]
  by_cases h : b.toInt < a.toInt
  · simp [h, min_eq_right h.le]
  · simp [h, min_eq_left (not_lt.1 h)]

theorem smaxValue_eq (a b : W64) : smaxValue a b = BitVec.ofInt 64 (max a.toInt b.toInt) := by
  rw [smaxValue, BitVec.slt_eq_decide]
  by_cases h : a.toInt < b.toInt
  · simp [h, max_eq_right h.le]
  · simp [h, max_eq_left (not_lt.1 h)]

theorem sminuValue_eq (a b : W64) : sminuValue a b = BitVec.ofNat 64 (min a.toNat b.toNat) := by
  simp only [sminuValue, BitVec.lt_def]
  by_cases h : b.toNat < a.toNat
  · simp [h, min_eq_right h.le]
  · simp [h, min_eq_left (not_lt.1 h)]

theorem smaxuValue_eq (a b : W64) : smaxuValue a b = BitVec.ofNat 64 (max a.toNat b.toNat) := by
  simp only [smaxuValue, BitVec.lt_def]
  by_cases h : a.toNat < b.toNat
  · simp [h, max_eq_right h.le]
  · simp [h, max_eq_left (not_lt.1 h)]

theorem ssltValue_eq (a b : W64) : ssltValue a b = if a.toInt < b.toInt then 1 else 0 := by
  simp [ssltValue, BitVec.slt_eq_decide]

theorem ssltuValue_eq (a b : W64) : ssltuValue a b = if a.toNat < b.toNat then 1 else 0 := by
  simp only [ssltuValue, BitVec.lt_def]

/-- Sign extension of 32 bits, as the model writes it. -/
theorem sext64_eq_signExtend {n : Nat} (h : n < 2 ^ 32) : sext64 32 n = (BitVec.ofNat 32 n).signExtend 64 := by
  have hsign : bitOf n 31 = decide (2 ^ 31 ≤ n) := by
    simp only [bitOf, decide_eq_decide]
    omega
  have hlow : bitsOf n 0 32 = n := by simpa [bitsOf] using h
  rw [sext64, hsign, hlow, BitVec.signExtend, BitVec.toInt_ofNat', Int.bmod_def, Int.emod_eq_of_lt (by omega) (by omega)]
  by_cases hn : 2 ^ 31 ≤ n
  · rw [if_pos (by simpa using hn), if_neg (by omega)]
    rfl
  · rw [if_neg (by simpa using hn), if_pos (by omega), BitVec.ofInt_natCast]

/-- The immediate operand is L, or IMM as a signed number of 32 bits (R87, R92). -/
theorem Insn.immOp_eq (i : Insn) : i.immOp = if i.x then BitVec.ofNat 64 i.l else (BitVec.ofNat 32 i.imm).signExtend 64 := by
  have hlt : i.imm < 2 ^ 32 := Nat.mod_lt _ (by decide)
  rw [Insn.immOp, sext64_eq_signExtend hlt]

/-! ## The two formats -/

variable {c : GroupRef → W64 → W64 → Instr} {f v : W64 → W64 → W64}

/-- A row of format R: sRD ← sRA op sRB, or L. -/
theorem runsScalar_register (hv : ∀ a b, f a b = v a b) (hc : ∀ g w l s, exec (c g w l) s = scalarOp f g w l s := by intros; rfl) :
    RunsScalar c (fun i _ => i.okR 63 63 63 0)
      (fun i _ => { engine := .scalar, reads := [.sreg i.ra] ++ (if i.x then [] else [.sreg i.rb]), writes := [.sreg i.rd], part := false })
      Insn.rd (fun i sl => v (sl.sreg i.ra) (if i.x then BitVec.ofNat 64 i.l else sl.sreg i.rb)) :=
  RunsScalar.of_issueSlot hc (fun _ _ _ => by rw [← hv]; rfl)

/-- A row of format I: sRD ← sRA op IMM, or L. -/
theorem runsScalar_immediate (hv : ∀ a b, f a b = v a b) (hc : ∀ g w l s, exec (c g w l) s = scalarImm f g w l s := by intros; rfl) :
    RunsScalar c (fun i _ => i.okI 63 63)
      (fun i _ => { engine := .scalar, reads := [.sreg i.ra], writes := [.sreg i.rd], part := false })
      Insn.rd (fun i sl => v (sl.sreg i.ra) (if i.x then BitVec.ofNat 64 i.l else (BitVec.ofNat 32 i.imm).signExtend 64)) :=
  RunsScalar.of_issueSlot hc (fun i _ _ => by rw [← hv, ← i.immOp_eq])

end Sys2Proof.Machine

open Sys2Proof Sys2Proof.Machine

/-- Settles O7: each row is `scalarOp` of its operation, whose value is the one that R93 gives. -/
theorem scalarRegisterForms : Obligations.ScalarRegisterForms :=
  ⟨runsScalar_register saddValue_eq, runsScalar_register ssubValue_eq, runsScalar_register smulValue_eq,
    runsScalar_register sandValue_eq, runsScalar_register sorValue_eq, runsScalar_register sxorValue_eq,
    runsScalar_register sshlValue_eq, runsScalar_register sshrValue_eq, runsScalar_register ssraValue_eq,
    runsScalar_register sminValue_eq, runsScalar_register smaxValue_eq, runsScalar_register sminuValue_eq,
    runsScalar_register smaxuValue_eq, runsScalar_register ssltValue_eq, runsScalar_register ssltuValue_eq⟩

/-- Settles O8: each row is `scalarImm` of its operation, and `SLI` writes the operand itself. -/
theorem scalarImmediateForms : Obligations.ScalarImmediateForms :=
  ⟨runsScalar_immediate saddValue_eq, runsScalar_immediate ssubValue_eq, runsScalar_immediate smulValue_eq,
    runsScalar_immediate sandValue_eq, runsScalar_immediate sorValue_eq, runsScalar_immediate sxorValue_eq,
    runsScalar_immediate sshlValue_eq, runsScalar_immediate sshrValue_eq, runsScalar_immediate ssraValue_eq,
    runsScalar_immediate sminValue_eq, runsScalar_immediate smaxValue_eq, runsScalar_immediate sminuValue_eq,
    runsScalar_immediate smaxuValue_eq, runsScalar_immediate ssltValue_eq, runsScalar_immediate ssltuValue_eq,
    RunsScalar.of_issueSlot (fun _ _ _ _ => rfl) (fun i _ _ => by rw [i.immOp_eq])⟩

end

section
/-! SUPPORT. Control flow: what `BRD` and `JOIN` leave, and the rows that change one part of a group (R65 to R69, R95 to
R98, R102, R109, R114). -/

namespace Sys2Proof.Machine

/-! ## Formats without an extension word -/

theorem Insn.units_of_not_x {i : Insn} (h : i.x = false) : i.units = 1 := by
  rw [Insn.units, h]
  rfl

theorem Insn.units_of_okN {i : Insn} (h : i.okN = true) : i.units = 1 := by
  simp only [Insn.okN, Bool.and_eq_true, Bool.not_eq_true'] at h
  exact Insn.units_of_not_x h.1.2

theorem Insn.units_of_okB1 {i : Insn} (h : i.okB1 = true) : i.units = 1 := by
  simp only [Insn.okB1, Bool.and_eq_true, Bool.not_eq_true'] at h
  exact Insn.units_of_not_x h.1.2

/-! ## Writes of p0 at a JOIN (R67, R68) -/

/-- A group that writes p0 and then goes on: inside a matrix region a mask without some thread is DIVERGENCE instead. -/
theorem Slot.left_map_writeMask {sl nx : Slot} {v : BitVec 128} (f : Slot → Slot) (hmx : nx.inMx = sl.inMx) (hfull : nx.full = sl.full) :
    sl.left ((nx.writeMask 0 v).map f)
      = if sl.inMx = true ∧ v &&& sl.full ≠ sl.full then sl.left (parkWith .divergence 0) else f (nx.setP 0 v) := by
  split
  next h => rw [Slot.writeMask_divergence (hmx.trans h.1) (hfull ▸ h.2)]; rfl
  next h =>
    have hok : nx.inMx = true → (0 : Nat) = 0 → v &&& nx.full = nx.full := fun hm _ => by
      rw [hfull]
      exact not_not.1 (fun hv => h ⟨hmx ▸ hm, hv⟩)
    rw [Slot.writeMask_ok hok]
    rfl

/-- A JOIN acts where the stack's top names its address: the pending threads run, or else all of them go on (R67). -/
theorem joinEffect_left (i : Insn) {sl nx : Slot} (hmx : nx.inMx = sl.inMx) (hfull : nx.full = sl.full) :
    sl.left (joinEffect i sl nx)
      = match sl.stack with
        | [] => nx
        | e :: rest =>
          if e.join ≠ sl.pc then nx
          else if sl.inMx = true ∧ (if e.pend = 0 then e.all else e.pend) &&& sl.full ≠ sl.full then sl.left (parkWith .divergence 0)
          else if e.pend = 0 then { nx.setP 0 e.all with stack := rest }
          else { nx.setP 0 e.pend with stack := { e with pend := 0 } :: rest, pc := e.pc } := by
  unfold joinEffect
  cases sl.stack with
  | nil => rfl
  | cons e rest =>
    dsimp only
    by_cases hjoin : e.join = sl.pc
    · rw [if_neg (not_not_intro hjoin), if_neg (not_not_intro hjoin)]
      by_cases hp : e.pend = 0
      · rw [if_neg (not_not_intro hp), if_pos hp, if_pos hp]
        exact Slot.left_map_writeMask _ hmx hfull
      · rw [if_pos hp, if_neg hp, if_neg hp]
        exact Slot.left_map_writeMask _ hmx hfull
    · rw [if_pos hjoin, if_pos hjoin]
      rfl

/-! ## A scalar register written, and its mark (R73, R102) -/

theorem Slot.issued_setS (sl : Slot) (e : Engine) (rs : List Place) (r : Nat) (i : Insn) (v : W64) :
    (sl.issued { engine := e, reads := rs, writes := [.sreg r], part := false } i).setS r v
      = { sl with
          pc := sl.pc + i.units, s := Table.set sl.s r v,
          marks := sl.marks.filter (fun m => decide (m.place ≠ Place.sreg r)) } := by
  have hmarks : (sl.marks.filter (fun m => !([Place.sreg r] : List Place).contains m.place)).filter (fun m => m.place != .sreg r)
      = sl.marks.filter (fun m => decide (m.place ≠ Place.sreg r)) := by
    rw [List.filter_filter]
    refine List.filter_congr (fun m _ => ?_)
    by_cases h : m.place = Place.sreg r <;> simp [h]
  unfold Slot.setS
  rw [← hmarks]
  rfl

/-! ## A token that has come (R102) -/

/-- The number of signals that a TWAIT waits for: IMM as it stands, or L. -/
def Insn.waitCount (i : Insn) : Nat := if i.x then i.l else i.imm

/-- `TWAIT` of a token that has come issues as every instruction does. -/
theorem execTwait_of_token {s : State} {g : GroupRef} {w l : W64} (hopc : assignedOpcode ((insn w l).bits 0 8) = true)
    (htok : (insn w l).waitCount ≤ (Table.get 0 (s.slot g).tokens (insn w l).rd).toNat) :
    exec (.twait g w l) s
      = s.issueSlot g w l
          (fun i _ => i.okI 7 0 && decide (1 ≤ i.waitCount) && decide (i.waitCount ≤ 65535)) useNone
          (fun i sl nx =>
            .ok { nx with tokens := Table.set nx.tokens i.rd (Table.get 0 sl.tokens i.rd - BitVec.ofNat 16 i.waitCount) }) := by
  have hcome : decide ((Table.get 0 (s.slot g).tokens (insn w l).rd).toNat < (insn w l).waitCount) = false :=
    decide_eq_false (Nat.not_lt.2 htok)
  show execTwait g w l s = _
  unfold execTwait
  simp only [insn, Insn.waitCount] at hopc hcome ⊢
  simp only [hopc, hcome, Bool.and_false, Bool.true_and]
  rfl

end Sys2Proof.Machine

open Sys2Proof Sys2Proof.Machine

/-- Settles O10: `BRD` chooses as the statement does; `JOIN` by whether the stack's top names this address. -/
theorem divergenceAndJoin : Obligations.DivergenceAndJoin := by
  refine ⟨RunsGroup.of_issueSlot (fun _ _ _ _ _ _ => rfl) (fun i sl hlegal _ => ?brd),
    RunsGroup.of_issueSlot (fun _ _ _ _ _ _ => rfl) (fun i sl hlegal _ => ?join)⟩
  case brd =>
    simp only [Bool.and_eq_true, Bool.not_eq_true'] at hlegal
    rw [Slot.issued_no_writes, Insn.units_of_not_x hlegal.2]
    simp only [brdEffect, apply_ite sl.left]
    rfl
  case join =>
    rw [Slot.issued_no_writes, Insn.units_of_okN hlegal, joinEffect_left]
    · rfl
    · rfl
    · rfl

/-- Settles O11: each row by its effect on the slot; `TWAIT` issues once its token has come. -/
theorem groupControl : Obligations.GroupControl := by
  refine ⟨RunsGroup.of_issueSlot (fun _ _ _ _ _ _ => rfl) (fun i sl hlegal _ => ?call),
    RunsGroup.of_issueSlot (fun _ _ _ _ _ _ => rfl) (fun i sl _ _ => ?exit),
    RunsGroup.of_issueSlot (fun _ _ _ _ _ _ => rfl) (fun _ _ _ _ => rfl),
    RunsGroup.of_issueSlot (fun _ _ _ _ _ _ => rfl) (fun i sl _ hall => ?mxbegin),
    RunsGroup.of_issueSlot (fun _ _ _ _ _ _ => rfl) (fun i sl _ _ => ?mxend),
    RunsGroup.of_issueSlot (fun _ _ _ _ hopc htok => execTwait_of_token hopc (of_decide_eq_true htok)) (fun i sl _ _ => ?twait),
    RunsGroup.of_issueSlot (fun _ _ _ _ _ _ => rfl) (fun i sl _ _ => ?gsr)⟩
  case call =>
    rw [Slot.issued_setS]
    rfl
  case exit =>
    rw [Slot.issued_no_writes]
    rfl
  case mxbegin =>
    rw [Slot.issued_no_writes, if_pos (of_decide_eq_true hall)]
    rfl
  case mxend =>
    rw [Slot.issued_no_writes]
    rfl
  case twait =>
    rw [Slot.issued_no_writes]
    rfl
  case gsr =>
    dsimp only
    rw [Slot.issued_setS]
    by_cases hclear : i.fn = 1
    · simp only [hclear, if_true, ne_eq, not_true_eq_false, decide_false, Bool.and_false]
      rfl
    · simp only [hclear, if_false, ne_eq, not_false_eq_true, decide_true, Bool.and_true]
      rfl

end

section
/-! SUPPORT. Mask instructions: the halves of a mask as words, and the bits that `VCMP` writes (R60, R68, R90, R93, R120). -/

namespace Sys2Proof.Machine

/-! ## A mask and its two words (R93) -/

theorem mask_of_words (hi lo : W64) : BitVec.ofNat 128 (lo.toNat + 2 ^ 64 * hi.toNat) = (hi ++ lo : BitVec 128) := by
  apply BitVec.eq_of_toNat_eq
  rw [BitVec.toNat_append, ← Nat.shiftLeft_add_eq_or_of_lt lo.isLt, Nat.shiftLeft_eq, BitVec.toNat_ofNat,
    Nat.mod_eq_of_lt (by omega)]
  omega

theorem word_of_mask (m : BitVec 128) (upper : Bool) :
    BitVec.ofNat 64 (m.toNat / (if upper then 2 ^ 64 else 1)) = m.extractLsb' (if upper then 64 else 0) 64 := by
  apply BitVec.eq_of_toNat_eq
  rw [BitVec.extractLsb'_toNat, BitVec.toNat_ofNat, Nat.shiftRight_eq_div_pow]
  cases upper <;> rfl

/-! ## The bits of a mask -/

theorem getLsbD_ofNat_two_pow {t n : Nat} (hn : n < 128) : (BitVec.ofNat 128 (2 ^ t)).getLsbD n = decide (t = n) := by
  rw [BitVec.getLsbD_ofNat, Nat.testBit_two_pow, decide_eq_true hn, Bool.true_and]

/-- A mask register just written holds the bits of its group's threads (R60). -/
theorem Slot.getLsbD_mask_setP {sl : Slot} {r n : Nat} {v : BitVec 128} (hn : n < sl.width) (hw : sl.width ≤ 128) :
    ((sl.setP r v).mask r).getLsbD n = v.getLsbD n := by
  rw [Slot.mask_setP_same, Slot.full, BitVec.getLsbD_and, BitVec.getLsbD_ofNat, Nat.testBit_two_pow_sub_one]
  simp [hn, lt_of_lt_of_le hn hw]

/-- The turn of thread `t` in a comparison: its bit of `v` is the outcome `p t` where the thread is in the mask `m`. -/
def compareBit (m : BitVec 128) (p : Nat → Bool) (v : BitVec 128) (t : Nat) : BitVec 128 :=
  if inMask m t then (if p t then v ||| BitVec.ofNat 128 (2 ^ t) else v &&& ~~~(BitVec.ofNat 128 (2 ^ t))) else v

theorem getLsbD_compareBit (m : BitVec 128) (p : Nat → Bool) (v : BitVec 128) {t n : Nat} (hn : n < 128) :
    (compareBit m p v t).getLsbD n = if t = n ∧ inMask m t = true then p t else v.getLsbD n := by
  unfold compareBit
  by_cases hm : inMask m t = true
  · rw [if_pos hm, apply_ite (fun x : BitVec 128 => x.getLsbD n), BitVec.getLsbD_or, BitVec.getLsbD_and, BitVec.getLsbD_not,
      getLsbD_ofNat_two_pow hn, decide_eq_true hn]
    by_cases ht : t = n
    · subst ht
      cases hp : p t <;> simp [hm]
    · simp [ht]
  · simp [hm]

/-- The turns of the first `k` threads give each of them in the mask its outcome and leave every other bit. -/
theorem getLsbD_foldl_compareBit (m : BitVec 128) (p : Nat → Bool) (v : BitVec 128) (k : Nat) {n : Nat} (hn : n < 128) :
    ((List.range k).foldl (compareBit m p) v).getLsbD n = if n < k ∧ inMask m n = true then p n else v.getLsbD n := by
  induction k with
  | zero => simp
  | succ k ih =>
    rw [List.range_succ, List.foldl_append, List.foldl_cons, List.foldl_nil, getLsbD_compareBit m p _ hn, ih]
    by_cases hk : k = n
    · subst hk
      by_cases hm : inMask m k = true <;> simp [hm]
    · have hlt : n < k + 1 ↔ n < k := by omega
      simp [hk, hlt]

/-- The mask that `VCMP` computes. -/
def Slot.compared (sl : Slot) (i : Insn) : BitVec 128 :=
  (List.range sl.width).foldl
    (compareBit (sl.active i) (fun t => vCompare i.fn i.ty (sl.opA i (tyWide i.ty) t) (sl.opB i (tyWide i.ty) t))) (sl.mask i.rd)

/-- A row pRD ← f(pRA, pRB), or f(pRA, L). -/
theorem runsMask_op {c : GroupRef → W64 → W64 → Instr} {rb : Nat} {f : BitVec 128 → BitVec 128 → BitVec 128}
    (hc : ∀ g w l s, exec (c g w l) s = maskOp rb f g w l s := by intros; rfl) :
    RunsMask c (fun i _ => i.okR 15 15 rb 0) (fun _ _ => { engine := .vector, reads := [], writes := [], part := false })
      (fun i sl => f (sl.mask i.ra) (if i.x then BitVec.ofNat 128 (i.l % 2 ^ 64) else sl.mask i.rb)) :=
  RunsMask.of_issueSlot hc (fun _ _ _ => rfl)

end Sys2Proof.Machine

open Sys2Proof Sys2Proof.Machine

/-- Settles O18: each row of masks by its value; `VCMP` by the bits of the mask that it computes. -/
theorem masksAndCompare : Obligations.MasksAndCompare := by
  refine ⟨⟨runsMask_op, runsMask_op, runsMask_op, runsMask_op (f := fun a b => a &&& ~~~b), runsMask_op (f := fun a _ => ~~~a),
    RunsMask.of_issueSlot (fun _ _ _ _ => rfl) (fun i sl nx => congrArg (nx.writeMask i.rd) (mask_of_words _ _)),
    RunsScalar.of_issueSlot (fun _ _ _ _ => rfl) (fun i sl nx => ?sfromp),
    RunsScalar.of_issueSlot (fun _ _ _ _ => rfl) (fun _ _ _ => rfl)⟩, ?vcmp⟩
  case sfromp =>
    have hword := word_of_mask (sl.mask i.ra) (decide (i.fn = 1))
    simp only [decide_eq_true_eq] at hword
    rw [← hword]
  case vcmp =>
    intro s g w l i sl wide h hmx hwidth
    obtain ⟨t, ht, hgroup, hslot⟩ : ∃ t, exec (.vcmp g w l) s = .next t ∧ s.OnlyGroup t g
        ∧ t.slot g = sl.left ((sl.issued { vecUse true false wide false i sl with writes := [], part := false } i).writeMask i.rd
          (sl.compared i)) := State.issueSlot_leaves h
    rw [Slot.issued_no_writes, Slot.writeMask_ok] at hslot
    swap
    · exact fun hin hrd => absurd hrd (hmx hin)
    refine ⟨t, ht, hgroup, ?_⟩
    rw [hslot]
    refine ⟨⟨fun r hr => Slot.mask_setP_other _ _ hr, rfl⟩, rfl, fun n hn => ?_⟩
    refine (Slot.getLsbD_mask_setP (sl := { sl with pc := sl.pc + i.units }) hn hwidth).trans ?_
    rw [Slot.compared, getLsbD_foldl_compareBit _ _ _ _ (lt_of_lt_of_le hn hwidth)]
    simp only [hn, true_and]
    rfl

end

section
/-! SUPPORT. Every row of a group's instructions: what a group that cannot issue, or an unassigned opcode, makes of it (R53, R62, R85). -/

namespace Sys2Proof.Machine

variable {s : State} {g : GroupRef} {w l : W64} {legal : Insn → Slot → Bool} {use : Insn → Slot → Use}
  {eff : Insn → Slot → Slot → State → Except GroupFault Slot × State}

theorem State.issue_of_not_canIssue (h : (s.slot g).canIssue = false) : s.issue g w l legal use eff = s := by
  simp [State.issue, h]

theorem State.issue_of_unassigned (h : (s.slot g).canIssue = true) (hopc : assignedOpcode ((insn w l).bits 0 8) = false) :
    s.issue g w l legal use eff = s.updSlot g (fun x => x.park .illegal 0) := by
  simp only [insn] at hopc
  simp [State.issue, h, hopc]

/-- A row that, where its group cannot issue or its opcode is unassigned, does what an issue does. -/
def IssuesOrStops (c : GroupRef → W64 → W64 → Instr) : Prop :=
  ∀ (s : State) (g : GroupRef) (w l : W64), (s.slot g).canIssue = false ∨ assignedOpcode ((insn w l).bits 0 8) = false →
    ∃ legal use eff, exec (c g w l) s = .next (s.issue g w l legal use eff)

theorem IssuesOrStops.of_issue {c : GroupRef → W64 → W64 → Instr}
    (h : ∀ s g w l, ∃ legal use eff, exec (c g w l) s = .next (s.issue g w l legal use eff)) : IssuesOrStops c :=
  fun s g w l _ => h s g w l

/-- A row that leaves the state of a group that cannot issue as it is does what an issue does. -/
theorem stop_eq_issue (hcan : (s.slot g).canIssue = false) :
    ∃ legal use eff, (.next s : Out) = .next (s.issue g w l legal use eff) :=
  ⟨fun _ _ => true, useNone, fun _ _ nx st => (.ok nx, st), by rw [State.issue_of_not_canIssue hcan]⟩

/-- `TWAIT` looks for its token first: for an assigned opcode only, and it parks only a group that can issue. -/
theorem issuesOrStops_twait : IssuesOrStops .twait := by
  intro s g w l h
  show ∃ legal use eff, execTwait g w l s = _
  unfold execTwait
  dsimp only
  generalize (if (Insn.mk w.toNat l.toNat).x then l.toNat else (Insn.mk w.toNat l.toNat).imm) = n
  rcases h with hcan | hopc
  · rw [hcan, Bool.false_and, if_neg Bool.false_ne_true]
    split
    · exact stop_eq_issue hcan
    · exact ⟨_, _, _, rfl⟩
  · simp only [insn] at hopc
    rw [hopc]
    exact ⟨_, _, _, rfl⟩

/-- `DMAQ` looks for a free descriptor first, for an assigned opcode only. -/
theorem issuesOrStops_dmaq : IssuesOrStops .dmaq := by
  intro s g w l h
  show ∃ legal use eff, execDmaq g w l s = _
  unfold execDmaq
  dsimp only
  rcases h with hcan | hopc
  · split
    · exact stop_eq_issue hcan
    · exact ⟨_, _, _, rfl⟩
  · simp only [insn] at hopc
    rw [hopc, Bool.and_false, Bool.false_and]
    exact ⟨_, _, _, rfl⟩

/-- The rows of a group's instructions: all but `TWAIT` and `DMAQ` are an issue in every state. -/
theorem issuesOrStops_of_groupRows : ∀ c ∈ groupRows, IssuesOrStops c := by
  simp only [groupRows, List.forall_mem_append, List.forall_mem_cons, List.not_mem_nil, IsEmpty.forall_iff, implies_true, and_true]
  and_intros
  any_goals exact issuesOrStops_twait
  any_goals exact issuesOrStops_dmaq
  all_goals exact .of_issue (fun _ _ _ _ => ⟨_, _, _, rfl⟩)

end Sys2Proof.Machine

open Sys2Proof Sys2Proof.Machine

/-- Settles O59: every row is an issue there, and an issue meets the opcode before the rest of the word. -/
theorem unassignedOpcodes : Obligations.UnassignedOpcodes := by
  intro c hc s g w l hcan hopc
  obtain ⟨legal, use, eff, hrun⟩ := issuesOrStops_of_groupRows c hc s g w l (.inr hopc)
  rw [hrun, State.issue_of_unassigned hcan hopc]

/-- Settles O60: every row is an issue there, and an issue looks first whether the group can. -/
theorem noIssueNoEffect : Obligations.NoIssueNoEffect := by
  intro c hc s g w l hcan
  obtain ⟨legal, use, eff, hrun⟩ := issuesOrStops_of_groupRows c hc s g w l (.inl hcan)
  rw [hrun, State.issue_of_not_canIssue hcan]

end

section
/-! SUPPORT. The life of a group: what the messages of a core leave, and each row of parking, freeing and register-file errors (R59,
R72, R77, R79, R81, R97, R423). -/

namespace Sys2Proof.Machine

variable {s : State} {g : GroupRef} {c : CoreId}

/-! ## Groups after a change -/

theorem State.slot_updSlot_other {f : Slot → Slot} {h : GroupRef} (hne : h ≠ g) : (s.updSlot g f).slot h = s.slot h := by
  obtain ⟨d, i⟩ := h
  by_cases hd : d = g.core
  · subst hd
    exact (s.onlyGroup_updSlot g f).slots i (fun hi => hne (by rw [hi]))
  · unfold State.slot
    rw [(s.onlyGroup_updSlot g f).cores d hd]

/-- A change of the residents of one task changes a group where it is one of them. -/
theorem State.slot_updTaskSlots (s : State) (g : GroupRef) (sl : Slot) (f : Slot → Slot) :
    (s.updTaskSlots g.core sl f).slot g = if (s.slot g).sameTask sl then f (s.slot g) else s.slot g := by
  unfold State.slot State.updTaskSlots
  rw [State.core_updCore_same, Table.get_mapVals]
  unfold Table.get
  cases Table.find (s.core g.core).slots g.slot.val with
  | none => rfl
  | some y => rfl

theorem Slot.not_sameTask_of_free {sl of : Slot} (h : sl.state = .free) : sl.sameTask of = false := by
  simp [Slot.sameTask, h]

/-! ## Messages of a core -/

@[simp] theorem State.slot_send (s : State) (a b : Endpoint) (n : BitVec 8) (gen : BitVec 16) (p : Payload) (g : GroupRef) :
    (s.send a b n gen p).slot g = s.slot g := rfl

@[simp] theorem State.reqs_send (s : State) (a b : Endpoint) (n : BitVec 8) (gen : BitVec 16) (p : Payload) :
    (s.send a b n gen p).reqs = s.reqs := rfl

theorem State.send_sent (s : State) (a b : Endpoint) (n : BitVec 8) (gen : BitVec 16) (p : Payload) :
    ∃ m, (s.send a b n gen p).bw = s.bw ++ [m] ∧ m.src = a ∧ m.dst = b ∧ m.payload = p := ⟨_, rfl, rfl, rfl, rfl⟩

theorem State.mem_bw_send {a b : Endpoint} {n : BitVec 8} {gen : BitVec 16} {p : Payload} {m : BwMsg} (h : m ∈ s.bw) :
    m ∈ (s.send a b n gen p).bw := List.mem_append_left _ h

/-- A record counts as an event of its core, and its message as another (R43). -/
theorem State.sendPark_stamp (s : State) (c : CoreId) (n : Nat) (sl : Slot) (cause : Cause) (addr : W64) :
    (s.sendPark c n sl cause addr).stamp (.core c) = s.stamp (.core c) + 2 := by
  unfold State.sendPark State.stepStamp
  rw [State.send_stamp, State.stamp_setStamp_same, BitVec.add_assoc]
  rfl

/-! ## The rows -/

/-- A group that parks: PARK_SEQ counts the park (R79). -/
def Slot.parked (sl : Slot) : Slot := { sl with state := .parked, parkSeq := sl.parkSeq + 1 }

theorem exec_groupPark {f : GroupFault} (hf : (s.slot g).fault = some f) (hact : (s.slot g).state = .active)
    (hops : (s.slot g).ops = []) :
    exec (.groupPark g) s
      = .next ((s.updSlot g (fun _ => (s.slot g).parked)).sendPark g.core g.slot.val (s.slot g).parked f.cause f.addr) := by
  show execGroupPark g s = _
  unfold execGroupPark
  dsimp only
  split
  next hnone => rw [hf] at hnone; cases hnone
  next e he =>
    cases hf.symm.trans he
    rw [if_neg (by simp [hact, hops])]
    rfl

/-- A drained group's slot is FREE again, its requests end, and its task's other groups take over how it ends. -/
def State.freeGroup (s : State) (g : GroupRef) : State :=
  (State.updSlot { s with reqs := s.reqs.filter (fun e => (e.2.owner.groupOp.map (fun p => p.1)) != some g) } g
    (fun x => { Slot.reset with parkSeq := x.parkSeq })).updTaskSlots g.core (s.slot g)
      (fun x => { x.endWith (s.slot g).outcome with sideDone := x.sideDone || (s.slot g).sideDone })

theorem State.slot_freeGroup (s : State) (g : GroupRef) : (s.freeGroup g).slot g = { Slot.reset with parkSeq := (s.slot g).parkSeq } := by
  unfold State.freeGroup
  rw [State.slot_updTaskSlots, State.slot_updSlot_same, Slot.not_sameTask_of_free rfl]
  rfl

theorem State.reqs_freeGroup {e : Nat × Req} {op : Nat} (he : e ∈ (s.freeGroup g).reqs) : e.2.owner.groupOp ≠ some (g, op) := by
  have hkept := (List.mem_filter.1 he).2
  intro hown
  simp [hown] at hkept

/-- What a freed group's core says: freed resources to its own Wing's dispatcher and to the task's, and DONE with the task's last
group. -/
def State.sayFreed (s : State) (g : GroupRef) (sl : Slot) : State :=
  let home := wingOfRoom g.core.room
  let s3 := s.send (.core g.core) (.dispatcher home) sl.suite sl.gen .freed
  let s4 := if home = sl.wing then s3 else s3.send (.core g.core) (.dispatcher sl.wing) sl.suite sl.gen .freed
  if !(s.core g.core).slots.any (fun e => e.2.sameTask sl) then
    s4.send (.core g.core) (.dispatcher sl.wing) sl.suite sl.gen (.done sl.taskIdx sl.firing sl.outcome)
  else s4

theorem exec_groupFree (hst : (s.slot g).state = .draining) (hdr : s.drained g = true) :
    exec (.groupFree g) s = .next ((s.freeGroup g).sayFreed g (s.slot g)) := by
  show execGroupFree g s = _
  unfold execGroupFree
  dsimp only
  rw [if_neg (by simp [hst, hdr])]
  rfl

theorem State.slot_sayFreed (s : State) (g : GroupRef) (sl : Slot) : (s.sayFreed g sl).slot g = s.slot g := by
  unfold State.sayFreed
  simp only [apply_ite (fun t : State => t.slot g), State.slot_send, ite_self]

theorem State.reqs_sayFreed (s : State) (g : GroupRef) (sl : Slot) : (s.sayFreed g sl).reqs = s.reqs := by
  unfold State.sayFreed
  simp only [apply_ite State.reqs, State.reqs_send, ite_self]

theorem State.sayFreed_sent (s : State) (g : GroupRef) (sl : Slot) :
    ∃ m ∈ (s.sayFreed g sl).bw, m.src = .core g.core ∧ m.dst = .dispatcher (wingOfRoom g.core.room) ∧ m.payload = .freed := by
  obtain ⟨m, hbw, hm⟩ := s.send_sent (.core g.core) (.dispatcher (wingOfRoom g.core.room)) sl.suite sl.gen .freed
  refine ⟨m, ?_, hm⟩
  have hsent : m ∈ (s.send (.core g.core) (.dispatcher (wingOfRoom g.core.room)) sl.suite sl.gen .freed).bw :=
    hbw ▸ List.mem_append_right _ List.mem_cons_self
  unfold State.sayFreed
  dsimp only
  split_ifs
  · exact State.mem_bw_send hsent
  · exact State.mem_bw_send (State.mem_bw_send hsent)
  · exact hsent
  · exact State.mem_bw_send hsent

end Sys2Proof.Machine

open Sys2Proof Sys2Proof.Machine

/-- Settles O25: each row where its conditions hold, and what the core's messages leave alone. -/
theorem groupLife : Obligations.GroupLife := by
  refine ⟨fun s g f hf hact hops => ⟨_, _, exec_groupPark hf hact hops, s.slot_updSlot_same g _, fun h hne => s.slot_updSlot_other hne,
      State.sendPark_stamp _ _ _ _ _ _, State.send_sent _ _ _ _ _ _⟩,
    fun s g hst hdr => ⟨_, exec_groupFree hst hdr, ?slot, ?reqs, State.sayFreed_sent _ _ _⟩,
    fun s g idleFill hon => ⟨fun hidle => ?idle, fun hidle hres => ?resident⟩⟩
  case slot => rw [State.slot_sayFreed, State.slot_freeGroup]
  case reqs =>
    rw [State.reqs_sayFreed]
    exact fun e he op => State.reqs_freeGroup he
  case idle =>
    show execRegisterFileUe g idleFill s = _
    unfold execRegisterFileUe
    dsimp only
    rw [if_neg (by simp [hon]), if_pos (by simpa using hidle)]
  case resident =>
    show execRegisterFileUe g idleFill s = _
    unfold execRegisterFileUe
    dsimp only
    rw [if_neg (by simp [hon]), if_neg (by simp [hidle, hres])]

end

section
/-! SUPPORT. What starts, repeats and stops groups beside their own instructions: a launch, the automatic replay, the gates of a core
(R55 to R59, R75, R76, R393, R405, R423). -/

namespace Sys2Proof.Machine

variable {s : State} {c : CoreId}

/-! ## LAUNCH -/

@[simp] theorem State.cores_updTask (s : State) (k : Fin 8) (i : Nat) (f : Task → Task) : (s.updTask k i f).cores = s.cores := by
  unfold State.updTask
  split <;> rfl

@[simp] theorem State.delivered_updTask (s : State) (k : Fin 8) (i : Nat) (f : Task → Task) :
    (s.updTask k i f).delivered = s.delivered := by
  unfold State.updTask
  split <;> rfl

/-- What a launch message asks for. -/
def BwMsg.launchReq (m : BwMsg) (task firing : Nat) (kernel desc : W64) : LaunchReq :=
  { suite := m.suite, gen := m.gen, wing := srcWing m.src, task := task, firing := firing, kernel := kernel, desc := desc }

/-- A launch taken: its groups start, the entry runs, and the dispatcher holds where (R58, R200). -/
def State.launched (s : State) (c : CoreId) (q : LaunchReq) (h : Header) : State :=
  ((s.updCore c (fun y => y.start c q h)).updTask q.wing q.task (fun t =>
    if t.state = .launching && t.firing = q.firing then { t with state := .running } else t)).updDisp q.wing
      (fun d => { d with accepted := Table.set d.accepted (roomKey c.room) c.core.val })

theorem exec_launch {m : BwMsg} {rest : List BwMsg} {task firing : Nat} {kernel desc : W64} {h : Header} {s1 : State}
    (htake : s.takeLaunch c = some (m, rest)) (hm : m.payload = .launch task firing kernel desc) (hpow : (s.core c).powered = true)
    (hfen : (s.core c).fenced = false) (hread : State.readHeader { s with delivered := rest } m.suite kernel.toNat = (some h, s1))
    (hposs : h.impossible = false) (hfits : (s1.core c).fits h = true) :
    exec (.launch c) s = .next (s1.launched c (m.launchReq task firing kernel desc) h) := by
  show execLaunch c s = _
  unfold execLaunch
  simp only [htake, hm, hpow, hfen, hread, hposs, hfits, Bool.not_true, Bool.not_false, Bool.false_and, Bool.false_eq_true, if_false]
  rfl

theorem State.core_launched (s : State) (c d : CoreId) (q : LaunchReq) (h : Header) :
    (s.launched c q h).core d = (s.updCore c (fun y => y.start c q h)).core d :=
  congrArg (fun x => Table.get Core.reset x (coreKey d)) (State.cores_updTask _ _ _ _)

theorem State.accepted_launched (s : State) (c : CoreId) (q : LaunchReq) (h : Header) :
    Table.find ((s.launched c q h).disp q.wing).accepted (roomKey c.room) = some c.core.val := by
  unfold State.launched
  rw [State.disp_updDisp_same, Table.find_set_same]

/-! ## AUTOMATIC_REPLAY -/

/-- What a run leaves of a part of the state is what the turn of `b` leaves of it, where that turn depends on this part alone and no
other turn changes it. -/
theorem foldl_as_own_turn {α β γ : Type} {f : α → β → α} {g : α → γ} {l : List β} {b : β} (a : α) (hl : l.Nodup) (hb : b ∈ l)
    (hown : ∀ a a', g a = g a' → g (f a b) = g (f a' b)) (hother : ∀ a, ∀ c ∈ l, c ≠ b → g (f a c) = g a) :
    g (l.foldl f a) = g (f a b) := by
  induction l generalizing a with
  | nil => simp at hb
  | cons c l ih =>
    obtain ⟨hc, hl⟩ := List.nodup_cons.1 hl
    rw [List.foldl_cons]
    by_cases hbc : c = b
    · subst hbc
      exact foldl_keeps l _ (fun a d hd => hother a d (List.mem_cons_of_mem c hd) (fun h => hc (h ▸ hd)))
    · have hb : b ∈ l := (List.mem_cons.1 hb).resolve_left (Ne.symm hbc)
      rw [ih _ hl hb (fun a d hd => hother a d (List.mem_cons_of_mem c hd))]
      exact hown _ _ (hother a c List.mem_cons_self hbc)

theorem State.cores_addReqs (s : State) (rs : List Req) : (s.addReqs rs).cores = s.cores :=
  foldl_keeps (g := State.cores) rs s (fun _ _ _ => rfl)

theorem State.rooms_addReqs (s : State) (rs : List Req) : (s.addReqs rs).rooms = s.rooms :=
  foldl_keeps (g := State.rooms) rs s (fun _ _ _ => rfl)

/-- What a resumed group is (R75). -/
def Slot.resumed (sl : Slot) : Slot :=
  { sl with
    state := .active, fault := none, replays := min 15 (sl.replays + 1), marks := [], kept := [], ops := sl.toReplay,
    wait := if sl.toReplay = [] then .none else .replay }

/-- What a group is after an automatic replay, which its program counter has then spent (R76). -/
def Slot.autoResumed (sl : Slot) : Slot := { sl.resumed with autoPc := some sl.pc }

theorem State.slot_of_cores {s t : State} (h : t.cores = s.cores) (g : GroupRef) : t.slot g = s.slot g := by
  unfold State.slot State.core
  rw [h]

theorem State.slot_resume_same (s : State) (g : GroupRef) : (s.resume g).slot g = (s.slot g).resumed :=
  (State.slot_of_cores (State.cores_addReqs _ _) g).trans (s.slot_updSlot_same g _)

theorem State.slot_resume_other {g h : GroupRef} (hne : h ≠ g) : (s.resume g).slot h = s.slot h :=
  (State.slot_of_cores (State.cores_addReqs _ _) h).trans (s.slot_updSlot_other hne)

/-- Whether a page repairs a group is seen in its slot and the Rooms. -/
theorem State.repairedBy_congr {s t : State} {g : GroupRef} (hslot : t.slot g = s.slot g) (hrooms : t.rooms = s.rooms) (p : Nat) :
    t.repairedBy g p = s.repairedBy g p := by
  unfold State.repairedBy State.room
  rw [hslot, hrooms]

/-- Whether slot `i` is resumed at its turn in an automatic replay of its core, which stood as `x` (R76). -/
def State.replaysSlot (s : State) (c : CoreId) (x : Core) (i : Fin 32) : Bool :=
  !x.replayMode && (s.slot ⟨c, i⟩).state = .parked && (s.slot ⟨c, i⟩).autoPc ≠ some (s.slot ⟨c, i⟩).pc
    && x.reinstalled.any (fun p => s.repairedBy ⟨c, i⟩ p)

/-- The turn of slot `i`. -/
def autoTurn (c : CoreId) (x : Core) (s : State) (i : Fin 32) : State :=
  if s.replaysSlot c x i then (s.resume ⟨c, i⟩).updSlot ⟨c, i⟩ (fun y => { y with autoPc := some (s.slot ⟨c, i⟩).pc }) else s

/-- The turns of all slots. -/
def State.autoTurns (s : State) (c : CoreId) (x : Core) : State := (List.finRange 32).foldl (autoTurn c x) s

section
variable {x : Core} {i : Fin 32}

theorem State.replaysSlot_congr {s t : State} (hslot : t.slot ⟨c, i⟩ = s.slot ⟨c, i⟩) (hrooms : t.rooms = s.rooms) :
    t.replaysSlot c x i = s.replaysSlot c x i := by
  unfold State.replaysSlot
  simp only [hslot, State.repairedBy_congr hslot hrooms]

theorem autoTurn_slot_same (s : State) :
    (autoTurn c x s i).slot ⟨c, i⟩
      = if s.replaysSlot c x i then (s.slot ⟨c, i⟩).autoResumed else s.slot ⟨c, i⟩ := by
  unfold autoTurn
  split
  · rw [State.slot_updSlot_same, State.slot_resume_same]
    rfl
  · rfl

theorem autoTurn_slot_other (s : State) {j : Fin 32} (hj : j ≠ i) : (autoTurn c x s j).slot ⟨c, i⟩ = s.slot ⟨c, i⟩ := by
  have hne : (⟨c, i⟩ : GroupRef) ≠ ⟨c, j⟩ := fun h => hj (congrArg GroupRef.slot h).symm
  unfold autoTurn
  split
  · rw [State.slot_updSlot_other hne, State.slot_resume_other hne]
  · rfl

theorem autoTurn_rooms (s : State) (j : Fin 32) : (autoTurn c x s j).rooms = s.rooms := by
  unfold autoTurn
  split
  · exact State.rooms_addReqs _ _
  · rfl

/-- The turns leave a slot as its own turn would, taken first: no other turn changes what it depends on. -/
theorem State.slot_autoTurns (s : State) (c : CoreId) (x : Core) (i : Fin 32) :
    (s.autoTurns c x).slot ⟨c, i⟩ = (autoTurn c x s i).slot ⟨c, i⟩ := by
  refine congrArg Prod.fst (foldl_as_own_turn (g := fun t : State => (t.slot ⟨c, i⟩, t.rooms)) s (List.nodup_finRange 32)
    (List.mem_finRange i) (fun t u h => ?_) (fun t j _ hj => ?_))
  · obtain ⟨hslot, hrooms⟩ := Prod.mk.injEq _ _ _ _ ▸ h
    simp only [autoTurn_slot_same, autoTurn_rooms, State.replaysSlot_congr hslot hrooms, hslot, hrooms]
  · simp only [autoTurn_slot_other t hj, autoTurn_rooms]

/-- In the host's mode no slot is resumed (R76). -/
theorem State.autoTurns_host (h : x.replayMode = true) : s.autoTurns c x = s :=
  foldl_keeps (g := id) _ s (fun u i _ => if_neg (by simp [State.replaysSlot, h]))

/-- A core after an automatic replay: the turns are taken and its notices are consumed. -/
def State.autoReplayed (s : State) (c : CoreId) : State :=
  (s.autoTurns c (s.core c)).updCore c (fun y => { y with reinstalled := [] })

theorem State.slot_autoReplayed (s : State) (c : CoreId) (i : Fin 32) :
    (s.autoReplayed c).slot ⟨c, i⟩
      = if s.replaysSlot c (s.core c) i then (s.slot ⟨c, i⟩).autoResumed else s.slot ⟨c, i⟩ := by
  have hslots : (s.autoReplayed c).slot ⟨c, i⟩ = (s.autoTurns c (s.core c)).slot ⟨c, i⟩ := by
    unfold State.slot State.autoReplayed
    rw [State.core_updCore_same]
  rw [hslots, State.slot_autoTurns, autoTurn_slot_same]

end

theorem exec_automaticReplay (hon : s.on = true) : exec (.automaticReplay c) s = .next (s.autoReplayed c) := by
  show execAutomaticReplay c s = _
  unfold execAutomaticReplay
  dsimp only
  rw [if_neg (by simp [hon])]
  rfl

/-! ## The gates of a core -/

theorem exec_corePowerGate (hpow : (s.core c).powered = true) (hgate : bitOf (s.room c.room).pwr.toNat 6 = true)
    (hown : (s.room c.room).ownerSuite ≠ none) (hres : (s.core c).resident = []) (hgust : (s.core c).gustA ≤ 4) :
    exec (.corePowerGate c) s = .next (s.updCore c (fun y => { y with powered := false, gustFill := 0 })) := by
  show execCorePowerGate c s = _
  unfold execCorePowerGate
  exact if_neg (by simp [hpow, hgate, hown, hres, hgust])

end Sys2Proof.Machine

open Sys2Proof Sys2Proof.Machine

/-- Settles O26: a launch that meets every check is taken. -/
theorem launch : Obligations.Launch := by
  intro s c m rest task firing kernel desc h s1 htake hm hpow hfen hread hposs hfits q
  refine ⟨_, exec_launch htake hm hpow hfen hread hposs hfits, ?_, fun d hd => ?_, ?_, State.accepted_launched _ _ _ _⟩
  · rw [State.core_launched, State.core_updCore_same]
    rfl
  · rw [State.core_launched, State.core_updCore_other _ _ _ _ (fun he => hd (coreKey_inj he))]
  · exact State.delivered_updTask _ _ _ _

/-- Settles O27: a slot's own turn decides what an automatic replay leaves of it; the other rows where their conditions hold. -/
theorem coreUpkeep : Obligations.CoreUpkeep := by
  refine ⟨fun s c hon => ⟨_, exec_automaticReplay hon, ?consumed, fun hhost => ?host, fun hhw i hparked hauto hrep => ?resumed,
      fun i hparked => ?others⟩,
    fun s c hon => if_neg (by simp [hon]), fun s c b hon => if_neg (by simp [hon]), fun s c hon => if_neg (by simp [hon]),
    fun s c => exec_corePowerGate, fun s c hwait => if_pos hwait⟩
  case consumed => rw [State.autoReplayed, State.core_updCore_same]
  case host => rw [State.autoReplayed, State.autoTurns_host hhost]
  case resumed =>
    have hturn : s.replaysSlot c (s.core c) i = true := by
      simp only [State.replaysSlot, hhw, hparked, Bool.and_eq_true, List.any_eq_true]
      exact ⟨⟨⟨rfl, rfl⟩, decide_eq_true hauto⟩, hrep⟩
    rw [State.slot_autoReplayed, if_pos hturn]
    exact ⟨rfl, rfl, rfl, rfl, rfl⟩
  case others => rw [State.slot_autoReplayed, if_neg (by simp [State.replaysSlot, hparked])]

end

section
/-! SUPPORT. Branches of a whole group: the condition of each CC code, where its group goes on, and the words that are ILLEGAL (R65, R85,
R94, R95). -/

namespace Sys2Proof.Machine

/-! ## Rows that move the program counter -/

/-- A row whose effect moves the program counter only. -/
theorem RunsControl.of_issueSlot {c : GroupRef → W64 → W64 → Instr} {legal : Insn → Slot → Bool} {use : Insn → Slot → Use}
    {eff : Insn → Slot → Slot → Except GroupFault Slot} {next : Insn → Slot → W32}
    (hc : ∀ g w l s, exec (c g w l) s = s.issueSlot g w l legal use eff)
    (ha : ∀ i sl, legal i sl = true → eff i sl (sl.issued (use i sl) i) = .ok { sl with pc := next i sl }) :
    RunsControl c legal use next := by
  intro s g w l h
  obtain ⟨t, ht, hgroup, hslot⟩ := State.issueSlot_leaves (eff := eff) h
  rw [ha _ _ h.form] at hslot
  exact ⟨t, (hc _ _ _ _).trans ht, hgroup, hslot⟩

/-- A word that its row does not allow parks the group, whether or not the fetch and the opcode were good (R53, R85). -/
theorem State.issue_of_not_legal {s : State} {g : GroupRef} {w l : W64} {legal : Insn → Slot → Bool} {use : Insn → Slot → Use}
    {eff : Insn → Slot → Slot → State → Except GroupFault Slot × State} (hcan : (s.slot g).canIssue = true)
    (hform : legal (insn w l) (s.slot g) = false) :
    s.issue g w l legal use eff = s.updSlot g (fun x => x.park .illegal 0) := by
  simp only [insn] at hform
  simp [State.issue, hcan, hform]

/-- A choice of where a group goes on. -/
theorem Slot.ite_pc (sl : Slot) (p : Prop) [Decidable p] (a b : W32) :
    (if p then { sl with pc := a } else { sl with pc := b }) = { sl with pc := if p then a else b } := by
  split <;> rfl

/-! ## Branches (R94) -/

/-- The condition of each CC code, in the order of the numbers compared. -/
theorem brCond_eq (cc : Nat) (a b : W64) : brCond cc a b =
    if cc = 0 then decide (a = b) else if cc = 1 then decide (a ≠ b) else if cc = 2 then decide (a.toInt < b.toInt)
    else if cc = 3 then decide (b.toInt ≤ a.toInt) else if cc = 4 then decide (a.toNat < b.toNat)
    else if cc = 5 then decide (b.toNat ≤ a.toNat) else true := by
  have hs : (!decide (a.toInt < b.toInt)) = decide (b.toInt ≤ a.toInt) := by simp only [← decide_not, not_lt]
  have hu : (!decide (a.toNat < b.toNat)) = decide (b.toNat ≤ a.toNat) := by simp only [← decide_not, not_lt]
  unfold brCond
  rw [BitVec.slt_eq_decide, hs, ← hu]
  rfl

theorem Insn.units_of_brLegal {i : Insn} (h : brLegal i = true) : i.units = 1 := by
  simp only [brLegal, Bool.and_eq_true] at h
  obtain ⟨⟨⟨hform, -⟩, -⟩, -⟩ := h
  exact Insn.units_of_okB1 hform

theorem Insn.units_of_brMaskLegal {i : Insn} (h : brMaskLegal i = true) : i.units = 1 := by
  simp only [brMaskLegal, Bool.and_eq_true] at h
  obtain ⟨⟨⟨⟨hform, -⟩, -⟩, -⟩, -⟩ := h
  exact Insn.units_of_okB1 hform

/-- Code 7 is unassigned, and code 6 compares nothing. -/
theorem brLegal_of_bad_code {i : Insn} (h : i.cc = 7 ∨ (i.cc = 6 ∧ (i.sa ≠ 0 ∨ i.sb ≠ 0 ∨ i.cz = true))) :
    brLegal i = false := by
  rcases h with h7 | ⟨h6, hsa | hsb | hcz⟩
  · simp [brLegal, h7]
  · simp [brLegal, h6, hsa]
  · simp [brLegal, h6, hsb]
  · simp [brLegal, h6, hcz]

end Sys2Proof.Machine

open Sys2Proof Sys2Proof.Machine

/-- Settles O9: each row by where its effect moves the program counter; a bad code is not legal. -/
theorem uniformBranches : Obligations.UniformBranches := by
  refine ⟨RunsControl.of_issueSlot (fun _ _ _ _ => rfl) (fun i sl _ => ?nop),
    RunsControl.of_issueSlot (fun _ _ _ _ => rfl) (fun i sl hlegal => ?br),
    RunsControl.of_issueSlot (fun _ _ _ _ => rfl) (fun i sl hlegal => ?brany),
    RunsControl.of_issueSlot (fun _ _ _ _ => rfl) (fun i sl hlegal => ?brnone),
    RunsControl.of_issueSlot (fun _ _ _ _ => rfl) (fun i sl _ => ?jmpr),
    fun s g w l hcan hbad => congrArg Host.Outcome.next (State.issue_of_not_legal hcan (brLegal_of_bad_code hbad))⟩
  case nop => rw [Slot.issued_no_writes]
  case br =>
    rw [Slot.issued_no_writes, Insn.units_of_brLegal hlegal]
    dsimp only
    rw [brCond_eq]
    exact congrArg Except.ok (sl.ite_pc _ _ _)
  case brany =>
    rw [Slot.issued_no_writes, Insn.units_of_brMaskLegal hlegal]
    refine congrArg Except.ok ((sl.ite_pc _ _ _).trans ?_)
    simp only [bne_iff_ne, ite_not]
  case brnone =>
    rw [Slot.issued_no_writes, Insn.units_of_brMaskLegal hlegal]
    exact congrArg Except.ok (sl.ite_pc _ _ _)
  case jmpr =>
    rw [Slot.issued_no_writes]
    rfl

end

section
/-! SUPPORT. Fences and barriers: what a fence awaits and what its CORE scope does to the port, and the groups that a barrier lets go
(R108 to R111, R150). -/

namespace Sys2Proof.Machine

variable {s : State} {g : GroupRef}

theorem Insn.units_of_okF {i : Insn} (h : i.okF = true) : i.units = 1 := by
  simp only [Insn.okF, Bool.and_eq_true, Bool.not_eq_true'] at h
  obtain ⟨⟨⟨-, hx⟩, -⟩, -⟩ := h
  exact Insn.units_of_not_x hx

/-! ## EFENCE (R108, R150) -/

/-- The fields of an `EFENCE`: source and destination engines, a scope, and nothing else. -/
def Insn.fenceForm (i : Insn) : Bool := i.okF && i.bits 16 4 ≠ 0 && i.bits 20 4 ≠ 0 && i.bits 24 2 ≠ 3 && i.bits 32 8 = 0

theorem Insn.units_of_fenceForm {i : Insn} (h : i.fenceForm = true) : i.units = 1 := by
  simp only [Insn.fenceForm, Bool.and_eq_true] at h
  obtain ⟨⟨⟨⟨hform, -⟩, -⟩, -⟩, -⟩ := h
  exact Insn.units_of_okF hform

/-- The fence that an `EFENCE` asks for. -/
def Slot.fenceOf (sl : Slot) (core : Bool) (i : Insn) : Fence :=
  { core := core, dst := BitVec.ofNat 4 (i.bits 20 4), await := sl.outstanding core (BitVec.ofNat 4 (i.bits 16 4)) }

/-- A group holds a fence where there is something to wait for. -/
def Slot.addFence (sl : Slot) (f : Fence) : Slot := if f.await = [] then sl else { sl with fences := sl.fences ++ [f] }

theorem Slot.addFence_eq (sl : Slot) (f : Fence) :
    sl.addFence f = { sl with fences := if f.await = [] then sl.fences else sl.fences ++ [f] } := by
  unfold Slot.addFence
  split <;> rfl

theorem exec_efence {w l : W64} (h : s.Issues g w l (insn w l).fenceForm (useNone (insn w l) (s.slot g))) :
    exec (.efence g w l) s = .next ((if decide ((insn w l).bits 24 2 = 0) then
        s.enterPort g (s.slot g) (BitVec.ofNat 4 ((insn w l).bits 16 4)) else s).updSlot g
          (fun _ => { s.slot g with pc := (s.slot g).pc + 1 }.addFence
            ((s.slot g).fenceOf (decide ((insn w l).bits 24 2 = 0)) (insn w l)))) := by
  have hnx := Slot.issued_no_writes (s.slot g) .scalar [] false (insn w l)
  rw [Insn.units_of_fenceForm h.form] at hnx
  exact congrArg Host.Outcome.next (State.issue_runs (legal := fun i _ => i.fenceForm) h
    (Prod.ext (congrArg (fun x : Slot => Except.ok
      (x.addFence ((s.slot g).fenceOf (decide ((insn w l).bits 24 2 = 0)) (insn w l)))) hnx) rfl))

theorem Table.find_mapVals {α : Type} (f : Nat → α → α) (t : Table α) (k : Nat) :
    Table.find (Table.mapVals f t) k = (Table.find t k).map (f k) := by
  induction t with
  | nil => rfl
  | cons e t ih =>
    show (if k = e.1 then _ else _) = Option.map (f k) (if k = e.1 then _ else _)
    by_cases hk : k = e.1
    · rw [if_pos hk, if_pos hk, hk]
      rfl
    · rw [if_neg hk, if_neg hk]
      exact ih

/-- The writes of the fence's engines have entered the core's port. -/
theorem State.find_enterPort {sl : Slot} {mask : BitVec 4} {k op : Nat} {r : Req} {o : MemOp} (hr : Table.find s.reqs k = some r)
    (hkind : r.kind = .write) (hown : r.owner = .group g op) (ho : o ∈ sl.ops) (hid : o.id = op)
    (hmask : mask.getLsbD (engineBit o.engine) = true) :
    Table.find (s.enterPort g sl mask).reqs k = some { r with ported := true } := by
  have hmine : sl.ops.any (fun o => o.id = op && mask.getLsbD (engineBit o.engine)) = true :=
    List.any_eq_true.2 ⟨o, ho, by simp [hid, hmask]⟩
  unfold State.enterPort
  rw [Table.find_mapVals, hr]
  exact congrArg some (if_pos (by simp [hkind, hown, hmine]))

/-! ## EFENCE_COMPLETE (R108) -/

theorem listDrop_append_cons {α : Type} (a b : List α) (x : α) : listDrop (a ++ x :: b) a.length = a ++ b := by
  induction a with
  | nil => rfl
  | cons y a ih => exact congrArg (y :: ·) ih

/-- The first fence with nothing left to wait for opens. -/
theorem exec_efenceComplete {a b : List Fence} {f : Fence} (hf : (s.slot g).fences = a ++ f :: b)
    (ha : ∀ x ∈ a, ∃ o ∈ x.await, o ∈ (s.slot g).outstanding x.core 15)
    (hopen : ∀ o ∈ f.await, o ∉ (s.slot g).outstanding f.core 15) :
    exec (.efenceComplete g) s = .next (s.updSlot g (fun x => { x with fences := listDrop x.fences a.length })) := by
  have hfind : (s.slot g).fences.findIdx? (fun f => !f.await.any (fun o => ((s.slot g).outstanding f.core 15).contains o))
      = some a.length := by
    rw [hf, List.findIdx?_append, List.findIdx?_eq_none_iff.2, List.findIdx?_cons, if_pos]
    · simp
    · simpa using hopen
    · simpa using ha
  show execEfenceComplete g s = _
  unfold execEfenceComplete
  dsimp only
  rw [hfind]

/-! ## Barriers (R110, R111) -/

/-- A group that a barrier lets go, where it waits there. -/
def Slot.released (sl : Slot) (b : Nat) : Slot := if sl.wait = .atBarrier b then { sl with wait := .none } else sl

theorem Slot.released_wait_of_waiting {sl : Slot} {b : Nat} (h : sl.wait = .atBarrier b) : (sl.released b).wait = .none := by
  rw [Slot.released, if_pos h]

theorem Slot.released_of_not_waiting {sl : Slot} {b : Nat} (h : sl.wait ≠ .atBarrier b) : sl.released b = sl := if_neg h

theorem State.slot_updCore_mapVals (s : State) (c : CoreId) (f : Slot → Slot) (hf : f Slot.reset = Slot.reset) (i : Fin 32) :
    (s.updCore c (fun x => { x with slots := Table.mapVals (fun _ sl => f sl) x.slots })).slot ⟨c, i⟩ = f (s.slot ⟨c, i⟩) := by
  unfold State.slot
  rw [State.core_updCore_same, Table.get_mapVals]
  unfold Table.get
  cases Table.find (s.core c).slots i.val with
  | none => exact hf.symm
  | some x => rfl

/-- The turns of a Room's cores let each of its groups go once. -/
theorem State.slot_releaseBarrier (s : State) (b : Nat) (g : GroupRef) :
    (s.releaseBarrier g.core.room b).slot g = (s.slot g).released b := by
  obtain ⟨⟨r, k⟩, i⟩ := g
  have hall : ∀ k : Fin 6, k ∈ ([0, 1, 2, 3, 4, 5] : List (Fin 6)) := by decide
  refine foldl_changes_once (g := fun t : State => t.slot ⟨⟨r, k⟩, i⟩) (u := fun x => x.released b) s (by decide) (hall k)
    (fun t => State.slot_updCore_mapVals t ⟨r, k⟩ (fun x => x.released b) rfl i) (fun t c _ hc => ?_)
  unfold State.slot
  rw [State.core_updCore_other _ _ _ _ (fun he => hc (congrArg CoreId.core (coreKey_inj he)).symm)]

theorem State.room_releaseBarrier (s : State) (r q : RoomId) (b : Nat) : (s.releaseBarrier r b).room q = s.room q :=
  foldl_keeps (g := fun t : State => t.room q) _ s (fun _ _ _ => rfl)

/-- What an arrival leaves of a Room's barrier. -/
def State.setBarrier (s : State) (r : RoomId) (bar : Nat) (b : Barrier) : State :=
  s.updRoom r (fun x => { x with barriers := Table.set x.barriers bar b })

theorem State.barriers_setBarrier (s : State) (r : RoomId) (bar : Nat) (b d : Barrier) :
    Table.get d ((s.setBarrier r bar b).room r).barriers bar = b := by
  rw [State.setBarrier, State.room_updRoom_same, Table.get_set_same]

theorem exec_rbarArrival {bar count : Nat} {b : Barrier} (hwait : (s.slot g).wait = .rbar bar count)
    (hout : (s.slot g).outstanding false 15 = [])
    (hb : Table.get { count := 0, want := 0, phase := 0 } (s.room g.core.room).barriers bar = b)
    (hwant : b.count = 0 ∨ b.want = count) :
    exec (.rbarArrival g) s = .next (if b.count + 1 = count then
        ((s.setBarrier g.core.room bar { count := 0, want := 0, phase := b.phase + 1 }).updSlot g
          (fun x => { x with wait := .none })).releaseBarrier g.core.room bar
      else (s.setBarrier g.core.room bar { count := b.count + 1, want := count, phase := b.phase }).updSlot g
          (fun x => { x with wait := .atBarrier bar })) := by
  show execRbarArrival g s = _
  unfold execRbarArrival
  dsimp only
  rw [hwait]
  dsimp only
  rw [if_neg (not_not.2 hout), hb, if_neg (by simpa [imp_iff_not_or] using hwant), apply_ite Host.Outcome.next]
  rfl

end Sys2Proof.Machine

open Sys2Proof Sys2Proof.Machine

/-- Settles O12: an `EFENCE` by what it leaves at each scope, its completion by the first fence that opens. -/
theorem fencesAndBarriers : Obligations.FencesAndBarriers := by
  refine ⟨fun s g w l h _ => ?wide, fun s g w l h hscope => ?core,
    RunsGroup.of_issueSlot (fun _ _ _ _ _ _ => rfl) (fun i sl hlegal _ => ?rbar),
    fun s g a b f hf ha hopen => ⟨_, exec_efenceComplete hf ha hopen, s.onlyGroup_updSlot g _, ?opened⟩⟩
  case wide =>
    obtain ⟨hform, hscope⟩ := Bool.and_eq_true_iff.1 h.form
    have hrun := exec_efence ⟨h.can, h.code, h.opc, hform, h.ready, h.clean⟩
    rw [decide_eq_false (of_decide_eq_true hscope)] at hrun
    exact ⟨_, hrun, s.onlyGroup_updSlot g _, (s.slot_updSlot_same g _).trans (Slot.addFence_eq _ _)⟩
  case core =>
    have hrun := exec_efence h
    rw [decide_eq_true hscope] at hrun
    exact ⟨_, hrun, (State.slot_updSlot_same _ _ _).trans (Slot.addFence_eq _ _), fun h hne => State.slot_updSlot_other hne, rfl,
      fun k r op o hr hkind hown ho hid hmask => State.find_enterPort hr hkind hown ho hid hmask⟩
  case rbar =>
    simp only [Bool.and_eq_true] at hlegal
    obtain ⟨⟨⟨⟨hform, -⟩, -⟩, -⟩, -⟩ := hlegal
    rw [Slot.issued_no_writes, Insn.units_of_okF hform]
    rfl
  case opened => rw [State.slot_updSlot_same, hf, listDrop_append_cons]

/-- Settles O13: the last arrival's release reaches each group of the Room that waits at the barrier. -/
theorem barrierArrival : Obligations.BarrierArrival := by
  intro s g bar count b hwait hout hb hwant
  have hrun := exec_rbarArrival hwait hout hb hwant
  refine ⟨fun hlast => ⟨_, hrun.trans (congrArg _ (if_pos hlast)), ?phase, ?self, fun h hroom hat => ?others⟩,
    fun hearly => hrun.trans (congrArg _ (if_neg hearly))⟩
  case phase =>
    rw [State.room_releaseBarrier]
    exact State.barriers_setBarrier _ _ _ _ _
  case self =>
    rw [State.slot_releaseBarrier, State.slot_updSlot_same, Slot.released_of_not_waiting (by simp)]
  case others =>
    have hne : h ≠ g := fun he => by rw [he, hwait] at hat; cases hat
    rw [← hroom, State.slot_releaseBarrier, State.slot_updSlot_other hne]
    exact Slot.released_wait_of_waiting hat

end

section
/-! SUPPORT. Vector instructions: what a write of the active threads leaves of each g register, and the values of the integer types (R60,
R86, R90, R93, R118, R119). -/

namespace Sys2Proof.Machine

/-! ## A g register of one thread (R60, R90) -/

theorem gKey_inj {r q t n : Nat} (ht : t < 128) (hn : n < 128) (h : gKey r t = gKey q n) : r = q ∧ t = n := by
  unfold gKey at h
  omega

/-- A write for a thread leaves the other threads and the other registers. -/
theorem Slot.greg_setG_other (sl : Slot) {wide : Bool} {rd t r n : Nat} (v : Nat) (ht : t < 128) (hn : n < 128)
    (h : t = n → r ≠ rd ∧ (wide = true → r ≠ rd + 1)) : (sl.setG wide rd t v).greg r n = sl.greg r n := by
  have hkey : ∀ q, (t = n → r ≠ q) → gKey r n ≠ gKey q t := fun q hq he => by
    obtain ⟨hrq, hnt⟩ := gKey_inj hn ht he
    exact hq hnt.symm hrq
  have hlow := hkey rd (fun he => (h he).1)
  unfold Slot.greg Slot.setG
  cases wide with
  | false => exact Table.get_set_other _ _ _ hlow
  | true => exact (Table.get_set_other _ _ _ (hkey (rd + 1) (fun he => (h he).2 rfl))).trans (Table.get_set_other _ _ _ hlow)

/-- The register, or the pair, of a thread just written holds the low bits of the value. -/
theorem Slot.gval_setG_same (sl : Slot) (wide : Bool) (rd t v : Nat) :
    (sl.setG wide rd t v).gval wide rd t = v % (if wide then 2 ^ 64 else 2 ^ 32) := by
  have hpair : gKey rd t ≠ gKey (rd + 1) t := by
    unfold gKey
    omega
  unfold Slot.gval Slot.greg Slot.setG
  cases wide with
  | false => simp
  | true =>
    simp only [if_true, Table.get_set_same, Table.get_set_other _ _ _ hpair, BitVec.toNat_ofNat]
    omega

theorem Slot.gval_setG_other (sl : Slot) (wide : Bool) {rd t n : Nat} (v : Nat) (ht : t < 128) (hn : n < 128) (h : t ≠ n) :
    (sl.setG wide rd t v).gval wide rd n = sl.gval wide rd n := by
  unfold Slot.gval
  rw [sl.greg_setG_other v ht hn (fun he => absurd he h), sl.greg_setG_other v ht hn (fun he => absurd he h)]

/-! ## The active threads (R86) -/

section
variable {sl : Slot} {wide : Bool} {rd : Nat} {m : BitVec 128} {f : Nat → Nat} {n : Nat} (hw : sl.width ≤ 128)
include hw

theorem Slot.gval_writeThreads (hn : n < sl.width) (hm : inMask m n = true) :
    (sl.writeThreads wide rd m f).gval wide rd n = f n % (if wide then 2 ^ 64 else 2 ^ 32) := by
  refine foldl_changes_once (g := fun x : Slot => x.gval wide rd n) (u := fun _ => f n % (if wide then 2 ^ 64 else 2 ^ 32)) sl
    List.nodup_range (List.mem_range.2 hn) (fun x => ?own) (fun x t ht hne => ?other)
  case own => rw [if_pos hm, Slot.gval_setG_same]
  case other =>
    have ht : t < 128 := lt_of_lt_of_le (List.mem_range.1 ht) hw
    split
    · exact x.gval_setG_other wide _ ht (lt_of_lt_of_le hn hw) hne
    · rfl

theorem Slot.greg_writeThreads_other {r : Nat} (hn : n < 128) (h : inMask m n = true → r ≠ rd ∧ (wide = true → r ≠ rd + 1)) :
    (sl.writeThreads wide rd m f).greg r n = sl.greg r n := by
  refine foldl_keeps (g := fun x : Slot => x.greg r n) _ sl (fun x t ht => ?_)
  split
  next hm => exact x.greg_setG_other _ (lt_of_lt_of_le (List.mem_range.1 ht) hw) hn (fun he => h (he ▸ hm))
  next => rfl

end

/-- A write of threads changes g registers alone. -/
theorem Slot.writeThreads_eq (sl : Slot) (wide : Bool) (rd : Nat) (m : BitVec 128) (f : Nat → Nat) :
    sl.writeThreads wide rd m f = { sl with g := (sl.writeThreads wide rd m f).g } := by
  have hrest : { sl.writeThreads wide rd m f with g := sl.g } = sl := by
    refine foldl_keeps (g := fun x : Slot => { x with g := sl.g }) _ sl (fun x t _ => ?_)
    split <;> rfl
  exact congrArg (fun x : Slot => { x with g := (sl.writeThreads wide rd m f).g }) hrest

/-- A write of threads of a group that has only gone on and lost marks. -/
theorem Slot.onlyVector_writeThreads {sl nx : Slot} {wide : Bool} {rd : Nat} {m : BitVec 128} {f : Nat → Nat} (hw : nx.width ≤ 128)
    (hnx : nx = { sl with pc := nx.pc, marks := nx.marks }) : sl.OnlyVector (nx.writeThreads wide rd m f) wide rd m := by
  have hreg : ∀ r n, nx.greg r n = sl.greg r n := fun r n => by rw [hnx]; rfl
  refine ⟨fun r n hn hr hpair => ?others, fun r n hn hm => ?threads, ?rest⟩
  case others => rw [Slot.greg_writeThreads_other hw hn (fun _ => ⟨hr, hpair⟩), hreg]
  case threads => rw [Slot.greg_writeThreads_other hw hn (fun hin => absurd (hm.symm.trans hin) Bool.false_ne_true), hreg]
  case rest =>
    rw [Slot.writeThreads_eq]
    exact congrArg (fun x : Slot => { x with g := sl.g, pc := sl.pc, marks := sl.marks }) hnx

/-! ## The form of statement -/

/-- A row whose effect writes one g register, or a pair, for the active threads. -/
theorem RunsVector.of_issueSlot {c : GroupRef → W64 → W64 → Instr} {legal : Insn → Slot → Bool} {use : Insn → Slot → Use}
    {eff : Insn → Slot → Slot → Except GroupFault Slot} {wide : Insn → Bool} {value : Insn → Slot → Nat → Nat}
    (hc : ∀ g w l s, exec (c g w l) s = s.issueSlot g w l legal use eff)
    (hv : ∀ i sl nx, eff i sl nx = .ok (nx.writeThreads (wide i) i.rd (sl.active i) (value i sl))) :
    RunsVector c legal use wide value := by
  intro s g w l hwidth h
  obtain ⟨t, ht, hgroup, hslot⟩ := State.issueSlot_leaves (eff := eff) h
  rw [hv, Slot.issued_eq] at hslot
  rw [hc]
  refine ⟨t, ht, hgroup, ?_⟩
  rw [hslot]
  exact ⟨fun n hn hm => Slot.gval_writeThreads hwidth hn hm, congrArg Slot.pc (Slot.writeThreads_eq _ _ _ _ _),
    Slot.onlyVector_writeThreads hwidth rfl⟩

/-- A row of one operation on the operands, in the bits of its type. -/
theorem runsVector_op (c : GroupRef → W64 → W64 → Instr) (useB useC : Bool) (tys : Nat → Bool)
    (f : Nat → Nat → Nat → Nat → Nat) (hc : ∀ g w l s, exec (c g w l) s = vecOp useB useC tys f g w l s := by intros; rfl) :
    RunsVector c
      (fun i sl => tys i.ty && i.fn = 0 && vecSrcLegal i sl useB useC (tyWide i.ty) && dstLegal sl (tyWide i.ty) i.rd)
      (fun i sl => vecUse useB useC (tyWide i.ty) (tyWide i.ty) i sl) (fun i => tyWide i.ty)
      (fun i sl t => f i.ty (sl.opA i (tyWide i.ty) t) (sl.opB i (tyWide i.ty) t) (sl.opC i (tyWide i.ty) t) % 2 ^ tyWidth i.ty) :=
  RunsVector.of_issueSlot hc (fun _ _ _ => rfl)

/-! ## Integer types (R90, R119) -/

/-- The low bits of an integer are those of any number congruent to it. -/
theorem wrapInt_of_modEq {w n : Nat} {v : Int} (h : v ≡ n [ZMOD (2 ^ w : Nat)]) : wrapInt w v = n % 2 ^ w := by
  rw [wrapInt, h, ← Int.natCast_mod, Int.toNat_natCast]

/-- Signed or not, an integer type's value is congruent to the bits that hold it. -/
theorem tyInt_modEq (ty v : Nat) : tyInt ty v ≡ v [ZMOD (2 ^ tyWidth ty : Nat)] := by
  have hbits : ((v % 2 ^ tyWidth ty : Nat) : Int) ≡ v [ZMOD (2 ^ tyWidth ty : Nat)] := by
    rw [Int.natCast_mod]
    exact Int.mod_modEq _ _
  unfold tyInt
  dsimp only
  split
  · refine Int.ModEq.trans ?_ hbits
    simp [Int.ModEq]
  · exact hbits

theorem vArith_of_integer {ty a b c : Nat} (hty : tyFmt ty = none) (op : Nat) : vArith op ty a b c =
    wrapInt (tyWidth ty) (if op = 0 then tyInt ty a + tyInt ty b else if op = 1 then tyInt ty a - tyInt ty b
      else if op = 2 then tyInt ty a * tyInt ty b else tyInt ty a * tyInt ty b + tyInt ty c) := by
  unfold vArith
  rw [hty]
  simp only [apply_ite (wrapInt (tyWidth ty))]

end Sys2Proof.Machine

open Sys2Proof Sys2Proof.Machine

/-- Settles O15: each row is `vecOp` of its operation. -/
theorem vectorArithmetic : Obligations.VectorArithmetic :=
  ⟨runsVector_op .vadd true false (· ≤ 6) (vArith 0), runsVector_op .vsub true false (· ≤ 6) (vArith 1),
    runsVector_op .vmul true false (· ≤ 6) (vArith 2), runsVector_op .vfma true true (· ≤ 6) (vArith 3),
    runsVector_op .vmin true false (· ≤ 6) (fun ty a b _ => vMinMax false ty a b),
    runsVector_op .vmax true false (· ≤ 6) (fun ty a b _ => vMinMax true ty a b),
    runsVector_op .vand true false tyInteger (fun _ a b _ => a &&& b), runsVector_op .vor true false tyInteger (fun _ a b _ => a ||| b),
    runsVector_op .vxor true false tyInteger (fun _ a b _ => a ^^^ b),
    runsVector_op .vshl true false tyInteger (fun ty a b _ => a * 2 ^ shiftCount ty b),
    runsVector_op .vshr true false tyInteger (fun ty a b _ => wrapInt (tyWidth ty) (tyInt ty a / (2 ^ shiftCount ty b : Nat))),
    runsVector_op .vmov false false (· ≤ 6) (fun _ a _ _ => a)⟩

/-- Settles O16: an integer type's value is congruent to its bits, and so are sums and products of them. -/
theorem vectorIntegerValues : Obligations.VectorIntegerValues := by
  intro ty a b c hty _ hb _
  have hint : tyFmt ty = none := by rcases hty with rfl | rfl | rfl | rfl <;> rfl
  have ha := tyInt_modEq ty a
  have hbm := tyInt_modEq ty b
  have hcm := tyInt_modEq ty c
  refine ⟨(vArith_of_integer hint 0).trans (wrapInt_of_modEq ?add), (vArith_of_integer hint 1).trans (wrapInt_of_modEq ?sub),
    (vArith_of_integer hint 2).trans (wrapInt_of_modEq ?mul), (vArith_of_integer hint 3).trans (wrapInt_of_modEq ?fma), ?width⟩
  case add =>
    push_cast
    exact ha.add hbm
  case sub =>
    rw [Nat.cast_add, Nat.cast_sub hb.le, sub_eq_add_neg (tyInt ty a)]
    exact ha.add (hbm.neg.trans (Int.modEq_iff_dvd.2 ⟨1, by ring⟩))
  case mul =>
    push_cast
    exact ha.mul hbm
  case fma =>
    push_cast
    exact (ha.mul hbm).add hcm
  case width => rcases hty with rfl | rfl | rfl | rfl <;> rfl

/-- Settles O17: each row writes one value for each active thread. -/
theorem vectorMoves : Obligations.VectorMoves :=
  ⟨RunsVector.of_issueSlot (fun _ _ _ _ => rfl) (fun _ _ _ => rfl), RunsVector.of_issueSlot (fun _ _ _ _ => rfl) (fun _ _ _ => rfl),
    RunsVector.of_issueSlot (fun _ _ _ _ => rfl) (fun _ _ _ => rfl), RunsVector.of_issueSlot (fun _ _ _ _ => rfl) (fun _ _ _ => rfl)⟩

end

section
/-! SUPPORT. Memory instructions: the requests that an operation puts in flight, and what it leaves of its group (R99 to R107, R141, R167,
R171). -/

namespace Sys2Proof.Machine

variable {s : State} {g : GroupRef} {sl : Slot} {k : ReqKind} {op size : Nat}

/-! ## Requests put in flight -/

theorem State.nextReq_addReqs (s : State) (rs : List Req) : (s.addReqs rs).nextReq = s.nextReq + rs.length := by
  induction rs generalizing s with
  | nil => rfl
  | cons r rs ih =>
    refine (ih _).trans ?_
    show s.nextReq + 1 + rs.length = s.nextReq + (rs.length + 1)
    omega

theorem State.ext_addReqs (s : State) (rs : List Req) : (s.addReqs rs).ext = s.ext :=
  foldl_keeps (g := State.ext) rs s (fun _ _ _ => rfl)

/-- The requests already in flight stay as they are. -/
theorem State.find_addReqs_of_lt {n : Nat} (rs : List Req) (h : n < s.nextReq) :
    Table.find (s.addReqs rs).reqs n = Table.find s.reqs n := by
  induction rs generalizing s with
  | nil => rfl
  | cons r rs ih => exact (ih (Nat.lt_succ_of_lt h)).trans (Table.find_set_other _ _ (Nat.ne_of_lt h))

/-- The requests of a list take the next numbers in order. -/
theorem State.find_addReqs {rs : List Req} {n : Nat} {r : Req} (h : rs[n]? = some r) :
    Table.find (s.addReqs rs).reqs (s.nextReq + n) = some { r with seq := s.nextReq + n } := by
  induction rs generalizing s n with
  | nil => simp at h
  | cons q rs ih =>
    cases n with
    | zero =>
      obtain rfl : q = r := by simpa using h
      exact (State.find_addReqs_of_lt rs (Nat.lt_succ_self _)).trans (Table.find_set_same _ _ _)
    | succ n =>
      have hnext : s.nextReq + (n + 1) = s.nextReq + 1 + n := by omega
      rw [hnext]
      exact ih (List.getElem?_cons_succ ▸ h)

/-! ## The number of an operation -/

/-- The state once free choices are drawn (log 2): all but their counter is as it was. -/
def State.drawn (s : State) (ctr : Nat) : State := { s with freeCtr := ctr }

theorem State.slot_drawn (s : State) (ctr : Nat) (g : GroupRef) : (s.drawn ctr).slot g = s.slot g := rfl

theorem State.slot_takeOp (s : State) (g : GroupRef) : (s.takeOp g.core).2.slot g = s.slot g := by
  unfold State.slot State.takeOp
  rw [State.core_updCore_same]

/-- Numbering an operation changes nothing that the read-only cache answers by. -/
theorem State.serveRoc_takeOp (s : State) (g : GroupRef) (r : Req) : (s.takeOp g.core).2.serveRoc g r = s.serveRoc g r := by
  unfold State.serveRoc State.takeOp
  rw [State.core_updCore_same]
  rfl

theorem State.serveRoc_kind (s : State) (g : GroupRef) (r : Req) : (s.serveRoc g r).kind = r.kind := by
  unfold State.serveRoc
  dsimp only
  split
  · split <;> rfl
  · rfl

/-! ## The request of one access (R99, R167) -/

/-- The request of one access of a group's operation, in a lane of its Hall. -/
def accessReq (g : GroupRef) (sl : Slot) (op : Nat) (k : ReqKind) (size : Nat) (e : Nat × Nat × Target) (lane : Nat) : Req :=
  { Req.blank (.group g op) k sl.suite sl.gen with
    room := e.2.2.room, addr := e.2.2.addr, va := BitVec.ofNat 64 e.2.1, size := size, attr := e.2.2.attr, index := e.1, lane := lane }

/-- Making a request draws at most a free choice. -/
theorem State.makeReq_eq (s : State) (g : GroupRef) (sl : Slot) (op : Nat) (k : ReqKind) (e : Nat × Nat × Target) (size : Nat) :
    ∃ lane ctr, s.makeReq g sl op k e size = (accessReq g sl op k size e lane, s.drawn ctr) := by
  obtain ⟨ix, va, room, addr, attr, region⟩ := e
  cases room with
  | none => exact ⟨0, s.freeCtr, rfl⟩
  | some r => exact ⟨_, _, rfl⟩

theorem State.makeReqs_eq (s : State) (g : GroupRef) (sl : Slot) (op : Nat) (k : ReqKind) (size : Nat) (fill : Req → Req)
    (ts : List (Nat × Nat × Target)) :
    ∃ rs ctr, s.makeReqs g sl op k size fill ts = (rs, s.drawn ctr)
      ∧ List.Forall₂ (fun e r => ∃ lane, r = fill (accessReq g sl op k size e lane)) ts rs := by
  induction ts generalizing s with
  | nil => exact ⟨[], s.freeCtr, rfl, .nil⟩
  | cons e ts ih =>
    obtain ⟨lane, c1, hone⟩ := s.makeReq_eq g sl op k e size
    obtain ⟨rs, c2, hrest, hall⟩ := ih (s.drawn c1)
    refine ⟨_ :: rs, c2, ?_, .cons ⟨lane, rfl⟩ hall⟩
    unfold State.makeReqs
    rw [hone]
    dsimp only
    rw [hrest]
    rfl

theorem State.makeReqs_single {fill : Req → Req} {e : Nat × Nat × Target} {r : Req} {t : State}
    (h : s.makeReq g sl op k e size = (r, t)) : s.makeReqs g sl op k size fill [e] = ([fill r], t) := by
  unfold State.makeReqs
  rw [h]
  rfl

theorem forall₂_getElem? {α β : Type} {R : α → β → Prop} {as : List α} {bs : List β} (h : List.Forall₂ R as bs) {n : Nat}
    {a : α} (ha : as[n]? = some a) : ∃ b, bs[n]? = some b ∧ R a b := by
  induction h generalizing n with
  | nil => simp at ha
  | cons hab _ ih =>
    cases n with
    | zero =>
      obtain rfl : _ = a := by simpa using ha
      exact ⟨_, rfl, hab⟩
    | succ n => exact ih (by simpa using ha)

theorem forall₂_right {α β : Type} {R : α → β → Prop} {P : β → Prop} {as : List α} {bs : List β} (h : List.Forall₂ R as bs)
    (hR : ∀ a b, R a b → P b) : ∀ b ∈ bs, P b := by
  intro b hb
  obtain ⟨n, hn⟩ := List.mem_iff_getElem?.1 hb
  obtain ⟨a, -, hab⟩ := forall₂_getElem? h.flip hn
  exact hR a b hab

/-! ## The operation under way (R102, R103) -/

/-- An operation with its requests sent. -/
def MemOp.sent (o : MemOp) (rs : List Req) : MemOp :=
  { o with open_ := if o.load && rs.all (fun r => r.kind = .read) then 0 else rs.length, replay := rs }

/-- The data of a load ends it; its requests are not counted. -/
theorem MemOp.sent_open_of_reads {o : MemOp} {rs : List Req} (hload : o.load = true) (h : ∀ r ∈ rs, r.kind = .read) :
    (o.sent rs).open_ = 0 :=
  if_pos (by simpa [hload] using h)

theorem MemOp.sent_open_of_not_load {o : MemOp} {rs : List Req} (hload : o.load = false) : (o.sent rs).open_ = rs.length :=
  if_neg (by simp [hload])

theorem MemOp.sent_open_of_not_reads {o : MemOp} {rs : List Req} (hne : rs ≠ []) (h : ∀ r ∈ rs, r.kind ≠ .read) :
    (o.sent rs).open_ = rs.length := by
  obtain ⟨r, hr⟩ := List.exists_mem_of_ne_nil rs hne
  refine if_neg (fun hcount => h r hr ?_)
  obtain ⟨-, hreads⟩ := Bool.and_eq_true_iff.1 hcount
  exact of_decide_eq_true (List.all_eq_true.1 hreads r hr)

/-- The state and the group after the launch of an operation that was numbered in `s`. -/
theorem State.launched_launchOp (s : State) (g : GroupRef) (nx : Slot) (ctr : Nat) (o : MemOp) (rs : List Req)
    (hid : o.id = (s.core g.core).nextOp) :
    ∃ x t, ((s.takeOp g.core).2.drawn ctr).launchOp nx o rs = (.ok x, t)
      ∧ s.Launched (t.updSlot g (fun _ => x)) g nx (o.sent rs) rs := by
  refine ⟨_, _, rfl, ?_⟩
  exact {
    slot := (State.slot_updSlot_same _ _ _).trans (if_congr (by simp [MemOp.sent]) rfl rfl)
    sent := fun n r h => State.find_addReqs (s := (s.takeOp g.core).2.drawn ctr) h
    next := State.nextReq_addReqs _ rs
    id := hid
    replay := rfl
    memory := State.ext_addReqs _ rs }

/-- An instruction whose effect ends in a launch puts its operation under way. -/
theorem State.launched_issue {s s1 : State} {g : GroupRef} {w l : W64} {legal : Insn → Slot → Bool} {use : Insn → Slot → Use}
    {eff : Insn → Slot → Slot → State → Except GroupFault Slot × State} {nx : Slot} {ctr : Nat} {o : MemOp} {rs : List Req}
    (h : s.Issues g w l (legal (insn w l) (s.slot g)) (use (insn w l) (s.slot g)))
    (he : eff (insn w l) (s.slot g) ((s.slot g).issued (use (insn w l) (s.slot g)) (insn w l)) s
      = ((s1.takeOp g.core).2.drawn ctr).launchOp nx o rs)
    (hid : o.id = (s1.takeOp g.core).1) : s1.Launched (s.issue g w l legal use eff) g nx (o.sent rs) rs := by
  obtain ⟨x, t, hlaunch, hlaunched⟩ := s1.launched_launchOp g nx ctr o rs hid
  rw [State.issue_runs h (he.trans hlaunch)]
  exact hlaunched

/-- The effect of an instruction that sends one request for each access, where the accesses pass their checks. -/
def sendEffect (g : GroupRef) (kind : AccKind) (k : ReqKind) (size : Insn → Nat) (accesses : Insn → Slot → List (Nat × Nat))
    (fill : State → GroupRef → Insn → Slot → Req → Req) (op : Insn → MemOp) (i : Insn) (sl nx : Slot) (st : State) :
    Except GroupFault Slot × State :=
  let r := st.checkAll g sl (i.sp = 1) kind (size i) (accesses i sl)
  match r.1 with
  | .error f => (.error f, r.2)
  | .ok ts =>
    let q := r.2.takeOp g.core
    let m := q.2.makeReqs g sl q.1 k (size i) (fill q.2 g i sl) ts
    m.2.launchOp nx { op i with id := q.1 } m.1

/-- A row with that effect. -/
theorem RunsMemory.of_issue {c : GroupRef → W64 → W64 → Instr} {legal : Insn → Slot → Bool} {use : Insn → Slot → Use}
    {good : Insn → Slot → Bool} {kind : AccKind} {k : ReqKind} {size : Insn → Nat} {accesses : Insn → Slot → List (Nat × Nat)}
    {fill : State → GroupRef → Insn → Slot → Req → Req} {op : Insn → MemOp}
    {eff : GroupRef → Insn → Slot → Slot → State → Except GroupFault Slot × State}
    (hc : ∀ g w l s, exec (c g w l) s = .next (s.issue g w l legal use (eff g)))
    (heff : ∀ g i sl nx st, good i sl = true → eff g i sl nx st = sendEffect g kind k size accesses fill op i sl nx st)
    (hfill : ∀ s g i sl r, fill (s.takeOp g.core).2 g i sl r = fill s g i sl r := by intros; rfl)
    (hkind : ∀ s g i sl r, (fill s g i sl r).kind = r.kind := by intros; rfl)
    (hload : ∀ i, (op i).load = decide (k = .read) := by intros; rfl)
    (hop : ∀ i, { op i with id := 0, open_ := 0, replay := [] } = op i := by intros; rfl) :
    RunsMemory c legal use good kind k size accesses fill op := by
  intro s g w l ts s1 i sl h hgood hcheck
  obtain ⟨rs, ctr, hmake, hall⟩ := (s1.takeOp g.core).2.makeReqs_eq g sl (s1.takeOp g.core).1 k (size i)
    (fill (s1.takeOp g.core).2 g i sl) ts
  have hrun : eff g i sl (sl.issued (use i sl) i) s = ((s1.takeOp g.core).2.drawn ctr).launchOp (sl.issued (use i sl) i)
      { op i with id := (s1.takeOp g.core).1 } rs := by
    rw [heff g i sl _ s hgood]
    unfold sendEffect
    rw [hcheck]
    dsimp only
    rw [hmake]
  refine ⟨_, rs, _, hc g w l s, State.launched_issue h hrun rfl, hall.length_eq.symm, fun n e he => ?req, hop i, ?opened⟩
  case req =>
    obtain ⟨r, hr, lane, rfl⟩ := forall₂_getElem? hall he
    exact ⟨lane, hr.trans (congrArg some (hfill _ _ _ _ _))⟩
  case opened =>
    by_cases hread : k = .read
    · rw [if_pos hread]
      refine MemOp.sent_open_of_reads ((hload i).trans (decide_eq_true hread)) (forall₂_right hall ?_)
      rintro e r ⟨lane, rfl⟩
      exact (hkind _ _ _ _ _).trans hread
    · rw [if_neg hread, hall.length_eq]
      exact MemOp.sent_open_of_not_load ((hload i).trans (decide_eq_false hread))

/-- A scalar load; an acquire load is never answered from the read-only cache (R106). -/
theorem runsMemory_scalarLoad {c : GroupRef → W64 → W64 → Instr} (acquire roInval : Bool)
    (hc : ∀ g w l s, exec (c g w l) s = scalarLoad acquire roInval g w l s := by intros; rfl) :
    RunsMemory c (scalarMemLegal false true)
      (fun i _ => { engine := .scalar, reads := [.sreg i.base], writes := [.sreg i.rd], part := false }) (fun _ _ => true) .load .read
      (fun i => 2 ^ i.sz) (fun i sl => [(0, sl.scalarAddr i)]) (fun s g _ _ r => if acquire then r else s.serveRoc g r)
      (fun i => { MemOp.blank 0 .scalar with
        load := true, acquire := acquire, roInval := roInval, dest := .sreg i.rd, size := 2 ^ i.sz, signed := i.sx }) := by
  refine RunsMemory.of_issue hc (fun _ _ _ _ _ _ => rfl) (fun s g _ _ r => ?_) (fun s g _ _ r => ?_)
  · rw [State.serveRoc_takeOp]
  · split
    · rfl
    · exact s.serveRoc_kind g r

end Sys2Proof.Machine

open Sys2Proof Sys2Proof.Machine

/-- Settles O20: each row sends its accesses once they have passed their checks; the read-only cache answers what it holds. -/
theorem loads : Obligations.Loads :=
  ⟨runsMemory_scalarLoad false false, runsMemory_scalarLoad true false, runsMemory_scalarLoad true true,
    RunsMemory.of_issue (fun _ _ _ _ => rfl) (fun _ _ _ _ _ _ => rfl) (fun s g _ _ r => s.serveRoc_takeOp g r)
      (fun s g _ _ r => s.serveRoc_kind g r),
    RunsMemory.of_issue (fun _ _ _ _ => rfl) (fun _ _ _ _ _ hstride => if_neg (by simp [hstride]))
      (fun s g _ _ r => s.serveRoc_takeOp g r) (fun s g _ _ r => s.serveRoc_kind g r)⟩

end

section
/-! SUPPORT. REL: its store waits for the group's earlier operations, then goes out as one request (R105). -/

namespace Sys2Proof.Machine

variable {s : State} {g : GroupRef}

/-- What a REL whose store may be made waits for, with what it will write. -/
def Slot.relWait (sl : Slot) (g : GroupRef) (i : Insn) (loc : Option Located) : Wait :=
  let t := targetOf g.core.room (sl.scalarAddr i) loc
  .rel t.room.isSome t.addr (BitVec.ofNat 64 (sl.scalarAddr i)) (leBytes (2 ^ i.sz) (sl.sreg i.rd).toNat) t.attr i.token

theorem exec_rel {w l : W64} {loc : Option Located} {s1 : State}
    (h : s.Issues g w l (scalarMemLegal true false (insn w l) (s.slot g))
      { engine := .scalar, reads := [.sreg (insn w l).base] ++ [.sreg (insn w l).rd], writes := [], part := false })
    (hcheck : s.checkAccess (s.slot g).suite ((insn w l).sp = 1) .store ((s.slot g).scalarAddr (insn w l)) (2 ^ (insn w l).sz)
      = (.ok loc, s1)) :
    exec (.rel g w l) s = .next (s1.updSlot g (fun _ =>
      { s.slot g with pc := (s.slot g).pc + (insn w l).units, wait := (s.slot g).relWait g (insn w l) loc })) := by
  refine congrArg Host.Outcome.next (State.issue_runs (legal := scalarMemLegal true false)
    (use := fun i _ => { engine := .scalar, reads := pS i.base ++ pS i.rd, writes := [], part := false }) h ?_)
  dsimp only
  rw [hcheck, Slot.clearMarks_none]
  rfl

/-- Where the store of a REL goes. -/
def relTarget (g : GroupRef) (room : Bool) (addr : Nat) (attr : Attr) : Target :=
  { room := if room then some g.core.room else none, addr := addr, attr := attr, region := none }

/-- The operation of a REL's store. -/
def relOp (op : Nat) (data : List Byte) (token : Option (Fin 8)) : MemOp :=
  { MemOp.blank op .scalar with size := data.length, token := token, open_ := 1 }

/-- A group whose REL has sent its store. -/
def Slot.relSent (sl : Slot) (o : MemOp) : Slot := { sl with wait := .none, ops := sl.ops ++ [o] }

theorem exec_relStoreIssue {room : Bool} {addr : Nat} {va : W64} {data : List Byte} {attr : Attr} {token : Option (Fin 8)}
    (hwait : (s.slot g).wait = .rel room addr va data attr token) (hout : (s.slot g).outstanding false 15 = []) :
    let op := (s.takeOp g.core).1
    ∃ lane ctr, exec (.relStoreIssue g) s
      = .next ((((s.takeOp g.core).2.drawn ctr).updSlot g (fun x => x.relSent (relOp op data token))).addReqs
          [{ accessReq g (s.slot g) op .write data.length (0, va.toNat, relTarget g room addr attr) lane with data := data }]) := by
  intro op
  obtain ⟨lane, ctr, hmake⟩ := (s.takeOp g.core).2.makeReq_eq g (s.slot g) op .write
    (0, va.toNat, relTarget g room addr attr) data.length
  have hsend := State.makeReqs_single (fill := fun x => { x with data := data }) hmake
  refine ⟨lane, ctr, ?_⟩
  show execRelStoreIssue g s = _
  unfold execRelStoreIssue
  dsimp only
  rw [hwait]
  dsimp only
  rw [if_neg (not_not.2 hout)]
  exact congrArg (fun m : List Req × State => Host.Outcome.next ((m.2.updSlot g
    (fun x => x.relSent { relOp op data token with open_ := m.1.length })).addReqs m.1)) hsend

end Sys2Proof.Machine

open Sys2Proof Sys2Proof.Machine

/-- Settles O21: each store sends its accesses with their data; REL keeps its store until nothing is outstanding, then sends it. -/
theorem storesAndRelease : Obligations.StoresAndRelease := by
  refine ⟨⟨RunsMemory.of_issue (fun _ _ _ _ => rfl) (fun _ _ _ _ _ _ => rfl),
      RunsMemory.of_issue (fun _ _ _ _ => rfl) (fun _ _ _ _ _ _ => rfl),
      RunsMemory.of_issue (fun _ _ _ _ => rfl) (fun _ _ _ _ _ hstride => if_neg (by simp [hstride]))⟩,
    fun s g w l loc s1 h hcheck => exec_rel h hcheck, fun s g room addr va data attr token hwait hout => ?issue⟩
  obtain ⟨lane, ctr, hrun⟩ := exec_relStoreIssue hwait hout
  refine ⟨_, relOp _ data token, _, hrun, ?slot, State.find_addReqs (n := 0) rfl, rfl, rfl, rfl, rfl, rfl, rfl, rfl, rfl, rfl⟩
  rw [State.slot_of_cores (State.cores_addReqs _ _), State.slot_updSlot_same, State.slot_drawn, State.slot_takeOp]
  rfl

end

section
/-! SUPPORT. Reductions of a group: the words of a group atomic, the contributions of VREDADD, and the rows of MXRED (R70, R103, R104,
R141, R252). -/

namespace Sys2Proof.Machine

variable {s s1 : State} {g : GroupRef} {w l : W64} {sl : Slot} {i : Insn} {op : Nat}

/-! ## Group atomics (R70, R103) -/

/-- The request of one word that a group's threads name, with their operands. -/
def wordReq (g : GroupRef) (sl : Slot) (op : Nat) (i : Insn) (x : (Nat × Nat × Target) × List Contribution) (lane : Nat) : Req :=
  { accessReq g sl op .atomic (2 ^ i.sz) x.1 lane with atomFn := BitVec.ofNat 8 i.fn, contrib := x.2 }

/-- The turn of one word in the requests of a group atomic. -/
def sendWord (g : GroupRef) (sl : Slot) (op : Nat) (i : Insn) (acc : List Req × State) (x : (Nat × Nat × Target) × List Contribution) :
    List Req × State :=
  let q := acc.2.makeReq g sl op .atomic x.1 (2 ^ i.sz)
  (acc.1 ++ [{ q.1 with atomFn := BitVec.ofNat 8 i.fn, contrib := x.2 }], q.2)

theorem foldl_sendWord (s : State) (g : GroupRef) (sl : Slot) (op : Nat) (i : Insn)
    (ws : List ((Nat × Nat × Target) × List Contribution)) (sent : List Req) :
    ∃ rs ctr, ws.foldl (sendWord g sl op i) (sent, s) = (sent ++ rs, s.drawn ctr)
      ∧ List.Forall₂ (fun x r => ∃ lane, r = wordReq g sl op i x lane) ws rs := by
  induction ws generalizing s sent with
  | nil => exact ⟨[], s.freeCtr, by rw [List.append_nil]; rfl, .nil⟩
  | cons x ws ih =>
    obtain ⟨lane, c1, hone⟩ := s.makeReq_eq g sl op .atomic x.1 (2 ^ i.sz)
    obtain ⟨rs, c2, hrest, hall⟩ := ih (s.drawn c1) (sent ++ [wordReq g sl op i x lane])
    refine ⟨_ :: rs, c2, ?_, .cons ⟨lane, rfl⟩ hall⟩
    have hturn : sendWord g sl op i (sent, s) x = (sent ++ [wordReq g sl op i x lane], s.drawn c1) := by
      unfold sendWord
      rw [hone]
      rfl
    rw [List.foldl_cons, hturn, hrest, List.append_assoc]
    rfl

/-- A group whose instruction has had a side effect, where `p` holds (R78). -/
def Slot.sideDoneIf (sl : Slot) (p : Prop) [Decidable p] : Slot := if p then { sl with sideDone := true } else sl

theorem Slot.sideDoneIf_eq (sl : Slot) (p : Prop) [Decidable p] :
    sl.sideDoneIf p = { sl with sideDone := sl.sideDone || decide p } := by
  unfold Slot.sideDoneIf
  by_cases h : p <;> simp [h]

theorem Slot.issued_sideDone (sl : Slot) (u : Use) (i : Insn) : (sl.issued u i).sideDone = sl.sideDone := by
  rw [Slot.issued_eq]

/-- The places that a group atomic reads and writes: a compare-and-swap reads a second register for its new value. -/
def vatomUse (i : Insn) (sl : Slot) : Use :=
  let wide := decide (i.sz = 3)
  { engine := .vector,
    reads := indexPlaces i ++ pG wide i.rd ++ (if i.fn % 8 = 7 then pG wide (i.rd + (if wide then 2 else 1)) else []),
    writes := pG wide i.rd, part := sl.active i != sl.full }

/-- The operation of a group atomic. -/
def vatomOp (i : Insn) (op : Nat) : MemOp :=
  { MemOp.blank op .vector with
    load := true, dest := if i.sz = 3 then .pair i.rd else .greg i.rd, size := 2 ^ i.sz, token := i.token }

theorem exec_vatom {ts : List (Nat × Nat × Target)}
    (h : s.Issues g w l (vatomLegal (insn w l) (s.slot g)) (vatomUse (insn w l) (s.slot g)))
    (hcheck : s.checkAll g (s.slot g) ((insn w l).sp = 1) .atomic (2 ^ (insn w l).sz)
      ((s.slot g).threadAccesses (insn w l) (2 ^ (insn w l).sz) true) = (.ok ts, s1)) :
    ∃ t rs, exec (.vatom g w l) s = .next t
      ∧ s1.Launched t g { (s.slot g).clearMarks (vatomUse (insn w l) (s.slot g)) with
          pc := (s.slot g).pc + (insn w l).units, sideDone := (s.slot g).sideDone || (insn w l).sp = 0 }
          ((vatomOp (insn w l) (s1.takeOp g.core).1).sent rs) rs
      ∧ List.Forall₂ (fun x r => ∃ lane, r = wordReq g (s.slot g) (s1.takeOp g.core).1 (insn w l) x lane)
          (groupWords (s.slot g) (insn w l) ts) rs := by
  obtain ⟨rs, ctr, hsend, hall⟩ := foldl_sendWord (s1.takeOp g.core).2 g (s.slot g) (s1.takeOp g.core).1 (insn w l)
    (groupWords (s.slot g) (insn w l) ts) []
  have hnx : { (s.slot g).clearMarks (vatomUse (insn w l) (s.slot g)) with
        pc := (s.slot g).pc + (insn w l).units, sideDone := (s.slot g).sideDone || (insn w l).sp = 0 }
      = ((s.slot g).issued (vatomUse (insn w l) (s.slot g)) (insn w l)).sideDoneIf ((insn w l).sp = 0) := by
    rw [Slot.sideDoneIf_eq, Slot.issued_sideDone]
    rfl
  refine ⟨_, rs, rfl, ?_, hall⟩
  rw [hnx]
  refine State.launched_issue (ctr := ctr) h ?_ rfl
  dsimp only
  rw [hcheck]
  exact congrArg (fun m : List Req × State => m.2.launchOp _ _ m.1) hsend

/-! ## VREDADD (R252) -/

theorem exec_vredadd {ts : List (Nat × Nat × Target × Nat)}
    (h : s.Issues g w l (vredLegal (insn w l) (s.slot g))
      { engine := .vector, reads := indexPlaces (insn w l) ++ pG false (insn w l).rd, writes := [], part := false })
    (hcheck : s.checkRed g (s.slot g) ((insn w l).sp = 1) ((s.slot g).threadAccesses (insn w l) 16 false) = (.ok ts, s1)) :
    let op := (s1.takeOp g.core).1
    let rs := ts.map (fun e => redReq g (s.slot g) op e (some (fp32.value ((s.slot g).greg (insn w l).rd e.1).toNat)))
    ∃ t, exec (.vredadd g w l) s = .next t
      ∧ s1.Launched t g { s.slot g with pc := (s.slot g).pc + (insn w l).units, sideDone := true }
          (MemOp.sent { MemOp.blank op .vector with size := 16, token := (insn w l).token } rs) rs := by
  intro op rs
  refine ⟨_, rfl, State.launched_issue (legal := vredLegal)
    (use := fun i _ => { engine := .vector, reads := indexPlaces i ++ pG false i.rd, writes := [], part := false })
    (ctr := (s1.takeOp g.core).2.freeCtr) h ?_ rfl⟩
  dsimp only
  rw [hcheck, Slot.issued_no_writes]
  rfl

/-! ## MXRED (R141) -/

/-- The elements of one row of an accumulator, by their number. -/
def numberedRow (r : Nat) (row : List (Nat × Target × Nat)) : List (Nat × Nat × Target × Nat) :=
  (List.range row.length).zipWith (fun j e => (64 * r + j, e)) row

/-- The turn of one row in the checks of MXRED. -/
def checkRow (sl : Slot) (i : Insn) (acc : Except GroupFault (List (Nat × Nat × Target × Nat)) × State) (r : Nat) :
    Except GroupFault (List (Nat × Nat × Target × Nat)) × State :=
  match acc.1 with
  | .error f => (.error f, acc.2)
  | .ok es =>
    let q := acc.2.checkRedRow sl (i.sp = 1) (sl.rowAddr i r)
    match q.1 with
    | .error f => (.error f, q.2)
    | .ok row => (.ok (es ++ numberedRow r row), q.2)

/-- Rows that all pass their checks give their elements in order. -/
theorem foldl_checkRow {rows : List (List (Nat × Target × Nat))} {st : Nat → State}
    (hrow : ∀ n row, rows[n]? = some row → (st n).checkRedRow sl (i.sp = 1) (sl.rowAddr i n) = (.ok row, st (n + 1))) {n : Nat}
    (hn : n ≤ rows.length) :
    (List.range n).foldl (checkRow sl i) (.ok [], st 0)
      = (.ok (((List.range n).zip (rows.take n)).flatMap (fun p => numberedRow p.1 p.2)), st n) := by
  induction n with
  | zero => rfl
  | succ n ih =>
    have hget : rows[n]? = some rows[n] := List.getElem?_eq_getElem hn
    have hlen : (List.range n).length = (rows.take n).length := by
      rw [List.length_range, List.length_take, min_eq_left (Nat.le_of_succ_le hn)]
    rw [List.range_succ, List.foldl_append, ih (Nat.le_of_succ_le hn), List.take_add_one, hget, Option.toList_some, List.zip_append hlen,
      List.flatMap_append, List.foldl_cons, List.foldl_nil]
    unfold checkRow
    dsimp only
    rw [hrow n _ hget]
    simp

/-- What MXRED makes of its rows once they are checked. -/
def sendRows (g : GroupRef) (sl nx : Slot) (i : Insn) (m : Except GroupFault (List (Nat × Nat × Target × Nat)) × State) :
    Except GroupFault Slot × State :=
  match m.1 with
  | .error f => (.error f, m.2)
  | .ok es =>
    let q := m.2.takeOp g.core
    q.2.launchOp { nx with sideDone := true } { MemOp.blank q.1 .matrix with size := 16, token := i.token }
      (es.map (fun e => redReq g sl q.1 e ((sl.acc i.rd).value e.1)))

theorem exec_mxred {rows : List (List (Nat × Target × Nat))} {st : Nat → State}
    (h : s.Issues g w l (mxredLegal (insn w l) (s.slot g))
      { engine := .matrix, reads := tileAddrPlaces (insn w l), writes := [], part := false })
    (hstride : (s.slot g).strideOk (insn w l) 1024 = true) (hlen : rows.length = 32) (hst : st 0 = s)
    (hrow : ∀ n row, rows[n]? = some row → (st n).checkRedRow (s.slot g) ((insn w l).sp = 1) ((s.slot g).rowAddr (insn w l) n)
      = (.ok row, st (n + 1))) :
    let op := ((st 32).takeOp g.core).1
    let rs := (((List.range 32).zip rows).flatMap (fun p => numberedRow p.1 p.2)).map
      (fun e => redReq g (s.slot g) op e (((s.slot g).acc (insn w l).rd).value e.1))
    ∃ t, exec (.mxred g w l) s = .next t
      ∧ (st 32).Launched t g { s.slot g with pc := (s.slot g).pc + (insn w l).units, sideDone := true }
          (MemOp.sent { MemOp.blank op .matrix with size := 16, token := (insn w l).token } rs) rs := by
  intro op rs
  have hrows := foldl_checkRow hrow hlen.ge
  rw [List.take_of_length_le hlen.le, hst] at hrows
  refine ⟨_, rfl, State.launched_issue (legal := mxredLegal)
    (use := fun i _ => { engine := .matrix, reads := tileAddrPlaces i, writes := [], part := false })
    (ctr := ((st 32).takeOp g.core).2.freeCtr) h ?_ rfl⟩
  dsimp only
  rw [if_neg (by simp [hstride]), Slot.issued_no_writes]
  exact congrArg (sendRows g (s.slot g) _ (insn w l)) hrows

end Sys2Proof.Machine

open Sys2Proof Sys2Proof.Machine

/-- Settles O22: each reduction by the requests that it launches. -/
theorem groupReductions : Obligations.GroupReductions := by
  refine ⟨fun s g w l ts s1 h hcheck => ?vatom, fun s g w l ts s1 h hcheck => ?vredadd,
    fun s g w l rows st h hstride hlen hst hrow => ?mxred⟩
  case vatom =>
    obtain ⟨t, rs, hrun, hlaunched, hall⟩ := exec_vatom h hcheck
    refine ⟨t, _, rs, hrun, hlaunched, hall.length_eq.symm, fun n e he => ?_, rfl, fun hne => ?_⟩
    · obtain ⟨r, hr, lane, rfl⟩ := forall₂_getElem? hall he
      exact ⟨lane, hr⟩
    · refine MemOp.sent_open_of_not_reads hne (forall₂_right hall ?_)
      rintro x r ⟨lane, rfl⟩
      exact ReqKind.noConfusion
  case vredadd =>
    obtain ⟨t, hrun, hlaunched⟩ := exec_vredadd h hcheck
    exact ⟨t, _, hrun, hlaunched, congrArg
      (fun n => { MemOp.blank 0 .vector with size := 16, token := (insn w l).token, open_ := n })
      ((MemOp.sent_open_of_not_load rfl).trans (List.length_map _))⟩
  case mxred =>
    obtain ⟨t, hrun, hlaunched⟩ := exec_mxred h hstride hlen hst hrow
    refine ⟨t, _, _, hrun, hlaunched, ?_, rfl⟩
    simp only [List.map_flatMap, numberedRow, List.map_zipWith]
    rfl

end

section
/-! SUPPORT. Matrix instructions: the length of format X, a bit of a scalar register as the model reads it, and the mark of a scalar
register written (R73, R83, R84, R133). -/

namespace Sys2Proof.Machine

theorem Insn.units_of_okX {i : Insn} (h : i.okX = true) : i.units = 1 := by
  simp only [Insn.okX, Bool.and_eq_true, Bool.not_eq_true'] at h
  obtain ⟨⟨⟨-, hx⟩, -⟩, -⟩ := h
  exact Insn.units_of_not_x hx

theorem Insn.units_of_mxLegal {i : Insn} {sl : Slot} (h : mxLegal i sl = true) : i.units = 1 :=
  Insn.units_of_okX (Bool.and_eq_true_iff.1 h).1

theorem mxLegal_of_mmaLegal {sparse : Bool} {i : Insn} {sl : Slot} (h : mmaLegal sparse i sl = true) : mxLegal i sl = true := by
  simp only [mmaLegal, Bool.and_eq_true, and_assoc] at h
  exact h.1

/-- The model's test of a bit of a register's number is the register's own bit. -/
theorem bitOf_toNat_eq_getLsbD {n : Nat} (v : BitVec n) (k : Nat) : bitOf v.toNat k = v.getLsbD k := by
  rw [bitOf, BitVec.getLsbD, Nat.testBit_eq_decide_div_mod_eq]

/-- A scalar register written whole loses its mark once, at the issue or at the write (R73). -/
theorem Slot.issued_setS_eq_setS (sl : Slot) (e : Engine) (rs : List Place) (r : Nat) (i : Insn) (v : W64) :
    (sl.issued { engine := e, reads := rs, writes := [.sreg r], part := false } i).setS r v
      = { sl.setS r v with pc := sl.pc + i.units } := by
  have hmark : (fun m : Mark => decide (m.place ≠ Place.sreg r)) = fun m => m.place != .sreg r :=
    funext fun m => by simp [bne, beq_eq_decide]
  rw [Slot.issued_setS, hmark]
  rfl

end Sys2Proof.Machine

open Sys2Proof Sys2Proof.Machine

/-- Settles O19: each row by its effect on the slot, in format X, which has no extension word. -/
theorem matrixInstructions : Obligations.MatrixInstructions := by
  refine ⟨⟨RunsGroup.of_issueSlot (fun _ _ _ _ _ _ => rfl) (fun i sl hlegal _ => ?mma),
    RunsGroup.of_issueSlot (fun _ _ _ _ _ _ => rfl) (fun i sl hlegal _ => ?mmas),
    RunsGroup.of_issueSlot (fun _ _ _ _ _ _ => rfl) (fun i sl hlegal _ => ?aclr),
    RunsGroup.of_issueSlot (fun _ _ _ _ _ _ => rfl) (fun i sl hlegal _ => ?tmov),
    RunsGroup.of_issueSlot (fun _ _ _ _ _ _ => rfl) (fun i sl hlegal _ => ?aflg)⟩,
    RunsGroup.of_issueSlot (fun _ _ _ _ _ _ => rfl) (fun i sl hlegal _ => ?acvt)⟩
  case mma =>
    rw [mmaUse, Slot.issued_no_writes, Insn.units_of_mxLegal (mxLegal_of_mmaLegal hlegal)]
    rfl
  case mmas =>
    rw [mmaUse, Slot.issued_no_writes, Insn.units_of_mxLegal (mxLegal_of_mmaLegal hlegal)]
    rfl
  case aclr =>
    simp only [Bool.and_eq_true, and_assoc] at hlegal
    obtain ⟨hmx, -⟩ := hlegal
    rw [Slot.issued_no_writes, Insn.units_of_mxLegal hmx, ← BitVec.ofNat_toNat, ← bitOf_toNat_eq_getLsbD]
    rfl
  case tmov =>
    simp only [Bool.and_eq_true, and_assoc] at hlegal
    obtain ⟨hmx, -⟩ := hlegal
    rw [Slot.issued, Insn.units_of_mxLegal hmx]
    rfl
  case aflg =>
    simp only [Bool.and_eq_true, and_assoc] at hlegal
    obtain ⟨hmx, -⟩ := hlegal
    dsimp only
    rw [Slot.issued_setS_eq_setS, Insn.units_of_mxLegal hmx, apply_ite Except.ok, apply_ite sl.left]
    rfl
  case acvt =>
    simp only [Bool.and_eq_true, and_assoc] at hlegal
    obtain ⟨hmx, -⟩ := hlegal
    rw [Slot.issued, Insn.units_of_mxLegal hmx]
    rfl

end

section
/-! SUPPORT. The banks and the mesh: a grant with error-free data, and each way of a packet at a router (R166 to R169, R176 to R179). -/

namespace Sys2Proof.Machine

variable {s : State} {r dst : RoomId} {req : Nat} {q : Req}

/-! ## Banks (R166 to R169) -/

/-- The access of a request that a bank has granted, by its kind. -/
def State.bankAccess (s : State) (r : RoomId) (req : Nat) (q : Req) : State :=
  match q.kind with
  | .read => s.roomReadGrant r req q
  | .write => s.roomWriteGrant r req q
  | .atomic => s.roomAtomGrant r req q
  | .red => s

theorem State.bankAccess_read (h : q.kind = .read) : s.bankAccess r req q = s.roomReadGrant r req q := by
  rw [State.bankAccess, h]

theorem State.bankAccess_write (h : q.kind = .write) : s.bankAccess r req q = s.roomWriteGrant r req q := by
  rw [State.bankAccess, h]

theorem State.bankAccess_atomic (h : q.kind = .atomic) : s.bankAccess r req q = s.roomAtomGrant r req q := by
  rw [State.bankAccess, h]

theorem State.lost_grantLane (s : State) (r : RoomId) (bank lane : Nat) :
    ((s.grantLane r bank lane).room r).lost = (s.room r).lost := by
  rw [State.grantLane, State.room_updRoom_same]

/-- A grant that finds no error moves the bank's pointer and carries the access out: the Room is not lost by it. -/
theorem State.bankGrant_clean (hlost : (s.room r).lost = false) :
    s.bankGrant r req q .clean = (s.grantLane r (roomBank q.addr) q.lane).bankAccess r req q := by
  have hkept : ((s.grantLane r (roomBank q.addr) q.lane).room r).lost ≠ true := by simp [State.lost_grantLane, hlost]
  exact if_neg hkept

/-- A request that may be served and whose turn it is is granted, where R179 does not discard it: its DMA engine is of this Room,
or its Suite and generation own the Room. -/
theorem exec_roomMemoryAccess (ecc : Ecc) (hfind : Table.find s.reqs req = some q) (hroom : q.room = some r)
    (hwait : q.waiting = true) (hrouter : q.router = none) (hlost : (s.room r).lost = false) (hwiping : (s.room r).wiping = false)
    (hserve : s.mayServe req q = true) (hturn : s.bankTurn r (roomBank q.addr) q.lane = true)
    (hown : ∀ g op n, q.owner = .dma g op n → g.core.room = r ∨ (s.room r).accepts q = true) :
    exec (.roomMemoryAccess r req ecc) s = .next (s.bankGrant r req q ecc) := by
  show execRoomMemoryAccess r req ecc s = _
  unfold execRoomMemoryAccess
  rw [hfind]
  dsimp only
  rw [if_neg (by simp [hroom, hwait, hrouter]), if_neg (by simp [hlost]), if_neg (by simp [hwiping, hserve, hturn])]
  cases howner : q.owner with
  | dma g op n => exact if_neg (by rcases hown g op n howner with h | h <;> simp [h])
  | _ => rfl

/-! ## The mesh (R176 to R179) -/

/-- A router whose output has served an input: the input after it is the next in turn (R176). -/
def State.outputServed (s : State) (r dst : RoomId) (q : Req) : State :=
  s.updRoom r (fun x => { x with outPtr := Table.set x.outPtr (meshOutput r dst) ((q.inPort + 1) % 5) })

/-- A packet that has left the mesh at the Room it is bound for. -/
def Req.offMesh (q : Req) : Req := { q with router := none, back := false }

/-- A packet that has gone by an output of a router to the next, where it comes in from the opposite side. -/
def Req.hopped (q : Req) (r dst : RoomId) : Req :=
  { q with router := some (nextHop r dst).1, inPort := (meshOutput r dst + 2) % 4 }

theorem exec_meshPacketForward_discards (hfind : Table.find s.reqs req = some q) (hrouter : q.router = some r)
    (hbound : q.bound = some dst) (hgone : q.gone = false) (hrefuses : (s.room r).accepts q = false) :
    exec (.meshPacketForward req) s = .next (s.discardPacket r req) := by
  show execMeshPacketForward req s = _
  unfold execMeshPacketForward
  rw [hfind]
  dsimp only
  rw [hrouter, hbound]
  dsimp only
  rw [if_neg (by simp [hgone]), if_pos (by simp [hrefuses])]

/-- A packet that the Room accepts and whose turn it is leaves the mesh where it is bound for, and elsewhere goes one hop by its port,
if that is open. -/
theorem exec_meshPacketForward_forwards (hfind : Table.find s.reqs req = some q) (hrouter : q.router = some r)
    (hbound : q.bound = some dst) (hgone : q.gone = false) (haccepts : (s.room r).accepts q = true)
    (hok : (s.room r).routerOk = true) (hturn : s.meshTurn r dst q = true)
    (hopen : r ≠ dst → s.portOpen r (meshOutput r dst) = true) :
    exec (.meshPacketForward req) s
      = .next ((s.outputServed r dst q).arrive req (fun x => if r = dst then x.offMesh else x.hopped r dst)) := by
  show execMeshPacketForward req s = _
  unfold execMeshPacketForward
  rw [hfind]
  dsimp only
  rw [hrouter, hbound]
  dsimp only
  rw [if_neg (by simp [hgone]), if_neg (by simp [haccepts]), if_neg (by simpa [hok, hturn] using hopen)]
  split_ifs <;> rfl

end Sys2Proof.Machine

open Sys2Proof Sys2Proof.Machine

/-- Settles O31: a bank's grant by the kind of the request, a packet by whether its Room accepts it and is the one it is bound for. -/
theorem roomsAndMesh : Obligations.RoomsAndMesh := by
  refine ⟨fun s r req q hfind hroom hwait hrouter hlost hwiping hserve hturn hown => ?bank,
    fun s req q r dst hfind hrouter hbound hgone => ⟨exec_meshPacketForward_discards hfind hrouter hbound hgone,
      fun haccepts hok hturn => ⟨fun hhere => ?leaves, fun haway hopen => ?hops⟩⟩⟩
  case bank =>
    have hgrant := exec_roomMemoryAccess .clean hfind hroom hwait hrouter hlost hwiping hserve hturn
      (fun g op n howner => by simpa only [howner, Room.accepts, decide_eq_true_eq] using hown)
    rw [hgrant, State.bankGrant_clean hlost]
    exact ⟨fun hkind => congrArg _ (State.bankAccess_read hkind), fun hkind => congrArg _ (State.bankAccess_write hkind),
      fun hkind => congrArg _ (State.bankAccess_atomic hkind)⟩
  case leaves =>
    rw [exec_meshPacketForward_forwards hfind hrouter hbound hgone haccepts hok hturn (absurd hhere), funext fun _ => if_pos hhere]
    rfl
  case hops =>
    rw [exec_meshPacketForward_forwards hfind hrouter hbound hgone haccepts hok hturn (fun _ => hopen), funext fun _ => if_neg haway]
    rfl

end

section
/-! SUPPORT. The messages of a dispatcher: the next firing, and what each message does where its conditions hold (R198 to R205, R209,
R221). -/

namespace Sys2Proof.Machine

variable {s s1 : State} {k : Fin 8} {m : BwMsg} {i h n : Nat} {t : Task} {e : Edge} {c : CoreId}

/-- A next firing that is able to run leaves the list and is fired (R199). -/
theorem exec_firing {rest : List Nat} (hable : ((s.settle k).disp k).able = i :: rest) :
    exec (.firing k) s
      = .next ((((s.settle k).updDisp k (fun d => { d with able := rest })).fire k i).settleAll) := by
  show execFiring k s = _
  rw [execFiring, hable]

/-- A row that takes a delivered message goes by what it does with the message it finds, in the state without it. -/
theorem State.takeFor_next {d : Endpoint} {p : Payload → Bool} {f : BwMsg → State → Out} (htake : s.takeFor d p = some (m, s1)) :
    (match s.takeFor d p with
      | none => .next s
      | some (m, s1) => f m s1) = f m s1 := by
  rw [htake]

theorem exec_launchRefuse {bad : Bool}
    (htake : s.takeFor (.dispatcher k) (fun p => match p with | .refuse _ _ => true | _ => false) = some (m, s1))
    (hm : m.payload = .refuse i bad) (htask : s1.task k i = some t) (hstate : t.state = .launching) (hsuite : t.suite = m.suite) :
    exec (.launchRefuse k) s = if bad then .next ((s1.taskFailed k i 9).graphCheck t.suite t.graph).settleAll
      else .next ((s1.updTask k i (fun x => { x with tried := x.tried ++ [x.core] })).launchOn k i) := by
  refine (State.takeFor_next htake).trans ?_
  simp only [hm, htask]
  exact if_neg (by simp [hstate, hsuite])

theorem exec_freed (htake : s.takeFor (.dispatcher k) (fun p => p = .freed) = some (m, s1)) (hsrc : m.src = .core c) :
    exec (.freed k) s
      = .next ((((s1.disp k).tasks.filter (fun e => e.2.state = .waiting && e.2.room = c.room)).map (fun e => e.1)).foldl
          (fun t i => (t.updTask k i (fun x => { x with tried := [] })).launchOn k i) s1) := by
  refine (State.takeFor_next htake).trans ?_
  rw [hsrc]

theorem exec_done {firing : Nat} {outcome : BitVec 8}
    (htake : s.takeFor (.dispatcher k) (fun p => match p with | .done _ _ _ => true | _ => false) = some (m, s1))
    (hm : m.payload = .done i firing outcome) (hsrc : m.src = .core c) (htask : s1.task k i = some t) (hsuite : t.suite = m.suite)
    (hfiring : t.firing = firing) (hstate : t.state = .running) :
    exec (.done k) s
      = .next ((t.ctxs.foldl (fun x n => x.publishCtx t.suite n false) (s1.firingEnds k i outcome c.core.val)).settleAll) := by
  refine (State.takeFor_next htake).trans ?_
  simp only [hm, htask, hsrc]
  exact if_neg (by simp [hsuite, hfiring, hstate])

theorem exec_tokenAdd
    (htake : s.takeFor (.dispatcher k) (fun p => match p with | .tokenAdd _ _ => true | _ => false) = some (m, s1))
    (hm : m.payload = .tokenAdd h n) (hedge : s1.edge h = some e) (hsuite : e.suite = m.suite) :
    exec (.tokenAdd k) s = .next (s1.addTokens h n).settleAll := by
  refine (State.takeFor_next htake).trans ?_
  simp only [hm, hedge]
  exact if_pos hsuite

theorem exec_creditReturn
    (htake : s.takeFor (.dispatcher k) (fun p => match p with | .creditRet _ _ => true | _ => false) = some (m, s1))
    (hm : m.payload = .creditRet h n) (hedge : s1.edge h = some e) (hsuite : e.suite = m.suite) :
    exec (.creditReturn k) s = .next (s1.addCredits h n).settleAll := by
  refine (State.takeFor_next htake).trans ?_
  simp only [hm, hedge]
  exact if_pos hsuite

theorem exec_eventRecord {r : Record}
    (htake : s.takeFor (.dispatcher k) (fun p => match p with | .record _ => true | _ => false) = some (m, s1))
    (hm : m.payload = .record r) :
    exec (.eventRecord k) s = if m.gen ≠ s.genOf m.suite || (s.suite m.suite).staleAll then
        .next (s1.updWing k (fun w => { w with staleGen := sat16 w.staleGen 1 }))
      else .next (s1.sinkRecord k.val m.suite r) := by
  refine (State.takeFor_next htake).trans ?_
  simp only [hm]

theorem exec_slotDone {member chunk : Nat} {x : Stream}
    (htake : s.takeFor (.dispatcher k) (fun p => match p with | .slotDone _ _ _ => true | _ => false) = some (m, s1))
    (hm : m.payload = .slotDone i member chunk) (hstream : s1.stream k i = some x) (hsuite : x.suite = m.suite) :
    exec (.slotDone k) s = .next (s1.updStream k i (fun y =>
      { y with dones := Table.set y.dones (16 * (chunk % y.nbuf) + member) (chunk + 1) })) := by
  refine (State.takeFor_next htake).trans ?_
  simp only [hm, hstream]
  exact if_neg (not_not.2 hsuite)

end Sys2Proof.Machine

open Sys2Proof Sys2Proof.Machine

/-- Settles O33: each message by what it does where its conditions hold, a refusal and a record by the branch they take. -/
theorem firingsAndMessages : Obligations.FiringsAndMessages := by
  refine ⟨fun s k i rest => exec_firing, fun s k m s1 =>
    ⟨fun i t htake htask hstate hsuite => ⟨fun hm => exec_launchRefuse htake hm htask hstate hsuite,
      fun hm => exec_launchRefuse htake hm htask hstate hsuite⟩,
    fun c => exec_freed, fun i firing outcome t c => exec_done, fun h n e => exec_tokenAdd, fun h n e => exec_creditReturn,
    fun r htake hm => ⟨fun hgen hlive => ?current, fun hgen => ?stale⟩, fun i member chunk x => exec_slotDone⟩⟩
  case current => exact (exec_eventRecord htake hm).trans (if_neg (by simp [hgen, hlive]))
  case stale => exact (exec_eventRecord htake hm).trans (if_pos (by simp [hgen]))

end

section
/-! SUPPORT. Mail: a command at the head of its slot, what each command does where its operands are in order, and a host's message
(R188 to R193, R197, R204, R214, R217, R220, R323). -/

namespace Sys2Proof.Machine

variable {s : State} {n : BitVec 8} {who : Sender} {m : MailMsg} {rest : List (Sender × MailMsg)}

/-! ## The head of the slot (R189, R193) -/

/-- A command's end: its outcome is answered, its entry leaves the slot, and what it settles follows. -/
def State.mailEnds (t : State) (n : BitVec 8) (m : MailMsg) (st : Nat) : State :=
  (((t.ackMail n m st).popMail n).skipUnassigned n).settleAll

section
variable (hmail : (s.gsuite n).mail = (who, m) :: rest)
include hmail

theorem State.mailCommand_head {cmd : Nat} (hcmd : m.cmd.toNat = cmd) (run : MailMsg → State → Nat × State) :
    s.mailCommand n cmd run = (run m s).2.mailEnds n m (run m s).1 := by
  unfold State.mailCommand
  rw [hmail]
  exact if_neg (not_not.2 hcmd)

/-- A mail command's row, by what the command does with the message at the head. -/
theorem exec_mailCommand {c : Instr} {cmd st : Nat} {run : MailMsg → State → Nat × State} {t : State}
    (hexec : exec c s = .next (s.mailCommand n cmd run)) (hcmd : m.cmd.toNat = cmd) (hrun : run m s = (st, t)) :
    exec c s = .next (t.mailEnds n m st) := by
  rw [hexec, State.mailCommand_head hmail hcmd, hrun]

end

/-! ## What each command does (R192, R197, R204, R214, R217, R220) -/

/-- A graph whose tasks, edges and streams all find room and whose handles can be written is installed (R197). -/
theorem State.runSubmit_installs {g : GraphText} {h : Nat} {ps : List (Nat × Nat)} {es : List Nat} {ss : List (Nat × Nat)}
    {s1 s2 s3 s4 s5 s6 : State} (hplain : mailPlain m false false false false = true)
    (hread : s.readGraph n m.opa.toNat = (some (some g), s1)) (hstatus : s1.graphStatus n (s.genOf n) g = 0)
    (hfree : (s1.gsuite n).freeHandle = h) (hh : h ≤ 65535)
    (htasks : s1.placeTasks n (s.genOf n) h (wordAt g.hdr 0) 0 g.tasks = (some ps, s2))
    (hedges : s2.placeEdges n (s.genOf n) h ps 0 g.edges = (some es, s3))
    (hstreams : s3.placeStreams n (s.genOf n) h g.streams = (some ss, s4))
    (htaskOut : s4.gWrite n (wordAt g.hdr 4) (ps.flatMap (fun p => leBytes 4 (p.2 + p.1 * 2 ^ 16))) = (true, s5))
    (hedgeOut : s5.gWrite n (wordAt g.hdr 5) (es.flatMap (fun e => leBytes 4 e)) = (true, s6)) :
    let s7 := s6.updGsuite n (fun x =>
      { x with graphs := Table.set x.graphs h { tasks := ps, edges := es, streams := ss, ended := false }, stalled := false })
    s.runSubmit n m = (0, s7.note (s7.gsuite n).leadWing n 0x26 h 0 0 0 0) := by
  intro s7
  simp only [State.runSubmit, hplain, hread, hstatus, hfree, htasks, hedges, hstreams, htaskOut, hedgeOut]
  rw [if_neg (by decide), if_neg (by decide), if_neg (Nat.not_lt.2 hh), if_neg (by decide)]
  rfl

/-- The state with a token's payload in the buffers of its edge. -/
def State.withPayload (s : State) (e : Edge) (m : MailMsg) : State :=
  if m.len = 0 then s else e.buffers.elim s (fun r => s.roomWrite r m.opc.toNat m.payload false)

theorem State.withPayload_empty {e : Edge} (h : m.len = 0) : s.withPayload e m = s := if_pos h

theorem State.withPayload_buffers {e : Edge} {r : RoomId} (h : m.len ≠ 0) (hr : e.buffers = some r) :
    s.withPayload e m = s.roomWrite r m.opc.toNat m.payload false := by
  rw [State.withPayload, if_neg h, hr, Option.elim_some]

/-- A host's tokens for an edge: on one that is not a COUNT edge they use up credits. -/
def State.addMailTokens (s : State) (e : Edge) (m : MailMsg) : State :=
  if e.isCount then s.addTokens m.opa.toNat m.opb.toNat
  else (s.addTokens m.opa.toNat m.opb.toNat).updEdge m.opa.toNat (fun x => { x with credits := x.credits - m.opb.toNat })

/-- Tokens for an edge whose producer is external and which has room for them are added once their payload is written (R192). -/
theorem State.runToken_adds {e : Edge} (hplain : mailPlain m true true false true = true) (hh : m.opa.toNat < 2 ^ 20)
    (hlo : 1 ≤ m.opb.toNat) (hhi : m.opb.toNat ≤ 65535) (halign : m.opc.toNat % 64 = 0)
    (hend : m.opc.toNat + 64 * m.len.toNat ≤ 48 * 2 ^ 20) (hedge : s.suiteEdge n m.opa.toNat = some e) (hext : e.producer = none)
    (hgraph : s.graphEnded n e.graph = false) (hbuf : e.lostBuf = false)
    (hcap : e.isCount = true ∨ e.tokens + e.held + m.opb.toNat ≤ e.capacity) (hroom : m.len ≠ 0 → e.buffers ≠ none) :
    s.runToken n m = (0, (s.withPayload e m).addMailTokens e m) := by
  have hlen : 64 * m.len.toNat = 0 ↔ m.len = 0 := by simp [← BitVec.toNat_inj]
  unfold State.runToken
  dsimp only
  rw [if_neg (by simpa [hplain, and_assoc, halign] using ⟨hh, Nat.ne_of_gt hlo, hhi, hend⟩), hedge]
  dsimp only
  rw [if_neg (by simpa [hext, hlen] using hroom), if_neg (by simp [hgraph, hbuf]),
    if_neg (by simpa [or_iff_not_imp_left] using hcap)]
  unfold State.withPayload
  cases e.buffers with
  | none =>
    rw [Option.elim_none, ite_self]
    rfl
  | some r =>
    simp only [hlen]
    rfl

theorem State.runCredit_adds {e : Edge} (hplain : mailPlain m true false false false = true) (hh : m.opa.toNat < 2 ^ 20)
    (hlo : 1 ≤ m.opb.toNat) (hhi : m.opb.toNat ≤ 65535) (hedge : s.suiteEdge n m.opa.toNat = some e) (hext : e.consumer = none)
    (hgraph : s.graphEnded n e.graph = false) (hcap : e.credits + m.opb.toNat ≤ e.capacity) :
    s.runCredit n m = (0, s.addCredits m.opa.toNat m.opb.toNat) := by
  unfold State.runCredit
  dsimp only
  rw [if_neg (by simpa [hplain, and_assoc] using ⟨hh, Nat.ne_of_gt hlo, hhi⟩), hedge]
  dsimp only
  rw [if_neg (not_not.2 hext), if_neg (by simp [hgraph]), if_neg (Nat.not_lt.2 hcap)]
  rfl

theorem State.runAdmit_publishes {l : List (Nat × Ctx)} {s1 : State} (hok : mailIndicesOk m = true)
    (hread : s.readCtxs n (mailIndices m) = (.inr l, s1)) :
    s.runAdmit n m = (0, l.foldl (fun t e => t.publishCtx n e.1 false)
      (s1.updGsuite n (fun g => { g with ctxs := l.foldl (fun t e => Table.set t e.1 e.2) g.ctxs }))) := by
  unfold State.runAdmit
  dsimp only
  rw [if_neg (by simp [hok]), hread]
  rfl

theorem State.runEnd_ends {g : Graph} (hplain : mailPlain m false false false false = true)
    (hgraph : Table.find (s.gsuite n).graphs m.opa.toNat = some g) (hlive : g.ended = false) :
    s.runEnd n m = (0, (s.updGsuite n (fun x =>
      { x with graphs := Table.set x.graphs m.opa.toNat { g with ended := true } })).graphCheck n m.opa.toNat) := by
  unfold State.runEnd
  dsimp only
  rw [if_neg (by simp [hplain]), hgraph]
  exact if_neg (by simp [hlive])

theorem State.runResubmit_places {g : Graph} {w i : Nat} {t : Task} {r : RoomId} (hplain : mailPlain m true true true false = true)
    (hrefire : m.opd.toNat < 2 ^ 32) (hword : word1Ok m.opc.toNat = true) (hrsvd : bitsOf m.opc.toNat 32 21 = 0)
    (hgraph : Table.find (s.gsuite n).graphs m.opa.toNat = some g) (hplace : listAt g.tasks m.opb.toNat = some (w, i))
    (htask : s.task (Fin.ofNat 8 w) i = some t) (hlost : t.state = .lost) (hlive : g.ended = false)
    (hroom : roomOfWord1 m.opc.toNat = some r) (husable : s.roomUsable n (some r) = true) :
    s.runResubmit n m = (0, (t.ins ++ t.outs).foldl (fun y h => y.rebind h r) (s.updTask (Fin.ofNat 8 w) i (fun x =>
      { x with word1 := m.opc, state := .idle, refire := m.opd.toNat, tried := [], restarted := false, avoid := none }))) := by
  unfold State.runResubmit
  dsimp only
  rw [if_neg (by simpa [hplain, hword, hrsvd] using hrefire), hgraph]
  dsimp only
  rw [hplace]
  dsimp only
  rw [htask]
  dsimp only
  rw [if_neg (by simp [hlost, hlive]), hroom]
  exact if_neg (by simp [husable])

theorem State.runOrder_appends {bs : List Byte} {s1 : State} (hplain : mailPlain m true true false false = true)
    (hwing : m.opa.toNat < 8) (hlo : 1 ≤ m.opc.toNat) (hhi : m.opc.toNat ≤ 65536) (hmode : (s.gsuite n).hostOrder = true)
    (hin : s.hearth.wingIn.getLsbD m.opa.toNat = true) (hread : s.gRead n m.opb.toNat (2 * m.opc.toNat) = (some bs, s1)) :
    let k : Fin 8 := Fin.ofNat 8 m.opa.toNat
    let vs := (List.range m.opc.toNat).map (fun i => leNat ((bs.drop (2 * i)).take 2))
    (∀ v ∈ vs, ∃ t, s.task k v = some t ∧ t.suite = n) → (s1.orderList n k).length + m.opc.toNat ≤ 65536 →
    s.runOrder n m = (0, s1.updGsuite n (fun g => { g with orders := Table.set g.orders m.opa.toNat (s1.orderList n k ++ vs) })) := by
  intro k vs hmine hroom
  unfold State.runOrder
  dsimp only
  rw [if_neg (by simpa [hplain, and_assoc] using ⟨hwing, Nat.ne_of_gt hlo, hhi⟩), if_neg (by simp [hmode]),
    if_neg (by simp [hin]), hread]
  dsimp only
  rw [if_neg ?known, if_neg (Nat.not_lt.2 hroom)]
  case known =>
    rw [Bool.not_eq_true', Bool.not_eq_false, List.all_eq_true]
    intro v hv
    obtain ⟨t, ht, hsuite⟩ := hmine v hv
    rw [ht]
    exact decide_eq_true hsuite
  rfl

/-! ## RETIRE (R189, R214) -/

section
variable (hmail : (s.gsuite n).mail = (who, m) :: rest) (hcmd : m.cmd.toNat = 5)
include hmail hcmd

theorem exec_retire_waits (hst : s.retireStatus n m = 0) (hbusy : (s.gsuite n).ctxsQuiet (mailIndices m) = false) :
    exec (.retire n) s = .next ((mailIndices m).foldl (fun t i => t.updCtx n i (fun c => { c with retiring := true })) s) := by
  show execRetire n s = _
  unfold execRetire
  rw [hmail]
  exact if_pos (by simp [hcmd, hst, hbusy])

theorem exec_retire_quiet (hst : s.retireStatus n m = 0) (hquiet : (s.gsuite n).ctxsQuiet (mailIndices m) = true) :
    exec (.retire n) s = .next ((s.finishRetire n (mailIndices m)).mailEnds n m 0) := by
  show execRetire n s = _
  unfold execRetire
  rw [hmail]
  dsimp only
  rw [if_neg (by simp [hquiet]), State.mailCommand_head hmail hcmd, hst]
  rfl

theorem exec_retireComplete (hquiet : (s.gsuite n).ctxsQuiet (mailIndices m) = true)
    (hwait : ∀ i ∈ mailIndices m, ∃ c, Table.find (s.gsuite n).ctxs i = some c ∧ c.retiring = true) :
    exec (.retireComplete n) s = .next ((s.finishRetire n (mailIndices m)).mailEnds n m 0) := by
  show execRetireComplete n s = _
  unfold execRetireComplete
  rw [hmail]
  dsimp only
  rw [if_pos ?waiting, State.mailCommand_head hmail hcmd]
  case waiting =>
    rw [hcmd, hquiet, Bool.and_true, Bool.and_eq_true]
    refine ⟨rfl, List.all_eq_true.2 fun i hi => ?_⟩
    obtain ⟨c, hc, hretiring⟩ := hwait i hi
    rw [hc]
    exact hretiring
  rfl

end

/-! ## A host's message (R188, R191, R323) -/

section
variable {port : Fin 4} {hdr : BeyfyHdr} {msg : MailMsg}

/-- What the slot is offered: a message with a tag comes to it in clear. -/
def mailInClear (msg : MailMsg) (clear : Option (List Byte)) : MailMsg :=
  if msg.auth then { msg with payload := clear.getD [] } else msg

/-- What the slot makes of a host's message. -/
def State.hostOffer (s : State) (hdr : BeyfyHdr) (msg : MailMsg) : Nat × State :=
  s.offerMail hdr.suite (.session hdr.session) (mailInClear msg (s.openMail hdr.session msg)) (s.openMail hdr.session msg).isSome

/-- The session of a message has come by this port, and is answered by it (R323). -/
def State.mailReply (s : State) (port : Fin 4) (hdr : BeyfyHdr) (st : Nat) : State :=
  (s.updGsuite hdr.suite (fun g => g.updSender (.session hdr.session) (fun x => { x with port := port.val }))).beyfySend port
    (beyfyAnswer 2 hdr st [])

/-- A message of the right form, Suite and generation is offered to the slot, and the slot's outcome is its answer. -/
theorem exec_mail (hactive : (s.byPort port).link.state = .active)
    (hform : s.msgFormOk port hdr 1 (64 + 64 * msg.len.toNat) none true = true) (hcurrent : s.current hdr.suite hdr.gen = true)
    (hsuite : hdr.suite = msg.suite) (hgen : hdr.gen = msg.gen) :
    exec (.mail port hdr msg) s = .next ((s.hostOffer hdr msg).2.mailReply port hdr (s.hostOffer hdr msg).1) := by
  show execMail port hdr msg s = _
  unfold execMail
  dsimp only
  rw [if_neg (not_not.2 hactive), if_neg (by simp [hform]), if_neg (by simp [hcurrent]), if_neg (by simp [hsuite, hgen])]
  rfl

theorem State.current_gen {gen : BitVec 16} (h : s.current n gen = true) : s.genOf n = gen := by
  unfold State.current at h
  simp only [Bool.and_eq_true, decide_eq_true_eq] at h
  obtain ⟨⟨-, hgen⟩, -⟩ := h
  exact hgen

/-- An assigned command at the head of the slot stays there. -/
theorem State.skipUnassigned_assigned (hmail : (s.gsuite n).mail = (who, m) :: rest) (hcmd : mailAssigned m.cmd = true) :
    s.skipUnassigned n = s := by
  unfold State.skipUnassigned
  rw [hmail, List.takeWhile_cons_of_neg (by simp [hcmd])]
  rfl

@[simp] theorem GSuite.updSender_mail (g : GSuite) (x : Sender) (f : SenderReg → SenderReg) : (g.updSender x f).mail = g.mail := rfl

@[simp] theorem GSuite.updSender_accepted (g : GSuite) (x : Sender) (f : SenderReg → SenderReg) :
    (g.updSender x f).accepted = g.accepted := rfl

/-- A slot with a message from a sender behind what it holds (R189, R191). -/
def GSuite.accepts (g : GSuite) (x : Sender) (m : MailMsg) : GSuite :=
  { g.updSender x (fun z => { z with lastSeq := m.seqno.toNat }) with mail := g.mail ++ [(x, m)], accepted := sat16 g.accepted 1 }

/-- A message in the slot takes one of its sender's credits (R188). -/
def State.mailAccepted (s : State) (n : BitVec 8) (x : Sender) (m : MailMsg) : State :=
  (s.updGsuite n (fun g => g.updSender x (fun z => { z with inUse := z.inUse + 1 }))).updGsuite n (fun g => g.accepts x m)

theorem State.mailAccepted_mail (x : Sender) : ((s.mailAccepted n x m).gsuite n).mail = (s.gsuite n).mail ++ [(x, m)] := by
  simp [State.mailAccepted, GSuite.accepts]

theorem State.mailAccepted_accepted (x : Sender) : ((s.mailAccepted n x m).gsuite n).accepted = sat16 (s.gsuite n).accepted 1 := by
  simp [State.mailAccepted, GSuite.accepts]

theorem State.offerMail_accepts {x : Sender} {q : SenderReg} {tagOk : Bool}
    (hfind : (s.gsuite n).senders.find? (fun r => r.sender = x) = some q) (hstill : (s.gsuite n).moving = false)
    (hcredit : q.inUse < q.limit) (hroom : (s.gsuite n).mail.length < 32) (hkeep : s.mailDiscards n q m tagOk = false) :
    s.offerMail n x m tagOk = (0, (s.mailAccepted n x m).skipUnassigned n) := by
  unfold State.offerMail
  dsimp only
  rw [hfind]
  dsimp only
  rw [if_neg (by simp [hstill, hcredit, hroom]), if_neg (by simp [hkeep])]
  rfl

/-- A session's message with a right tag, of the Suite's generation and above its last number is not discarded (R191). -/
theorem State.mailDiscards_session {q : SenderReg} {session : BitVec 12} (hsender : q.sender = .session session)
    (hsuite : m.suite = n) (hgen : m.gen = s.genOf n) (hlive : (s.suite n).staleAll = false) (hauth : m.auth = true)
    (hseq : q.lastSeq < m.seqno.toNat) : s.mailDiscards n q m true = false := by
  unfold State.mailDiscards
  rw [hsender]
  simp [hsuite, hgen, hlive, hauth, hseq]

theorem State.gsuite_beyfySend (q : SentMsg) : (s.beyfySend port q).gsuite n = s.gsuite n := rfl

theorem State.mailReply_gsuite (t : State) (st : Nat) : (t.mailReply port hdr st).gsuite hdr.suite
    = (t.gsuite hdr.suite).updSender (.session hdr.session) (fun x => { x with port := port.val }) := by
  rw [State.mailReply, State.gsuite_beyfySend, State.gsuite_updGsuite_same]

/-- An assigned command that the empty slot does not discard, from a sender that has a credit, is all that the slot then holds. -/
theorem State.offerMail_empty {q : SenderReg} {x : Sender} {tagOk : Bool}
    (hfind : (s.gsuite n).senders.find? (fun r => r.sender = x) = some q) (hstill : (s.gsuite n).moving = false)
    (hcredit : q.inUse < q.limit) (hempty : (s.gsuite n).mail = []) (hkeep : s.mailDiscards n q m tagOk = false)
    (hcmd : mailAssigned m.cmd = true) : s.offerMail n x m tagOk = (0, s.mailAccepted n x m) := by
  have hhead : ((s.mailAccepted n x m).gsuite n).mail = [(x, m)] := by rw [State.mailAccepted_mail, hempty, List.nil_append]
  rw [State.offerMail_accepts hfind hstill hcredit (by simp [hempty]) hkeep, State.skipUnassigned_assigned hhead hcmd]

/-- A host's message with a right tag goes into the empty slot in clear. -/
theorem State.hostOffer_empty {q : SenderReg} (hcurrent : s.current hdr.suite hdr.gen = true) (hsuite : hdr.suite = msg.suite)
    (hgen : hdr.gen = msg.gen) (hauth : msg.auth = true) (hclear : (s.openMail hdr.session msg).isSome = true)
    (hfind : (s.gsuite hdr.suite).senders.find? (fun x => x.sender = .session hdr.session) = some q)
    (hstill : (s.gsuite hdr.suite).moving = false) (hcredit : q.inUse < q.limit) (hseq : q.lastSeq < msg.seqno.toNat)
    (hlive : (s.suite hdr.suite).staleAll = false) (hcmd : mailAssigned msg.cmd = true) (hempty : (s.gsuite hdr.suite).mail = []) :
    s.hostOffer hdr msg = (0, s.mailAccepted hdr.suite (.session hdr.session)
      { msg with payload := (s.openMail hdr.session msg).getD [] }) := by
  have hsender : q.sender = .session hdr.session := by simpa using List.find?_some hfind
  have hkeep := State.mailDiscards_session (m := { msg with payload := (s.openMail hdr.session msg).getD [] }) hsender hsuite.symm
    (hgen.symm.trans (State.current_gen hcurrent).symm) hlive hauth hseq
  rw [State.hostOffer, mailInClear, if_pos hauth, hclear, State.offerMail_empty hfind hstill hcredit hempty hkeep hcmd]

end

/-- The credits that a session is owed, as one MAIL_CREDIT carries them (R323). -/
def State.creditMsg (s : State) (n : BitVec 8) (session : BitVec 12) (r : SenderReg) : SentMsg :=
  { type := 0x03, suite := n, gen := s.genOf n, session := session, status := 0, tag := 0, addr := 0,
    arg := BitVec.ofNat 64 (min r.owed 63), data := [] }

theorem exec_mailCredit {session : BitVec 12} {r : SenderReg}
    (hfind : (s.gsuite n).senders.find? (fun x => x.sender = .session session) = some r) (howed : r.owed ≠ 0) :
    exec (.mailCredit n session) s = .next ((s.updGsuite n (fun y => y.updSender (.session session) (fun z =>
      { z with owed := z.owed - min z.owed 63 }))).updByPort (Fin.ofNat 4 r.port) (fun p =>
        { p with sent := p.sent ++ [s.creditMsg n session r] })) := by
  show execMailCredit n session s = _
  unfold execMailCredit
  dsimp only
  rw [hfind]
  exact if_neg howed

end Sys2Proof.Machine

open Sys2Proof Sys2Proof.Machine

/-- Settles O36: a command by the slot's head, each by what it does where its operands are in order, a host's message by what the slot
makes of it. -/
theorem mailCommands : Obligations.MailCommands := by
  unfold Obligations.MailCommands
  intro ends runs
  have hruns : ∀ (c : BitVec 8 → Instr) (cmd : Nat) (run : BitVec 8 → MailMsg → State → Nat × State),
      (∀ s n, exec (c n) s = .next (s.mailCommand n cmd (run n))) → runs c cmd run :=
    fun c cmd run hexec s n who m rest hmail hcmd => exec_mailCommand hmail (hexec s n) hcmd rfl
  refine ⟨hruns _ _ _ fun _ _ => rfl, hruns _ _ _ fun _ _ => rfl, hruns _ _ _ fun _ _ => rfl, hruns _ _ _ fun _ _ => rfl,
    hruns _ _ _ fun _ _ => rfl, hruns _ _ _ fun _ _ => rfl, hruns _ _ _ fun _ _ => rfl,
    fun s n who m rest hmail => ⟨?submit, ?token, ?credit, ?contexts, ?end_, ?resubmit, ?order, ?retire⟩,
    fun s port hdr msg hactive hform hcurrent hsuite hgen => ⟨exec_mail hactive hform hcurrent hsuite hgen, ?accepted⟩,
    fun s n session r hfind howed => ⟨_, s.creditMsg n session r, exec_mailCredit hfind howed, ?returned, rfl, rfl, rfl⟩⟩
  case submit =>
    intro g ps es ss s1 s2 s3 s4 s5 s6 hcmd hplain hread hstatus h hh htasks hedges hstreams htaskOut hedgeOut s7
    exact exec_mailCommand hmail rfl hcmd
      (State.runSubmit_installs hplain hread hstatus rfl hh htasks hedges hstreams htaskOut hedgeOut)
  case token =>
    intro e hcmd hplain hh hlo hhi halign hend hedge hext hgraph hbuf hcap add
    have hadds := fun hroom => exec_mailCommand (c := .token n) hmail rfl hcmd
      (State.runToken_adds hplain hh hlo hhi halign hend hedge hext hgraph hbuf hcap hroom)
    refine ⟨fun hlen => ?empty, fun r hlen hr => ?payload⟩
    case empty =>
      have hrun := hadds (absurd hlen)
      rw [State.withPayload_empty hlen] at hrun
      exact hrun
    case payload =>
      have hrun := hadds (fun _ => Option.ne_none_iff_exists'.2 ⟨r, hr⟩)
      rw [State.withPayload_buffers hlen hr] at hrun
      exact hrun
  case credit =>
    intro e hcmd hplain hh hlo hhi hedge hext hgraph hcap
    exact exec_mailCommand hmail rfl hcmd (State.runCredit_adds hplain hh hlo hhi hedge hext hgraph hcap)
  case contexts =>
    intro l s1 hcmd hok hread
    exact exec_mailCommand hmail rfl hcmd (State.runAdmit_publishes hok hread)
  case end_ =>
    intro g hcmd hplain hgraph hlive
    exact exec_mailCommand hmail rfl hcmd (State.runEnd_ends hplain hgraph hlive)
  case resubmit =>
    intro g w i t r hcmd hplain hrefire hword hrsvd hgraph hplace htask hlost hlive hroom husable
    exact exec_mailCommand hmail rfl hcmd
      (State.runResubmit_places hplain hrefire hword hrsvd hgraph hplace htask hlost hlive hroom husable)
  case order =>
    intro bs s1 hcmd hplain hwing hlo hhi hmode hin hread k vs hmine hroom
    exact exec_mailCommand hmail rfl hcmd
      (State.runOrder_appends hplain hwing hlo hhi hmode hin hread hmine hroom)
  case retire =>
    exact fun hcmd hst => ⟨exec_retire_quiet hmail hcmd hst, exec_retire_waits hmail hcmd hst, exec_retireComplete hmail hcmd⟩
  case accepted =>
    intro q hauth hclear hfind hstill hcredit hroom hseq hlive hcmd hempty
    have hrow := exec_mail hactive hform hcurrent hsuite hgen
    rw [State.hostOffer_empty hcurrent hsuite hgen hauth hclear hfind hstill hcredit hseq hlive hcmd hempty] at hrow
    refine ⟨_, hrow, ?mail, ?count⟩
    case mail =>
      rw [State.mailReply_gsuite, GSuite.updSender_mail, State.mailAccepted_mail, hempty, List.nil_append]
    case count =>
      rw [State.mailReply_gsuite, GSuite.updSender_accepted, State.mailAccepted_accepted]
  case returned =>
    rw [State.byPort_updByPort_same]
    rfl

end

section
/-! SUPPORT. The arrival of a request at its home: it moves pointers of arbiters, and what the home asks about the request does not depend
on them (R233, R367, R428). -/

namespace Sys2Proof.Machine

variable {s t : State} {k : Nat} {r : Req}

/-! ## Pointers of arbiters (R233) -/

/-- One state differs from another in pointers of its slices and Wings at most: the registers of neither change otherwise, as far as a
request's way to its home depends on them. -/
structure State.PointersMoved (s t : State) : Prop where
  rest   : t = { s with slices := t.slices, wings := t.wings }
  lost   : ∀ j, (t.wing j).lost = (s.wing j).lost
  enable : ∀ j, (t.slice j).enable = (s.slice j).enable

theorem State.portTaken_moves (s : State) (slice port : Nat) : s.PointersMoved (s.portTaken slice port) where
  rest := rfl
  lost := fun _ => rfl
  enable := fun j => by
    by_cases h : j = slice
    · subst h; simp [State.portTaken]
    · rw [State.portTaken, State.slice_updSlice_other _ _ _ _ h]

theorem State.PointersMoved.updWing {j : Fin 8} {f : Wing → Wing} (h : s.PointersMoved t) (hf : ∀ w, (f w).lost = w.lost) :
    s.PointersMoved (t.updWing j f) where
  rest := by rw [h.rest]; rfl
  lost := fun i => by
    by_cases hi : i = j
    · subst hi; rw [State.wing_updWing_same, hf, h.lost]
    · rw [State.wing_updWing_other _ _ _ _ (fun hv => hi (Fin.ext hv)), h.lost]
  enable := h.enable

theorem State.arrivedAt_moves (s : State) (r : Req) (slice : Nat) : s.PointersMoved (s.arrivedAt r slice) := by
  have hport := s.portTaken_moves slice (s.reqPort r slice).1
  unfold State.arrivedAt
  dsimp only
  split
  · exact hport
  · exact hport.updWing fun _ => rfl

namespace State.PointersMoved
variable (h : s.PointersMoved t)
include h

theorem reqs : t.reqs = s.reqs := by rw [h.rest]
theorem misses : t.misses = s.misses := by rw [h.rest]
theorem dir (i l : Nat) : t.dir i l = s.dir i l := by rw [h.rest]; rfl
theorem parlour (n : Fin 2) : t.parlour n = s.parlour n := by rw [h.rest]; rfl
theorem reqHome (r : Req) : t.reqHome r = s.reqHome r := by rw [h.rest]; rfl
theorem lineQueue (i l : Nat) : t.lineQueue i l = s.lineQueue i l := by rw [h.rest]; rfl
theorem lineBusy (i l : Nat) : t.lineBusy i l = s.lineBusy i l := by rw [h.rest]; rfl
theorem partialOf (n : Nat) : t.partialOf n = s.partialOf n := by rw [h.rest]; rfl
theorem heldSectors (i l : Nat) : t.heldSectors i l = s.heldSectors i l := by rw [h.rest]; rfl
theorem absent (i l : Nat) : t.absent i l = s.absent i l := by rw [h.rest]; rfl
theorem ctlOf (pa : Nat) : t.ctlOf pa = s.ctlOf pa := by rw [h.rest]; rfl
theorem mc (m : Ctl) : t.mc m = s.mc m := by rw [h.rest]; rfl
theorem memBacked (pa : Nat) : t.memBacked pa = s.memBacked pa := by rw [h.rest]; rfl
theorem pageAllows (n : BitVec 8) (pa : Nat) (b : Bool) : t.pageAllows n pa b = s.pageAllows n pa b := by rw [h.rest]; rfl
theorem ownHome (n : BitVec 8) (pa : Nat) : t.ownHome n pa = s.ownHome n pa := by rw [h.rest]; rfl
theorem linkOut (n : Nat) : t.linkOut n = s.linkOut n := by rw [h.rest]; rfl
theorem dieCellar (die kind wing : Nat) : t.dieCellar die kind wing = s.dieCellar die kind wing := by rw [h.rest]; rfl
theorem routeOf (a b : Nat) : t.routeOf a b = s.routeOf a b := by rw [h.rest]; rfl
theorem lostLinks : t.lostLinks = s.lostLinks := by rw [h.rest]; rfl

theorem homeLost (i : Nat) : t.homeLost i = s.homeLost i := h.lost _

theorem routeLost (a b : Nat) : t.routeLost a b = s.routeLost a b := by
  have hc : t.corridorLost = s.corridorLost := by
    funext n
    simp only [State.corridorLost, h.lostLinks, h.lost]
  simp only [State.routeLost, h.routeOf, hc]

theorem dieCutOff (die kind wing : Nat) : t.dieCutOff die kind wing = s.dieCutOff die kind wing := by
  simp only [State.dieCutOff, h.dieCellar, h.linkOut, h.routeLost]

theorem cutFrom (r : Req) (i : Nat) : t.cutFrom r i = s.cutFrom r i := by
  cases ho : r.owner <;> simp only [State.cutFrom, ho, h.routeLost, h.dieCutOff]

theorem unreachable (r : Req) (i l : Nat) : t.unreachable r i l = s.unreachable r i l := by
  cases hm : s.ctlOf (128 * l) <;>
    simp only [State.unreachable, State.forwardLost, h.ownHome, h.homeLost, h.cutFrom, h.routeLost, h.ctlOf, hm, h.dieCutOff]

theorem pkgLost (l : Nat) : t.pkgLost l = s.pkgLost l := by
  cases hm : s.ctlOf (128 * l) <;> simp only [State.pkgLost, h.mc, h.ctlOf, hm, h.lost]

theorem extBad (l : Nat) : t.extBad l = s.extBad l := by
  have hp : t.extPoison = s.extPoison := by rw [h.rest]
  simp only [State.extBad, hp, h.pkgLost]

theorem viewLine (i l : Nat) (m : BitVec 4) : t.viewLine i l m = s.viewLine i l m := by
  have hlines : t.lines = s.lines := by rw [h.rest]
  have hev : ∀ n, t.evictedLine n = s.evictedLine n := fun n => by rw [h.rest]; rfl
  have hext : t.extLine l = s.extLine l := by rw [h.rest]; rfl
  simp only [State.viewLine, hlines, hev, hext, h.extBad]

theorem writesThrough (i l : Nat) (a : Attr) : t.writesThrough i l a = s.writesThrough i l a := by
  have hlines : t.lines = s.lines := by rw [h.rest]
  have hev : ∀ n, t.evictedLine n = s.evictedLine n := fun n => by rw [h.rest]; rfl
  cases a <;> simp only [State.writesThrough, hlines, hev, h.enable]

theorem readsFirst (r : Req) (i l : Nat) : t.readsFirst r i l = s.readsFirst r i l := by
  simp only [State.readsFirst, h.writesThrough, h.extBad, h.heldSectors]

theorem needsWay (i l : Nat) (a : Attr) : t.needsWay i l a = s.needsWay i l a := by
  simp only [State.needsWay, h.enable, h.absent]

/-- What lets a request be served at once does not depend on pointers. -/
theorem homeServes (hs : s.HomeServes k r) : t.HomeServes k r where
  found := by rw [h.reqs]; exact hs.found
  sent := hs.sent
  here := hs.here
  queue := by rw [h.reqHome, h.lineQueue]; exact hs.queue
  quiet := by rw [h.reqHome, h.lineBusy]; exact hs.quiet
  miss := by rw [h.reqHome, h.misses]; exact hs.miss
  home := by rw [h.reqHome, h.homeLost]; exact hs.home
  route := by rw [h.reqHome, h.unreachable]; exact hs.route
  mem := by rw [h.pkgLost]; exact hs.mem
  backed := by rw [h.memBacked]; exact hs.backed
  page := by rw [h.pageAllows]; exact hs.page
  snoops := by rw [h.reqHome, h.dir]; exact hs.snoops

end State.PointersMoved

end Sys2Proof.Machine
end

section
/-! SUPPORT. How a home serves a request that nothing holds back there: the gates, the reads, writes and contributions, and the rows
(R231 to R240, R245, R254, R407). -/

namespace Sys2Proof.Machine

variable {s t u : State} {k slice line : Nat} {r : Req} {ecc : Ecc}

/-! ## The gates of a home (R233, R240, R254) -/

/-- The state once a request has come to its home. -/
def State.atHome (s : State) (r : Req) : State := s.arrivedAt r (s.reqHome r)

theorem State.atHome_moves (s : State) (r : Req) : s.PointersMoved (s.atHome r) := s.arrivedAt_moves r _

/-- A home that nothing holds back serves a request by its kind. -/
theorem State.homeServe_of_serves (h : t.HomeServes k r)
    (hpart : r.kind ≠ .red → t.partialOf (lineKey (t.reqHome r) (r.addr / 128)) = none) :
    t.homeServe k (t.reqHome r) (r.addr / 128) ecc =
      if r.kind = .read then t.serveRead k r (t.reqHome r) (r.addr / 128) ecc
      else if r.kind = .red then t.serveRed k r (t.reqHome r) (r.addr / 128)
      else t.serveWrite k r (t.reqHome r) (r.addr / 128) ecc := by
  unfold State.homeServe
  simp only [h.found, h.sent, h.home, h.route, h.backed, h.page, h.snoops, h.miss, h.mem]
  by_cases hk : r.kind = .red
  · simp [hk]
  · simp [hk, hpart hk]

/-- A request that its home serves at once is never queued. -/
theorem State.homeTake_of_serves (h : s.HomeServes k r)
    (hserve : (s.atHome r).homeServe k ((s.atHome r).reqHome r) (r.addr / 128) ecc = (u, true)) : s.homeTake k r ecc = u := by
  have hmoves := s.atHome_moves r
  rw [hmoves.reqHome] at hserve
  have hquiet := (hmoves.lineBusy (s.reqHome r) (r.addr / 128)).trans h.quiet
  unfold State.atHome at hserve hquiet
  unfold State.homeTake
  simp [h.queue, hquiet, hserve]

/-! ## Reads (R231 to R234, R240) -/

/-- A clean transfer finds nothing (R407). -/
theorem State.sliceEcc_clean (need : BitVec 4) : t.sliceEcc slice line need .clean = t := by
  cases hl : Table.find t.lines (lineKey slice line) <;> simp [State.sliceEcc, hl]

/-- A read that the slice or its buffer can answer is answered at once. -/
theorem State.serveRead_held (hmiss : Table.find t.misses (lineKey slice line) = none) (hattr : r.attr ≠ .dev)
    (hup : r.par = .upg → (t.parlour r.die).line line r.suite = none) (hheld : t.heldSectors slice line &&& r.sectors = r.sectors) :
    t.serveRead k r slice line .clean
      = (t.answerRead k r slice (t.viewLine slice line 15).1 (t.viewLine slice line r.sectors).2, true) := by
  have hno : ¬((r.par = .upg && (t.parlour r.die).line line r.suite ≠ none && (t.dir slice line).holders.contains r.die) = true) := by
    simp only [Bool.and_eq_true, decide_eq_true_eq]
    rintro ⟨⟨hpar, hline⟩, -⟩
    exact hline (hup hpar)
  unfold State.serveRead
  simp only [hmiss, if_neg hattr, if_neg hno, State.sliceEcc_clean, if_pos hheld]
  rfl

/-- An upgrade by a recorded holder needs no data. -/
theorem State.serveRead_upgrade (hmiss : Table.find t.misses (lineKey slice line) = none) (hattr : r.attr ≠ .dev) (hpar : r.par = .upg)
    (hline : (t.parlour r.die).line line r.suite ≠ none) (hheld : (t.dir slice line).holders.contains r.die = true) :
    t.serveRead k r slice line ecc = ((t.setDir slice line (.e r.die)).parAnswer k none true, true) := by
  unfold State.serveRead
  simp only [hmiss, if_neg hattr]
  exact if_pos (by simp only [hpar, hheld]; simpa using hline)

/-- What a Parlour is recorded with once its shared read is answered. -/
def Dir.joined (d : Dir) (n : Fin 2) : Dir := match d with | .i => .e n | .s p => .s (p ||| bitOfParlour n) | .e m => .e m

/-- A directory with room for a line that it does not record yet (R241). -/
def State.dirReady (s : State) (slice line : Nat) : State := if s.dir slice line = .i then s.dirMakeRoom slice line else s

theorem State.answerRead_rdS (hpar : r.par = .rdS) (bs : List Byte) (p : Bool) :
    t.answerRead k r slice bs p = (((t.dirReady slice (r.addr / 128)).setDir slice (r.addr / 128)
      ((t.dir slice (r.addr / 128)).joined r.die)).parAnswer k (some (bs, p))
        (decide ((t.dir slice (r.addr / 128)).joined r.die = .e r.die))) := by
  unfold State.answerRead
  rw [hpar]
  cases hd : t.dir slice (r.addr / 128) <;> simp [hd, Dir.joined, State.dirReady]

theorem State.answerRead_owning (hpar : r.par = .rdX ∨ r.par = .upg) (bs : List Byte) (p : Bool) :
    t.answerRead k r slice bs p
      = ((t.dirReady slice (r.addr / 128)).setDir slice (r.addr / 128) (.e r.die)).parAnswer k (some (bs, p)) true := by
  unfold State.answerRead
  rcases hpar with hpar | hpar <;> rw [hpar] <;> rfl

/-! ## Writes, atomics and contributions (R231, R245, R254) -/

section
variable (hpkg : t.pkgLost line = false) (hway : t.needsWay slice line r.attr = false)
include hpkg hway

theorem State.serveWrite_write (hk : r.kind = .write) (hfirst : t.readsFirst r slice line = false) :
    t.serveWrite k r slice line .clean = ((t.writeLine slice line (r.addr % 128) r.data r.attr r.mark).wroteReq k r, true) := by
  unfold State.serveWrite
  simp [State.sliceEcc_clean, hpkg, hfirst, hway, hk]

theorem State.serveWrite_atomic (hk : r.kind = .atomic) : t.serveWrite k r slice line .clean = (t.serveAtomic k r slice line, true) := by
  have hfirst : t.readsFirst r slice line = false := by simp [State.readsFirst, hk]
  unfold State.serveWrite
  simp [State.sliceEcc_clean, hpkg, hfirst, hway, hk]

end

theorem State.partials_extWrite (s : State) (l off : Nat) (bs : List Byte) (p : Bool) : (s.extWrite l off bs p).partials = s.partials := by
  unfold State.extWrite
  split <;> rfl

theorem State.partials_writeBack (s : State) (n : Nat) (l : SLine) : (s.writeBack n l).partials = s.partials := by
  have hfold := foldl_keeps (f := fun (t : State) q =>
      if l.dirty.getLsbD q then t.extWrite n (32 * q) ((l.data.drop (32 * q)).take 32) l.poison else t) (g := State.partials)
    (List.range 4) s fun t q _ => by
      split
      · exact t.partials_extWrite n _ _ _
      · rfl
  unfold State.writeBack
  split
  · exact s.partials_extWrite n _ _ _
  · dsimp only
    split <;> exact hfold

/-- Writing a line back touches no partial. -/
theorem State.partials_cleanDrop (s : State) (i l : Nat) : (s.cleanDrop i l).partials = s.partials := by
  unfold State.cleanDrop State.cleanLine
  dsimp only
  cases s.evictedLine (lineKey i l) <;> dsimp only <;> split <;> simp only [State.partials_writeBack]

theorem State.serveRed_partial {p : Partial} (hp : Table.find t.partials (lineKey slice line) = some p) :
    t.serveRed k r slice line = ({ t.cleanDrop slice line with
      partials := Table.set (t.cleanDrop slice line).partials (lineKey slice line) (r.red.foldl Partial.contribute p) }.wroteReq k r,
      true) := by
  unfold State.serveRed
  simp only [State.partials_cleanDrop, hp]

/-! ## The rows that bring a request to its home -/

theorem parlourRequest_takes {p : ParReq} (hr : Table.find s.reqs k = some r) (hsent : r.stage = .sent) (hgone : r.gone = false)
    (hpar : r.par = p) : parlourRequest p k ecc s = .next (s.homeTake k r ecc) := by
  unfold parlourRequest
  rw [hr]
  exact if_pos (by simp [hsent, hgone, hpar])

theorem exec_redContribution (hr : Table.find s.reqs k = some r) (hsent : r.stage = .sent) (hgone : r.gone = false)
    (hk : r.kind = .red) : exec (.redContribution k) s = .next (s.homeTake k r .clean) := by
  show execRedContribution k s = _
  unfold execRedContribution
  rw [hr]
  exact if_pos (by simp [hsent, hgone, hk])

theorem exec_homeRequest (hr : Table.find s.reqs k = some r) (hpar : r.par = .none) (hwait : r.waiting = true) (hroom : r.room = none)
    (hrouter : r.router = none) (hmay : s.mayServe k r = true) :
    exec (.homeRequest k ecc) s
      = if rangeOf r.addr = .control then .next (s.controlServe k r) else .next (s.homeTake k r ecc) := by
  show execHomeRequest k ecc s = _
  unfold execHomeRequest
  rw [hr]
  exact if_neg (by simp [hpar, hwait, hroom, hrouter, hmay])

/-! ## A request that nothing holds back -/

section
variable (h : s.HomeServes k r)
include h

theorem State.homeTake_serves_read (hk : r.kind = .read) (hpart : s.partialOf (lineKey (s.reqHome r) (r.addr / 128)) = none)
    (hserve : (s.atHome r).serveRead k r (s.reqHome r) (r.addr / 128) ecc = (u, true)) : s.homeTake k r ecc = u := by
  have hm := s.atHome_moves r
  refine State.homeTake_of_serves h ?_
  rw [State.homeServe_of_serves (hm.homeServes h) (fun _ => by rw [hm.reqHome, hm.partialOf, hpart]), if_pos hk, hm.reqHome, hserve]

theorem State.homeTake_serves_write (hk : r.kind = .write ∨ r.kind = .atomic)
    (hpart : s.partialOf (lineKey (s.reqHome r) (r.addr / 128)) = none)
    (hserve : (s.atHome r).serveWrite k r (s.reqHome r) (r.addr / 128) ecc = (u, true)) : s.homeTake k r ecc = u := by
  have hm := s.atHome_moves r
  refine State.homeTake_of_serves h ?_
  rw [State.homeServe_of_serves (hm.homeServes h) (fun _ => by rw [hm.reqHome, hm.partialOf, hpart]),
    if_neg (by rcases hk with hk | hk <;> simp [hk]), if_neg (by rcases hk with hk | hk <;> simp [hk]), hm.reqHome, hserve]

theorem State.homeTake_serves_red (hk : r.kind = .red)
    (hserve : (s.atHome r).serveRed k r (s.reqHome r) (r.addr / 128) = (u, true)) : s.homeTake k r ecc = u := by
  have hm := s.atHome_moves r
  refine State.homeTake_of_serves h ?_
  rw [State.homeServe_of_serves (hm.homeServes h) (fun hne => absurd hk hne), if_neg (by simp [hk]), if_pos hk, hm.reqHome, hserve]

/-- The reads that are answered at once with what the slice or its buffer holds. -/
theorem State.homeTake_answers (hk : r.kind = .read) (hattr : r.attr ≠ .dev)
    (hpart : s.partialOf (lineKey (s.reqHome r) (r.addr / 128)) = none)
    (hup : r.par = .upg → (s.parlour r.die).line (r.addr / 128) r.suite = none)
    (hheld : s.heldSectors (s.reqHome r) (r.addr / 128) &&& r.sectors = r.sectors) :
    s.homeTake k r .clean = (s.atHome r).answerRead k r (s.reqHome r) (s.viewLine (s.reqHome r) (r.addr / 128) 15).1
      (s.viewLine (s.reqHome r) (r.addr / 128) r.sectors).2 := by
  have hm := s.atHome_moves r
  refine State.homeTake_serves_read h hk hpart ?_
  rw [State.serveRead_held (by rw [hm.misses]; exact h.miss) hattr (by rw [hm.parlour]; exact hup) (by rw [hm.heldSectors]; exact hheld),
    hm.viewLine, hm.viewLine]

/-- A Parlour's read of a line that is held whole. -/
theorem State.homeTake_parlour (hk : r.kind = .read) (hpar : r.par ≠ .none) (hattr : r.attr ≠ .dev)
    (hpart : s.partialOf (lineKey (s.reqHome r) (r.addr / 128)) = none)
    (hup : r.par = .upg → (s.parlour r.die).line (r.addr / 128) r.suite = none)
    (hheld : s.heldSectors (s.reqHome r) (r.addr / 128) = 15) :
    s.homeTake k r .clean = (s.atHome r).answerRead k r (s.reqHome r) (s.viewLine (s.reqHome r) (r.addr / 128) 15).1
      (s.viewLine (s.reqHome r) (r.addr / 128) 15).2 := by
  have hsec : r.sectors = 15 := if_neg hpar
  rw [State.homeTake_answers h hk hattr hpart hup (by rw [hheld, hsec]; rfl), hsec]

end

end Sys2Proof.Machine
end

section
/-! SUPPORT. The Window: what becomes of an access that is allowed, refused, or not answered in time (R332, R333). -/

namespace Sys2Proof.Machine

variable {s s1 : State}

section
variable {port : Fin 4} {hdr : BeyfyHdr} (hactive : (s.byPort port).link.state = .active) (hline : winLineOk hdr = true)
  (hcurrent : s.current hdr.suite hdr.gen = true)
include hactive hline hcurrent

section
variable (hform : s.msgFormOk port hdr 0x10 0 (some 128) true = true)
include hform

theorem exec_winRd_refused (htarget : s.winTarget port hdr false = (none, s1)) :
    exec (.winRd port hdr) s = .next ((s1.updByPort port (fun p => { p with winRef := sat16 p.winRef 1 })).beyfySend port
      (beyfyAnswer 0x12 hdr 1 (List.replicate hdr.count.toNat 0))) := by
  show execWinRd port hdr s = _
  unfold execWinRd
  rw [if_neg (not_not.2 hactive), if_neg (by simp [hform, hline]), if_neg (by simp [hcurrent]), htarget]

theorem exec_winRd_allowed {l : Located} (htarget : s.winTarget port hdr false = (some l, s1)) :
    exec (.winRd port hdr) s
      = .next ((s1.updByPort port (fun p => { p with hostTags := p.hostTags ++ [hdr.tag] })).winReq port hdr l .read []) := by
  show execWinRd port hdr s = _
  unfold execWinRd
  rw [if_neg (not_not.2 hactive), if_neg (by simp [hform, hline]), if_neg (by simp [hcurrent]), htarget]

end

section
variable {data : List Byte} (hform : s.msgFormOk port hdr 0x11 (unitBytes hdr.count.toNat) (some 128) true = true)
  (hlen : data.length = unitBytes hdr.count.toNat)
include hform hlen

theorem exec_winWr_refused (htarget : s.winTarget port hdr true = (none, s1)) :
    exec (.winWr port hdr data) s = .next (s1.updByPort port (fun p => { p with winRef := sat16 p.winRef 1 })) := by
  show execWinWr port hdr data s = _
  unfold execWinWr
  dsimp only
  rw [if_neg (not_not.2 hactive), if_neg (by simp [hform, hline, hlen]), if_neg (by simp [hcurrent]), htarget]

theorem exec_winWr_allowed {l : Located} (htarget : s.winTarget port hdr true = (some l, s1)) :
    exec (.winWr port hdr data) s = .next (s1.winReq port hdr l .write (data.take hdr.count.toNat)) := by
  show execWinWr port hdr data s = _
  unfold execWinWr
  dsimp only
  rw [if_neg (not_not.2 hactive), if_neg (by simp [hform, hline, hlen]), if_neg (by simp [hcurrent]), htarget]

end

end

/-- An allowed Window access is a request to its home under the next number. -/
theorem State.find_winReq (port : Fin 4) (hdr : BeyfyHdr) (l : Located) (kind : ReqKind) (data : List Byte) :
    Table.find (s.winReq port hdr l kind data).reqs s.nextReq = some { Req.blank (.window port hdr.tag) kind hdr.suite hdr.gen with
      addr := l.pa, va := BitVec.ofNat 64 l.pa, size := hdr.count.toNat, attr := l.region.attr, data := data, seq := s.nextReq } :=
  Table.find_set_same _ _ _

theorem State.byPort_winReq (port : Fin 4) (hdr : BeyfyHdr) (l : Located) (kind : ReqKind) (data : List Byte) (i : Fin 4) :
    (s.winReq port hdr l kind data).byPort i = s.byPort i := rfl

theorem exec_windowTimeout {port : Fin 4} {write : Bool} {tag : BitVec 16} {k : Nat} {r : Req}
    (hfind : s.reqs.find? (fun e => e.2.owner = .window port tag && (e.2.kind = .write) = write) = some (k, r)) :
    exec (.windowTimeout port write tag) s = .next (if write then s.dropWrite k 0 0 else s.winAnswer k r 3 []) := by
  show execWindowTimeout port write tag s = _
  unfold execWindowTimeout
  rw [hfind]
  cases write <;> rfl

end Sys2Proof.Machine

open Sys2Proof Sys2Proof.Machine

/-- Settles O37: the gates of `HomeServes` do not depend on the arbiters' pointers, which are all that an arrival moves; past them each kind
of request is served by one lemma. -/
theorem homeAndWindowRequests : Obligations.HomeAndWindowRequests := by
  refine ⟨fun s k r ecc hr => ⟨fun hsent hgone => ⟨parlourRequest_takes hr hsent hgone, parlourRequest_takes hr hsent hgone,
      parlourRequest_takes hr hsent hgone, exec_redContribution hr hsent hgone⟩, fun hpar hwait hroom hrouter hmay => ?target⟩,
    fun s k r h => ?home, fun s port hdr hactive hline hcurrent => ⟨fun hform => ⟨fun s1 => ?refusedRead, fun l s1 htarget => ?read⟩,
      fun data hform hlen => ⟨fun s1 => ?refusedWrite, fun l s1 htarget => ?write⟩, fun write tag k r => exec_windowTimeout⟩⟩
  case target =>
    have hrow := exec_homeRequest (ecc := ecc) hr hpar hwait hroom hrouter hmay
    exact ⟨fun hctl => hrow.trans (if_pos hctl), fun hctl => hrow.trans (if_neg hctl)⟩
  case home =>
    have hmoves := s.atHome_moves r
    have hready : (s.atHome r).dirReady (s.reqHome r) (r.addr / 128)
        = if s.dir (s.reqHome r) (r.addr / 128) = .i then (s.atHome r).dirMakeRoom (s.reqHome r) (r.addr / 128) else s.atHome r := by
      rw [State.dirReady, hmoves.dir]
    refine ⟨fun hpart hattr hk hheld => ⟨fun hpar d hd => ?rdS, fun hpar => ?rdX, fun hpar hline => ?upg⟩,
      fun hpart hattr hk hpar hline hheld => ?upgrade, fun hpar hwait hroom hrouter hmay hctl hpart => ?request,
      fun hk _ p hp => ?red⟩
    case rdS =>
      refine (parlourRequest_takes h.found h.sent h.here hpar).trans (congrArg _ ?_)
      obtain rfl : Dir.joined _ _ = d := hd
      rw [State.homeTake_parlour h hk (by simp [hpar]) hattr hpart (by simp [hpar]) hheld, State.answerRead_rdS hpar, hmoves.dir, hready]
      rfl
    case rdX =>
      refine (parlourRequest_takes h.found h.sent h.here hpar).trans (congrArg _ ?_)
      rw [State.homeTake_parlour h hk (by simp [hpar]) hattr hpart (by simp [hpar]) hheld, State.answerRead_owning (.inl hpar), hready]
      rfl
    case upg =>
      refine (parlourRequest_takes h.found h.sent h.here hpar).trans (congrArg _ ?_)
      rw [State.homeTake_parlour h hk (by simp [hpar]) hattr hpart (fun _ => hline) hheld, State.answerRead_owning (.inr hpar), hready]
      rfl
    case upgrade =>
      refine (parlourRequest_takes h.found h.sent h.here hpar).trans (congrArg _ (State.homeTake_serves_read h hk hpart ?_))
      exact State.serveRead_upgrade (by rw [hmoves.misses]; exact h.miss) hattr hpar (by rw [hmoves.parlour]; exact hline)
        (by rw [hmoves.dir]; exact hheld)
    case request =>
      have hrow := (exec_homeRequest (ecc := .clean) h.found hpar hwait hroom hrouter hmay).trans (if_neg hctl)
      have hpkg := (hmoves.pkgLost (r.addr / 128)).trans h.mem
      refine ⟨fun hk hattr hheld => hrow.trans (congrArg _ (State.homeTake_answers h hk hattr hpart (by simp [hpar]) hheld)),
        fun hk hfirst hway => hrow.trans (congrArg _ (State.homeTake_serves_write h (.inl hk) hpart ?_)),
        fun hk hway => hrow.trans (congrArg _ (State.homeTake_serves_write h (.inr hk) hpart ?_))⟩
      · exact State.serveWrite_write hpkg ((hmoves.needsWay _ _ _).trans hway) hk ((hmoves.readsFirst _ _ _).trans hfirst)
      · exact State.serveWrite_atomic hpkg ((hmoves.needsWay _ _ _).trans hway) hk
    case red =>
      have hpartials : (s.atHome r).partials = s.partials := by rw [hmoves.rest]
      refine (exec_redContribution h.found h.sent h.here hk).trans (congrArg _ (State.homeTake_serves_red h hk ?_))
      exact State.serveRed_partial (by rw [hpartials]; exact hp)
  case refusedRead => exact exec_winRd_refused hactive hline hcurrent hform
  case read =>
    refine ⟨_, exec_winRd_allowed hactive hline hcurrent hform htarget, ?_, State.find_winReq port hdr l .read []⟩
    rw [State.byPort_winReq, State.byPort_updByPort_same]
  case refusedWrite => exact exec_winWr_refused hactive hline hcurrent hform hlen
  case write => exact ⟨_, exec_winWr_allowed hactive hline hcurrent hform hlen htarget, State.find_winReq port hdr l .write _⟩

end

section
/-! SUPPORT. Victims of a Parlour's L3, snoops and their answers: what each row does where its conditions hold (R237, R239 to R242,
R270). -/

namespace Sys2Proof.Machine

variable {s : State} {p : Fin 2} {tag : BitVec 8} {line id : Nat} {l : L3Line} {x : Snoop} {ecc : Ecc}

/-! ## Victims (R237) -/

/-- What an accepted victim leaves of the die: no copy of the line in the harts' inner caches or in its L3. -/
def State.victimOut (s : State) (p : Fin 2) (tag : BitVec 8) (line : Nat) : State :=
  (s.dropInner p line).updParlour p (fun x => { x with l3 := Table.erase x.l3 (l3Key line tag) })

theorem exec_wbD (hl : (s.parlour p).line line tag = some l) (hdirty : l.dirty = true) :
    exec (.wbD p tag line) s =
      let slice := s.homeOf tag (128 * line)
      let s2 := (s.victimOut p tag line).takeDirty slice line l.data l.poison
      .next ((s2.dropReservations p line).setDir slice line ((s2.dir slice line).leave p)) := by
  show execWbD p tag line s = _
  unfold execWbD State.victim
  rw [hl]
  simp only [if_pos hdirty]
  rfl

section
variable (hl : (s.parlour p).line line tag = some l) (hclean : l.dirty = false)
include hl hclean

/-- A home that installs nothing takes a clean victim's directory entry alone. -/
theorem exec_offerC_disabled (hoff : ((s.victim p line tag).slice (s.homeOf tag (128 * line))).enable = false) :
    exec (.offerC p tag line) s = .next (s.victim p line tag) := by
  show execOfferC p tag line s = _
  unfold execOfferC
  rw [hl]
  simp [hclean, hoff]

/-- The home that a clean victim is offered to can install the line: it is enabled, and has nothing of the line. -/
structure State.TakesOffer (t : State) (slice line : Nat) (l : L3Line) : Prop where
  on      : (t.slice slice).enable = true
  absent  : t.heldSectors slice line = 0
  good    : l.poison = false
  plain   : t.partialOf (lineKey slice line) = none

/-- A clean copy of a line, as a slice installs it. -/
def State.putClean (t : State) (slice line : Nat) (l : L3Line) : State :=
  t.putIn slice line { data := l.data, valid := 15, dirty := 0, poison := false }

section
variable (h : (s.victim p line tag).TakesOffer (s.homeOf tag (128 * line)) line l)
include h

/-- An invalid way takes the line. -/
theorem exec_offerC_invalidWay {q : State} (hfull : (s.victim p line tag).setFull (s.homeOf tag (128 * line)) = (false, q)) :
    exec (.offerC p tag line) s = .next (q.putClean (s.homeOf tag (128 * line)) line l) := by
  show execOfferC p tag line s = _
  unfold execOfferC
  rw [hl]
  simp [hclean, h.on, h.absent, h.good, h.plain, hfull, State.putClean]

/-- Of a full set the line takes a colder clean way. -/
theorem exec_offerC_colderWay {q s2 : State} {k : Nat}
    (hfull : (s.victim p line tag).setFull (s.homeOf tag (128 * line)) = (true, q)) (hdraw : q.drawBool = (true, s2))
    (hway : listAt ((s2.drawBits.2.sliceKeys (s.homeOf tag (128 * line))).filter s2.drawBits.2.leavesFree)
      (s2.drawBits.1.toNat % ((s2.drawBits.2.sliceKeys (s.homeOf tag (128 * line))).filter s2.drawBits.2.leavesFree).length) = some k) :
    exec (.offerC p tag line) s = .next ((s2.drawBits.2.leaveWay k).putClean (s.homeOf tag (128 * line)) line l) := by
  show execOfferC p tag line s = _
  unfold execOfferC
  rw [hl]
  simp [hclean, h.on, h.absent, h.good, h.plain, hfull, hdraw, hway, State.putClean]

/-- A full set with no colder way declines the line, and counts it. -/
theorem exec_offerC_declined {q s2 : State}
    (hfull : (s.victim p line tag).setFull (s.homeOf tag (128 * line)) = (true, q)) (hdraw : q.drawBool = (false, s2)) :
    exec (.offerC p tag line) s = .next (s2.drawBits.2.updSlice (s.homeOf tag (128 * line)) (fun x =>
      { x with offerDecl := sat16 x.offerDecl 1 })) := by
  show execOfferC p tag line s = _
  unfold execOfferC
  rw [hl]
  simp [hclean, h.on, h.absent, h.good, h.plain, hfull, hdraw]
  split <;> rfl

end
end

/-! ## Snoops (R240, R242, R270) -/

theorem exec_snoop (inv : Bool) :
    exec (if inv then .snpInv id else .snpSh id) s = takeSnoop inv id s := by
  cases inv <;> rfl

/-- A die answers a snoop that no hart's hold on the line keeps waiting. -/
theorem takeSnoop_answers (hx : s.snoops.find? (fun y => y.id = id) = some x) (hopen : x.answered = false)
    (hheld : ∀ e ∈ s.harts, ¬(e.1 / 64 = x.parlour.val ∧ e.2.lrHold = true ∧ e.2.reserve = some x.line)) :
    takeSnoop x.inv id s = .next (s.snoopGiven x) := by
  unfold takeSnoop
  rw [hx]
  refine if_neg ?_
  simpa [hopen, and_assoc] using hheld

/-- An answer that stays uncorrectable counts as none (R407). -/
theorem exec_snoopAnswer_lost (hx : s.snoops.find? (fun y => y.id = id) = some x) (hans : x.answered = true) :
    exec (.snoopAnswer id .lasting) s = .next (s.snoopLost x) := by
  show execSnoopAnswer id .lasting s = _
  unfold execSnoopAnswer
  rw [hx]
  simp [hans]

/-- The home takes an answer; one that came right on its second passage is counted. -/
theorem exec_snoopAnswer_taken (hx : s.snoops.find? (fun y => y.id = id) = some x) (hans : x.answered = true) (hecc : ecc ≠ .lasting) :
    exec (.snoopAnswer id ecc) s = .next (((if ecc = .transient then
      s.updWing (cellarOf x.slice) (fun w => { w with snpRetry := sat16 w.snpRetry 1 }) else s).snoopTaken x).lineFree x.slice x.line) := by
  show execSnoopAnswer id ecc s = _
  unfold execSnoopAnswer
  rw [hx]
  simp [hans, hecc]

theorem State.snoopTaken_inv_clean (hinv : x.inv = true) (hdata : x.data = none) :
    let s1 : State := { s with snoops := s.snoops.filter (fun y => y.id ≠ x.id) }
    s.snoopTaken x = s1.setDir x.slice x.line ((s1.dir x.slice x.line).leave x.parlour) := by
  simp [State.snoopTaken, hinv, hdata]

theorem State.snoopTaken_inv_dirty {d : List Byte} {poison : Bool} (hinv : x.inv = true) (hdata : x.data = some (d, poison)) :
    let s1 : State := { s with snoops := s.snoops.filter (fun y => y.id ≠ x.id) }
    let s2 := s1.takeDirty x.slice x.line d poison
    s.snoopTaken x = s2.setDir x.slice x.line ((s2.dir x.slice x.line).leave x.parlour) := by
  simp [State.snoopTaken, hinv, hdata]

end Sys2Proof.Machine

open Sys2Proof Sys2Proof.Machine

/-- Settles O38: each row by the branch its conditions choose; a snoop that was found has the number it was looked for by. -/
theorem snoopsAndVictims : Obligations.SnoopsAndVictims := by
  refine ⟨fun s p tag line l => exec_wbD, fun s p tag line l hl hclean => ⟨exec_offerC_disabled hl hclean,
      fun hon habsent hgood hplain => ?offer⟩, fun s id x hx hopen hheld => ?given,
    fun s id x hx hans => ⟨exec_snoopAnswer_lost hx hans, fun ecc hecc => ?taken,
      exec_snoopAnswer_taken (ecc := .transient) hx hans (by decide)⟩⟩
  case offer =>
    have h : (s.victim p line tag).TakesOffer (s.homeOf tag (128 * line)) line l := ⟨hon, habsent, hgood, hplain⟩
    exact ⟨fun q => exec_offerC_invalidWay hl hclean h, fun q s2 k => exec_offerC_colderWay hl hclean h,
      fun q s2 => exec_offerC_declined hl hclean h⟩
  case given =>
    obtain rfl : x.id = id := by simpa using List.find?_some hx
    exact (exec_snoop x.inv).trans (takeSnoop_answers hx hopen hheld)
  case taken =>
    obtain rfl : x.id = id := by simpa using List.find?_some hx
    have hrow : exec (.snoopAnswer x.id ecc) s = .next ((s.snoopTaken x).lineFree x.slice x.line) := by
      rcases hecc with rfl | rfl <;> exact exec_snoopAnswer_taken hx hans (by decide)
    refine ⟨fun hinv hdata => ?_, fun d poison hinv hdata => ?_, fun _ => hrow⟩
    · rw [hrow, State.snoopTaken_inv_clean hinv hdata]
    · rw [hrow, State.snoopTaken_inv_dirty hinv hdata]

end

section
/-! SUPPORT. Fills, the ends of evictions, and homes whose answers never come: what each row does where its conditions hold (R231, R234,
R236, R243). -/

namespace Sys2Proof.Machine

variable {s : State} {slice : Fin 128} {line : Nat} {q : Fin 4} {m : Miss} {d : List Byte}

/-! ## Fills (R231, R234) -/

/-- A miss entry after one of its sectors has come in. -/
def Miss.fill (m : Miss) (q : Nat) (d : List Byte) : Miss :=
  { m with arrived := m.arrived.filter (fun a => a.1 ≠ q), filled := m.filled ++ [(q, d)] }

def State.setMiss (s : State) (key : Nat) (m : Miss) : State := { s with misses := Table.set s.misses key m }

/-- What waits for a line's fills goes on. -/
def State.fillGoesOn (t : State) (slice line : Nat) : State := (t.answerJoined slice line false).closeMiss slice line

/-- Whether a fill of a miss entry is installed: the slice is enabled, a requester allocates, the data is good, and the line has neither
an entry of the eviction buffer nor a partial. -/
def State.installs (s : State) (slice line : Nat) (m : Miss) : Bool :=
  (s.slice slice).enable && m.attr.allocates && !m.poison && (s.evictedLine (lineKey slice line)).isNone
    && (s.partialOf (lineKey slice line)).isNone

section
variable (hm : Table.find s.misses (lineKey slice.val line) = some m) (hd : m.arrived.find? (fun a => a.1 = q.val) = some (q.val, d))
include hm hd

theorem exec_memoryFill :
    exec (.memoryFill slice line q) s =
      let t := s.setMiss (lineKey slice.val line) (m.fill q.val d)
      let w := if s.installs slice.val line m && s.absent slice.val line then t.takeWay slice.val else (true, t)
      if !w.1 then .next { s with freeCtr := w.2.freeCtr }
      else .next ((if s.installs slice.val line m then w.2.installFilled slice.val line (m.fill q.val d)
        else w.2).fillGoesOn slice.val line) := by
  show execMemoryFill slice line q s = _
  unfold execMemoryFill
  simp only [hm, hd]
  rfl

/-- A sector that no way may take goes to what waits for it alone. -/
theorem exec_memoryFill_passes (hno : s.installs slice.val line m = false) :
    exec (.memoryFill slice line q) s
      = .next ((s.setMiss (lineKey slice.val line) (m.fill q.val d)).fillGoesOn slice.val line) := by
  rw [exec_memoryFill hm hd]
  simp [hno]

section
variable (hfill : s.installs slice.val line m = true)
include hfill

/-- A sector of a line that the slice holds in part is installed beside the others. -/
theorem exec_memoryFill_joins (hl : (Table.find s.lines (lineKey slice.val line)).isSome = true) :
    exec (.memoryFill slice line q) s = .next (((s.setMiss (lineKey slice.val line) (m.fill q.val d)).installFilled slice.val line
      (m.fill q.val d)).fillGoesOn slice.val line) := by
  have hheld : s.absent slice.val line = false := by
    obtain ⟨l, hl⟩ := Option.isSome_iff_exists.1 hl
    simp [State.absent, hl]
  rw [exec_memoryFill hm hd]
  simp [hfill, hheld]

/-- A sector of a line that the slice does not hold is installed in the way that it takes. -/
theorem exec_memoryFill_installs {s2 : State} (hl : Table.find s.lines (lineKey slice.val line) = none)
    (hev : s.evictedLine (lineKey slice.val line) = none)
    (hway : (s.setMiss (lineKey slice.val line) (m.fill q.val d)).takeWay slice.val = (true, s2)) :
    exec (.memoryFill slice line q) s
      = .next ((s2.installFilled slice.val line (m.fill q.val d)).fillGoesOn slice.val line) := by
  have habsent : s.absent slice.val line = true := by simp [State.absent, hl, hev]
  rw [exec_memoryFill hm hd]
  simp [hfill, habsent, hway]

end
end

/-! ## The ends of evictions (R236) -/

theorem exec_evictionAck_dirty {l : SLine} (hev : Table.find s.evicted (lineKey slice.val line) = some (.dirty l)) :
    exec (.evictionAck slice line) s
      = .next ({ s.writeBack line l with evicted := Table.erase s.evicted (lineKey slice.val line) }.lineFree slice.val line) := by
  show execEvictionAck slice line s = _
  unfold execEvictionAck
  simp only [hev]

theorem exec_evictionAck_partial {p : Partial} (hev : Table.find s.evicted (lineKey slice.val line) = some (.part p true))
    (hadder : s.inAdder line = false) (htally : s.tallyOpen p = false) :
    exec (.evictionAck slice line) s
      = .next ({ s with evicted := Table.erase s.evicted (lineKey slice.val line) }.lineFree slice.val line) := by
  show execEvictionAck slice line s = _
  unfold execEvictionAck
  simp only [hev]
  exact if_neg (by simp [hadder, htally])

/-! ## Homes whose answers never come (R243) -/

theorem exec_homeResponseTimeout_snoop {x : Snoop} (hx : s.snoops.find? (fun y => y.slice = slice.val && y.line = line) = some x) :
    exec (.homeResponseTimeout slice line) s = .next (s.snoopLost x) := by
  show execHomeResponseTimeout slice line s = _
  unfold execHomeResponseTimeout
  simp only [hx]

/-- The state of a home whose read, write or partial the controller has not answered: reported and counted, the line poisoned. -/
def State.ctlTimeout (s : State) (slice line : Nat) : State :=
  s.homeTimeout slice line (endpointId (ctlEndpoint (s.ctlOf (128 * line)))) 1

/-- The controller's part of the line's read is given up. -/
def State.readGivenUp (s : State) (slice line : Nat) : State :=
  s.updMc (s.ctlOf (128 * line)) (fun c => { c with reqs := c.reqs.filter (fun r => !(r.slice = slice && r.line = line)) })

/-- The adder's part of the line's partial is given up. -/
def State.rmwGivenUp (s : State) (line : Nat) : State :=
  s.updMc (s.ctlOf (128 * line)) (fun c => { c with rmws := c.rmws.filter (fun w => w.line ≠ line) })

/-- An entry of the eviction buffer is given up: the line is marked in memory, and its queue moves on. -/
def State.evictionGivenUp (s : State) (slice line : Nat) : State :=
  { s with evicted := Table.erase s.evicted (lineKey slice line), extPoison := addOnce line s.extPoison }.lineFree slice line

section
variable (hx : s.snoops.find? (fun y => y.slice = slice.val && y.line = line) = none)
include hx

theorem exec_homeResponseTimeout_miss (hm : Table.find s.misses (lineKey slice.val line) = some m) (hasked : m.asked ≠ []) :
    exec (.homeResponseTimeout slice line) s = .next ((((s.ctlTimeout slice.val line).readGivenUp slice.val line).setMiss
      (lineKey slice.val line) { m with want := [], asked := [], arrived := [], poison := true }).closeMiss slice.val line) := by
  show execHomeResponseTimeout slice line s = _
  unfold execHomeResponseTimeout
  simp only [hx, hm]
  exact if_neg hasked

section
variable (hm : Table.find s.misses (lineKey slice.val line) = none)
include hm

theorem exec_homeResponseTimeout_dirty {l : SLine} (hev : Table.find s.evicted (lineKey slice.val line) = some (.dirty l)) :
    exec (.homeResponseTimeout slice line) s = .next ((s.ctlTimeout slice.val line).evictionGivenUp slice.val line) := by
  show execHomeResponseTimeout slice line s = _
  unfold execHomeResponseTimeout
  simp only [hx, hm, hev]
  rfl

theorem exec_homeResponseTimeout_partial {p : Partial} (hev : Table.find s.evicted (lineKey slice.val line) = some (.part p true)) :
    exec (.homeResponseTimeout slice line) s
      = .next (((s.ctlTimeout slice.val line).rmwGivenUp line).evictionGivenUp slice.val line) := by
  show execHomeResponseTimeout slice line s = _
  unfold execHomeResponseTimeout
  simp only [hx, hm, hev]
  rfl

end
end

end Sys2Proof.Machine

open Sys2Proof Sys2Proof.Machine

/-- Settles O39: each row by the branch its conditions choose. -/
theorem fillsAndEvictions : Obligations.FillsAndEvictions := by
  refine ⟨fun s slice line q m d hm hd => ⟨fun hno => ?passes, fun hon halloc hgood hev hpart => ?installed⟩,
    fun s slice line l hev => ⟨exec_evictionAck_dirty hev, fun hwhole => if_pos hwhole⟩, fun s slice line p => exec_evictionAck_partial,
    fun s slice line x => exec_homeResponseTimeout_snoop, fun s slice line hx => ⟨fun m hm hasked => ?miss,
      fun l hm hev => exec_homeResponseTimeout_dirty hx hm hev,
      fun p hm hev => exec_homeResponseTimeout_partial hx hm hev⟩⟩
  case passes =>
    refine exec_memoryFill_passes hm hd ?_
    rcases hno with h | h | h <;> simp [State.installs, h]
  case installed =>
    have hfill : s.installs slice.val line m = true := by simp [State.installs, hon, halloc, hgood, hev, hpart]
    exact ⟨exec_memoryFill_joins hm hd hfill, fun s2 hl => exec_memoryFill_installs hm hd hfill hl hev⟩
  case miss => exact ⟨_, exec_homeResponseTimeout_miss hx hm hasked, Table.find_set_same _ _ _⟩

end

section
/-! SUPPORT. The adders: a partial on its way to one, the end of a read-modify-write, and tally adds (R254, R255, R299). `Table.set` and
`Table.erase` keep a table canonical (`Table.set_wf`, `Table.erase_wf`), but a statement over every state also meets a table that lists a
key twice, and such a table still lists the key once it is dropped. -/

namespace Sys2Proof.Machine

variable {s : State} {slice : Fin 128} {line : Nat} {p : Partial}

/-! ## A partial that an adder asks for (R254, R255) -/

/-- A partial leaves its slice for the eviction buffer. -/
def State.partialLeaves (s : State) (slice line : Nat) (p : Partial) : State :=
  { s with
    partials := Table.erase s.partials (lineKey slice line),
    evicted := Table.set s.evicted (lineKey slice line) (.part p false) }

/-- An adder takes a partial that waits in the eviction buffer. -/
def State.partialTaken (s : State) (slice line : Nat) (p : Partial) : State :=
  { s with evicted := Table.set s.evicted (lineKey slice line) (.part p true) }.adderTake slice line p

/-- The line's adder can take a partial of it: its memory is there, and the line is in flight or a read-modify-write is free. -/
structure State.AdderReady (s : State) (line : Nat) : Prop where
  there : s.pkgLost line = false
  room  : s.inAdder line = true ∨ ((s.mc (s.ctlOf (128 * line))).rmws.length < 32 ∧ (s.mc (s.ctlOf (128 * line))).wiping = false)

/-- What an adder does with what the eviction buffer holds of a line. -/
def State.adderLooks (s : State) (slice line : Nat) : Out :=
  match Table.find s.evicted (lineKey slice line) with
  | some (.part p false) =>
    if s.pkgLost line then
      let t := s.partialLost slice line
      .next ({ t with evicted := Table.erase t.evicted (lineKey slice line) }.lineFree slice line)
    else if !s.inAdder line && (decide (32 ≤ (s.mc (s.ctlOf (128 * line))).rmws.length)
        || (s.mc (s.ctlOf (128 * line))).wiping) then .next s
    else .next (s.partialTaken slice line p)
  | _ => .next s

theorem State.adderLooks_takes {i : Nat} (h : s.AdderReady line) (hev : Table.find s.evicted (lineKey i line) = some (.part p false)) :
    s.adderLooks i line = .next (s.partialTaken i line p) := by
  have hno : (!s.inAdder line && (decide (32 ≤ (s.mc (s.ctlOf (128 * line))).rmws.length)
      || (s.mc (s.ctlOf (128 * line))).wiping)) = false := by
    rcases h.room with h | ⟨hlen, hwipe⟩
    · simp [h]
    · simp [hwipe, hlen]
  unfold State.adderLooks
  simp [hev, h.there, hno]

theorem exec_adderPartial_buffered (h : s.AdderReady line) (hp : Table.find s.partials (lineKey slice.val line) = none)
    (hev : Table.find s.evicted (lineKey slice.val line) = some (.part p false)) :
    exec (.adderPartial slice line) s = .next (s.partialTaken slice.val line p) := by
  have hrow : exec (.adderPartial slice line) s = s.adderLooks slice.val line := by
    show execAdderPartial slice line s = _
    unfold execAdderPartial
    simp only [hp]
    rfl
  rw [hrow, State.adderLooks_takes h hev]

theorem exec_adderPartial_kept (h : s.AdderReady line) (hp : Table.find s.partials (lineKey slice.val line) = some p)
    (hev : Table.find s.evicted (lineKey slice.val line) = none) (hcount : s.evictCount slice.val < 32) :
    exec (.adderPartial slice line) s = .next ((s.partialLeaves slice.val line p).partialTaken slice.val line p) := by
  have hrow : exec (.adderPartial slice line) s = (s.partialLeaves slice.val line p).adderLooks slice.val line := by
    show execAdderPartial slice line s = _
    unfold execAdderPartial
    simp only [hp, hev, if_pos hcount]
    rfl
  exact hrow.trans (State.adderLooks_takes (s := s.partialLeaves slice.val line p) ⟨h.there, h.room⟩ (Table.find_set_same _ _ _))

theorem State.partialTaken_rest (s : State) (i line : Nat) (p : Partial) :
    s.partialTaken i line p = { s with
      evicted := Table.set s.evicted (lineKey i line) (.part p true), mcs := (s.partialTaken i line p).mcs } := by
  unfold State.partialTaken State.adderTake
  dsimp only
  split <;> rfl

/-- A line in flight takes the partial in. -/
theorem State.mc_partialTaken_merged {i : Nat} (h : s.inAdder line = true) :
    (s.partialTaken i line p).mc (s.ctlOf (128 * line)) =
      let c := s.mc (s.ctlOf (128 * line))
      { c with merged := sat16 c.merged 1,
               rmws := c.rmws.map (fun w =>
                 if w.line = line then { w with part := w.part.merge p, slices := w.slices ++ [i] } else w) } := by
  unfold State.partialTaken State.adderTake
  refine (congrArg (fun t : State => t.mc (s.ctlOf (128 * line))) (if_pos h)).trans ?_
  exact State.mc_updMc_same _ _ _

/-- Of a line that is not in flight a read-modify-write starts. -/
theorem State.mc_partialTaken_started {i : Nat} (h : s.inAdder line = false) :
    (s.partialTaken i line p).mc (s.ctlOf (128 * line)) =
      let c := s.mc (s.ctlOf (128 * line))
      { c with rmws := c.rmws ++ [{ line := line, part := p, slices := [i] }] } := by
  unfold State.partialTaken State.adderTake
  refine (congrArg (fun t : State => t.mc (s.ctlOf (128 * line))) (if_neg (by rw [← Bool.not_eq_true] at h; exact h))).trans ?_
  exact State.mc_updMc_same _ _ _

theorem Table.find_rises {α : Type} {b k : Nat} {t : Table α} (ht : Table.risesFrom b t = true) (hk : k < b) : Table.find t k = none := by
  induction t generalizing b with
  | nil => rfl
  | cons e t ih =>
    obtain ⟨i, v⟩ := e
    simp only [Table.risesFrom, Bool.and_eq_true, decide_eq_true_eq] at ht
    obtain ⟨hle, ht⟩ := ht
    rw [Table.find, if_neg (by omega), ih ht (by omega)]

/-- A canonical table lists no key that has been dropped. -/
theorem Table.find_erase_rises {α : Type} {b k : Nat} {t : Table α} (ht : Table.risesFrom b t = true) :
    Table.find (Table.erase t k) k = none := by
  induction t generalizing b with
  | nil => rfl
  | cons e t ih =>
    obtain ⟨i, v⟩ := e
    simp only [Table.risesFrom, Bool.and_eq_true, decide_eq_true_eq] at ht
    obtain ⟨-, ht⟩ := ht
    by_cases hk : k = i
    · rw [Table.erase, if_pos hk, Table.find_rises ht (by omega)]
    · rw [Table.erase, if_neg hk, Table.find, if_neg hk, ih ht]

/-- Where the slices' partials are a canonical table, an adder that can take a line's partial takes it (R254, R255): it is gone from its
slice, and waits in the buffer for its acknowledgement. -/
theorem exec_adderPartial (hwf : Table.wf s.partials = true) (h : s.AdderReady line)
    (hwaits : (Table.find s.partials (lineKey slice.val line) = none
        ∧ Table.find s.evicted (lineKey slice.val line) = some (.part p false))
      ∨ (Table.find s.partials (lineKey slice.val line) = some p ∧ Table.find s.evicted (lineKey slice.val line) = none
        ∧ s.evictCount slice.val < 32)) :
    ∃ t, exec (.adderPartial slice line) s = .next t ∧ Table.find t.partials (lineKey slice.val line) = none
      ∧ Table.find t.evicted (lineKey slice.val line) = some (.part p true) ∧ t.ext = s.ext
      ∧ t.mc (s.ctlOf (128 * line)) = (s.partialTaken slice.val line p).mc (s.ctlOf (128 * line)) := by
  rcases hwaits with ⟨hp, hev⟩ | ⟨hp, hev, hcount⟩
  · refine ⟨_, exec_adderPartial_buffered h hp hev, ?_, ?_, ?_, rfl⟩ <;> rw [State.partialTaken_rest]
    · exact hp
    · exact Table.find_set_same _ _ _
  · refine ⟨_, exec_adderPartial_kept h hp hev hcount, ?_, ?_, ?_, ?_⟩
    · rw [State.partialTaken_rest]
      exact Table.find_erase_rises hwf
    · rw [State.partialTaken_rest]
      exact Table.find_set_same _ _ _
    · rw [State.partialTaken_rest]
      rfl
    · cases hin : s.inAdder line
      · exact (State.mc_partialTaken_started (s := s.partialLeaves slice.val line p) hin).trans (State.mc_partialTaken_started hin).symm
      · exact (State.mc_partialTaken_merged (s := s.partialLeaves slice.val line p) hin).trans (State.mc_partialTaken_merged hin).symm

/-! ## The end of a read-modify-write (R299), and tally adds (R255) -/

theorem State.evicted_putLine (s : State) (line off : Nat) (bs : List Byte) : (s.putLine line off bs).evicted = s.evicted := rfl

theorem State.evicted_addPartial (s : State) (suite : BitVec 8) (line : Nat) (p : Partial) :
    (s.addPartial suite line p).evicted = s.evicted := by
  unfold State.addPartial
  refine foldl_keeps (g := State.evicted) _ s fun t k _ => ?_
  extract_lets e z r t1 m
  have h1 : t1.evicted = t.evicted := State.evicted_putLine t _ _ _
  clear_value t1
  split <;> exact h1

/-- A line's read-modify-write leaves its adder, which counts it and the bursts it takes. -/
def State.rmwApplied (s : State) (m : Ctl) (line : Nat) : State :=
  (s.updMc m (fun x => { x with rmws := x.rmws.filter (fun y => y.line ≠ line) })).updMc m (fun x =>
    { x with applied := sat16 x.applied 1, bursts := x.bursts + 8 })

/-- A finished pass over a good line, of one slice's partial, is added and acknowledged. -/
theorem exec_adderRmwComplete_one {pkg : Fin 32} {w : Rmw} {i : Nat}
    (hw : (s.mc (.lpd pkg)).rmws.find? (fun x => x.line = line) = some w) (hctl : s.ctlOf (128 * line) = .lpd pkg) (hone : w.slices = [i])
    (hev : Table.find s.evicted (lineKey i line) = some (.part p true))
    (hgood : (s.updMc (.lpd pkg) (fun x => { x with rmws := x.rmws.filter (fun y => y.line ≠ line) })).extBad line = false) :
    exec (.adderRmwComplete pkg line .clean) s =
      let t := (s.rmwApplied (.lpd pkg) line).addPartial (s.slice i).suite line w.part
      .next (if t.tallyOpen p then t else { t with evicted := Table.erase t.evicted (lineKey i line) }.lineFree i line) := by
  obtain rfl : w.line = line := by simpa using List.find?_some hw
  have hend : s.adderEnd w false = (s.rmwApplied (.lpd pkg) w.line).addPartial (s.slice i).suite w.line w.part := by
    unfold State.adderEnd
    simp only [hctl, hone, hgood]
    rfl
  have hev' : Table.find ((s.rmwApplied (.lpd pkg) w.line).addPartial (s.slice i).suite w.line w.part).evicted (lineKey i w.line)
      = some (.part p true) := by
    rw [State.evicted_addPartial]
    exact hev
  show execAdderRmwComplete pkg w.line .clean s = _
  unfold execAdderRmwComplete
  simp [hw, hone, hend, hev']

theorem exec_tallyAdd {n : Nat} {m : TallyMsg} (hm : listAt s.tallies n = some m) :
    let s0 := { s with tallies := listDrop s.tallies n }
    let line := m.pa / 128
    let slice := s0.homeOf m.suite (128 * line)
    s0.homeLost slice = false → s0.rangeAllows m.suite m.pa 4 false = true →
    let s1 := ((s0.settleLine slice line).snoopNow slice line true).portTaken slice 1
    let v := s1.viewLine slice line (sectorMask (m.pa % 128) 4)
    let s2 := if s1.needsWay slice line .wbA then s1.forceWay slice line else s1
    exec (.tallyAdd n) s = .next (if v.2 then s1
      else s2.writeLine slice line (m.pa % 128) (leBytes 4 (tallyWord (leNat ((v.1.drop (m.pa % 128)).take 4)) m)) .wbA false) := by
  intro s0 line slice hhome hpage s1 v s2
  have hgo : ¬((s0.homeLost slice || !s0.rangeAllows m.suite m.pa 4 false) = true) := by rw [hhome, hpage]; decide
  have hrow : exec (.tallyAdd n) s = if v.2 then .next s1
      else .next (s2.writeLine slice line (m.pa % 128) (leBytes 4 (tallyWord (leNat ((v.1.drop (m.pa % 128)).take 4)) m)) .wbA false) := by
    show execTallyAdd n s = _
    unfold execTallyAdd
    rw [hm]
    exact if_neg hgo
  rw [hrow]
  split <;> rfl

/-! ## A table that lists a key twice -/

/-- A state in which the partial of line 0 is listed twice. -/
def twiceListed : State :=
  { State.reset with partials := [(lineKey 0 0, { elems := [], tallyPa := 0 }), (lineKey 0 0, { elems := [], tallyPa := 0 })] }

end Sys2Proof.Machine

open Sys2Proof Sys2Proof.Machine

/-- Refutes O40: it ranges over every state, also one whose table of partials lists a key twice, and there the first entry alone leaves its
slice when the adder asks for it, where the statement has none left. Of a canonical table it holds (`exec_adderPartial`), and so do the
clauses about the end of a pass (`exec_adderRmwComplete_one`) and tally adds (`exec_tallyAdd`). -/
theorem not_addersReduce : ¬ Obligations.AddersReduce := by
  unfold Obligations.AddersReduce
  rintro ⟨hpartial, -, -⟩
  have hready : twiceListed.AdderReady 0 := ⟨by decide, .inr (by decide)⟩
  obtain ⟨-, hstart⟩ := hpartial twiceListed 0 0 { elems := [], tallyPa := 0 } (by decide) (.inr (by decide))
  obtain ⟨t, hrow, hgone, -⟩ := hstart (by decide) (by decide) (by decide)
  rw [exec_adderPartial_kept hready (p := { elems := [], tallyPa := 0 }) (by decide) (by decide) (by decide)] at hrow
  obtain rfl := Host.Outcome.next.inj hrow
  rw [State.partialTaken_rest] at hgone
  exact absurd hgone (by decide)

end

section
/-! SUPPORT. The translation operations of a Suite (R449) and writes that never land (R421). -/

namespace Sys2Proof.Machine

variable {s : State} {n : BitVec 8}

/-! ## Translation operations (R449) -/

/-- The operation in progress is carried out by the row of its kind. -/
theorem xlatRow_acts {op : BitVec 2} {f : GSuite → GSuite} (hbusy : (s.gsuite n).xbusy = true) (hdone : (s.gsuite n).xdone = false)
    (hop : (s.gsuite n).xop = op) : xlatRow op f n s = .next (s.updGsuite n (fun x => { f x with xdone := true })) := by
  unfold xlatRow
  exact if_neg (by simp [hbusy, hdone, hop])

/-- The entry that FILL asks for: the leaf at its page. -/
def GSuite.filled (g : GSuite) : Xlat :=
  { va := BitVec.ofNat 64 (g.xaddr / xlatBytes g.xsize * xlatBytes g.xsize), size := BitVec.ofNat 2 g.xsize, pte := g.xpte }

/-- Whether the leaf that FILL asks for is a leaf of its size. -/
def GSuite.fillValid (g : GSuite) : Bool := !(g.xsize = 3 || !leafValid g.xsize g.xpte.toNat)

theorem execFill_valid (hbusy : (s.gsuite n).xbusy = true) (hdone : (s.gsuite n).xdone = false) (hop : (s.gsuite n).xop = 1)
    (hvalid : (s.gsuite n).fillValid = true) :
    execFill n s = .next (s.updGsuite n (fun g => { g with
      xlats := g.xlats.filter (fun x => !x.covers (s.gsuite n).filled.va.toNat && !(s.gsuite n).filled.covers x.va.toNat)
        ++ [(s.gsuite n).filled],
      xdone := true })) := by
  refine (xlatRow_acts hbusy hdone hop).trans (congrArg _ (State.updGsuite_congr ?_))
  rw [if_neg (by simpa [GSuite.fillValid] using hvalid)]
  rfl

theorem execFill_invalid (hbusy : (s.gsuite n).xbusy = true) (hdone : (s.gsuite n).xdone = false) (hop : (s.gsuite n).xop = 1)
    (hvalid : (s.gsuite n).fillValid = false) : execFill n s = .next (s.updGsuite n (fun g => { g with xdone := true })) := by
  refine (xlatRow_acts hbusy hdone hop).trans (congrArg _ (State.updGsuite_congr ?_))
  rw [if_pos (by simpa only [GSuite.fillValid, Bool.not_eq_false'] using hvalid)]

theorem execInvalVa_drops (hbusy : (s.gsuite n).xbusy = true) (hdone : (s.gsuite n).xdone = false) (hop : (s.gsuite n).xop = 2) :
    execInvalVa n s = .next (s.updGsuite n (fun g => { g with
      xlats := g.xlats.filter (fun x => !x.covers (s.gsuite n).xaddr), xdone := true })) :=
  (xlatRow_acts hbusy hdone hop).trans (congrArg _ (State.updGsuite_congr rfl))

theorem exec_xlatOpComplete (hbusy : (s.gsuite n).xbusy = true) (hdone : (s.gsuite n).xdone = true)
    (hfree : ∀ c ∈ s.cores, ∀ d ∈ c.2.dma, (s.slot d.g).suite = n → ∀ p ∈ d.pages,
      ¬((s.gsuite n).xop = 3 ∨ ((s.gsuite n).xop = 2 ∧ (s.gsuite n).xaddr / xlatBytes p.2 = p.1 / xlatBytes p.2))) :
    exec (.xlatOpComplete n) s = .next (s.updGsuite n (fun x => { x with xbusy := false, xop := 0, xdone := false })) := by
  have hpin : s.pinned n (fun p => (s.gsuite n).xop = 3
      || ((s.gsuite n).xop = 2 && (s.gsuite n).xaddr / xlatBytes p.2 = p.1 / xlatBytes p.2)) = false := by
    simp only [State.pinned, List.any_eq_false, Bool.and_eq_true, decide_eq_true_eq, List.any_eq_true, Bool.or_eq_true, not_and,
      not_exists]
    exact fun c hc d hd hsuite p hp => hfree c hc d hd hsuite p hp
  show execXlatOpComplete n s = _
  unfold execXlatOpComplete
  exact if_neg (by simp only [hbusy, hdone, hpin]; decide)

/-! ## Writes that never land (R421) -/

theorem exec_writeDropped {k : Nat} {r : Req} {reason : BitVec 2} (hr : Table.find s.reqs k = some r) (hkind : r.kind ≠ .read)
    (hhart : ∀ h, r.owner ≠ .hart h) (hopen : r.stage ≠ .answered ∨ r.gone = true) (hholds : s.dropHolds r reason = true) :
    ∃ subject, exec (.writeDropped k reason) s = .next (s.dropWrite k reason subject) := by
  have hrow : exec (.writeDropped k reason) s = execWriteDropped k reason s := rfl
  rw [hrow]
  unfold execWriteDropped
  simp only [hr]
  have hgone : r.stage = .answered → r.gone = true := fun h => hopen.resolve_left (not_not.2 h)
  rw [if_neg]
  · exact ⟨_, rfl⟩
  · cases ho : r.owner with
    | hart h => exact absurd ho (hhart h)
    | _ => simpa [hkind, hholds] using hgone

end Sys2Proof.Machine
end

section
/-! SUPPORT. The maintenance engine (R248 to R251): a slot's work, one line's step where nothing else of the line is in flight, and the
slot's end. -/

namespace Sys2Proof.Machine

variable {s s1 t : State} {wing n : Fin 8} {slice line : Nat}

/-! ## A slot's work (R249, R250) -/

/-- The descriptor of a slot as it is read: by the Hearth at a physical address, else on its Suite's behalf. -/
def State.mntFetch (s : State) (x : Maint) : Option (List Byte) × State :=
  if x.byHearth then
    let q := s.hearthRead x.desc.toNat 32
    (if q.1.2 then none else some q.1.1, q.2)
  else s.gRead x.owner x.desc.toNat 32

theorem State.mntFetch_eq {x : Maint} {bs : List Byte}
    (hhearth : x.byHearth = true → s.hearthRead x.desc.toNat 32 = ((bs, false), s1))
    (hsuite : x.byHearth = false → s.gRead x.owner x.desc.toNat 32 = (some bs, s1)) : s.mntFetch x = (some bs, s1) := by
  unfold State.mntFetch
  cases hx : x.byHearth
  · exact (if_neg Bool.false_ne_true).trans (hsuite hx)
  · rw [if_pos rfl, hhearth hx]
    rfl

/-- A slot whose work is done, with what it found. -/
def State.mntDone (t : State) (wing n : Fin 8) (st va done : Nat) (ranges : List (Nat × Nat)) (slices : List Nat) : State :=
  t.updMaint wing n.val (fun y =>
    { y with started := true, result := BitVec.ofNat 8 st, faultVa := BitVec.ofNat 64 va, doneAddr := BitVec.ofNat 64 done,
             ranges := ranges, slices := slices })

section
variable {op : Nat} {bs : List Byte} (hbusy : (s.maint wing n.val).busy = true) (hstarted : (s.maint wing n.val).started = false)
  (hfetch : s.mntFetch (s.maint wing n.val) = (some bs, s1))
include hbusy hstarted hfetch

theorem runMaint_refused (hform : mntFormOk (wordsOf bs) (s.maint wing n.val).byHearth = false) :
    runMaint op wing n s
      = .next (s1.mntDone wing n 2 0 (if wordAt (wordsOf bs) 2 % 8 = 0 then wordAt (wordsOf bs) 2 else 0) [] []) := by
  unfold State.mntFetch at hfetch
  unfold runMaint
  simp only [hbusy, hstarted, hfetch, hform]
  rfl

section
variable (hform : mntFormOk (wordsOf bs) (s.maint wing n.val).byHearth = true) (hop : bitsOf (wordAt (wordsOf bs) 1) 40 4 = op)
include hform hop

theorem runMaint_slices (htarget : bitsOf (wordAt (wordsOf bs) 1) 44 2 = 1) :
    runMaint op wing n s =
      let own := sliceList (s1.suite (s.maint wing n.val).owner).slices
      .next ((s1.mntSlices op own).mntDone wing n 0 0 (wordAt (wordsOf bs) 2) [(0, 2 ^ 48)] (if op = 2 || op = 3 then own else [])) := by
  unfold State.mntFetch at hfetch
  unfold runMaint
  simp only [hbusy, hstarted, hfetch, hform, Bool.not_true, Bool.or_false, Bool.false_eq_true, if_false]
  rw [if_neg (not_not.2 hop), if_pos htarget]
  rfl

theorem runMaint_range (htarget : bitsOf (wordAt (wordsOf bs) 1) 44 2 = 0) {st va : Nat} {ranges : List (Nat × Nat)} {t : State}
    (hrange : s1.mntRange op (s.maint wing n.val).owner (s.maint wing n.val).byHearth
      (pagePieces (wordAt (wordsOf bs) 0) (bitsOf (wordAt (wordsOf bs) 1) 0 40)) = ((st, va, ranges), t)) :
    runMaint op wing n s = .next (t.mntDone wing n st va (wordAt (wordsOf bs) 2) ranges []) := by
  unfold State.mntFetch at hfetch
  unfold runMaint
  simp only [hbusy, hstarted, hfetch, hform, Bool.not_true, Bool.or_false, Bool.false_eq_true, if_false]
  rw [if_neg (not_not.2 hop), if_neg (by simp [htarget]), hrange]
  rfl

end
end

/-! ## A slot's end (R246, R251) -/

/-- A slot leaves BUSY with the status its work gave. -/
def State.mntLeaves (t : State) (wing n : Fin 8) : State :=
  t.updMaint wing n.val (fun y => { y with busy := false, started := false, status := y.result })

theorem exec_maintenanceComplete (hbusy : (s.maint wing n.val).busy = true) (hstarted : (s.maint wing n.val).started = true)
    (howes : s.mntOwes (s.maint wing n.val) = false) :
    exec (.maintenanceComplete wing n) s =
      let x := s.maint wing n.val
      let s0 := x.slices.foldl State.cleanState s
      .next ((if x.doneAddr = 0 then s0
        else if x.byHearth then s0.hearthWrite x.doneAddr.toNat (leBytes 8 (mntWord x))
        else (s0.gWrite x.owner x.doneAddr.toNat (leBytes 8 (mntWord x))).2).mntLeaves wing n) := by
  show execMaintenanceComplete wing n s = _
  unfold execMaintenanceComplete
  exact if_neg (by simp [hbusy, hstarted, howes])

/-! ## A line with nothing in flight (R233, R240, R254) -/

theorem Table.erase_of_find_none {α : Type} {t : Table α} {k : Nat} (h : Table.find t k = none) : Table.erase t k = t := by
  induction t with
  | nil => rfl
  | cons e t ih =>
    obtain ⟨i, v⟩ := e
    by_cases hk : k = i
    · simp [Table.find, hk] at h
    · rw [Table.find, if_neg hk] at h
      rw [Table.erase, if_neg hk, ih h]

/-- A line that no snoop, partial, directory entry or adder has anything of. -/
structure State.LineQuiet (s : State) (slice line : Nat) : Prop where
  snoops : s.snoops = []
  plain  : s.partialOf (lineKey slice line) = none
  dirs   : Table.find s.dirs (lineKey slice line) = none
  adder  : s.inAdder line = false

namespace State.LineQuiet
variable (h : s.LineQuiet slice line)
include h

theorem settleSnoops : s.settleSnoops slice line = s := by
  unfold State.settleSnoops
  rw [h.snoops]
  rfl

theorem settleAdder : s.settleAdder line = s := by
  have hnone : (s.mc (s.ctlOf (128 * line))).rmws.find? (fun w => w.line = line) = none := by
    have := h.adder
    simpa [State.inAdder] using this
  unfold State.settleAdder
  rw [hnone]

theorem settlePartial : s.settlePartial slice line = s := by
  unfold State.settlePartial
  simp only [h.settleAdder, h.plain]

theorem snoopNow (inv : Bool) : s.snoopNow slice line inv = s := by
  have hdir : s.dir slice line = .i := by simp [State.dir, Table.get, h.dirs]
  have hset : s.setDir slice line .i = s := by
    unfold State.setDir
    rw [if_pos rfl, Table.erase_of_find_none h.dirs]
  unfold State.snoopNow
  simp only [h.settleSnoops, hdir]
  cases inv <;> exact hset

/-- What a slice's port has taken leaves the line as quiet as it was. -/
theorem portTaken (port : Nat) : (s.portTaken slice port).LineQuiet slice line where
  snoops := h.snoops
  plain := h.plain
  dirs := h.dirs
  adder := h.adder

end State.LineQuiet

section
variable (h : s.LineQuiet slice line)
include h

theorem State.mntLine_clean : s.mntLine 1 slice line = (s.portTaken slice 2).cleanLine slice line := by
  unfold State.mntLine
  simp only [h.settleSnoops, (h.portTaken 2).settlePartial, (h.portTaken 2).snoopNow]

theorem State.mntLine_cleanInval : s.mntLine 3 slice line = (s.portTaken slice 2).cleanDrop slice line := by
  unfold State.mntLine
  simp only [h.settleSnoops, (h.portTaken 2).settlePartial, (h.portTaken 2).snoopNow]

theorem State.mntLine_prefetch : s.mntLine 5 slice line = (s.portTaken slice 2).fillLine slice line := by
  unfold State.mntLine
  simp only [h.settleSnoops, (h.portTaken 2).plain]
  rfl

end

/-! ## ZERO (R250) -/

/-- What says which memory stands behind a line, whether it is lost, and what it holds. -/
def State.backing (s : State) : Hearth × Table Mc × Table Wing × Mem × (Fin 2 → BitVec 6) :=
  (s.hearth, s.mcs, s.wings, s.ext, fun n => (s.parlour n).chIn)

theorem State.pkgLost_of_backing (h : t.backing = s.backing) (line : Nat) : t.pkgLost line = s.pkgLost line := by
  simp only [State.backing, Prod.mk.injEq] at h
  obtain ⟨hhearth, hmcs, hwings, -, hch⟩ := h
  have hinc : ∀ n, (t.parlour n).included = (s.parlour n).included := fun n => by
    simp only [Parlour.included, show (t.parlour n).chIn = (s.parlour n).chIn from congrFun hch n]
  have hctl : t.ctlOf (128 * line) = s.ctlOf (128 * line) := by
    have hband : ∀ b, t.band b = s.band b := fun b => by simp only [State.band, hhearth]
    have hplace : t.lpdPlace (128 * line) = s.lpdPlace (128 * line) := by simp only [State.lpdPlace, hband]
    cases hr : rangeOf (128 * line) <;> simp only [State.ctlOf, hr, hplace, hinc]
  simp only [State.pkgLost, hctl, State.mc, State.wing, hmcs, hwings]

theorem State.backing_updParlour_snooped (s : State) (n : Fin 2) (inv : Bool) (l : Nat) :
    (s.updParlour n (fun p => p.snooped inv l)).backing = s.backing := by
  have hch : ∀ i, ((s.updParlour n (fun p => p.snooped inv l)).parlour i).chIn = (s.parlour i).chIn := fun i => by
    by_cases hi : i = n
    · subst hi
      rw [State.parlour_updParlour_same]
      cases inv <;> rfl
    · rw [State.parlour_updParlour_other _ _ _ _ (fun hv => hi (Fin.ext hv))]
  simp only [State.backing, hch]
  rfl

theorem State.backing_snoopDrop (s : State) (slice line : Nat) : (s.snoopDrop slice line).backing = s.backing :=
  foldl_keeps (g := State.backing) (List.finRange 2) s fun t n _ => t.backing_updParlour_snooped n true line

/-- Bytes written to memory that is there read back. -/
theorem State.read_extWrite_inside {off i : Nat} {bs : List Byte} {poison : Bool} (hwf : s.ext.wf = true) (hpkg : s.pkgLost line = false)
    (hi : i < bs.length) : (s.extWrite line off bs poison).ext.read (128 * line + off + i) = bs[i] := by
  have hext : (s.extWrite line off bs poison).ext = (s.putLine line off bs).ext := by
    unfold State.extWrite
    rw [if_neg (by simp [hpkg])]
    rfl
  have hwf0 : (if decide (s.keyStored line = s.keyNow line) then s.ext else s.ext.writeN (128 * line) (s.extLine line)).wf = true := by
    split
    · exact hwf
    · exact Mem.writeN_wf hwf
  rw [hext]
  exact Mem.read_writeN_inside hwf0 hi

theorem State.mntLine_zero (h : s.LineQuiet slice line) (hwf : s.ext.wf = true) (hpkg : s.pkgLost line = false) {a : Nat} (ha : a < 128) :
    (s.mntLine 4 slice line).ext.read (128 * line + a) = 0 := by
  have hdrop : ((s.portTaken slice 2).dropPartial slice line).backing = s.backing := by
    unfold State.dropPartial
    simp only [(h.portTaken 2).settleAdder]
    rfl
  have hback : ((((s.portTaken slice 2).dropPartial slice line).snoopDrop slice line).dropLine slice line).backing = s.backing :=
    (State.backing_snoopDrop _ slice line).trans hdrop
  have hext : ((((s.portTaken slice 2).dropPartial slice line).snoopDrop slice line).dropLine slice line).ext = s.ext :=
    congrArg (fun b => b.2.2.2.1) hback
  have hlen : a < (List.replicate 128 (0 : Byte)).length := by rwa [List.length_replicate]
  unfold State.mntLine
  simp only [h.settleSnoops]
  exact (State.read_extWrite_inside (off := 0) (hext ▸ hwf) ((State.pkgLost_of_backing hback line).trans hpkg) hlen).trans
    (List.getElem_replicate _)

end Sys2Proof.Machine

open Sys2Proof Sys2Proof.Machine

/-- Settles O41: the rows by the branch their conditions choose; a line that nothing else has in flight settles to itself, and what ZERO
drops of it first leaves the memory behind it as it is. -/
theorem translationAndMaintenance : Obligations.TranslationAndMaintenance := by
  refine ⟨fun s n hbusy => ⟨fun hdone => ⟨fun hop hsize hleaf => ?fill, fun hop hbad => ?noFill,
      fun hop => execInvalVa_drops hbusy hdone hop, fun hop => xlatRow_acts hbusy hdone hop⟩, exec_xlatOpComplete hbusy⟩,
    ?rows, fun s slice line hsn hpart hdirs hadder => ?line, fun s wing n hbusy hstarted howes => ?ends,
    fun s k r reason => exec_writeDropped⟩
  case fill => exact execFill_valid hbusy hdone hop (by simp [GSuite.fillValid, hleaf, Nat.ne_of_lt hsize])
  case noFill => exact execFill_invalid hbusy hdone hop (by rcases hbad with h | h <;> simp [GSuite.fillValid, h])
  case rows =>
    intro row
    have hrow : ∀ (op : Nat) (c : Fin 8 → Fin 8 → Instr), (∀ s wing n, exec (c wing n) s = runMaint op wing n s) → row op c := by
      intro op c hc s wing n bs s1 x hbusy hstarted hhearth hsuite ws done own
      have hfetch : s.mntFetch x = (some bs, s1) := State.mntFetch_eq hhearth hsuite
      rw [hc]
      exact ⟨runMaint_refused hbusy hstarted hfetch, fun hform hop => ⟨runMaint_slices hbusy hstarted hfetch hform hop,
        fun htarget st va ranges t => runMaint_range hbusy hstarted hfetch hform hop htarget⟩⟩
    exact ⟨hrow 1 .clean fun _ _ _ => rfl, hrow 2 .inval fun _ _ _ => rfl, hrow 3 .cleanInval fun _ _ _ => rfl,
      hrow 4 .zero fun _ _ _ => rfl, hrow 5 .prefetch fun _ _ _ => rfl, hrow 6 .last fun _ _ _ => rfl⟩
  case line =>
    have h : s.LineQuiet slice line := ⟨hsn, hpart, hdirs, hadder⟩
    exact ⟨State.mntLine_clean h, State.mntLine_cleanInval h, State.mntLine_prefetch h,
      fun a ha hpkg hwf => State.mntLine_zero h hwf hpkg ha⟩
  case ends =>
    rw [exec_maintenanceComplete hbusy hstarted howes]
    refine ⟨fun hno => ?_, fun hdone hhearth => ?_, fun hdone hhearth => ?_⟩
    · dsimp only
      rw [if_pos hno]
      rfl
    · dsimp only
      rw [if_neg hdone, if_pos hhearth]
      rfl
    · dsimp only
      rw [if_neg hdone, if_neg (by simp [hhearth])]
      rfl

end

section
/-! SUPPORT. Copy engines: what each row does where its conditions hold (R324 to R330, R334). -/

namespace Sys2Proof.Machine

variable {s : State} {e : Fin 32}

/-! ## Pieces and records of a transfer (R325 to R328) -/

/-- The descriptor in an engine's hand has more to move. -/
structure CopyEngine.Going (x : CopyEngine) (op : Nat) : Prop where
  busy  : x.busy = true
  words : x.words.isSome = true
  isOp  : x.op = op
  more  : x.next < x.len
  good  : x.status = 0 ∨ x.status = 3
  owned : x.owner.isSome = true

/-- The descriptor in hand has begun to move. -/
def State.moves (s : State) (e : Fin 32) : State := s.updEngine e (fun y => { y with moved := true })

theorem copyMove_going {op : Nat} (h : (s.engine e).Going op) :
    copyMove op e s =
      if (s.engine e).gcm then
        if (s.engine e).srcHost then
          if (s.engine e).open_ ≠ [] || !s.hostRoom e 12 then .next s else .next ((s.moves e).recordIn e)
        else if !s.hostRoom e 12 then .next s else .next ((s.moves e).recordOut e)
      else if (s.engine e).srcHost then
        let x := s.engine e
        let n := min (min 512 (x.len - x.next)) (4096 - (x.word 0 + x.next) % 4096)
        if !s.hostRoom e 1 then .next s
        else .next (((s.moves e).updEngine e (fun y => { y with next := x.next + n })).hostSendAll e 0 (x.word 0 + x.next) x.next n [])
      else if (s.engine e).dstHost && !s.hostRoom e 1 then .next s
      else .next ((s.moves e).copyPiece e) := by
  unfold copyMove
  refine if_neg ?_
  rcases h.good with hst | hst <;> simp [h.busy, h.words, h.isOp, h.more, hst, h.owned]

/-! ## Atomics (R245, R327) -/

/-- The state in which an atomic looks for its word. -/
def State.atomBegins (s : State) (e : Fin 32) : State :=
  s.updEngine e (fun y => { y with moved := true, next := (s.engine e).len })

/-- The word of an atomic can be read and written: no rule of its region, its page, its route or its memory stands against it. -/
structure State.AtomWord (t : State) (e : Fin 32) (own : BitVec 8) (l : Located) : Prop where
  notRed  : l.region.attr ≠ .red
  notRo   : l.region.attr ≠ .ro
  plain   : l.region.common = false
  allowed : t.rangeAllows own l.pa 8 false = true
  reached : t.porchReaches (enginePorch e) (t.homeOf own l.pa) = true
  there   : t.pkgLost (l.pa / 128) = false

theorem copyAtomic_acts {op : Nat} {new : CopyEngine → Nat → Nat} {own : BitVec 8} {l : Located} {t t1 : State} {bs : List Byte}
    {word : Nat → Nat} (hnew : ∀ old, new (s.engine e) old = word old) (h : (s.engine e).Going op) (hst : (s.engine e).status = 0)
    (hown : (s.engine e).owner = some own)
    (hloc : (s.atomBegins e).locate own ((s.engine e).word 1) true true = (some l, t)) (hword : t.AtomWord e own l)
    (hread : t.sysRead own l.pa 8 l.region.attr = ((bs, false), t1)) :
    copyAtomic op new e s = .next ((t1.sysWrite own l.pa (leBytes 8 (word (leNat bs))) l.region.attr false).updEngine e
      (fun y => { y with result := BitVec.ofNat 64 (leNat bs) })) := by
  unfold State.atomBegins at hloc
  unfold copyAtomic
  simp [h.busy, h.words, h.isOp, h.more, hst, hown, hloc, hword.notRed, hword.notRo, hword.plain, hword.allowed, hword.reached,
    hword.there, hread, hnew]

/-! ## Answers from the host (R322, R334) -/

theorem exec_copyHostTimeout {tag : BitVec 16} {q : HostReq} (hq : (s.engine e).open_.find? (fun y => y.tag = tag) = some q) :
    exec (.copyHostTimeout e tag) s
      = .next ((s.updEngine e (fun x => (x.close tag).failAt 4 (x.failPosOf q))).recordSettle e) := by
  show execCopyHostTimeout e tag s = _
  unfold execCopyHostTimeout
  rw [hq]

section
variable {port : Fin 4} {hdr : BeyfyHdr} {q : HostReq} (hactive : (s.byPort port).link.state = .active)
  (hcurrent : s.current hdr.suite hdr.gen = true) (hown : (s.engine e).owner = some hdr.suite)
include hactive hcurrent hown

theorem exec_dmaRdata {data : List Byte} (hform : s.msgFormOk port hdr 0x21 (unitBytes hdr.count.toNat) (some 512) false = true)
    (hlen : data.length = unitBytes hdr.count.toNat) (hreq : s.hostReqOf port hdr.tag true = some (e, q)) (hst : hdr.status = 0)
    (hcount : hdr.count.toNat = q.len) :
    exec (.dmaRdata port hdr data) s = .next (s.hostData e q (data.take hdr.count.toNat)) := by
  show execDmaRdata port hdr data s = _
  unfold execDmaRdata
  dsimp only
  rw [if_neg (not_not.2 hactive), if_neg (by simp [hform, hlen]), if_neg (by simp [hcurrent]), hreq]
  simp [hown, hst, hcount]

theorem exec_dmaWack (hform : s.msgFormOk port hdr 0x23 0 none false = true) (hreq : s.hostReqOf port hdr.tag false = some (e, q))
    (hst : hdr.status = 0) : exec (.dmaWack port hdr) s = .next (s.updEngine e (fun x => x.close hdr.tag)) := by
  show execDmaWack port hdr s = _
  unfold execDmaWack
  simp [hactive, hform, hcurrent, hreq, hown, hst]

end

/-! ## Ends and starts (R327, R329) -/

theorem exec_copyDescriptorEnd (hbusy : (s.engine e).busy = true) (hwords : (s.engine e).words.isSome = true)
    (hmoved : (s.engine e).moved = true) (hopen : (s.engine e).open_ = []) (hall : (s.engine e).len ≤ (s.engine e).next)
    (hnote : (s.engine e).note = false) (hmsi : (s.engine e).flag 50 = false) :
    exec (.copyDescriptorEnd e) s = .next (s.nextDesc e) := by
  have hgo : ¬((!(s.engine e).busy || (s.engine e).words.isNone || !(s.engine e).moved || (s.engine e).open_ ≠ []
      || decide ((s.engine e).next < (s.engine e).len)) = true) := by
    have hsome : (s.engine e).words ≠ none := Option.isSome_iff_ne_none.1 hwords
    simp [hbusy, hsome, hmoved, hopen, hall]
  show execCopyDescriptorEnd e s = _
  unfold execCopyDescriptorEnd
  simp only [if_neg hgo, hnote, hmsi]
  exact if_neg (not_not.2 hopen)

section
variable {port : Fin 4} {hdr : BeyfyHdr} {seqno zero8 : W64} {tag : BitVec 128} {x : Session}

/-- A copy start that its Porch takes: its form, its Suite, its session, its tag and its number are right, and no write of the module is
under way that it would have to wait for. -/
structure State.StartTaken (s : State) (port : Fin 4) (hdr : BeyfyHdr) (seqno zero8 : W64) (tag : BitVec 128) (x : Session) : Prop where
  active  : (s.byPort port).link.state = .active
  noWrite : ∀ r ∈ s.reqs, r.2.kind ≠ .write
  form    : s.msgFormOk port hdr 6 32 none true = true
  current : s.current hdr.suite hdr.gen = true
  session : s.sessionOf hdr.session hdr.suite hdr.gen = some x
  opens   : (gcmOpen x.cmdKey (cmdNonce 4 hdr.session seqno) (beyfyBytes hdr ++ leBytes 8 seqno.toNat ++ leBytes 8 zero8.toNat) []
    tag).isSome = true
  fresh   : s.copySeqOk hdr.suite hdr.session x seqno = true

theorem exec_cpyStart (h : s.StartTaken port hdr seqno zero8 tag x) (he : hdr.arg.toNat % 32 = e.val) :
    exec (.cpyStart port hdr seqno zero8 tag) s =
      let s1 := s.useCopySeq hdr.suite hdr.session seqno
      let ans := fun (st : Nat) => s1.beyfySend port (beyfyAnswer 7 hdr st [])
      if (s1.engine e).owner ≠ some hdr.suite then .next (ans 2)
      else if (s1.engine e).busy then .next (ans 1)
      else if (s1.engine e).assisted then .next (ans 3)
      else .next ((ans 0).startChain e hdr.suite hdr.addr.toNat) := by
  obtain rfl : Fin.ofNat 32 hdr.arg.toNat = e := Fin.ext he
  have hopens : gcmOpen x.cmdKey (cmdNonce 4 hdr.session seqno) (beyfyBytes hdr ++ leBytes 8 seqno.toNat ++ leBytes 8 zero8.toNat) [] tag
      ≠ none := Option.isSome_iff_ne_none.1 h.opens
  show execCpyStart port hdr seqno zero8 tag s = _
  unfold execCpyStart
  dsimp only
  rw [if_neg, if_neg (by simp [h.form]), if_neg (by simp [h.current]), h.session]
  · exact if_neg (by simpa [h.fresh] using hopens)
  · intro hwait
    simp only [h.active, ne_eq, not_true_eq_false, decide_false, Bool.false_or, List.any_eq_true, Bool.and_eq_true, decide_eq_true_eq]
      at hwait
    obtain ⟨r, hr, hk, -⟩ := hwait
    exact h.noWrite r hr hk

end

end Sys2Proof.Machine

open Sys2Proof Sys2Proof.Machine

/-- Settles O53: a descriptor with more to move goes by where its bytes come from and go to; the other rows by the branch their conditions
choose. -/
theorem copyEngines : Obligations.CopyEngines := by
  intro s e
  refine ⟨fun c op hc hbusy hwords hop hmore hgood howned => ?pieces, fun l t t1 bs own c op new hc hbusy hwords hop hmore hst hown hloc
      hred hro hcommon hpage hroute hmem hread => ?atomic, fun port tag q hq => ⟨exec_copyHostTimeout hq, fun hdr hactive hcurrent hown =>
        ⟨fun data => exec_dmaRdata hactive hcurrent hown, exec_dmaWack hactive hcurrent hown⟩⟩, exec_copyDescriptorEnd,
    fun port hdr seqno zero8 tag x hactive hwrites hform hcurrent hsession hopens hfresh he => ?start⟩
  case pieces =>
    have hrow : exec (c e) s = copyMove op e s := by
      rcases hc with ⟨rfl, rfl⟩ | ⟨rfl, rfl⟩ <;> rfl
    rw [hrow, copyMove_going ⟨hbusy, hwords, hop, hmore, hgood, howned⟩]
    refine ⟨fun hgcm hsrc hopen hroom => ?_, fun hgcm hsrc hroom => ?_, fun hgcm hsrc hroom => ?_, fun hgcm hsrc hroom => ?_⟩
    · simp [hgcm, hsrc, hopen, hroom, State.moves]
    · simp [hgcm, hsrc, hroom, State.moves]
    · simp [hgcm, hsrc, hroom, State.moves]
    · have hgo : ((s.engine e).dstHost && !s.hostRoom e 1) = false := by
        cases hdst : (s.engine e).dstHost
        · rfl
        · rw [hroom hdst]; rfl
      simp [hgcm, hsrc, hgo, State.moves]
  case atomic =>
    have hgoing : (s.engine e).Going op := ⟨hbusy, hwords, hop, hmore, .inl hst, by rw [hown]; rfl⟩
    have hword : t.AtomWord e own l := ⟨hred, hro, hcommon, hpage, hroute, hmem⟩
    obtain ⟨f, hrow, hf⟩ : ∃ f, exec (c e) s = copyAtomic op f e s ∧ ∀ old, f (s.engine e) old = new old := by
      rcases hc with ⟨rfl, rfl, hnew⟩ | ⟨rfl, rfl, hnew⟩
      · exact ⟨fun x old => (old + x.word 0) % 2 ^ 64, rfl, fun old => by rw [hnew]⟩
      · exact ⟨fun x old => if old = x.word 7 then x.word 0 else old, rfl, fun old => by rw [hnew]⟩
    rw [hrow]
    exact copyAtomic_acts hf hgoing hst hown hloc hword hread
  case start =>
    rw [exec_cpyStart ⟨hactive, hwrites, hform, hcurrent, hsession, hopens, hfresh⟩ he]
    refine ⟨fun hown hbusy hassisted => ?_, fun hown hbusy => ?_⟩
    · simp [hown, hbusy, hassisted]
    · simp [hown, hbusy]

end

section
/-! SUPPORT. The upkeep of a memory controller and MSIs: what each row does where its conditions hold (R276, R283, R298, R300 to R302, R307,
R308, R427, R429). -/

namespace Sys2Proof.Machine

variable {s : State} {m : Ctl} {ch : Fin 4}

theorem State.updMc_congr {f g : Mc → Mc} (h : f (s.mc m) = g (s.mc m)) : s.updMc m f = s.updMc m g :=
  congrArg (fun x => { s with mcs := x }) (Table.upd_congr h)

/-! ## Refresh (R283) -/

theorem exec_refresh {bank : Fin 16} (hon : s.on = true) (hwell : (s.mc m).failed = false)
    (hruns : (s.mc m).paused.getLsbD ch.val = false) :
    exec (.refresh m ch bank) s = .next (s.updMc m (fun x => { x with refreshes := x.refreshes + 1 })) :=
  if_neg (by simp only [hon, hwell, hruns]; decide)

/-! ## Calibration (R300 to R302) -/

/-- In hardware mode a channel pauses when it is idle, or whatever it has queued once the deadline has come. -/
theorem exec_calibrationPause {idle : Bool} (hon : s.on = true) (hwell : (s.mc m).failed = false) (hch : hasChannel m ch = true)
    (hruns : (s.mc m).paused.getLsbD ch.val = false) (hmode : (s.mc m).calMode = false)
    (hidle : idle = false ∨ ∀ r ∈ (s.mc m).reqs, s.channelOf r.line ≠ ch.val) :
    exec (.calibrationPause m ch idle) s = .next (s.updMc m (fun x => x.startPause ch.val)) := by
  have hgo : (idle && (s.mc m).reqs.any (fun r => s.channelOf r.line = ch.val)) = false := by
    rcases hidle with rfl | hnone
    · rfl
    · simpa using fun _ => hnone
  exact if_neg (by simp only [hon, hwell, hch, hruns, hmode, hgo]; decide)

theorem exec_calibrationDue (hwell : (s.mc m).failed = false) (hch : hasChannel m ch = true) (hmode : (s.mc m).calMode = true) :
    exec (.calibrationDue m ch) s
      = .next ((s.updMc m (fun x => { x with due := x.due ||| chBit ch.val })).msiFrom (s.mc m).calMsi) :=
  if_neg (by simp [hwell, hch, hmode])

theorem exec_calibrationDeadline (hwell : (s.mc m).failed = false) (hmode : (s.mc m).calMode = true)
    (hdue : (s.mc m).due.getLsbD ch.val = true) :
    exec (.calibrationDeadline m ch) s = .next (s.updMc m (fun x =>
      ({ x with due := x.due &&& ~~~(chBit ch.val), forced := sat16 x.forced 1 } : Mc).startPause ch.val)) :=
  if_neg (by simp [hwell, hmode, hdue])

/-- The first channel of a mask that names one channel is that channel. -/
theorem find_chBit (i : Fin 4) : (List.range 4).find? (fun j => (chBit i.val).getLsbD j) = some i.val := by
  decide +revert

theorem exec_calibrationDone_alone (hpaused : (s.mc m).paused.getLsbD ch.val = true) (hwait : (s.mc m).calWait = 0) :
    exec (.calibrationDone m ch) s = .next (s.updMc m (fun x => { x with calDone := sat16 x.calDone 1, paused := 0 })) := by
  have hnone : (List.range 4).find? (fun j => (0 : BitVec 4).getLsbD j) = none := by decide
  refine (if_neg (by simp [hpaused])).trans (congrArg _ (State.updMc_congr ?_))
  simp only [hwait, hnone]

theorem exec_calibrationDone_next {i : Fin 4} (hpaused : (s.mc m).paused.getLsbD ch.val = true) (hwait : (s.mc m).calWait = chBit i.val) :
    exec (.calibrationDone m ch) s = .next (s.updMc m (fun x =>
      { x with calDone := sat16 x.calDone 1, paused := chBit i.val, calWait := 0 })) := by
  refine (if_neg (by simp [hpaused])).trans (congrArg _ (State.updMc_congr ?_))
  simp only [hwait, find_chBit, BitVec.and_not_self]

/-! ## Slot maps (R298) -/

theorem exec_slotMapApply {strict : Bool} {map : Table W64} (hmap : (s.mc m).nextMap = some (strict, map)) :
    exec (.slotMapApply m) s = .next (s.updMc m (fun x => { x with strict := strict, slotMap := map, nextMap := none })) := by
  show execSlotMapApply m s = _
  unfold execSlotMapApply
  rw [hmap]

/-! ## Wipes (R307, R308) -/

/-- A wipe drops the bytes that pass its test, and no other. -/
theorem State.mem_zeroExt_ext {p : Nat → Bool} {c : Host.Cell} : c ∈ (s.zeroExt p).ext ↔ c ∈ s.ext ∧ p c.1 = false := by
  simp [State.zeroExt]

theorem State.mem_wipeFull_ext {c : Host.Cell} : c ∈ (s.wipeFull m).ext ↔ c ∈ s.ext ∧ s.ctlOf c.1 ≠ m :=
  (State.mem_zeroExt_ext (p := fun a => s.ctlOf a = m)).trans (and_congr_right fun _ => decide_eq_false_iff_not)

theorem State.mem_wipePart_ext {page : Nat} {c : Host.Cell} :
    c ∈ (s.wipePart page m).ext ↔ c ∈ s.ext ∧ ¬(c.1 / 2 ^ 21 = page ∧ s.ctlOf c.1 = m) :=
  (State.mem_zeroExt_ext (p := fun a => a / 2 ^ 21 = page && s.ctlOf a = m)).trans (and_congr_right fun _ => by simp)

/-- A full wipe leaves no poison in the controller's lines. -/
theorem State.ctlOf_of_mem_wipeFull_extPoison {l : Nat} (h : l ∈ (s.wipeFull m).extPoison) : s.ctlOf (128 * l) ≠ m := by
  have hl : l ∈ s.extPoison.filter (fun l => !decide (s.ctlOf (128 * l) = m)) := h
  simpa using (List.mem_filter.1 hl).2

/-- What PROGRESS counts to in a full wipe: GiB of a package, or of a channel's DIMM. -/
def State.wipeSize (s : State) (m : Ctl) : W32 :=
  match m with
  | .lpd _ => 4096
  | .ddr k => BitVec.ofNat 32 (Table.get 0 (s.parlour (Fin.ofNat 2 (k.val / 6))).chCap (k.val % 6))

theorem exec_wipeDone_full (hwiping : (s.mc m).wiping = true) :
    exec (.wipeDone m) s = .next ((s.wipeFull m).updMc m (fun x =>
      { x with wiping := false, wipeDone := true, progress := s.wipeSize m })) := by
  show execWipeDone m s = _
  unfold execWipeDone
  rw [if_pos hwiping]
  cases m <;> rfl

theorem exec_wipeDone_page {page : Nat} (hwiping : (s.mc m).wiping = false) (hpage : (s.mc m).wipePage = some page) :
    exec (.wipeDone m) s = .next (((s.wipePart page m).updMc m (fun x => { x with wipePage := none, wipeDone := true })).wipeReported
      (ctlKey m) (some page)).kickWipes := by
  show execWipeDone m s = _
  unfold execWipeDone
  rw [if_neg (by simp [hwiping]), hpage]

/-! ## Failures (R427, R429) -/

/-- The number of a package or of a DDR5 channel in the fault list. -/
def ctlNumber : Ctl → Nat
  | .lpd p => p.val
  | .ddr c => c.val

theorem exec_packageFailure {trigger : BitVec 8} (hon : s.on = true) (hwell : (s.mc m).failed = false)
    (htrigger : trigger = 1 ∨ trigger = 2) :
    let kind := if isDdr m then 5 else 2
    let s1 := (s.updMc m (fun x =>
      { x with failed := true, chUp := 0, paused := 0, calWait := 0, due := 0, wipePage := none })).wipeReported (ctlKey m) none
    exec (.packageFailure m trigger) s = .next ((s1.listFault kind (ctlNumber m)).reportLost (ctlEndpoint m) kind (ctlNumber m)
      trigger.toNat (endpointId (ctlEndpoint m)) none) := by
  show execPackageFailure m trigger s = _
  unfold execPackageFailure
  rw [if_neg (by rcases htrigger with rfl | rfl <;> simp [hon, hwell])]
  cases m <;> rfl

/-! ## MSIs (R276) -/

theorem exec_msiWrite {tag : BitVec 8} {addr : PA} {data : W32} (hon : s.on = true) :
    exec (.msiWrite tag addr data) s = .next (s.msiTo tag addr.toNat data) :=
  congrArg _ (if_pos hon)

/-- The machine-level file of each hart has a page of its own. -/
theorem imsicFile_machine (h : Fin 128) : imsicFile (0xF00028000000 + 0x1000 * h.val) = some (h, none) := by
  have hoff : 0xF00028000000 + 0x1000 * h.val - 0xF00028000000 = 0x1000 * h.val := Nat.add_sub_cancel_left ..
  have hpage : 0x1000 * h.val / 0x1000 = h.val := Nat.mul_div_cancel_left _ (by decide)
  have hlt : 0x1000 * h.val < 0x80000 := by omega
  simp only [imsicFile, hoff, hpage, hlt, if_true, Fin.ofNat_val_eq_self]
  exact if_neg (by omega)

/-- An MSI of the hart's own Suite sets its identity pending in the machine-level file. -/
theorem State.msiTo_machine (h : Fin 128) {data : W32} (hlo : 1 ≤ data.toNat) (hhi : data.toNat < 256) :
    ((s.msiTo (s.hart h).owner (0xF00028000000 + 0x1000 * h.val) data).hart h).imsicM
      = (s.hart h).imsicM ||| BitVec.ofNat 256 (2 ^ data.toNat) := by
  have hid : data.toNat ≠ 0 := by omega
  have hpage : (0xF00028000000 + 0x1000 * h.val) % 4096 = 0 := by omega
  simp only [State.msiTo, imsicFile_machine]
  rw [if_neg (by simp [hid, hhi, hpage])]
  show ((s.updHart h (fun y => { y with imsicM := y.imsicM ||| BitVec.ofNat 256 (2 ^ data.toNat) })).hart h).imsicM = _
  rw [State.hart_updHart_same]

end Sys2Proof.Machine

open Sys2Proof Sys2Proof.Machine

/-- Settles O43: each row by the branch its conditions choose; a wipe by the cells that it leaves. -/
theorem controllerUpkeep : Obligations.ControllerUpkeep := by
  intro s m ch hon
  refine ⟨fun hwell hch => ⟨fun hruns bank => exec_refresh hon hwell hruns, fun hruns hmode idle =>
      exec_calibrationPause hon hwell hch hruns hmode, exec_calibrationDue hwell hch, exec_calibrationDeadline hwell⟩,
    fun hpaused => ⟨exec_calibrationDone_alone hpaused, fun i => exec_calibrationDone_next hpaused⟩,
    fun strict map => exec_slotMapApply, fun hwiping => ?full,
    fun page hwiping hpage => ⟨exec_wipeDone_page hwiping hpage, fun c => State.mem_wipePart_ext⟩,
    fun trigger htrigger hwell => exec_packageFailure hon hwell htrigger, fun tag addr data => exec_msiWrite hon,
    fun h data hlo hhi addr haddr => ⟨_, exec_msiWrite hon, haddr ▸ State.msiTo_machine h hlo hhi⟩⟩
  case full =>
    refine ⟨_, exec_wipeDone_full hwiping, fun c => State.mem_wipeFull_ext, fun l => State.ctlOf_of_mem_wipeFull_extPoison, ?_, ?_⟩
    · rw [State.mc_updMc_same]
    · rw [State.mc_updMc_same]

end

section
/-! SUPPORT. Accesses of a hart: what a performed access leaves, and each row where its conditions hold (R263 to R273). -/

namespace Sys2Proof.Machine

variable {s : State} {h : Fin 128} {a : HartAcc}

/-! ## Accesses on lines that the die holds (R259, R268, R270, R271) -/

/-- A hart's access is over: the hart waits for nothing, the lines are the last it used, and `f` is done to its registers. -/
def State.hartEnds (s : State) (h : Fin 128) (a : HartAcc) (t : State) (f : Hart → Hart) : State :=
  t.updHart h (fun x => f (({ x with wait := .none } : Hart).touch ((hartLines a).map (fun q => l3Key q.1 (s.hart h).tag))))

/-- Bytes written to the lines of an access, and the copies and reservations that the die's other harts lose by it. -/
def State.hartStored (s : State) (h : Fin 128) (a : HartAcc) (bs : List Byte) : State := (s.hartWrite h a bs).breakOthers h a

/-- An access is performed at once when the die holds its lines as it needs them. -/
theorem State.hartGo_held {w : HartWait} {excl : Bool} (hneeds : w.needs = some (a, excl))
    (hheld : ∀ q ∈ hartLines a, s.hartHas h q.1 excl = true) : s.hartGo h w = s.hartFinish h w := by
  have hmissing : (hartLines a).filter (fun q => !s.hartHas h q.1 excl) = [] := by simpa [List.filter_eq_nil_iff] using hheld
  unfold State.hartGo
  rw [hneeds]
  exact if_pos hmissing

section
variable {rd : HartReg} {signed : Bool} (hheld : ∀ q ∈ hartLines a, s.hartHas h q.1 false = true)
include hheld

theorem State.hartGo_load (hgood : (s.hartRead h a).1.2 = false) :
    s.hartGo h (.load a rd signed)
      = s.hartEnds h a (s.hartRead h a).2 (fun x => x.loadBytes rd a.size.val signed (s.hartRead h a).1.1) :=
  (State.hartGo_held rfl hheld).trans (if_neg (by simp [hgood]))

/-- Poison read by a load is a hardware error (R273). -/
theorem State.hartGo_load_poison (hbad : (s.hartRead h a).1.2 = true) :
    s.hartGo h (.load a rd signed) = (s.hartRead h a).2.hartTrap h 19 a.va :=
  (State.hartGo_held rfl hheld).trans (if_pos hbad)

end

section
variable {rd rs2 op : Nat} (hheld : ∀ q ∈ hartLines a, s.hartHas h q.1 true = true)
include hheld

theorem State.hartGo_store {r : HartReg} :
    s.hartGo h (.store a r) = s.hartEnds h a (s.hartStored h a ((s.hart h).storeBytes r a.size.val)) (fun x => x) :=
  State.hartGo_held rfl hheld

theorem State.hartGo_lr (hgood : (s.hartRead h a).1.2 = false) :
    s.hartGo h (.lr a rd) = s.hartEnds h a (s.hartRead h a).2 (fun x =>
      { x.setReg rd (BitVec.ofNat 64 (loadValue a.size.val true (s.hartRead h a).1.1)) with
        reserve := some (a.pa.toNat / 128), lrHold := true }) :=
  (State.hartGo_held rfl hheld).trans (if_neg (by simp [hgood]))

theorem State.hartGo_amo (hgood : (s.hartRead h a).1.2 = false) :
    let new := atomApply (amoFn op) a.size.val (leNat (s.hartRead h a).1.1) { thread := 0, a := (s.hart h).reg rs2, b := 0 }
    s.hartGo h (.amo a op rd rs2) = s.hartEnds h a ((s.hartRead h a).2.hartStored h a (leBytes a.size.val new))
      (fun x => x.setReg rd (BitVec.ofNat 64 (loadValue a.size.val true (s.hartRead h a).1.1))) :=
  (State.hartGo_held rfl hheld).trans (if_neg (by simp [hgood]))

end

/-! ## Loads and stores (R266 to R269, R273) -/

section
variable {rd : HartReg} {signed : Bool} (hready : s.hartReady h = true) (hsize : hartSizeOk rd a.size.val = true)
  (howed : (s.hart h).owedReg rd = false)
include hready hsize howed

theorem exec_hartLoad_traps {c : Nat} {t : W64} (hcheck : s.hartCheck .load a = some (c, t)) :
    exec (.hartLoad h a rd signed) s = .next (s.hartTrap h c t) := by
  show execHartLoad h a rd signed s = _
  unfold execHartLoad
  rw [if_neg (by rw [hready, hsize, howed]; decide), hcheck]

theorem exec_hartStore_traps {c : Nat} {t : W64} (hcheck : s.hartCheck .store a = some (c, t)) :
    exec (.hartStore h a rd) s = .next (s.hartTrap h c t) := by
  show execHartStore h a rd s = _
  unfold execHartStore
  rw [if_neg (by rw [hready, hsize, howed]; decide), hcheck]

section
variable (hcheck : s.hartCheck .load a = none)
include hcheck

theorem exec_hartLoad_device (hio : hartIo a.pa.toNat a.pbmt = true) :
    exec (.hartLoad h a rd signed) s = .next ((s.hartSend h a .read .dev (fun x => x)).updHart h (fun x =>
      { x with wait := .devLoad s.nextReq a rd signed })) := by
  show execHartLoad h a rd signed s = _
  unfold execHartLoad
  rw [if_neg (by rw [hready, hsize, howed]; decide), hcheck]
  exact if_pos hio

/-- A load of main memory goes ahead, unless a home refuses a piece that the caches do not hold. -/
theorem exec_hartLoad_memory (hio : hartIo a.pa.toNat a.pbmt = false) :
    exec (.hartLoad h a rd signed) s = .next ((s.ncRefused h a true).elim (s.hartGo h (.load a rd signed)) (s.hartTrap h 5)) := by
  show execHartLoad h a rd signed s = _
  unfold execHartLoad
  rw [if_neg (by rw [hready, hsize, howed]; decide), hcheck]
  dsimp only
  rw [if_neg (by simp [hio])]
  cases s.ncRefused h a true <;> rfl

end

section
variable (hcheck : s.hartCheck .store a = none)
include hcheck

theorem exec_hartStore_device (hio : hartIo a.pa.toNat a.pbmt = true) :
    exec (.hartStore h a rd) s = .next ((s.hartSend h a .write .dev (fun x =>
      { x with data := (s.hart h).storeBytes rd a.size.val })).updHart h (fun x =>
        { x with devStores := x.devStores ++ [s.nextReq] })) := by
  show execHartStore h a rd s = _
  unfold execHartStore
  rw [if_neg (by rw [hready, hsize, howed]; decide), hcheck]
  exact if_pos hio

/-- A store of main memory goes ahead, unless a home refuses a piece that the caches do not hold. -/
theorem exec_hartStore_memory (hio : hartIo a.pa.toNat a.pbmt = false) :
    exec (.hartStore h a rd) s = .next ((s.ncRefused h a false).elim (s.hartGo h (.store a rd)) (s.hartTrap h 7)) := by
  show execHartStore h a rd s = _
  unfold execHartStore
  rw [if_neg (by rw [hready, hsize, howed]; decide), hcheck]
  dsimp only
  rw [if_neg (by simp [hio])]
  cases s.ncRefused h a false <;> rfl

end
end

/-! ## LR, SC and AMOs (R263, R270, R271) -/

section
variable {rd rs2 : Fin 32} {op : Fin 9} {spurious : Bool} (hready : s.hartReady h = true)
  (hsize : (a.size.val = 4 || a.size.val = 8) = true) (howed : (s.hart h).owed rd.val = false)
include hready hsize howed

theorem exec_lr_traps {c : Nat} {t : W64} (hcheck : s.hartCheck .lr a = some (c, t)) :
    exec (.lr h a rd) s = .next (s.hartTrap h c t) := by
  show execLr h a rd s = _
  unfold execLr
  rw [if_neg (by rw [hready, hsize, howed]; decide), hcheck]

theorem exec_lr_goes (hcheck : s.hartCheck .lr a = none) : exec (.lr h a rd) s = .next (s.hartGo h (.lr a rd.val)) := by
  show execLr h a rd s = _
  unfold execLr
  rw [if_neg (by rw [hready, hsize, howed]; decide), hcheck]

variable (howed2 : (s.hart h).owed rs2.val = false)
include howed2

theorem exec_sc_traps {c : Nat} {t : W64} (hcheck : s.hartCheck .sc a = some (c, t)) :
    exec (.sc h a rd rs2 spurious) s = .next (s.hartTrap h c t) := by
  show execSc h a rd rs2 spurious s = _
  unfold execSc
  rw [if_neg (by rw [hready, hsize, howed, howed2]; decide), hcheck]

/-- An SC that holds its reservation and its line stores, and writes 0. -/
theorem exec_sc_stores (hcheck : s.hartCheck .sc a = none) (hres : (s.hart h).reserve = some (a.pa.toNat / 128))
    (hheld : s.hartHas h (a.pa.toNat / 128) true = true) :
    exec (.sc h a rd rs2 false) s = .next ((s.hartStored h a (leBytes a.size.val ((s.hart h).reg rs2.val).toNat)).updHart h (fun x =>
      ({ x with reserve := none, lrHold := false } : Hart).setReg rd.val 0)) := by
  show execSc h a rd rs2 false s = _
  unfold execSc
  rw [if_neg (by rw [hready, hsize, howed, howed2]; decide), hcheck]
  exact if_pos (by simp [hres, hheld])

/-- An SC without its reservation, or one that fails all the same, writes 1 and stores nothing. -/
theorem exec_sc_fails (hcheck : s.hartCheck .sc a = none)
    (hfail : (s.hart h).reserve ≠ some (a.pa.toNat / 128) ∨ spurious = true) :
    exec (.sc h a rd rs2 spurious) s
      = .next (s.updHart h (fun x => ({ x with reserve := none, lrHold := false } : Hart).setReg rd.val 1)) := by
  show execSc h a rd rs2 spurious s = _
  unfold execSc
  rw [if_neg (by rw [hready, hsize, howed, howed2]; decide), hcheck]
  refine if_neg ?_
  rcases hfail with hres | rfl
  · simp [hres]
  · simp

theorem exec_amo_traps {c : Nat} {t : W64} (hcheck : s.hartCheck .amo a = some (c, t)) :
    exec (.amo h a op rd rs2) s = .next (s.hartTrap h c t) := by
  show execAmo h a op rd rs2 s = _
  unfold execAmo
  rw [if_neg (by rw [hready, hsize, howed, howed2]; decide), hcheck]

theorem exec_amo_goes (hcheck : s.hartCheck .amo a = none) (hcached : hartCached a.pa.toNat a.pbmt = true) :
    exec (.amo h a op rd rs2) s = .next (s.hartGo h (.amo a op.val rd.val rs2.val)) := by
  show execAmo h a op rd rs2 s = _
  unfold execAmo
  rw [if_neg (by rw [hready, hsize, howed, howed2]; decide), hcheck]
  exact if_pos hcached

/-- An AMO that the caches cannot perform goes to the line's home, or to its device. -/
theorem exec_amo_sends (hcheck : s.hartCheck .amo a = none) (hcached : hartCached a.pa.toNat a.pbmt = false) :
    exec (.amo h a op rd rs2) s = .next ((s.hartSend h a .atomic (if a.pbmt = 2 then .dev else .wbNA) (fun x =>
      { x with atomFn := BitVec.ofNat 8 (amoFn op.val), contrib := [{ thread := 0, a := (s.hart h).reg rs2.val, b := 0 }] })).updHart
        h (fun x => { x with wait := .homeAmo s.nextReq a rd.val })) := by
  show execAmo h a op rd rs2 s = _
  unfold execAmo
  rw [if_neg (by rw [hready, hsize, howed, howed2]; decide), hcheck]
  exact if_neg (by simp [hcached])

end

/-! ## Cache-block operations (R264) -/

/-- What CBO.ZERO does to its block of 64 bytes. -/
def State.cboWipe (h : Fin 128) (a : HartAcc) (t : State) (_slice _line : Nat) : State :=
  t.sysWrite (t.hart h).tag (a.pa.toNat / 64 * 64) (List.replicate 64 0)
    (if a.pbmt = 0 then .wbA else if a.pbmt = 1 then .wbNA else .dev) false

theorem exec_cboZero : exec (.cboZero h a) s = cbo h a false (State.cboWipe h a) s := rfl

section
variable {isRead : Bool} {f : State → Nat → Nat → State} (hready : s.hartReady h = true)
include hready

/-- A cache-block operation whose block the hart may reach is done at the line's home. -/
theorem cbo_reached {line : Nat} (hpbmt : a.pbmt ≠ 3) (hline : s.cboLine h a isRead = some line) :
    cbo h a isRead f s = .next (f s (s.homeOf (s.hart h).tag (128 * line)) line) := by
  unfold cbo
  rw [if_neg (by simp [hready]), if_neg hpbmt, hline]

/-- The reserved PBMT is a store page fault. -/
theorem cbo_reserved (hpbmt : a.pbmt = 3) : cbo h a isRead f s = .next (s.hartTrap h 15 a.va) :=
  (if_neg (by simp [hready])).trans (if_pos hpbmt)

end

end Sys2Proof.Machine

open Sys2Proof Sys2Proof.Machine

/-- Settles O44: each row by what its checks find; an access on lines that the die holds by what performing it leaves. -/
theorem hartAccesses : Obligations.HartAccesses := by
  intro s h a hready
  refine ⟨fun rd signed hsize howed => ⟨fun c t => exec_hartLoad_traps hready hsize howed, exec_hartLoad_device hready hsize howed,
      fun hcheck hio => ⟨fun va hnc => ?loadRefused, fun hnc => ?load⟩⟩,
    fun rs2 hsize howed => ⟨fun c t => exec_hartStore_traps hready hsize howed, exec_hartStore_device hready hsize howed,
      fun hcheck hio => ⟨fun va hnc => ?storeRefused, fun hnc => ?store⟩⟩,
    fun hwide rd rs2 op howed howed2 =>
      have hsize : (a.size.val = 4 || a.size.val = 8) = true := by simpa using hwide
      ⟨fun hcheck => ?lr, fun hcheck => ⟨exec_sc_stores hready hsize howed howed2 hcheck,
        fun spurious => exec_sc_fails hready hsize howed howed2 hcheck⟩, fun hcheck hcached => ?amo,
      exec_amo_sends hready hsize howed howed2, fun c t => ⟨exec_lr_traps hready hsize howed,
        exec_sc_traps hready hsize howed howed2, exec_amo_traps hready hsize howed howed2⟩⟩,
    fun line hpbmt => ⟨fun hline => ⟨cbo_reached hready hpbmt hline, cbo_reached hready hpbmt hline, cbo_reached hready hpbmt hline⟩,
      fun hline => exec_cboZero.trans (cbo_reached hready hpbmt hline)⟩,
    fun hpbmt => ⟨cbo_reserved hready hpbmt, cbo_reserved hready hpbmt, cbo_reserved hready hpbmt,
      exec_cboZero.trans (cbo_reserved hready hpbmt)⟩⟩
  case loadRefused =>
    rw [exec_hartLoad_memory hready hsize howed hcheck hio, hnc]
    rfl
  case load =>
    have hrow := exec_hartLoad_memory (signed := signed) hready hsize howed hcheck hio
    rw [hnc, Option.elim_none] at hrow
    exact ⟨hrow, fun hheld hgood => hrow.trans (congrArg _ (State.hartGo_load hheld hgood)),
      fun hheld hbad => hrow.trans (congrArg _ (State.hartGo_load_poison hheld hbad))⟩
  case storeRefused =>
    rw [exec_hartStore_memory hready hsize howed hcheck hio, hnc]
    rfl
  case store =>
    have hrow := exec_hartStore_memory hready hsize howed hcheck hio
    rw [hnc, Option.elim_none] at hrow
    exact ⟨hrow, fun hheld => hrow.trans (congrArg _ (State.hartGo_store hheld))⟩
  case lr =>
    have hrow := exec_lr_goes hready hsize howed hcheck
    exact ⟨hrow, fun hheld hgood => hrow.trans (congrArg _ (State.hartGo_lr hheld hgood))⟩
  case amo =>
    have hrow := exec_amo_goes (op := op) hready hsize howed howed2 hcheck hcached
    exact ⟨hrow, fun hheld hgood => hrow.trans (congrArg _ (State.hartGo_amo hheld hgood))⟩

end

section
/-! SUPPORT. Reads at a memory controller: what the controller takes, and what a burst becomes by the verdict of each attempt and the
line's tag (R285, R289, R292 to R294, R304, R370). -/

namespace Sys2Proof.Machine

variable {s : State} {slice : Fin 128} {line : Nat} {q : Fin 4} {m : Miss} {first retry : Burst}

/-! ## A request taken (R285, R294, R304) -/

/-- The sectors that a controller takes with the request of one: all that a DDR5 line or a STREAM miss still wants. -/
def Miss.takes (m : Miss) (ctl : Ctl) (q : Nat) : List Nat :=
  if isDdr ctl || (!isDdr ctl && decide (m.attr = .stream)) then m.want else [q]

/-- The entry of a controller that holds the request of a sector. -/
def Miss.request (m : Miss) (ctl : Ctl) (slice line q : Nat) (own : Bool) : CtlReq :=
  { slice := slice, line := line, sector := q, suite := m.suite, reserved := own, run := !isDdr ctl && decide (m.attr = .stream) }

/-- The bursts of a read: two of a DDR5 line; of LPDDR6 one for each sector, and one for the tag where the line's first request misses
it. -/
def State.readBursts (s : State) (ctl : Ctl) (m : Miss) (q : Nat) : Nat :=
  if isDdr ctl then 2
  else (m.takes ctl q).length + (if s.drawBool.1 && m.asked = [] && m.filled = [] then 1 else 0)

/-- A controller after it has taken a request that costs some bursts. -/
def Mc.takeRead (c : Mc) (r : CtlReq) (bursts : Nat) : Mc :=
  { c with reqs := c.reqs ++ [r], bursts := c.bursts + BitVec.ofNat 48 bursts }

/-- The state once a controller holds a miss entry's request. -/
def State.readTaken (s : State) (slice line q : Nat) (m : Miss) (own : Bool) : State :=
  let ctl := s.ctlOf (128 * line)
  (s.drawBool.2.updMc ctl (fun x => x.takeRead (m.request ctl slice line q own) (s.readBursts ctl m q))).setMiss
    (lineKey slice line) { m with want := m.want.filter (fun x => !(m.takes ctl q).contains x), asked := m.asked ++ m.takes ctl q }

theorem exec_controllerReadRequest {rest : List Nat} {own : Bool} (hm : Table.find s.misses (lineKey slice.val line) = some m)
    (hwant : m.want = q.val :: rest) (hwipe : (s.mc (s.ctlOf (128 * line))).wiping = false)
    (hentry : (s.mc (s.ctlOf (128 * line))).entryFor (s.ctlOf (128 * line)) m.suite = some own) :
    exec (.controllerReadRequest slice line q) s = .next (s.readTaken slice.val line q.val m own) := by
  show execControllerReadRequest slice line q s = _
  unfold execControllerReadRequest
  simp only [hm, hentry]
  exact if_neg (by simp [hwant, hwipe])

theorem State.readTaken_mc {own : Bool} :
    (s.readTaken slice.val line q.val m own).mc (s.ctlOf (128 * line)) = (s.mc (s.ctlOf (128 * line))).takeRead
      (m.request (s.ctlOf (128 * line)) slice.val line q.val own) (s.readBursts (s.ctlOf (128 * line)) m q.val) :=
  State.mc_updMc_same (s := s.drawBool.2) (s.ctlOf (128 * line)) (fun x => x.takeRead
    (m.request (s.ctlOf (128 * line)) slice.val line q.val own) (s.readBursts (s.ctlOf (128 * line)) m q.val))

theorem State.readBursts_ddr {ctl : Ctl} (hddr : isDdr ctl = true) : s.readBursts ctl m q.val = 2 := if_pos hddr

/-- Past its first request a line's tag is at hand. -/
theorem State.readBursts_lpd {ctl : Ctl} (hlpd : isDdr ctl = false) (hlater : m.asked ≠ [] ∨ m.filled ≠ []) :
    s.readBursts ctl m q.val = (m.takes ctl q.val).length := by
  have htag : (s.drawBool.1 && m.asked = [] && m.filled = []) = false := by rcases hlater with h | h <;> simp [h]
  rw [State.readBursts, if_neg (by simp [hlpd]), if_neg (by simp [htag]), Nat.add_zero]

/-! ## A burst that returns (R289, R292, R293) -/

/-- A controller's entry is one that a sector's burst answers: of the sector, or of a run of sectors. -/
def CtlReq.answeredBy (r : CtlReq) (slice line q : Nat) : Bool := r.slice = slice && r.line = line && (r.run || r.sector = q)

/-- The state once a sector's burst has left its controller; a run keeps its entry until its last sector. -/
def State.burstTaken (s : State) (slice line q : Nat) (m : Miss) : State :=
  s.updMc (s.ctlOf (128 * line)) (fun x =>
    { x with reqs := x.reqs.filter (fun r => !r.answeredBy slice line q || (r.run && m.asked ≠ [q])) })

/-- The state once a retry has succeeded: one transient error more. -/
def State.countTransient (s : State) (line : Nat) : State :=
  s.updMc (s.ctlOf (128 * line)) (fun x => { x with transient := sat16 x.transient 1 })

/-- The state once a code has corrected a sector: one corrected error more. -/
def State.countCorrected (s : State) (line : Nat) : State :=
  s.updMc (s.ctlOf (128 * line)) (fun x => { x with corrected := sat16 x.corrected 1 })

/-- The sectors that one burst brings. -/
def State.brought (s : State) (line q : Nat) (m : Miss) : List Nat := m.brings (isDdr (s.ctlOf (128 * line))) q

/-- The bytes of a sector that could not be read. -/
def lostSector (_ : Nat) : List Byte := List.replicate 32 0

/-- The bytes of a sector as one attempt reads them. -/
def State.burstData (s : State) (line : Nat) (b : Burst) (i : Nat) : List Byte := (s.readAttempt line i b).2

/-- The verdict of one attempt at a sector. -/
def State.verdict (s : State) (line q : Nat) (b : Burst) : CodeRead := (s.readAttempt line q b).1

/-- A burst brings the last of its line, so that the line's tag can be checked; on DDR5 every burst does. -/
def State.completes (s : State) (line q : Nat) (m : Miss) : Prop :=
  isDdr (s.ctlOf (128 * line)) = true ∨ m.filled.length + m.arrived.length + (s.brought line q m).length = 4

/-- The line's tag agrees with what it has of earlier bursts and what one attempt read of the rest (R292, R370). -/
def State.tagAgrees (s : State) (line q : Nat) (m : Miss) (b : Burst) : Bool :=
  s.tagOk line (m.filled ++ m.arrived ++ (s.brought line q m).map (fun i => (i, s.burstData line b i))) b.tagErr

/-- One attempt completed the line and failed its tag. -/
def State.tagFails (s : State) (line q : Nat) (m : Miss) (b : Burst) : Bool :=
  (isDdr (s.ctlOf (128 * line)) || decide (m.filled.length + m.arrived.length + (s.brought line q m).length = 4))
    && !s.tagAgrees line q m b

/-- The second attempt failed too, by its code or by the line's tag. -/
def State.retryFails (s : State) (line q : Nat) (m : Miss) (retry : Burst) : Bool :=
  match s.verdict line q retry with
  | .bad => true
  | .poisoned => false
  | _ => s.tagFails line q m retry

/-- A sector that its code let pass or corrected, counted so in the state `counted`: its tag is checked. -/
def State.burstTagged (s counted : State) (key line q : Nat) (m : Miss) (first retry : Burst) : Out :=
  let come := fun (t : State) (poison : Bool) => t.sectorsCome key m (s.brought line q m) (counted.burstData line first) poison
  if !s.tagFails line q m first then .next (come counted false)
  else if !s.tagFails line q m retry then .next (come (counted.countTransient line) false)
  else .next (come (counted.lastingError m.suite line q true) true)

/-- A sector that its code gave up: what the second attempt made of it. -/
def State.burstRetried (s : State) (key line q : Nat) (m : Miss) (retry : Burst) : Out :=
  let ss := s.brought line q m
  if s.retryFails line q m retry then .next ((s.lastingError m.suite line q false).sectorsCome key m ss lostSector true)
  else .next ((s.countTransient line).sectorsCome key m ss (s.burstData line retry) (s.verdict line q retry = .poisoned))

/-- What becomes of a burst, by the verdict of its first attempt. -/
def State.burstJudged (s : State) (key line q : Nat) (m : Miss) (first retry : Burst) : CodeRead → Out
  | .poisoned => .next (s.sectorsCome key m (s.brought line q m) (s.burstData line first) true)
  | .bad => s.burstRetried key line q m retry
  | .good => s.burstTagged s key line q m first retry
  | .fixed _ => s.burstTagged (s.countCorrected line) key line q m first retry

theorem State.tagFails_iff {b : Burst} :
    s.tagFails line q.val m b = true ↔ s.completes line q.val m ∧ ¬ s.tagAgrees line q.val m b = true := by
  simp [State.tagFails, State.completes]

theorem State.tagFails_eq_true {b : Burst} (hlast : s.completes line q.val m) (htag : ¬ s.tagAgrees line q.val m b = true) :
    s.tagFails line q.val m b = true :=
  State.tagFails_iff.2 ⟨hlast, htag⟩

theorem State.tagFails_eq_false {b : Burst} (h : s.completes line q.val m → s.tagAgrees line q.val m b = true) :
    s.tagFails line q.val m b = false :=
  Bool.eq_false_iff.2 fun hfails =>
    have ⟨hlast, htag⟩ := State.tagFails_iff.1 hfails
    htag (h hlast)

section
variable {counted : State} {key : Nat}

theorem State.burstTagged_agrees (hfirst : s.tagFails line q.val m first = false) :
    s.burstTagged counted key line q.val m first retry
      = .next (counted.sectorsCome key m (s.brought line q.val m) (counted.burstData line first) false) :=
  if_pos (by simp [hfirst])

theorem State.burstTagged_transient (hfirst : s.tagFails line q.val m first = true) (hretry : s.tagFails line q.val m retry = false) :
    s.burstTagged counted key line q.val m first retry = .next ((counted.countTransient line).sectorsCome key m
      (s.brought line q.val m) (counted.burstData line first) false) :=
  (if_neg (by simp [hfirst])).trans (if_pos (by simp [hretry]))

theorem State.burstTagged_lasting (hfirst : s.tagFails line q.val m first = true) (hretry : s.tagFails line q.val m retry = true) :
    s.burstTagged counted key line q.val m first retry = .next ((counted.lastingError m.suite line q.val true).sectorsCome key m
      (s.brought line q.val m) (counted.burstData line first) true) :=
  (if_neg (by simp [hfirst])).trans (if_neg (by simp [hretry]))

theorem State.burstRetried_lasting (hretry : s.verdict line q.val retry = .bad) :
    s.burstRetried key line q.val m retry
      = .next ((s.lastingError m.suite line q.val false).sectorsCome key m (s.brought line q.val m) lostSector true) :=
  if_pos (by simp [State.retryFails, hretry])

theorem State.burstRetried_transient (hretry : s.verdict line q.val retry = .good) (htag : s.tagFails line q.val m retry = false) :
    s.burstRetried key line q.val m retry = .next ((s.countTransient line).sectorsCome key m (s.brought line q.val m)
      (s.burstData line retry) false) := by
  simp [State.burstRetried, State.retryFails, hretry, htag]

end

section
variable {e : CtlReq} (hm : Table.find s.misses (lineKey slice.val line) = some m) (he : e ∈ (s.mc (s.ctlOf (128 * line))).reqs)
  (hhere : e.answeredBy slice.val line q.val = true) (hasked : q.val ∈ m.asked)
  (hruns : (s.mc (s.ctlOf (128 * line))).paused.getLsbD (s.channelOf line) = false)

include he hhere hasked hruns in
/-- A burst is expected: the controller holds its request, the miss entry has asked for it, and the channel runs. -/
theorem burst_expected :
    ¬(!(s.mc (s.ctlOf (128 * line))).reqs.any (fun r => r.answeredBy slice.val line q.val) || !m.asked.contains q.val
      || (s.mc (s.ctlOf (128 * line))).paused.getLsbD (s.channelOf line)) = true := by
  have hany : (s.mc (s.ctlOf (128 * line))).reqs.any (fun r => r.answeredBy slice.val line q.val) = true :=
    List.any_eq_true.2 ⟨e, he, hhere⟩
  simp [hany, hasked, hruns]

include hm he hhere hasked hruns

/-- What returns of a failed package is poison (R427). -/
theorem exec_sectorBurstReturn_lost (hlost : s.pkgLost line = true) :
    exec (.sectorBurstReturn slice line q first retry) s
      = .next ((s.burstTaken slice.val line q.val m).sectorsCome (lineKey slice.val line) m (s.brought line q.val m) lostSector true) := by
  show execSectorBurstReturn slice line q first retry s = _
  unfold execSectorBurstReturn
  simp only [hm]
  exact (if_neg (burst_expected he hhere hasked hruns)).trans (if_pos hlost)

theorem exec_sectorBurstReturn_judged (hkept : s.pkgLost line = false) :
    exec (.sectorBurstReturn slice line q first retry) s
      = (s.burstTaken slice.val line q.val m).burstJudged (lineKey slice.val line) line q.val m first retry
          ((s.burstTaken slice.val line q.val m).verdict line q.val first) := by
  show execSectorBurstReturn slice line q first retry s = _
  unfold execSectorBurstReturn
  simp only [hm]
  refine (if_neg (burst_expected he hhere hasked hruns)).trans ((if_neg (by simp [hkept])).trans ?_)
  -- The verdict chooses the branch on both sides; in a corrected sector's branch also the state that counts it.
  cases hfirst : (s.burstTaken slice.val line q.val m).verdict line q.val first
  all_goals
    simp only [State.verdict, State.burstTaken, CtlReq.answeredBy] at hfirst
    simp only [hfirst]
    rfl

end

end Sys2Proof.Machine

open Sys2Proof Sys2Proof.Machine

/-- Settles O42: a request by the state once it is taken; a burst by the verdict of its first attempt, then by the tag or the second
attempt. -/
theorem controllerReads : Obligations.ControllerReads := by
  refine ⟨fun s slice line q m rest own hm hwant hwipe hentry => ⟨_, exec_controllerReadRequest hm hwant hwipe hentry,
      congrArg Mc.reqs State.readTaken_mc, fun hddr => ?ddr, fun hlpd hlater => ?lpd, Table.find_set_same _ _ _⟩,
    fun s slice line q m first retry e hm he hslice hline hsector hasked hruns => ?burst⟩
  case ddr => rw [State.readTaken_mc, Mc.takeRead, State.readBursts_ddr hddr]; rfl
  case lpd => rw [State.readTaken_mc, Mc.takeRead, State.readBursts_lpd hlpd hlater]; rfl
  case burst =>
    have hhere : e.answeredBy slice.val line q.val = true := by simp [CtlReq.answeredBy, hslice, hline, hsector]
    refine ⟨exec_sectorBurstReturn_lost hm he hhere hasked hruns, fun hkept => ?_⟩
    have hrow := exec_sectorBurstReturn_judged (first := first) (retry := retry) hm he hhere hasked hruns hkept
    refine ⟨fun hfirst => ?poisoned, fun hfirst htag => ?good, fun es hfirst htag => ?fixed,
      fun hfirst hlast htag hretry => ?tagTransient, fun hfirst hlast htag hretry => ?tagLasting, fun hfirst hretry => ?lasting,
      fun hfirst hretry htag => ?transient⟩
    all_goals refine hrow.trans ((congrArg _ hfirst).trans ?_)
    case poisoned => rfl
    case good => exact State.burstTagged_agrees (State.tagFails_eq_false htag)
    case fixed => exact State.burstTagged_agrees (State.tagFails_eq_false htag)
    case tagTransient =>
      exact State.burstTagged_transient (State.tagFails_eq_true hlast htag) (State.tagFails_eq_false fun _ => hretry)
    case tagLasting =>
      exact State.burstTagged_lasting (State.tagFails_eq_true hlast htag) (State.tagFails_eq_true hlast hretry)
    case lasting => exact State.burstRetried_lasting hretry
    case transient => exact State.burstRetried_transient hretry (State.tagFails_eq_false htag)

end

section
/-! SUPPORT. The standing invariant along a step (R385, R387): what follows a state that meets it meets it too. -/

namespace Sys2Proof.Machine

variable {s t : State}

theorem State.Follows.inv (h : s.Follows t) (hs : s.Inv) : t.Inv := by
  obtain ⟨hmemory, hcount⟩ := hs
  exact ⟨h.memory hmemory, (h.debug hcount).2⟩

/-- A step takes the rest of the queue along, of which the invariant does not speak. -/
theorem step_keeps_inv (hs : s.Inv) (ht : step s = .next t) : t.Inv := by
  unfold step at ht
  cases hq : s.pending with
  | nil =>
    simp only [hq, Host.Outcome.next.injEq] at ht
    exact ht ▸ hs
  | cons c rest =>
    simp only [hq] at ht
    obtain ⟨u, hu, hf⟩ := exec_continues c { s with pending := rest }
    obtain rfl : u = t := by simpa [hu] using ht
    exact hf.inv hs

theorem State.reset_inv : State.reset.Inv := ⟨rfl, Nat.zero_le 255⟩

end Sys2Proof.Machine

open Sys2Proof Sys2Proof.Machine

/-- Settles O4: every row continues, and with a state that follows. -/
theorem everyCommandFollows : Obligations.EveryCommandFollows := fun c s => (continues_iff.1 (exec_continues c s)).2

/-- Settles O5: the head of the queue runs on the rest of it, and what follows keeps the invariant. -/
theorem stepKeepsInv : Obligations.StepKeepsInv := fun _ _ => step_keeps_inv

/-- Settles O6: each field of the state after reset as it is defined. -/
theorem resetState : Obligations.ResetState :=
  ⟨State.reset_inv, rfl, rfl, rfl, rfl, rfl, rfl, rfl, rfl, rfl, rfl⟩

end

section
/-! SUPPORT. Supply, OFF and module resets: the lands that POWER_UP finds, what OFF leaves, and each row of the reset and management
commands (R395, R405, R441 to R446, R456 to R465). -/

namespace Sys2Proof.Machine

variable {s : State}

/-! ## The supply (R456 to R465) -/

/-- The lands once POWER_UP has found these levels there. -/
def Pins.found (p : Pins) (mv : Nat) (en ref0 ref1 : Bool) : Pins :=
  { p with
    inRange := decide (40000 ≤ mv) && decide (mv ≤ 60000), charged := p.charged && decide (40000 ≤ mv), en := en, ref0 := ref0,
    ref1 := ref1, thermtrip := p.thermtrip && en && decide (36000 ≤ mv) }

/-- The conditions of R459 for leaving OFF. -/
def Pins.startable (p : Pins) : Bool := p.inRange && p.charged && p.en && p.ref0 && p.ref1 && !p.thermtrip

theorem Pins.found_startable {p : Pins} {mv : Nat} (hlow : 40000 ≤ mv) (hhigh : mv ≤ 60000) (hcharged : p.charged = true)
    (htrip : p.thermtrip = false) : (p.found mv true true true).startable = true := by
  simp [Pins.found, Pins.startable, hlow, hhigh, hcharged, htrip]

theorem Pins.found_not_startable {p : Pins} {mv : Nat} {en r0 r1 : Bool}
    (h : mv < 40000 ∨ 60000 < mv ∨ en = false ∨ r0 = false ∨ r1 = false) : (p.found mv en r0 r1).startable = false := by
  rcases h with h | h | rfl | rfl | rfl
  · simp [Pins.found, Pins.startable, Nat.not_le.2 h]
  · simp [Pins.found, Pins.startable, Nat.not_le.2 h]
  all_goals simp [Pins.found, Pins.startable]

theorem exec_powerUp {mv : Nat} {en r0 r1 : Bool} (hoff : s.on = false) :
    exec (.powerUp mv en r0 r1) s =
      if (s.pins.found mv en r0 r1).startable then
        .next ({ s with pins := s.pins.found mv en r0 r1, on := true }.updHearth (fun h => { h with step := 1 }))
      else .next { s with pins := s.pins.found mv en r0 r1 } :=
  if_neg (by simp [hoff])

/-- The module OFF, with the lands as the cause of it leaves them. -/
def State.offWith (s : State) (p : Pins) : State := { s.powerOff with pins := p }

theorem exec_enableDeassert :
    exec .enableDeassert s = .next (s.offWith { s.powerOff.pins with en := false, thermtrip := false }) := rfl

theorem exec_powerLoss :
    exec .powerLoss s = .next (s.offWith { s.powerOff.pins with inRange := false, charged := false, thermtrip := false }) := rfl

theorem exec_brownOut :
    exec .brownOut s = .next (s.offWith { s.powerOff.pins with inRange := false, charged := false, thermtrip := false }) := rfl

theorem exec_refclkLoss_0 : exec (.refclkLoss 0) s = .next (s.offWith { s.powerOff.pins with ref0 := false }) := rfl

theorem exec_refclkLoss_1 : exec (.refclkLoss 1) s = .next (s.offWith { s.powerOff.pins with ref1 := false }) := rfl

theorem State.offWith_rest (p : Pins) :
    { s.offWith p with pins := s.pins, hearth := State.reset.hearth, freeCtr := s.freeCtr, pending := s.pending }
      = { State.reset with pins := s.pins, freeCtr := s.freeCtr, pending := s.pending } := rfl

theorem Hearth.fresh_faultList (h : Hearth) : h.fresh.faultList = if h.clearReq then [] else h.faultList := rfl

/-! ## Requests of a module reset (R441, R446, R461) -/

theorem exec_resetInput_ignored {ns : Nat} (h : ns < 100) : exec (.resetInput ns) s = .next s := if_pos (by simp [h])

theorem exec_resetInput_between {ns : Nat} (hon : s.on = true) (h0 : 100 ≤ ns) (h1 : ns < 1000) :
    exec (.resetInput ns) s = .next (if s.drawBool.1 then s.drawBool.2.requestReset 1 else s.drawBool.2) :=
  (if_neg (by simp [hon, h0])).trans (if_pos h1)

theorem exec_resetInput_taken {ns : Nat} (hon : s.on = true) (h : 1000 ≤ ns) :
    exec (.resetInput ns) s = .next (s.requestReset 1) :=
  (if_neg (by simp [hon, show 100 ≤ ns by omega])).trans (if_neg (Nat.not_lt.2 h))

theorem State.requestReset_granted {c : BitVec 3} (hstep : s.hearth.step ≠ 1) (hreq : s.hearth.resetReq = none) :
    s.requestReset c = s.zeroise.updHearth (fun h => { h with resetReq := some c }) := if_neg (by simp [hstep, hreq])

theorem exec_sbiSrst_reboot {h : Fin 128} (hcalls : s.hartCalls h = true)
    (hkind : (s.hart h).reg 10 = 1 ∨ (s.hart h).reg 10 = 2) : exec (.sbiSrst h) s = .next (s.requestReset 3) := by
  show execSbiSrst h s = _
  unfold execSbiSrst
  rw [if_neg (by simp [hcalls])]
  rcases hkind with hkind | hkind <;> rw [hkind] <;> rfl

theorem exec_sbiSrst_shutdown {h : Fin 128} (hcalls : s.hartCalls h = true) (hkind : (s.hart h).reg 10 = 0) :
    exec (.sbiSrst h) s = .next (s.sbiRet h (-2) 0) := by
  show execSbiSrst h s = _
  unfold execSbiSrst
  rw [if_neg (by simp [hcalls]), hkind]
  rfl

/-! ## MODULE_RESET and FAULT_CLEAR (R444, R446) -/

section
variable {a : Agent} {key : BitVec 16} {c : BitVec 3} {f g : State → State}

/-- Two effects on the Hearth block that agree wherever the Hearth stands as it does now have the same access. -/
theorem State.hearthReg_congr (h : ∀ u : State, u.hearth = s.hearth → f u = g u) : s.hearthReg a f = s.hearthReg a g := by
  unfold State.hearthReg State.ctlExchange
  rw [h s rfl, h _ (State.ctlAsk_hearth _ _)]

theorem State.resetCmd_granted (hstep : s.hearth.step ≠ 1) (hhalt : s.hearth.lifeHalt = false) :
    s.resetCmd c 0xB007 = s.moduleReset c := if_neg (by simp [hstep, hhalt])

theorem State.clearCmd_granted (hhalt : s.hearth.lifeHalt = false) :
    s.clearCmd 0xB007 = s.updHearth (fun h => { h with clearReq := true }) := if_neg (by simp [hhalt])

theorem exec_moduleReset_requested (hon : s.on = true) (hreq : s.hearth.resetReq = some c) :
    exec (.moduleReset a key) s = .next (s.moduleReset c) := by
  show execModuleReset a key s = _
  unfold execModuleReset
  rw [if_neg (by simp [hon]), hreq]

theorem exec_moduleReset_commanded (hon : s.on = true) (hreq : s.hearth.resetReq = none) (hmay : s.mgmtWriter a = some c)
    (hhalt : s.hearth.lifeHalt = false) (hstep : s.hearth.step ≠ 1) :
    exec (.moduleReset a 0xB007) s = .next (s.hearthReg a (fun t => t.acceptedAccess.moduleReset c)) := by
  show execModuleReset a 0xB007 s = _
  unfold execModuleReset
  rw [if_neg (by simp [hon]), hreq]
  simp only [hmay]
  refine congrArg _ (State.hearthReg_congr fun u hu => State.resetCmd_granted ?_ ?_)
  · simpa [hu] using hstep
  · simpa [hu] using hhalt

theorem exec_moduleReset_refused (hon : s.on = true) (hreq : s.hearth.resetReq = none) (hmay : s.mgmtWriter a = none) :
    exec (.moduleReset a key) s = .next (s.hearthReg a State.refusedAccess) := by
  show execModuleReset a key s = _
  unfold execModuleReset
  rw [if_neg (by simp [hon]), hreq]
  simp only [hmay]

theorem exec_faultClear_commanded (hon : s.on = true) (hmay : s.mgmtWriter a = some c) (hhalt : s.hearth.lifeHalt = false) :
    exec (.faultClear a 0xB007) s
      = .next (s.hearthReg a (fun t => t.acceptedAccess.updHearth (fun h => { h with clearReq := true }))) := by
  show execFaultClear a 0xB007 s = _
  unfold execFaultClear
  rw [if_neg (by simp [hon]), hmay]
  exact congrArg _ (State.hearthReg_congr fun u hu => State.clearCmd_granted (by simpa [hu] using hhalt))

theorem exec_faultClear_refused (hon : s.on = true) (hmay : s.mgmtWriter a = none) :
    exec (.faultClear a key) s = .next (s.hearthReg a State.refusedAccess) := by
  show execFaultClear a key s = _
  unfold execFaultClear
  rw [if_neg (by simp [hon]), hmay]

end

/-! ## Firmware writes (R444, R445) -/

section
variable {config ok : Bool} {bytes : List Byte} {f g : Hearth → Hearth}

theorem State.updHearth_congr (h : f s.hearth = g s.hearth) : s.updHearth f = s.updHearth g :=
  congrArg (fun x => { s with hearth := x }) h

theorem mem_addOnce (x : Nat) (l : List Nat) : x ∈ addOnce x l := by
  unfold addOnce
  split
  next h => exact List.contains_iff_mem.1 h
  next => simp

theorem fwCommand_bmc (hon : s.on = true) (hmod : s.pins.modOn = true) (hhalt : s.hearth.lifeHalt = false) :
    fwCommand .bmc s f = .next (s.updHearth f) :=
  (if_neg (by simp [hon])).trans ((if_pos rfl).trans (if_neg (by simp [hmod, hhalt])))

theorem Hearth.openWrite_idle {h : Hearth} (hidle : h.writing = false) :
    h.openWrite config =
      { h with
        fwState := 1, fwTarget := config, fwCopyB := h.copyToWrite config, fwWritten := 0, fwBytes := [],
        flashBad := addOnce ((if config then 2 else 0) + (if h.copyToWrite config then 1 else 0)) h.flashBad } :=
  if_neg (by simp [hidle])

theorem Hearth.closeWrite_open {h : Hearth} (hopen : h.fwState = 2) : h.closeWrite = { h with fwState := 3 } := if_pos hopen

theorem Hearth.abortWrite_open {h : Hearth} (hopen : h.writing = true) : h.abortWrite = h.endWrite 0 := if_pos hopen

/-- What FW_DATA appends in a write that is open and has room. -/
theorem exec_fwData (hon : s.on = true) (hmod : s.pins.modOn = true) (hhalt : s.hearth.lifeHalt = false)
    (hopen : s.hearth.fwState = 2) (hsome : bytes ≠ []) (hshort : bytes.length ≤ 256)
    (hroom : s.hearth.fwWritten.toNat + bytes.length ≤ (if s.hearth.fwTarget then 2 ^ 24 else 2 ^ 26)) :
    exec (.fwData .bmc bytes) s = .next (s.updHearth (fun h =>
      { h with fwBytes := h.fwBytes ++ bytes, fwWritten := h.fwWritten + BitVec.ofNat 32 bytes.length })) := by
  show execFwData .bmc bytes s = _
  unfold execFwData
  rw [if_neg (by simp), fwCommand_bmc hon hmod hhalt]
  refine congrArg _ (State.updHearth_congr ?_)
  exact (if_neg (by simp [hopen, hsome, hshort])).trans (if_neg (Nat.not_lt.2 hroom))

/-- The copy that FW_VERIFY_COMPLETE has read back is valid. -/
def Hearth.copyOk (h : Hearth) : Bool :=
  if h.fwTarget then configOk (configOfBytes h.fwBytes) else imageOk 4 (imageOfBytes h.fwBytes)

theorem exec_fwVerifyComplete (hclosed : s.hearth.fwState = 3) :
    exec (.fwVerifyComplete ok) s = .next (s.updHearth (fun y =>
      if ok && s.hearth.copyOk then
        { y.endWrite 4 with
          flashBad := dropAll ((if s.hearth.fwTarget then 2 else 0) + (if s.hearth.fwCopyB then 1 else 0)) y.flashBad }
      else y.endWrite 5)) :=
  if_neg (not_not.2 hclosed)

end

end Sys2Proof.Machine

open Sys2Proof Sys2Proof.Machine

/-- Settles O47: POWER_UP by whether the lands it finds meet R459, and each way to OFF by the lands it leaves. -/
theorem supplyAndOff : Obligations.SupplyAndOff := by
  refine ⟨fun s mv hoff hlow hhigh hcharged htrip => ?starts, fun s mv en r0 r1 hoff hbad => ?waits,
    fun s hrange => congrArg _ (if_pos hrange), fun c s hc => ?off,
    fun h => ⟨rfl, rfl, rfl, rfl, rfl, fun hclear => ?kept, fun hclear => ?cleared⟩⟩
  case starts =>
    exact ⟨_, (exec_powerUp hoff).trans (if_pos (Pins.found_startable hlow hhigh hcharged htrip)), rfl, rfl⟩
  case waits =>
    exact ⟨_, (exec_powerUp hoff).trans (if_neg (by simp [Pins.found_not_startable hbad])), hoff⟩
  case off =>
    rcases hc with rfl | rfl | rfl | rfl | rfl
    · exact ⟨_, exec_enableDeassert, State.offWith_rest _, rfl, rfl, by simp [State.offWith]⟩
    · exact ⟨_, exec_powerLoss, State.offWith_rest _, rfl, rfl, by simp [State.offWith]⟩
    · exact ⟨_, exec_brownOut, State.offWith_rest _, rfl, rfl, by simp [State.offWith]⟩
    · exact ⟨_, exec_refclkLoss_0, State.offWith_rest _, rfl, rfl, by simp [State.offWith]⟩
    · exact ⟨_, exec_refclkLoss_1, State.offWith_rest _, rfl, rfl, by simp [State.offWith]⟩
  case kept => simp [Hearth.fresh_faultList, hclear]
  case cleared => simp [Hearth.fresh_faultList, hclear]

/-- Settles O48: each row where its conditions hold. -/
theorem resetAndManagement : Obligations.ResetAndManagement := by
  intro s hon
  refine ⟨fun ns => ⟨exec_resetInput_ignored, exec_resetInput_taken hon, fun h0 h1 => ⟨_, exec_resetInput_between hon h0 h1, ?pulse⟩⟩,
    fun c hstep hreq => ?request, fun a key c => exec_moduleReset_requested hon,
    fun a c hreq hmay hhalt hstep => exec_moduleReset_commanded hon hreq hmay hhalt hstep, fun c => ⟨rfl, rfl, rfl, rfl, rfl⟩,
    fun a c => exec_faultClear_commanded hon,
    fun a key hreq hmay => ⟨exec_moduleReset_refused hon hreq hmay, exec_faultClear_refused hon hmay⟩,
    fun h hcalls => ⟨exec_sbiSrst_reboot hcalls, exec_sbiSrst_shutdown hcalls⟩,
    fun hmod hhalt => ⟨fun config hidle => ?opened, fun hopen => ?closed, fun bytes => exec_fwData hon hmod hhalt, fun hopen => ?aborted⟩,
    fun herase => congrArg _ (if_pos herase), fun hclosed => ?verified⟩
  case pulse =>
    cases s.drawBool.1
    · exact .inl rfl
    · exact .inr rfl
  case request =>
    rw [State.requestReset_granted hstep hreq]
    exact ⟨rfl, rfl⟩
  case opened =>
    have hopened := Hearth.openWrite_idle (config := config) hidle
    refine ⟨_, fwCommand_bmc hon hmod hhalt, ?_⟩
    rw [State.updHearth_congr (g := fun _ => _) hopened]
    exact ⟨rfl, rfl, rfl, rfl, mem_addOnce _ _⟩
  case closed =>
    exact (fwCommand_bmc hon hmod hhalt).trans (congrArg _ (State.updHearth_congr (Hearth.closeWrite_open hopen)))
  case aborted =>
    exact (fwCommand_bmc hon hmod hhalt).trans (congrArg _ (State.updHearth_congr (Hearth.abortWrite_open hopen)))
  case verified =>
    intro n good
    have hrow := fun ok : Bool => exec_fwVerifyComplete (ok := ok) hclosed
    refine ⟨fun hgood => ?_, fun ok hbad => ?_⟩
    · refine (hrow true).trans (congrArg _ (State.updHearth_congr (if_pos ?_)))
      exact hgood
    · refine (hrow ok).trans (congrArg _ (State.updHearth_congr (if_neg ?_)))
      have hcopy : s.hearth.copyOk = good := rfl
      rcases hbad with hbad | rfl
      · simp [hcopy, hbad]
      · simp

end

section
/-! SUPPORT. The flits and the training of a port: what the receiver makes of a flit, what its header leaves of the link, a NAK, and
each training state (R314 to R317, R339, R340). -/

namespace Sys2Proof.Machine

variable {s : State} {p : Port}

/-! ## Flits (R314, R315) -/

section
variable {f : Flit} {header : Link → Link}

/-- An active port takes a flit with no corrected codeword by its type, its checks and its turn. -/
theorem State.takeFlit_active (hactive : (s.link p).state = .active) (hfec : f.fecCorr = false) :
    s.takeFlit p f header =
      if f.ftype = 1 then
        if f.bad || f.fseq ≠ (s.link p).expect then s.discardFlit p f
        else s.updLink p (fun x => header { x with expect := x.expect + 1, nakSent := false, badSeq := none })
      else if f.bad || f.ftype ≠ 0 then s
      else s.updLink p header := by
  simp only [State.takeFlit, hactive, hfec, ne_eq, not_true_eq_false, if_false, Bool.false_eq_true]

theorem State.takeFlit_inTurn (hactive : (s.link p).state = .active) (hfec : f.fecCorr = false) (hgood : f.bad = false)
    (hdata : f.ftype = 1) (hseq : f.fseq = (s.link p).expect) :
    s.takeFlit p f header
      = s.updLink p (fun x => header { x with expect := x.expect + 1, nakSent := false, badSeq := none }) :=
  (State.takeFlit_active hactive hfec).trans ((if_pos hdata).trans (if_neg (by simp [hgood, hseq])))

theorem State.takeFlit_outOfTurn (hactive : (s.link p).state = .active) (hfec : f.fecCorr = false) (hdata : f.ftype = 1)
    (hseq : f.fseq ≠ (s.link p).expect) : s.takeFlit p f header = s.discardFlit p f :=
  (State.takeFlit_active hactive hfec).trans ((if_pos hdata).trans (if_pos (by simp [hseq])))

theorem State.takeFlit_idle (hactive : (s.link p).state = .active) (hfec : f.fecCorr = false) (hgood : f.bad = false)
    (hidle : f.ftype = 0) : s.takeFlit p f header = s.updLink p header :=
  (State.takeFlit_active hactive hfec).trans ((if_neg (by simp [hidle])).trans (if_neg (by simp [hgood, hidle])))

end

theorem toNat_satAdd_16 (v n : Nat) : (BitVec.ofNat 16 (satAdd 16 v n)).toNat = min (v + n) 0xFFFF := by
  have hmax : min (v + n) 0xFFFF ≤ 0xFFFF := Nat.min_le_right _ _
  exact Nat.mod_eq_of_lt (Nat.lt_succ_of_le hmax)

/-- A header that asks for no replay acknowledges and returns credits. -/
theorem Link.takeHeader_ack {l : Link} {f : Flit} (h : f.nak = false) :
    l.takeHeader f =
      { l with
        acked := if f.ackValid then f.ackseq else l.acked, creditA := BitVec.ofNat 16 (satAdd 16 l.creditA.toNat f.crMreq.toNat),
        creditB := BitVec.ofNat 16 (satAdd 16 l.creditB.toNat f.crHreq.toNat) } := if_neg (by simp [h])

theorem Link.takeHeader_nak {l : Link} {f : Flit} (h : f.nak = true) :
    l.takeHeader f =
      { l with
        acked := f.ackseq, creditA := BitVec.ofNat 16 (satAdd 16 l.creditA.toNat f.crMreq.toNat),
        creditB := BitVec.ofNat 16 (satAdd 16 l.creditB.toNat f.crHreq.toNat), replaying := some (f.ackseq + 1),
        replays := sat16 l.replays 1 } := if_pos h

theorem exec_beyfyFlit {i : Fin 4} {f : Flit} :
    exec (.beyfyFlit i f) s = .next ((s.takeFlit (.by i) f (fun l => l.takeHeader f)).postWaiting (.by i)) := rfl

/-- The sender of an active port replays from the flit after ACKSEQ; an error that comes again is lasting. -/
theorem exec_nak {ack : BitVec 12} {again ok : Bool} (hactive : (s.link p).state = .active) :
    exec (.nak p ack again ok) s =
      let s1 := s.updLink p (fun l => l.replay ack)
      let s2 := s1.updLink p (fun l =>
        { l with lasting := sat16 l.lasting 1, retrains := BitVec.ofNat 8 (satAdd 8 l.retrains.toNat 1) })
      if !again then .next s1 else .next (if ok then s2 else s2.portLost p) :=
  if_neg (not_not.2 hactive)

/-! ## Training (R317, R340) -/

theorem exec_trainingDetectLock (h : (s.link p).state = .detect) :
    exec (.trainingDetectLock p) s = .next (s.updLink p (fun l => { l with state := .eq })) := if_neg (not_not.2 h)

theorem exec_trainingEqReport {passed : BitVec 16} (h : (s.link p).state = .eq) :
    exec (.trainingEqReport p passed) s =
      match lanesWidth p passed with
      | none => .next (s.trainFail p)
      | some half => .next (s.updLink p (fun l => { l with state := .align, narrow := half, aligned := 0 })) :=
  if_neg (not_not.2 h)

theorem exec_trainingAlign (h : (s.link p).state = .align) :
    exec (.trainingAlign p) s = .next (s.updLink p (fun l => { l with state := .config, aligned := 3 })) := if_neg (not_not.2 h)

theorem exec_trainingStateTimeout
    (h : (s.link p).state = .detect ∨ (s.link p).state = .eq ∨ (s.link p).state = .align ∨ (s.link p).state = .config) :
    exec (.trainingStateTimeout p) s = .next (s.trainFail p) := by
  show execTrainingStateTimeout p s = _
  unfold execTrainingStateTimeout
  rcases h with h | h | h | h <;> rw [h]

section
variable {partner : BitVec 2} {modid : W64} {pp : BitVec 3} {bufA bufB : BitVec 16}

/-- The port is ACTIVE, with the credits that its partner's buffers give. -/
def State.portUp (s : State) (p : Port) (partner : BitVec 2) (bufA bufB : BitVec 16) : State :=
  s.updLink p (fun l =>
    { l with state := .active, partner := partner, creditA := bufA, creditB := bufB, secondTry := false, repair := false })

theorem exec_trainingConfig_by {i : Fin 4} (h : (s.link (.by i)).state = .config) :
    exec (.trainingConfig (.by i) partner modid pp bufA bufB) s
      = if partner = 1 || partner = 2 then .next (s.portUp (.by i) partner bufA bufB) else .next (s.trainFail (.by i)) :=
  if_neg (not_not.2 h)

theorem exec_trainingConfig_bz {i : Fin 6} (h : (s.link (.bz i)).state = .config) :
    exec (.trainingConfig (.bz i) partner modid pp bufA bufB) s
      = if partner ≠ 2 || modid = Config.modid || decide (5 < pp.toNat) then .next (s.trainFail (.bz i))
        else .next ((s.portUp (.bz i) partner bufA bufB).updBzPort i (fun x => { x with modid := modid, peerPort := pp })) :=
  if_neg (not_not.2 h)

end

theorem State.trainFail_again (h : (s.link p).secondTry = false) :
    s.trainFail p = s.updLink p (fun l => { l with state := .detect, secondTry := true, aligned := 0 }) := if_pos (by simp [h])

end Sys2Proof.Machine

open Sys2Proof Sys2Proof.Machine

/-- Settles O52: a flit by its type and turn, its header by whether it asks for a replay, and each training state by its own row. -/
theorem linksTrain : Obligations.LinksTrain := by
  intro s p
  refine ⟨fun i f => ⟨exec_beyfyFlit, fun hactive hfec hgood => ⟨fun hdata hseq => State.takeFlit_inTurn hactive hfec hgood hdata hseq,
      fun hidle => State.takeFlit_idle hactive hfec hgood hidle, fun hdata hseq => State.takeFlit_outOfTurn hactive hfec hdata hseq⟩⟩,
    fun l f => ?header, fun hactive ack => ⟨exec_nak hactive, exec_nak hactive, exec_nak hactive⟩, exec_trainingDetectLock,
    fun heq passed => ?lanes, exec_trainingAlign, fun hconfig partner modid pp bufA bufB => ?config, exec_trainingStateTimeout,
    State.trainFail_again⟩
  case header =>
    cases hnak : f.nak
    · rw [Link.takeHeader_ack hnak]
      exact ⟨by simp, toNat_satAdd_16 _ _, toNat_satAdd_16 _ _, by simp⟩
    · rw [Link.takeHeader_nak hnak]
      exact ⟨by simp, toNat_satAdd_16 _ _, toNat_satAdd_16 _ _, fun _ => rfl⟩
  case lanes =>
    refine ⟨fun half hsome => ?_, fun hnone => ?_⟩
    · rw [exec_trainingEqReport heq, hsome]
    · rw [exec_trainingEqReport heq, hnone]
  case config =>
    refine ⟨fun i hp hpartner => ?_, fun i hp hpartner hother hport => ?_, fun hbz hby => ?_⟩
    · subst hp
      exact (exec_trainingConfig_by hconfig).trans (if_pos (by simpa using hpartner))
    · subst hp
      exact (exec_trainingConfig_bz hconfig).trans (if_neg (by simp [hpartner, hother, hport]))
    · rcases p with i | i
      · exact (exec_trainingConfig_by hconfig).trans (if_neg (by simpa using hby i rfl))
      · exact (exec_trainingConfig_bz hconfig).trans (if_pos (by simpa using .inl (.inl (hbz i rfl))))

end

section
/-! SUPPORT. Collectives and peer messages: how the operation of a slot starts and completes, what an authentic message does, and the
rows of the link (R339 to R355). -/

namespace Sys2Proof.Machine

variable {s : State} {porch : Fin 2}

/-! ## The operation of a slot (R347 to R350, R353) -/

section
variable {n : Nat} {x : CollSlot} {src : List Byte} {s1 : State}

theorem runColl_starts {op : Nat} {slot : Fin 8} (hbusy : (s.coll porch slot.val).busy = true)
    (hidle : (s.coll porch slot.val).started = false) (hwords : (s.coll porch slot.val).words.isSome = true)
    (hop : (s.coll porch slot.val).op = op) : runColl op porch slot s = .next (s.collStart porch slot.val) :=
  if_pos (by simp [hbusy, hidle, hwords, hop])

/-- SRC is read, without a poison mark, at the start of a slot's operation. -/
def State.SrcRead (s : State) (porch : Fin 2) (n : Nat) (src : List Byte) (s1 : State) : Prop :=
  (s.updColl porch n (fun y => { y with started := true })).markedRead (s.coll porch n).owner (collAllows false) ((s.coll porch n).word 0)
    (s.coll porch n).srcBytes = (some (src, false), s1)

/-- The staging buffer is filled, and the parameters and the first chunks of a collective go out. -/
def State.collOpens (s : State) (porch : Fin 2) (n : Nat) (x : CollSlot) (src : List Byte) : State :=
  (x.opening.zipIdx).foldl (fun (t : State) c => t.sendChunk porch n c.2 c.1.1 c.1.2)
    ((s.updColl porch n (fun y => { y with elems := x.stage src })).sessSend porch x.nextSess 3 0 0 0 x.collId x.params)

/-- A collective takes what was held for it. -/
def State.collTakesHeld (s : State) (porch : Fin 2) (n : Nat) (x : CollSlot) : State :=
  ((s.takeHeld porch x).1.foldl (fun t m => t.collTake porch n m) (s.takeHeld porch x).2).collCheck porch n

theorem State.collStart_put (hread : s.SrcRead porch n src s1) (hop : (s.coll porch n).op = 5) :
    s.collStart porch n = s1.sendPut porch n src := by
  unfold State.SrcRead at hread
  unfold State.collStart
  simp [hread, hop]

theorem State.collStart_ring (hread : s.SrcRead porch n src s1) (hx : s.coll porch n = x) (hop : x.op ≠ 5)
    (hreach : s1.mayReach x.owner true (collAllows true) (x.word 1) x.dstBytes = true) :
    s.collStart porch n =
      let s3 := s1.collOpens porch n x src
      let own := if x.op = 3 || (x.op = 4 && x.rank = 0) then s3.collStore porch n (x.segment x.rank).1 src.length else (true, s3)
      if !own.1 then own.2.collEnd porch n 1 x.rank 1 else own.2.collTakesHeld porch n x := by
  subst hx
  unfold State.SrcRead at hread
  unfold State.collStart
  simp only [hread]
  exact (if_neg (by simp [hreach])).trans ((if_neg (by simp)).trans (if_neg hop))

/-- A rank that has no bytes of its own to write goes on to what was held for it. -/
theorem State.collStart_receives (hread : s.SrcRead porch n src s1) (hx : s.coll porch n = x)
    (hop : x.op = 1 ∨ x.op = 2 ∨ x.op = 4 ∧ x.rank ≠ 0)
    (hreach : s1.mayReach x.owner true (collAllows true) (x.word 1) x.dstBytes = true) :
    s.collStart porch n = (s1.collOpens porch n x src).collTakesHeld porch n x := by
  have hnone : ¬(x.op = 3 || (x.op = 4 && x.rank = 0)) = true := by
    rcases hop with h | h | ⟨h, hr⟩ <;> simp [*]
  rw [State.collStart_ring hread hx (by omega) hreach]
  simp only [if_neg hnone]
  rfl

/-- A rank with bytes of its own writes them first. -/
theorem State.collStart_stores {s4 : State} (hread : s.SrcRead porch n src s1) (hx : s.coll porch n = x)
    (hop : x.op = 3 ∨ x.op = 4 ∧ x.rank = 0)
    (hreach : s1.mayReach x.owner true (collAllows true) (x.word 1) x.dstBytes = true)
    (hstore : (s1.collOpens porch n x src).collStore porch n (x.segment x.rank).1 src.length = (true, s4)) :
    s.collStart porch n = s4.collTakesHeld porch n x := by
  have hown : (x.op = 3 || (x.op = 4 && x.rank = 0)) = true := by simpa using hop
  rw [State.collStart_ring hread hx (by omega) hreach]
  simp only [if_pos hown, hstore]
  rfl

theorem exec_collectiveComplete_ring {slot : Fin 8} (hx : s.coll porch slot.val = x) (hbusy : x.busy = true)
    (hstarted : x.started = true) (hop : x.op ≠ 5) (hdst : x.dstDone = true)
    (hall : ∀ r, r < x.nrank → r ≠ x.rank → r ∈ x.doneFrom) :
    exec (.collectiveComplete porch slot) s = .next (s.collFinish porch slot.val 0) := by
  subst hx
  refine (if_neg (by simp [hbusy, hstarted])).trans ((if_neg hop).trans (if_pos ?_))
  simp only [hdst, Bool.true_and, List.all_eq_true, List.mem_range, Bool.or_eq_true, decide_eq_true_eq, List.contains_iff_mem]
  exact fun r hr => or_iff_not_imp_left.2 (hall r hr)

theorem exec_collectiveComplete_put {slot : Fin 8} (hx : s.coll porch slot.val = x) (hbusy : x.busy = true)
    (hstarted : x.started = true) (hop : x.op = 5) (hopen : x.putOpen = 0) :
    exec (.collectiveComplete porch slot) s = .next (s.collFinish porch slot.val x.status.toNat) := by
  subst hx
  exact (if_neg (by simp [hbusy, hstarted])).trans ((if_pos hop).trans (if_pos hopen))

end

/-! ## Messages received (R341 to R346) -/

section
variable {port : Fin 6} {hdr : PeerHdr} {payload plain : List Byte}

/-- A message of a live session has come to its port in good form, and its tag is right. -/
structure State.PeerAuthentic (s : State) (port : Fin 6) (hdr : PeerHdr) (payload plain : List Byte) : Prop where
  active : (s.bzPort port).link.state = .active
  form   : peerFormOk hdr payload = true
  live   : s.sessLive (porchOf (.bz port)) hdr.psess = true
  bound  : (s.sess (porchOf (.bz port)) hdr.psess.toNat).port (porchOf (.bz port)) = port
  opens  : gcmOpen (s.sess (porchOf (.bz port)) hdr.psess.toNat).rxKey
    (peerNonce (s.sess (porchOf (.bz port)) hdr.psess.toNat).rxCount hdr.psess) (peerHead hdr) payload hdr.tag = some plain

/-- The message is counted in its direction (R342). -/
def State.peerCounted (s : State) (port : Fin 6) (hdr : PeerHdr) : State :=
  s.updSess (porchOf (.bz port)) hdr.psess.toNat (fun y => { y with rxCount := y.rxCount + 1 })

theorem State.sess_updSess_same (porch : Fin 2) (p : Nat) (f : PeerSess → PeerSess) :
    (s.updSess porch p f).sess porch p = f (s.sess porch p) := Table.get_upd_same _ _ _ _

theorem State.peerCounted_sess : (s.peerCounted port hdr).sess (porchOf (.bz port)) hdr.psess.toNat =
    { s.sess (porchOf (.bz port)) hdr.psess.toNat with
      rxCount := (s.sess (porchOf (.bz port)) hdr.psess.toNat).rxCount + 1 } := State.sess_updSess_same _ _ _

theorem State.PeerAuthentic.peerOpen {type : Nat} (h : s.PeerAuthentic port hdr payload plain) (htype : hdr.type.toNat = type) :
    s.peerOpen port hdr type payload = (some plain, s.peerCounted port hdr) := by
  unfold State.peerOpen
  dsimp only
  rw [if_neg (not_not.2 h.active), if_neg (by simp [htype, h.form]), if_neg (by simp [h.live, h.bound]), h.opens]
  rfl

theorem collRow_authentic {type : Nat} (h : s.PeerAuthentic port hdr payload plain) (htype : hdr.type.toNat = type) :
    collRow type port hdr payload s
      = .next ((s.peerCounted port hdr).collArrive (porchOf (.bz port)) { hdr := hdr, payload := plain }) := by
  unfold collRow
  simp only [h.peerOpen htype]

/-! ## The slot that reads a message (R350 to R355) -/

section
variable {n : Nat} {m : PeerMsg}

/-- The collective of a slot is the one that a message is for. -/
def State.collReads (s : State) (porch : Fin 2) (hdr : PeerHdr) (n : Nat) : Bool :=
  (s.coll porch n).words.isSome && (s.coll porch n).op ≠ 5 && (s.coll porch n).prevSess = hdr.psess
    && (s.coll porch n).collId = hdr.arg.toNat

/-- That collective runs. -/
def State.collRuns (s : State) (porch : Fin 2) (hdr : PeerHdr) (n : Nat) : Bool :=
  s.collReads porch hdr n && (s.coll porch n).busy && (s.coll porch n).started

theorem State.collArrive_taken (h : (List.range 8).find? (s.collRuns porch m.hdr) = some n) :
    s.collArrive porch m = s.collTake porch n m := by
  unfold State.collArrive
  dsimp only
  split
  next k hk =>
    obtain rfl : n = k := Option.some.inj (h.symm.trans hk)
    rfl
  next hk => exact absurd (h.symm.trans hk) (by simp)

theorem State.collArrive_held (hnone : ∀ n ∈ List.range 8, s.collRuns porch m.hdr n = false)
    (hover : m.hdr.type = 7 → ∀ n ∈ List.range 8, (s.collReads porch m.hdr n && !(s.coll porch n).busy) = false) :
    s.collArrive porch m = s.updSess porch m.hdr.psess.toNat (fun y => { y with held := y.held ++ [m] }) := by
  have hfind : (List.range 8).find? (s.collRuns porch m.hdr) = none :=
    List.find?_eq_none.2 fun n hn => by simp [hnone n hn]
  unfold State.collArrive
  dsimp only
  split
  next k hk => exact absurd (hfind.symm.trans hk) (by simp)
  next =>
    refine if_neg fun habort => ?_
    obtain ⟨htype, hany⟩ := Bool.and_eq_true_iff.1 habort
    obtain ⟨n, hn, hreads⟩ := List.any_eq_true.1 hany
    exact absurd (hreads.symm.trans (hover (of_decide_eq_true htype) n hn)) (by simp)

theorem State.collRuns_busy (h : s.collRuns porch m.hdr n = true) : (s.coll porch n).busy = true := by
  unfold State.collRuns at h
  simp only [Bool.and_eq_true] at h
  obtain ⟨⟨-, hbusy⟩, -⟩ := h
  exact hbusy

theorem State.collTake_params (hbusy : (s.coll porch n).busy = true) (htype : m.hdr.type.toNat = 3) :
    s.collTake porch n m = if m.payload = (s.coll porch n).params then s.updColl porch n (fun y => { y with hdrOk := true })
      else s.collEnd porch n 3 (s.coll porch n).rank 3 := by
  simp [State.collTake, hbusy, htype]

theorem State.collTake_chunk (hbusy : (s.coll porch n).busy = true) (htype : m.hdr.type.toNat = 4)
    (hdr : (s.coll porch n).hdrOk = true) : s.collTake porch n m = s.collData porch n m.payload := by
  simp [State.collTake, hbusy, htype, hdr]

theorem State.collTake_done {origin : Nat} (hbusy : (s.coll porch n).busy = true) (htype : m.hdr.type.toNat = 5)
    (horigin : leNat (m.payload.take 1) = origin) (hother : origin ≠ (s.coll porch n).rank) :
    s.collTake porch n m =
      let s1 := s.updColl porch n (fun y => { y with doneFrom := addOnce origin y.doneFrom })
      if ((s.coll porch n).rank + 1) % (s.coll porch n).nrank = origin then s1
      else s1.sessSend porch (s.coll porch n).nextSess 5 0 0 0 (s.coll porch n).collId (leBytes 16 origin) := by
  simp [State.collTake, hbusy, htype, horigin, hother]

theorem State.collTake_abort (hbusy : (s.coll porch n).busy = true) (htype : m.hdr.type.toNat = 7) :
    s.collTake porch n m = s.collEnd porch n 5 (leNat (m.payload.take 1)) (leNat ((m.payload.drop 1).take 1)) := by
  simp [State.collTake, hbusy, htype]

end

/-! ## Peer writes (R346, R353) -/

theorem exec_pwr_outside (h : s.PeerAuthentic port hdr payload plain) (htype : hdr.type = 1)
    (hout : (s.sess (porchOf (.bz port)) hdr.psess.toNat).landSize < hdr.offset.toNat + plain.length) :
    exec (.pwr port hdr payload) s
      = .next ((s.peerCounted port hdr).sessSend (porchOf (.bz port)) hdr.psess 2 1 hdr.xtag.toNat 0 0 []) := by
  have hland : ((s.peerCounted port hdr).sess (porchOf (.bz port)) hdr.psess.toNat).landSize < hdr.offset.toNat + plain.length := by
    rwa [State.peerCounted_sess]
  show execPwr port hdr payload s = _
  unfold execPwr
  simp only [h.peerOpen (type := 1) (by simp [htype]), if_pos hland]
  rfl

theorem exec_pwr_inside {ok : Bool} {t : State} (h : s.PeerAuthentic port hdr payload plain) (htype : hdr.type = 1)
    (hin : hdr.offset.toNat + plain.length ≤ (s.sess (porchOf (.bz port)) hdr.psess.toNat).landSize)
    (hwrite : (s.peerCounted port hdr).checkedWrite (s.sess (porchOf (.bz port)) hdr.psess.toNat).suite peerAllows
      ((s.sess (porchOf (.bz port)) hdr.psess.toNat).landBase + hdr.offset.toNat) plain false = (ok, t)) :
    exec (.pwr port hdr payload) s
      = .next (t.sessSend (porchOf (.bz port)) hdr.psess 2 (if ok then 0 else 1) hdr.xtag.toNat 0 0 []) := by
  have hland : ¬((s.peerCounted port hdr).sess (porchOf (.bz port)) hdr.psess.toNat).landSize < hdr.offset.toNat + plain.length := by
    rw [State.peerCounted_sess]
    exact Nat.not_lt.2 hin
  have hwritten : (s.peerCounted port hdr).checkedWrite ((s.peerCounted port hdr).sess (porchOf (.bz port)) hdr.psess.toNat).suite
      peerAllows (((s.peerCounted port hdr).sess (porchOf (.bz port)) hdr.psess.toNat).landBase + hdr.offset.toNat) plain false
        = (ok, t) := by
    rwa [State.peerCounted_sess]
  show execPwr port hdr payload s = _
  unfold execPwr
  simp only [h.peerOpen (type := 1) (by simp [htype]), if_neg hland, hwritten]

theorem exec_pwack_unknown (h : s.PeerAuthentic port hdr [] plain) (htype : hdr.type = 2)
    (hnone : (s.sess (porchOf (.bz port)) hdr.psess.toNat).pwrOut.find? (fun e => e.1 = hdr.xtag) = none) :
    exec (.pwack port hdr) s = .next (s.peerCounted port hdr) := by
  show execPwack port hdr s = _
  unfold execPwack
  simp only [h.peerOpen (type := 2) (by simp [htype]), State.peerCounted_sess, hnone]

/-- A PUT's record of one answer: one write fewer is open, and the first status that is not OK stays. -/
def CollSlot.answered (y : CollSlot) (st : BitVec 8) : CollSlot :=
  if y.busy && y.op = 5 then
    { y with putOpen := y.putOpen - 1, status := if y.status = 0 then st else y.status, dstDone := y.putOpen = 1 }
  else y

theorem exec_pwack_known {e : BitVec 16 × Nat} (h : s.PeerAuthentic port hdr [] plain) (htype : hdr.type = 2)
    (hsome : (s.sess (porchOf (.bz port)) hdr.psess.toNat).pwrOut.find? (fun e => e.1 = hdr.xtag) = some e) :
    exec (.pwack port hdr) s
      = .next (((s.peerCounted port hdr).updSess (porchOf (.bz port)) hdr.psess.toNat (fun y =>
          { y with pwrOut := y.pwrOut.filter (fun z => z.1 ≠ hdr.xtag) })).updColl (porchOf (.bz port)) e.2 (fun y =>
            y.answered (if hdr.status = 0 then 0 else if hdr.status = 1 then 1 else 4))) := by
  show execPwack port hdr s = _
  unfold execPwack
  simp only [h.peerOpen (type := 2) (by simp [htype]), State.peerCounted_sess, hsome]
  rfl

theorem exec_prog (h : s.PeerAuthentic port hdr [] plain) (htype : hdr.type = 6) :
    exec (.prog port hdr) s = .next (s.peerCounted port hdr) := by
  show Host.Outcome.next (s.peerOpen port hdr 6 []).2 = _
  rw [h.peerOpen (by simp [htype])]

theorem exec_peerWriteTimeout (hactive : (s.bzPort port).link.state = .active) (htype : hdr.type = 1) (hlen : hdr.len ≠ 0)
    (hshort : hdr.len.toNat ≤ 256) (hlive : s.sessLive (porchOf (.bz port)) hdr.psess = true)
    (hport : (s.sess (porchOf (.bz port)) hdr.psess.toNat).port (porchOf (.bz port)) = port) :
    exec (.peerWriteTimeout port hdr) s
      = .next (((s.peerCounted port hdr).reportHeld (.porch (porchOf (.bz port)))
          { RasRep.zero with
            cause := 0x06, outcome := 2, suite := (s.sess (porchOf (.bz port)) hdr.psess.toNat).suite,
            gen := (s.sess (porchOf (.bz port)) hdr.psess.toNat).gen }).sessSend
          (porchOf (.bz port)) hdr.psess 2 2 hdr.xtag.toNat 0 0 []) :=
  (if_neg (not_not.2 hactive)).trans ((if_neg (by simpa [htype, hshort] using hlen)).trans (if_neg (by simp [hlive, hport])))

/-! ## Flits and LCTL (R339, R342, R343) -/

/-- What LCTL leaves of the link: acknowledgements and credits, and where it asks for one a replay. -/
theorem exec_lctl (hactive : (s.bzPort port).link.state = .active) (htype : hdr.type = 0) (hform : peerFormOk hdr [] = true) :
    exec (.lctl port hdr) s = .next ((s.updLink (.bz port) (fun l =>
      let l1 := { l with
        acked := if bitOf hdr.offset.toNat 12 then BitVec.ofNat 12 hdr.offset.toNat else l.acked,
        creditA := BitVec.ofNat 16 (satAdd 16 l.creditA.toNat (bitsOf hdr.arg.toNat 0 16)),
        creditB := BitVec.ofNat 16 (satAdd 16 l.creditB.toNat (bitsOf hdr.arg.toNat 16 16)) }
      if bitOf hdr.offset.toNat 13 then l1.replay (BitVec.ofNat 12 hdr.offset.toNat) else l1)).postWaiting (.bz port)) :=
  (if_neg (not_not.2 hactive)).trans (if_neg (by simp [htype, hform]))

section
variable {f : Flit}

/-- A flit that is not accepted, or that carries no message of a session, is taken as a flit alone. -/
theorem exec_breezewayFlit_alone
    (h : f.bad = true ∨ f.ftype ≠ 1 ∨ f.fseq ≠ (s.bzPort port).link.expect ∨ hdr.psess = 0) :
    exec (.breezewayFlit port f hdr payload) s = .next (s.takeFlit (.bz port) f (fun x => x)) := by
  show execBreezewayFlit port f hdr payload s = _
  unfold execBreezewayFlit
  dsimp only
  split
  next => rfl
  next hflit =>
    simp only [Bool.or_eq_true, decide_eq_true_eq, not_or] at hflit
    obtain ⟨⟨⟨-, hgood⟩, hdata⟩, hseq⟩ := hflit
    exact if_pos (by simp [((h.resolve_left hgood).resolve_left hdata).resolve_left hseq])

/-- An accepted flit with a whole message of a live session: the message's tag is checked. -/
theorem exec_breezewayFlit_message (hactive : (s.bzPort port).link.state = .active) (hgood : f.bad = false) (hdata : f.ftype = 1)
    (hseq : f.fseq = (s.bzPort port).link.expect) (hsess : hdr.psess ≠ 0) (hform : peerFormOk hdr payload = true)
    (hlive : s.sessLive (porchOf (.bz port)) hdr.psess = true)
    (hport : (s.sess (porchOf (.bz port)) hdr.psess.toNat).port (porchOf (.bz port)) = port) :
    exec (.breezewayFlit port f hdr payload) s =
      if (gcmOpen (s.sess (porchOf (.bz port)) hdr.psess.toNat).rxKey
        (peerNonce (s.sess (porchOf (.bz port)) hdr.psess.toNat).rxCount hdr.psess) (peerHead hdr) payload hdr.tag).isNone then
        .next ((s.takeFlit (.bz port) f (fun x => x)).peerAuthFail port hdr.psess)
      else .next (s.takeFlit (.bz port) f (fun x => x)) :=
  (if_neg (by simp [hactive, hgood, hdata, hseq])).trans (if_neg (by simpa [hform, hlive, hport] using hsess))

end

end

end Sys2Proof.Machine

open Sys2Proof Sys2Proof.Machine

/-- Settles O54: a slot by the operation it names, an authentic message by what its row does once it is open, and a flit by whether it
carries a message of a session. -/
theorem peerOperations : Obligations.PeerOperations := by
  refine ⟨fun s porch n c op hc hbusy hidle hwords hop src s1 => ?start,
    fun s porch n hbusy hstarted => ⟨fun hop hdst hall => exec_collectiveComplete_ring rfl hbusy hstarted hop hdst hall,
      fun hop hopen => exec_collectiveComplete_put rfl hbusy hstarted hop hopen⟩,
    fun s port hdr payload plain hactive hform hlive => ?message, fun s port hdr hactive => ⟨fun htype hform => ?credits,
      fun htype hlen hshort hlive => exec_peerWriteTimeout hactive htype hlen hshort hlive,
      fun f payload => ⟨exec_breezewayFlit_alone, fun hgood hdata hseq hfec => State.takeFlit_inTurn hactive hfec hgood hdata hseq,
        fun hgood hdata hseq hsess hform hlive hport => ?tag⟩⟩,
    fun s porch psess hbusy => ⟨if_pos hbusy, if_pos hbusy⟩⟩
  case start =>
    intro x hread
    have hrow : exec (c porch n) s = .next (s.collStart porch n.val) := by
      rcases hc with ⟨rfl, rfl⟩ | ⟨rfl, rfl⟩ | ⟨rfl, rfl⟩ | ⟨rfl, rfl⟩ | ⟨rfl, rfl⟩ <;> exact runColl_starts hbusy hidle hwords hop
    refine ⟨fun hput => hrow.trans (congrArg _ (State.collStart_put hread (hop.trans hput))), fun hring hreach => ?_⟩
    exact ⟨fun hkind => hrow.trans (congrArg _ (State.collStart_receives hread rfl (by rwa [hop]) hreach)),
      fun hkind s4 hstore => hrow.trans (congrArg _ (State.collStart_stores hread rfl (by rwa [hop]) hreach hstore))⟩
  case message =>
    intro porch x hport hopens s1
    have hauth : s.PeerAuthentic port hdr payload plain := ⟨hactive, hform, hlive, hport, hopens⟩
    refine ⟨fun c type hc htype => ?collective,
      fun htype => ⟨exec_pwr_outside hauth htype, fun hin ok t => exec_pwr_inside hauth htype hin⟩,
      fun htype hempty => ?answer, fun htype hempty => ?beat⟩
    case collective =>
      have hrow : exec (c port hdr payload) s = .next (s1.collArrive porch { hdr := hdr, payload := plain }) := by
        rcases hc with ⟨rfl, rfl⟩ | ⟨rfl, rfl⟩ | ⟨rfl, rfl⟩ | ⟨rfl, rfl⟩ <;> exact collRow_authentic hauth htype
      refine ⟨fun hnone hover => ?_, fun n hn => ?_⟩
      · refine hrow.trans (congrArg _ (State.collArrive_held hnone fun h7 => hover ?_))
        exact htype.symm.trans (congrArg BitVec.toNat h7)
      · have htaken := hrow.trans (congrArg _ (State.collArrive_taken hn))
        have hbusy : (s1.coll porch n).busy = true := State.collRuns_busy (m := { hdr := hdr, payload := plain }) (List.find?_some hn)
        refine ⟨fun h3 => ?_, fun h4 hhdr => ?_, fun h5 hother => ?_, fun h7 => ?_⟩
        · exact htaken.trans (congrArg _ (State.collTake_params hbusy (htype.trans h3)))
        · exact htaken.trans (congrArg _ (State.collTake_chunk hbusy (htype.trans h4) hhdr))
        · exact htaken.trans (congrArg _ (State.collTake_done hbusy (htype.trans h5) rfl hother))
        · exact htaken.trans (congrArg _ (State.collTake_abort hbusy (htype.trans h7)))
    case answer =>
      subst hempty
      refine ⟨exec_pwack_unknown hauth htype, fun e he => (exec_pwack_known hauth htype he).trans ?_⟩
      refine congrArg (fun g => Host.Outcome.next (State.updColl _ _ _ g)) (funext fun y => ?_)
      simp only [CollSlot.answered, ne_eq, ite_not]
    case beat =>
      subst hempty
      exact exec_prog hauth htype
  case credits =>
    intro l1
    refine (exec_lctl hactive htype hform).trans ?_
    refine congrArg (fun g => Host.Outcome.next ((s.updLink (.bz port) g).postWaiting (.bz port))) (funext fun l => ?_)
    cases h13 : bitOf hdr.offset.toNat 13 <;> simp [l1, Link.replay, h13]
  case tag =>
    have hrow := exec_breezewayFlit_message hactive hgood hdata hseq hsess hform hlive hport
    intro x good
    refine ⟨fun hbad => hrow.trans (if_pos ?_), fun hok => hrow.trans (if_neg ?_)⟩
    · exact Option.isNone_iff_eq_none.2 hbad
    · exact fun h => hok (Option.isNone_iff_eq_none.1 h)

end

section
/-! SUPPORT. In-module Hearth calls: how a call that is taken ends, by the kind of its caller, and the calls on peer sessions (R341, R362,
R373 to R377). -/

namespace Sys2Proof.Machine

variable {s : State}

/-! ## Calls by their callers (R375, R377) -/

section
variable {c : CallVia → Instr} {call : Nat} {n caller : BitVec 8} {gen : BitVec 16} {t : State} {r : CallEnd × State}

/-- What becomes of a call that was taken, by how its run ends. -/
def State.callEnding (s : State) (via : CallVia) (call : Nat) (n : BitVec 8) (r : CallEnd × State) : State :=
  match r.1 with
  | .now st res => r.2.answerCall via call st n res
  | .later pages => r.2.keepCall { call := call, suite := n, via := via, pages := pages }
  | .wait => s

theorem State.door_entered {q : W64} {open0 : Bool} (h : s.mayCall caller) :
    s.door (.inModule caller q) call n gen open0 = (.enter (some caller), s.entered caller) := by
  obtain ⟨hthere, hfree⟩ := h
  exact (if_neg hthere).trans (if_neg (by simp [hfree]))

theorem hearthCall_entered {q : W64} {open0 : Bool} {run : Option (BitVec 8) → State → CallEnd × State} (h : s.mayCall caller) :
    hearthCall (.inModule caller q) call n gen open0 run s
      = .next (s.callEnding (.inModule caller q) call n (run (some caller) (s.entered caller))) := by
  unfold hearthCall State.callEnding
  simp only [State.door_entered h]
  cases (run (some caller) (s.entered caller)).1 <;> rfl

/-- A call that the Hearth takes ends as its run for the caller does. -/
theorem callEnds_of_run {open0 : Bool} {run : W64 → Option (BitVec 8) → State → CallEnd × State} (h : s.mayCall caller)
    (hrow : ∀ q, exec (c (.inModule caller q)) s = hearthCall (.inModule caller q) call n gen open0 (run q) s)
    (ht : s.entered caller = t) (hrun : ∀ q, run q (some caller) t = r) : CallEnds c call n caller s r := by
  subst ht
  intro q
  rw [hrow q, hearthCall_entered h, hrun q]
  rfl

theorem operatorCall_entered {q : W64} {run : State → CallEnd × State} (h : s.mayCall 0) (ht : s.entered 0 = t) :
    operatorCall (.inModule 0 q) call n gen run s = .next (s.callEnding (.inModule 0 q) call n (run t)) := by
  subst ht
  unfold operatorCall
  simp only [hearthCall_entered h, ne_eq, not_true_eq_false, if_false]

/-- A call of the operator. -/
theorem callEnds_operator {run : State → CallEnd × State} (h : s.mayCall 0)
    (hrow : ∀ q, exec (c (.inModule 0 q)) s = operatorCall (.inModule 0 q) call n gen run s)
    (ht : s.entered 0 = t) (hrun : run t = r) : CallEnds c call n 0 s r := fun q => by
  rw [hrow q, operatorCall_entered h ht, hrun]
  rfl

/-- A call of the operator that another Suite makes is answered with status 3. -/
theorem callEnds_operator_refused {run : W64 → State → CallEnd × State} (h : s.mayCall caller) (hcaller : caller ≠ 0)
    (hrow : ∀ q, exec (c (.inModule caller q)) s = operatorCall (.inModule caller q) call n gen (run q) s) :
    CallEnds c call n caller s (.now 3 [], s.entered caller) :=
  callEnds_of_run h hrow rfl fun _ => if_pos (by simpa using hcaller)

/-- A call that names a Suite, by a caller that may make it. -/
theorem callEnds_suite {may : BitVec 8 → Bool} {run : W64 → State → CallEnd × State} (h : s.mayCall caller)
    (hmay : may caller = true)
    (hrow : ∀ q, exec (c (.inModule caller q)) s = suiteCall (.inModule caller q) call n gen may (run q) s)
    (ht : s.entered caller = t) (hname : t.mayName n gen) (hrun : ∀ q, run q t = r) : CallEnds c call n caller s r := by
  obtain ⟨hsuite, hok, hidle⟩ := hname
  refine callEnds_of_run h hrow ht fun q => ?_
  refine (if_neg hsuite).trans ((if_neg (by simp [hmay])).trans ((if_neg (by simp [hok])).trans ((if_neg (by simp [hidle])).trans ?_)))
  exact hrun q

/-- A call of the tenant, by the Suite that it names. -/
theorem callEnds_tenant {run : State → CallEnd × State} (h : s.mayCall n)
    (hrow : ∀ q, exec (c (.inModule n q)) s = tenantCall (.inModule n q) call n gen run s)
    (ht : s.entered n = t) (hname : t.mayName n gen) (hrun : run t = r) : CallEnds c call n n s r :=
  callEnds_suite (may := fun c => c = n) (run := fun _ => run) h (by simp) hrow ht hname fun _ => hrun

/-- A call that only an agent in the module may make, by the Suite that it names. -/
theorem callEnds_inner {run : State → CallEnd × State} (h : s.mayCall n)
    (hrow : ∀ q, exec (c (.inModule n q)) s = innerCall (.inModule n q) call n gen run s)
    (ht : s.entered n = t) (hname : t.mayName n gen) (hrun : run t = r) : CallEnds c call n n s r :=
  callEnds_suite (may := fun c => c = n) (run := fun q u => if viaInModule n (.inModule n q) then run u else failCall 3 u) h (by simp)
    hrow ht hname fun _ => (if_pos (by simp [viaInModule])).trans hrun

end

/-! ## Peer sessions (R341, R373) -/

section
variable {via : CallVia} {n p : BitVec 8} {gen : BitVec 16} {port : Fin 6} {porch : Fin 2} {modid buf offer answer : W64}

theorem exec_peerOffer : exec (.peerOffer via n gen port p modid buf) s = execPeerOffer via n gen port p modid buf s := rfl

theorem exec_peerAccept : exec (.peerAccept via n gen port offer answer) s = execPeerAccept via n gen port offer answer s := rfl

theorem exec_peerFinish : exec (.peerFinish via n gen answer) s = execPeerFinish via n gen answer s := rfl

theorem exec_peerClose : exec (.peerClose via n gen porch p) s = execPeerClose via n gen porch p s := rfl

end

/-- The first Porch whose session of this number was offered by the Suite. -/
theorem find_offered {t : State} {p n : BitVec 8} {porch : Fin 2} (hfirst : porch = 0 ∨ (t.sess 0 p.toNat).offered = false)
    (hoffered : (t.sess porch p.toNat).offered = true) (hsuite : (t.sess porch p.toNat).suite = n) :
    (List.finRange 2).find? (fun q => (t.sess q p.toNat).offered && (t.sess q p.toNat).suite = n) = some porch := by
  have hpair : List.finRange 2 = [0, 1] := by decide
  rw [hpair]
  obtain rfl | rfl : porch = 0 ∨ porch = 1 := by omega
  · simp [hoffered, hsuite]
  · have hnot : (t.sess 0 p.toNat).offered = false := hfirst.resolve_left (by decide)
    simp [hnot, hoffered, hsuite]

end Sys2Proof.Machine

open Sys2Proof Sys2Proof.Machine

/-- Settles O57: each call by the branch its conditions choose. -/
theorem peerCalls : Obligations.PeerCalls := by
  intro s n gen hcall hname t ok
  have ht : s.entered n = t := rfl
  refine ⟨fun port p modid buf hp hfree => ?offer, fun port offer answer bs s1 hread hblob hp hfree => ?accept,
    fun answer bs s1 hread hblob => ?finish, fun porch p hp htaken hmine => ?close⟩
  case offer =>
    intro sec q no u hwrite
    refine callEnds_inner hcall (fun _ => exec_peerOffer) ht hname ?_
    refine (if_neg hp).trans ((if_neg (by simp [hfree])).trans ?_)
    simp only [no, q, sec] at hwrite
    simp only [hwrite]
    rfl
  case accept =>
    intro sec q no u hwrite
    refine callEnds_inner hcall (fun _ => exec_peerAccept) ht hname ?_
    simp only [hread]
    refine (if_neg (not_not.2 hblob)).trans ((if_neg hp).trans ((if_neg (by simp [hfree])).trans ?_))
    simp only [no, q, sec] at hwrite
    simp only [hwrite]
    rfl
  case finish =>
    intro p porch x hfirst hoffered hsuite
    have hfind := find_offered hfirst hoffered hsuite
    have hrun : ∀ r, (if blobField bs 192 8 ≠ x.peer.toNat then failCall 2 s1
        else (.now 0 [], s1.bindPeer n (x.port porch) p x.secret x.nonce true bs)) = r →
        CallEnds (.peerFinish · n gen answer) 0x2F n n s r := by
      intro r hr
      refine callEnds_inner hcall (fun _ => exec_peerFinish) ht hname ?_
      simp only [hread]
      split
      next hnone => exact absurd (hfind.symm.trans hnone) (by simp)
      next k hk =>
        obtain rfl : porch = k := Option.some.inj (hfind.symm.trans hk)
        exact (if_neg (not_not.2 hblob)).trans hr
    exact ⟨fun hpeer => hrun _ (if_neg (not_not.2 hpeer)), fun hother => hrun _ (if_pos hother)⟩
  case close =>
    refine ⟨fun hoffer => ?_, fun hvalid => ?_⟩
    all_goals
      refine callEnds_tenant hcall (fun _ => exec_peerClose) ht hname ?_
      refine (if_neg (by simpa [htaken] using hp)).trans ((if_neg (not_not.2 hmine)).trans ?_)
    · exact if_pos (by simp [hoffer])
    · exact if_neg (by simp [hvalid])

end

section
/-! SUPPORT. The operator's calls: how a creation, a growth and a shrinking end, and each row as the kind of call it is (R360 to R365,
R374 to R378, R385 to R387, R430). -/

namespace Sys2Proof.Machine

variable {s : State} {n : BitVec 8} {b : ResBlock} {q : Option Rect}

/-! ## The rows -/

section
variable {via : CallVia} {gen : BitVec 16} {unit : BitVec 16} {strict : Bool} {target : BitVec 3} {tok : Token}

theorem exec_getId : exec (.getId via) s = execGetId via s := rfl
theorem exec_nonce : exec (.nonce via) s = execNonce via s := rfl
theorem exec_suiteCreate : exec (.suiteCreate via n b) s = execSuiteCreate via n b s := rfl
theorem exec_suiteGrow : exec (.suiteGrow via n gen b) s = execSuiteGrow via n gen b s := rfl
theorem exec_suiteShrink : exec (.suiteShrink via n gen b) s = execSuiteShrink via n gen b s := rfl
theorem exec_suiteReset : exec (.suiteReset via n gen) s = execSuiteReset via n gen s := rfl
theorem exec_suiteRemove : exec (.suiteRemove via n gen) s = execSuiteRemove via n gen s := rfl
theorem exec_strictSet : exec (.strictSet via strict) s = execStrictSet via strict s := rfl
theorem exec_selftest : exec (.selftest via unit) s = execSelftest via unit s := rfl
theorem exec_lifecycle : exec (.lifecycle via target tok) s = execLifecycle via target tok s := rfl
theorem exec_debugOpen : exec (.debugOpen via tok) s = execDebugOpen via tok s := rfl

end

/-! ## Creation (R360 to R362, R378) -/

/-- A creation whose resources are all there claims them, under the next generation. -/
theorem State.createSuite_claims {s1 u : State} {globals others : List Nat} {key : Nat} {lead : Fin 8 × Nat}
    (hs1 : s.updSuite n (fun x => { x with gen := x.gen + 1 }) = s1) (hlive : (s1.suitesNow.filter (fun e => e.1 ≠ 0)).length < 96)
    (hedges : ∀ x, q = some x → s1.edgesUp x = true) (hunits : s1.unitsFree (rectRooms q) b = true)
    (hquotas : s1.quotasFit n b.ctx.toNat b.resLpd.toNat b.resDdr.toNat = true) (hpages : s1.pickAll b = (some (globals, others), u))
    (hkey : s1.hearth.freeKeySlot = some key) (hlead : s1.leadFor q = some lead) (hstrict : s1.hearth.strict = false) :
    s.createSuite n b q = (.later (globals ++ others), u.claim n b q key lead globals others) := by
  unfold State.createSuite
  simp only [hs1, hpages, hkey, hlead]
  refine (if_neg ?_).trans (if_neg (by simp [hstrict]))
  cases q with
  | none => simpa [hunits, hquotas] using hlive
  | some x => simpa [hedges x rfl, hunits, hquotas] using hlive

/-! ## What a growth and a shrinking leave of the Suite (R364) -/

/-- A Suite with what a change gives or leaves it. -/
def Suite.granted (x : Suite) (c : Change) : Suite :=
  { x with cpy := c.cpy, win := c.win, harts := c.harts, ctx := c.ctx, resLpd := c.resLpd, resDdr := c.resDdr }

theorem State.suite_eq_of_hearth {t : State} (h : t.hearth = s.hearth) : t.suite n = s.suite n := by
  unfold State.suite
  rw [h]

theorem State.passEngines_hearth (m : BitVec 8) (owned : Bool) (es : BitVec 32) : (s.passEngines m owned es).hearth = s.hearth :=
  foldl_keeps (g := State.hearth) _ s fun _ _ _ => rfl

theorem State.passWindows_hearth (m : BitVec 8) (owned : Bool) (ws : BitVec 8) : (s.passWindows m owned ws).hearth = s.hearth :=
  foldl_keeps (g := State.hearth) _ s fun _ _ _ => rfl

theorem State.passHarts_hearth (m : BitVec 8) (gen : BitVec 16) (hs : BitVec 128) : (s.passHarts m gen hs).hearth = s.hearth :=
  foldl_keeps (g := State.hearth) _ s fun _ _ _ => rfl

theorem State.setCredits_hearth (m lpd ddr : BitVec 8) : (s.setCredits m lpd ddr).hearth = s.hearth :=
  foldl_keeps (g := State.hearth) _ s fun _ _ _ => rfl

theorem State.kickWipes_hearth : s.kickWipes.hearth = s.hearth := by
  refine foldl_keeps (g := State.hearth) _ s fun t k _ => ?_
  dsimp only
  split
  · rfl
  · split <;> rfl

/-- Harts that pass change the record of Suite 0, never that of the Suite that takes or gives them. -/
theorem State.moveHarts_suite (toSuite : Bool) (hs : BitVec 128) : (s.moveHarts n toSuite hs).suite n = s.suite n := by
  unfold State.moveHarts
  dsimp only
  split
  · exact State.suite_eq_of_hearth (State.passHarts_hearth _ _ _)
  next hn =>
    rw [State.suite_updSuite_other _ _ _ _ fun h => hn (BitVec.eq_of_toNat_eq h)]
    exact State.suite_eq_of_hearth (State.passHarts_hearth _ _ _)

theorem State.beginChange_suite (c : Change) :
    (s.beginChange n c).suite n = { s.suite n with state := .changing, change := some c } := State.suite_updSuite_same _ _ _

theorem State.givePages_none (key : BitVec 7) : s.givePages n key [] = s.kickWipes := rfl

theorem listGet_eq_of_all {α : Type} [DecidableEq α] {d : α} {l : List α} (h : l.all (fun x => x = d) = true) (k : Nat) :
    listGet d l k = d := by
  induction l generalizing k with
  | nil => rfl
  | cons x l ih =>
    simp only [List.all_cons, Bool.and_eq_true, decide_eq_true_eq] at h
    obtain ⟨hx, hl⟩ := h
    cases k with
    | zero => exact hx
    | succ k => exact ih hl k

/-- A block that asks for no pages is given none, and draws nothing. -/
theorem State.pickAll_none (h : resBlockNoPages b = true) : s.pickAll b = (some ([], []), s) := by
  simp only [resBlockNoPages, Bool.and_eq_true, decide_eq_true_eq] at h
  obtain ⟨⟨hglobal, hddr⟩, hlocal⟩ := h
  have hwing : ∀ k, listGet (0#32) b.lpdLocal k = 0#32 := listGet_eq_of_all hlocal
  simp [State.pickAll, hglobal, hddr, hwing, State.pickPages, List.foldl_fixed']

theorem filter_not_contains_self {α : Type} [DecidableEq α] (l : List α) : l.filter (fun r => !l.contains r) = [] := by
  simp

/-- A block that names no unit finds all of them free. -/
theorem State.unitsFree_none (hslices : b.slices = 0) (hcpy : b.cpy = 0) (hwin : b.win = 0) (hharts : b.harts = 0) :
    s.unitsFree [] b = true := by
  simp [State.unitsFree, hslices, hcpy, hwin, hharts, sliceList]

/-- The change of a growth by quotas alone, of a Suite and its block. -/
def Suite.grownBy (x : Suite) (b : ResBlock) : Change :=
  { rect := x.rect, dropped := [], added := [], slices := x.slices ||| b.slices, cpy := x.cpy ||| b.cpy, win := x.win ||| b.win,
    harts := x.harts ||| b.harts, ctx := BitVec.ofNat 16 (x.ctx.toNat + b.ctx.toNat),
    resLpd := BitVec.ofNat 8 (x.resLpd.toNat + b.resLpd.toNat), resDdr := BitVec.ofNat 8 (x.resDdr.toNat + b.resDdr.toNat),
    newPages := [], killed := false, lead := none }

/-- A Suite that grows by quotas alone: its record takes them, and it is CHANGING. -/
theorem State.growSuite_quotas (hrect : q = (s.suite n).rect) (hlead : s.newLead n q = some none) (hslices : b.slices = 0)
    (hcpy : b.cpy = 0) (hwin : b.win = 0) (hharts : b.harts = 0) (hpages : resBlockNoPages b = true) (hstrict : s.hearth.strict = false)
    (hedges : ∀ x, q = some x → s.edgesUp x = true) (hlpd : (s.suite n).resLpd.toNat + b.resLpd.toNat ≤ 255)
    (hquotas : s.quotasFit n ((s.suite n).ctx.toNat + b.ctx.toNat) ((s.suite n).resLpd.toNat + b.resLpd.toNat)
      ((s.suite n).resDdr.toNat + b.resDdr.toNat) = true) :
    ∃ u : State, s.growSuite n b q = (.later [], u)
      ∧ u.suite n =
        { (s.suite n).granted ((s.suite n).grownBy b) with state := .changing, change := some ((s.suite n).grownBy b) } := by
  have hadded : (rectRooms q).filter (fun r => !(rectRooms (s.suite n).rect).contains r) = [] := by
    rw [hrect]
    exact filter_not_contains_self _
  have hunits : s.unitsFree [] b = true := State.unitsFree_none hslices hcpy hwin hharts
  unfold State.growSuite
  simp only [hlead, hadded, State.pickAll_none hpages]
  refine ⟨_, (if_neg (by simp [State.leadHeld])).trans ((if_neg ?fits).trans (if_neg (by simp [hstrict]))), ?record⟩
  case fits =>
    cases q with
    | none => simp [hunits, hquotas, hlpd]
    | some x => simp [hunits, hquotas, hlpd, hedges x rfl]
  case record =>
    rw [List.append_nil, State.givePages_none, State.suite_eq_of_hearth State.kickWipes_hearth, State.beginChange_suite,
      State.suite_eq_of_hearth (State.setCredits_hearth _ _ _), State.moveHarts_suite,
      State.suite_eq_of_hearth (State.passWindows_hearth _ _ _), State.suite_eq_of_hearth (State.passEngines_hearth _ _ _), hrect]
    cases hq : (s.suite n).rect <;> simp [Suite.granted, Suite.grownBy, hq]

/-- A shrinking within what the Suite can give up waits for its Rooms and engines. -/
theorem State.shrinkSuite_waits {lead : Option (Fin 8 × Nat)} (hlead : s.newLead n q = some lead)
    (hfree : s.placedOn n ((rectRooms (s.suite n).rect).filter (fun r => !(rectRooms q).contains r)) = false)
    (hctxs : (s.gsuite n).ctxs.length ≤ (s.suite n).ctx.toNat - b.ctx.toNat) (hheld : s.leadHeld n q lead = false) :
    s.shrinkSuite n b q = (.later [], s.beginChange n
      { rect := q, dropped := (rectRooms (s.suite n).rect).filter (fun r => !(rectRooms q).contains r), added := [],
        slices := (s.suite n).slices &&& ~~~b.slices, cpy := (s.suite n).cpy &&& ~~~b.cpy, win := (s.suite n).win &&& ~~~b.win,
        harts := (s.suite n).harts &&& ~~~b.harts, ctx := (s.suite n).ctx - b.ctx, resLpd := (s.suite n).resLpd - b.resLpd,
        resDdr := (s.suite n).resDdr - b.resDdr, newPages := [], killed := false, lead := lead }) := by
  unfold State.shrinkSuite
  simp only [hlead]
  exact (if_neg (by rw [hfree]; simp [hctxs])).trans (if_neg (by simp [hheld]))

/-! ## The calls on a block (R364, R378) -/

section
variable {gen : BitVec 16} {t : State}

theorem suiteGrow_ends (h : s.mayCall 0) (ht : s.entered 0 = t) (hname : t.mayName n gen) (hrect : resBlockRect b = some q)
    (hform : resBlockFormOk b = true) (htpk : b.tpk = 0) :
    CallEnds (.suiteGrow · n gen b) 0x11 n 0 s
      (if rectWithin (t.suite n).rect q then t.growSuite n b q else (.now 1 [], t)) := by
  refine callEnds_suite (may := fun c => c = 0) h (by simp) (fun _ => exec_suiteGrow) ht hname fun _ => ?_
  simp only [hrect]
  cases hin : rectWithin (t.suite n).rect q
  · exact if_pos (by rw [Bool.not_false, Bool.or_true])
  · exact if_neg (by simp [hform, htpk])

theorem suiteShrink_ends (h : s.mayCall 0) (ht : s.entered 0 = t) (hname : t.mayName n gen) (hrect : resBlockRect b = some q)
    (hform : resBlockFormOk b = true) (htpk : b.tpk = 0) (hpages : resBlockNoPages b = true)
    (hin : rectWithin q (t.suite n).rect = true) (hshrink : t.shrinkFormOk n b = true) :
    CallEnds (.suiteShrink · n gen b) 0x12 n 0 s (t.shrinkSuite n b q) := by
  refine callEnds_suite (may := fun c => c = 0) h (by simp) (fun _ => exec_suiteShrink) ht hname fun _ => ?_
  simp only [hrect]
  exact if_neg (by simp [hform, htpk, hpages, hin, hshrink])

end

/-! ## The Suite that a call names (R361, R362) -/

theorem State.genOf_of_namedOk {gen : BitVec 16} (hn : n ≠ 255) (hok : s.namedOk n gen = 0) : s.genOf n = gen := by
  unfold State.namedOk at hok
  by_contra hgen
  rw [if_neg hn, if_pos (by simp [hgen])] at hok
  exact absurd hok (by decide)

theorem State.active_of_not_busy (h : s.suiteBusy n = false) : (s.suite n).state = .active := by
  unfold State.suiteBusy at h
  simp only [Bool.or_eq_false_iff, decide_eq_false_iff_not, not_not] at h
  exact h.1

/-! ## Self-test (R430) -/

/-- A run that powers cores leaves each of them powered. -/
theorem State.foldl_powered {cs : List CoreId} {c : CoreId} (hc : c ∈ cs) :
    ((cs.foldl (fun (u : State) d => u.updCore d (fun x => { x with powered := true })) s).core c).powered = true := by
  have hkeeps : ∀ (u : State) (d : CoreId), (u.core c).powered = true →
      ((u.updCore d (fun x => { x with powered := true })).core c).powered = true := by
    intro u d hu
    by_cases hd : coreKey c = coreKey d
    · have hsame : (u.updCore d (fun x => { x with powered := true })).core c
          = (u.updCore d (fun x => { x with powered := true })).core d := by unfold State.core; rw [hd]
      rw [hsame, State.core_updCore_same]
    · rw [State.core_updCore_other _ _ _ _ hd, hu]
  have hstays : ∀ (ds : List CoreId) (u : State), (u.core c).powered = true →
      ((ds.foldl (fun (u : State) d => u.updCore d (fun x => { x with powered := true })) u).core c).powered = true := by
    intro ds
    induction ds with
    | nil => exact fun u hu => hu
    | cons d ds ih => exact fun u hu => ih _ (hkeeps u d hu)
  induction cs generalizing s with
  | nil => simp at hc
  | cons d cs ih =>
    rcases List.mem_cons.1 hc with rfl | hc
    · exact hstays cs _ (by rw [State.core_updCore_same])
    · exact ih hc

theorem State.updHearth_core (f : Hearth → Hearth) (c : CoreId) : (s.updHearth f).core c = s.core c := rfl

theorem State.keepCall_inModule {call : Nat} {caller : BitVec 8} {m : W64} {pages : List Nat} :
    s.keepCall { call := call, suite := n, via := .inModule caller m, pages := pages }
      = s.updHearth (fun h =>
          { h with running := h.running ++ [{ call := call, suite := n, via := .inModule caller m, pages := pages }] }) := rfl

theorem exec_selftest_begins {unit : BitVec 16} {r : RoomId} {q : W64} {t : State} (h : s.mayCall 0) (ht : s.entered 0 = t)
    (hroom : testRoom unit = some r) (hfree : bitOf (t.room r).rect.toNat 40 = false) (hidle : t.roomTested r = false)
    (hthere : (t.wing (wingOfRoom r)).included = true) :
    exec (.selftest (.inModule 0 q) unit) s
      = .next ((((testCores unit).foldl (fun (u : State) c => u.updCore c (fun x => { x with powered := true })) t).updHearth
          (fun y => { y with selftests := y.selftests ++ [(unit, .inModule 0 q)] })).keepCall
            { call := 0x16, suite := 0, via := .inModule 0 q, pages := [] }) := by
  rw [exec_selftest]
  unfold execSelftest
  rw [operatorCall_entered h ht]
  simp only [hroom]
  rw [if_neg (by simp [hfree]), if_neg (by simp [hidle, hthere])]
  rfl

end Sys2Proof.Machine

open Sys2Proof Sys2Proof.Machine

/-- Settles O55: each call of the operator by the branch its conditions choose; a call of another Suite by its caller. -/
theorem operatorCalls : Obligations.OperatorCalls := by
  intro s hcall t
  have ht : s.entered 0 = t := rfl
  refine ⟨callEnds_of_run hcall (fun _ => exec_getId) ht fun _ => rfl,
    callEnds_of_run hcall (fun _ => exec_nonce) ht fun _ => if_neg (by simp),
    fun n b => ⟨fun hlife => ?notField, fun q hlife hdebug hn hform hslices habsent hretired hrect => ?create⟩,
    fun n gen b q hname hrect hform htpk => ?block, fun n gen hn hok hremove => ⟨fun hstate hother hlast => ?reset,
      fun hzero hstate => ?removeLater, fun hzero hidle => ?removeNow⟩,
    fun strict hstrict => ?strict, fun unit r hroom hfree hidle hthere q => ?selftest,
    fun target l tok hlife hscrapped htoken hstep => ?life, fun tok hlife hdebug htoken => ?debug,
    fun n hn hmay b strict unit tok target => ⟨callEnds_operator_refused hmay hn fun _ => exec_suiteCreate,
      callEnds_operator_refused hmay hn fun _ => exec_strictSet, callEnds_operator_refused hmay hn fun _ => exec_selftest,
      callEnds_operator_refused hmay hn fun _ => exec_lifecycle, callEnds_operator_refused hmay hn fun _ => exec_debugOpen⟩⟩
  case notField => exact callEnds_operator hcall (fun _ => exec_suiteCreate) ht (if_pos (by simpa using .inl hlife))
  case create =>
    have hends : ∀ r, t.createSuite n b q = r → CallEnds (.suiteCreate · n b) 0x10 n 0 s r := by
      intro r hr
      have hfield : t.hearth.life = .field := hlife
      have hclosed : t.hearth.debugOpen = false := hdebug
      refine callEnds_operator hcall (fun _ => exec_suiteCreate) ht ?_
      refine (if_neg (by simp [hfield, hclosed])).trans ((if_neg (by simpa [hform] using ⟨hn, hslices⟩)).trans
        ((if_neg (not_not.2 habsent)).trans ((if_neg (by simp [hretired])).trans ?_)))
      simp only [hrect]
      exact hr
    refine ⟨hends _ rfl, ?_⟩
    intro s1 hlive hedges hunits hquotas globals others u key lead hpages hkey hlead hstrict
    exact hends _ (State.createSuite_claims rfl hlive hedges hunits hquotas hpages hkey hlead hstrict)
  case block =>
    have hgrow := suiteGrow_ends hcall ht hname hrect hform htpk
    refine ⟨fun hin => ?_, fun hin hsame hlead hslices hcpy hwin hharts hpages hstrict hedges => ?_, fun hout => ?_,
      fun hpages hin hshrink => ?_⟩
    · rwa [if_pos hin] at hgrow
    · intro x hsum hquotas m
      obtain ⟨u, hu, hsuite⟩ :=
        State.growSuite_quotas hsame hlead hslices hcpy hwin hharts hpages hstrict hedges hsum.1 hquotas
      rw [if_pos hin, hu] at hgrow
      refine ⟨_, hgrow m, ?_⟩
      show (u.suite n).state = _ ∧ (u.suite n).ctx = _ ∧ (u.suite n).resLpd = _
      rw [hsuite]
      exact ⟨rfl, rfl, rfl⟩
    · rwa [if_neg (by simp [hout])] at hgrow
    · have hends := suiteShrink_ends hcall ht hname hrect hform htpk hpages hin hshrink
      refine ⟨hends, fun lead => ?_⟩
      intro x dropped hlead hplaced hctxs hheld
      rwa [State.shrinkSuite_waits hlead hplaced hctxs hheld] at hends
  case reset =>
    refine callEnds_of_run hcall (fun _ => exec_suiteReset) ht fun _ => ?_
    refine (if_neg hn).trans ((if_neg (by simp)).trans ((if_neg (by simp [hok])).trans ((if_neg ?_).trans (if_neg ?_))))
    · rcases hstate with hstate | hstate <;> simp [hstate, hother, hremove]
    · rwa [State.genOf_of_namedOk hn hok]
  case removeLater =>
    refine callEnds_of_run hcall (fun _ => exec_suiteRemove) ht fun _ => ?_
    refine (if_neg hn).trans ((if_neg (by simp)).trans ((if_neg hzero).trans ((if_neg (by simp [hok])).trans ((if_neg ?_).trans
      (if_pos (by simpa using hstate))))))
    rcases hstate with hstate | hstate <;> simp [hstate, hremove]
  case removeNow =>
    have hactive : (t.suite n).state = .active := State.active_of_not_busy hidle
    refine callEnds_of_run hcall (fun _ => exec_suiteRemove) ht fun _ => ?_
    exact (if_neg hn).trans ((if_neg (by simp)).trans ((if_neg hzero).trans ((if_neg (by simp [hok])).trans
      ((if_neg (by simp [hactive, hremove])).trans ((if_neg (by simp [hactive])).trans (if_neg (by simp [hidle])))))))
  case strict =>
    refine callEnds_operator hcall (fun _ => exec_strictSet) ht (if_neg ?_)
    cases strict
    · simp
    · simp [hstrict rfl]
  case selftest =>
    refine ⟨_, exec_selftest_begins hcall ht hroom hfree hidle hthere, List.mem_append_right _ List.mem_cons_self, fun c hc => ?_⟩
    rw [State.keepCall_inModule, State.updHearth_core, State.updHearth_core]
    exact State.foldl_powered hc
  case life =>
    have hstepped : (l ≠ .scrapped && !((t.hearth.life = .blank && l = .provisioned) || (t.hearth.life = .provisioned && l = .field)
        || (t.hearth.life = .field && l = .return_))) = false := by
      have hnow : t.hearth.life = s.hearth.life := rfl
      rcases hstep with ⟨h1, h2⟩ | ⟨h1, h2⟩ | ⟨h1, h2⟩ <;> simp [hnow, h1, h2]
    refine callEnds_operator hcall (fun _ => exec_lifecycle) ht ?_
    simp only [hlife]
    refine (if_neg (by simpa using hstepped)).trans ((if_neg (by simp [htoken])).trans ?_)
    simp only [if_neg hscrapped]
    rfl
  case debug =>
    have hfield : t.hearth.life = .field := hlife
    have hclosed : t.hearth.debugOpen = false := hdebug
    exact callEnds_operator hcall (fun _ => exec_debugOpen) ht
      ((if_neg (by simp [hfield, hclosed])).trans (if_neg (by simp [htoken])))

end

section
/-! SUPPORT. The rows that complete a call's work: each where what it waits for has come (R362 to R364, R368, R383, R430). -/

namespace Sys2Proof.Machine

variable {s : State} {n : BitVec 8}

/-! ## A Suite that is built, changed, reset or removed (R362 to R364) -/

theorem exec_suiteBuildComplete_failed (hstate : (s.suite n).state = .building) :
    exec (.suiteBuildComplete n true) s
      = .next (((s.releaseAll n).suiteGone n).answerRunning n (fun r => r.call = 0x10) 5 []) :=
  (if_neg (not_not.2 hstate)).trans (if_pos rfl)

theorem exec_suiteBuildComplete_done {pages : List Nat} (hstate : (s.suite n).state = .building)
    (hpages : (s.hearth.running.filter (fun r => r.suite = n)).flatMap (fun r => r.pages) = pages)
    (hrooms : ∀ r ∈ rectRooms (s.suite n).rect, (s.room r).wiping = false) (hwiped : s.pagesWiped pages = true) :
    exec (.suiteBuildComplete n false) s
      = .next ((((((s.endChanges pages).updSuite n (fun y => { y with state := .active })).writeRoot n).refillSlots).judgeTenancy).answerRunning
          n (fun r => r.call = 0x10) 0
          (leBytes 8 (s.suite n).gen.toNat ++ leBytes 8 (if (s.suite n).rootPage = 0 then 0 else pageBase (s.suite n).rootPage))) := by
  subst hpages
  refine (if_neg (not_not.2 hstate)).trans ((if_neg Bool.false_ne_true).trans (if_neg ?_))
  simpa [hwiped] using hrooms

section
variable {c : Change}

theorem exec_suiteChangeComplete (hstate : (s.suite n).state = .changing) (hchange : (s.suite n).change = some c)
    (hready : s.changeReady n c = true) :
    exec (.suiteChangeComplete n) s
      = .next ((((s.applyChange n c).updSuite n (fun x => { x with state := .active })).answerRunning n
          (fun r => r.call = 0x11 || r.call = 0x12) 0 []).thenRemove n) := by
  show execSuiteChangeComplete n s = _
  unfold execSuiteChangeComplete
  rw [hchange]
  exact if_neg (by simp [hstate, hready])

/-- The Rooms on which QUIESCE_TIMEOUT kills what is left: those dropped, or every one where slices change (R227). -/
def Change.killRooms (c : Change) (x : Suite) : List RoomId :=
  if c.slices = x.slices then c.dropped else (List.range 96).map roomOfKey

theorem exec_quiesceTimeout (hstate : (s.suite n).state = .changing) (hchange : (s.suite n).change = some c) (hkilled : c.killed = false)
    (hleft : (if c.slices = (s.suite n).slices then s.roomsQuiet c.dropped else s.groupsGone n) = false) :
    exec (.quiesceTimeout n) s
      = .next ((s.killOn n (c.killRooms (s.suite n))).updSuite n (fun x => { x with change := some { c with killed := true } })) := by
  show execQuiesceTimeout n s = _
  unfold execQuiesceTimeout
  rw [hchange]
  exact if_neg (by simp [hstate, hkilled, hleft])

end

theorem exec_mailSlotMove (hmoving : (s.gsuite n).moving = true) (hmail : (s.gsuite n).mail = [])
    (hidle : ∀ r ∈ (s.gsuite n).senders, r.inUse = 0) : exec (.mailSlotMove n) s = .next (s.placeSlot n) :=
  if_neg (by simpa [hmoving, hmail] using hidle)

theorem State.resetSteps_done (h : (s.suite n).wiped = true) : s.resetSteps n = s := if_pos (by simp [h])

theorem State.removeSteps_done (h : (s.suite n).wiped = true) : s.removeSteps n = s := if_pos (by simp [h])

theorem exec_suiteResetComplete (hstate : (s.suite n).state = .resetting) (hwiped : (s.suite n).wiped = true)
    (hrooms : ∀ r ∈ rectRooms (s.suite n).rect, (s.room r).wiping = false) :
    exec (.suiteResetComplete n) s
      = .next ((((s.updSuite n (fun x => { x with state := .active, wiped := false })).refillSlots).answerRunning
          n (fun r => r.call ≠ 0x14 && r.call ≠ 0x16) 0 []).thenRemove n) := by
  show execSuiteResetComplete n s = _
  unfold execSuiteResetComplete
  rw [if_neg (not_not.2 hstate), State.resetSteps_done hwiped]
  exact if_neg (by simpa [hwiped] using hrooms)

theorem exec_suiteRemoveComplete (hstate : (s.suite n).state = .removing) (hwiped : (s.suite n).wiped = true)
    (hchange : (s.suite n).change = none)
    (hrooms : ∀ r ∈ rectRooms (s.suite n).rect, (s.room r).wiping = false ∨ bitOf (s.room r).rect.toNat 40 = true) :
    exec (.suiteRemoveComplete n) s = .next ((s.suiteGone n).refillSlots.answerRunning n (fun _ => true) 0 []) := by
  show execSuiteRemoveComplete n s = _
  unfold execSuiteRemoveComplete
  rw [if_neg (not_not.2 hstate), State.removeSteps_done hwiped]
  refine if_neg ?_
  simp only [hwiped, hchange, List.append_nil, Bool.not_true, Bool.false_or, List.any_eq_true, Bool.and_eq_true, Bool.not_eq_true',
    not_exists, not_and]
  intro r hr hwiping
  simpa [hwiping] using hrooms r hr

theorem exec_pageChangeComplete {r : Running} (hone : s.hearth.running = [r]) (hcall : r.call = 0x26)
    (hwiped : s.pagesWiped r.pages = true) :
    exec .pageChangeComplete s
      = .next (((s.endChanges r.pages).writeRoot r.suite).answerRunning r.suite (fun q => q.call = 0x26) 0 []) := by
  have hready : s.hearth.running.filter (fun r => r.call = 0x26 && s.pagesWiped r.pages) = [r] := by
    rw [hone]
    exact List.filter_cons_of_pos (by simp [hcall, hwiped])
  show execPageChangeComplete s = _
  unfold execPageChangeComplete
  rw [hready]
  rfl

/-! ## Self-test (R430) -/

/-- The state in which the self-test of one core that passed is answered: the core is off, its test over, and the record sent. -/
def State.coreTested (s : State) (unit : BitVec 16) (via : CallVia) (c : CoreId) (result : W64) : State :=
  ((s.updCore c (fun x => { x with powered := false })).updHearth (fun h =>
    { h with selftests := h.selftests.filter (fun y => y.1 ≠ unit),
             running := h.running.filter (fun q => !(q.call = 0x16 && q.via = via)) })).report .hearth
      { RasRep.zero with cause := 0x0D, subject := unit, detail := BitVec.ofNat 32 (testResult result) }

theorem exec_selftestComplete_passed {unit : BitVec 16} {via : CallVia} {r : RoomId} {c : CoreId} {result : W64}
    (htest : s.hearth.selftests.find? (fun e => e.1 = unit) = some (unit, via)) (hroom : testRoom unit = some r)
    (hcores : testCores unit = [c]) (hpass : bitOf (testResult result) 0 = true) :
    exec (.selftestComplete unit result) s
      = .next ((s.coreTested unit via c result).answerCall via 0x16 0 0 (leBytes 8 (testResult result))) := by
  show execSelftestComplete unit result s = _
  unfold execSelftestComplete
  simp only [htest, hroom, hcores, hpass, List.length_singleton, if_true, Bool.not_true, Bool.false_and, Bool.false_eq_true, if_false]
  rfl

theorem State.coreTested_powered (unit : BitVec 16) (via : CallVia) (c : CoreId) (result : W64) :
    ((s.coreTested unit via c result).core c).powered = false :=
  congrArg Core.powered (State.core_updCore_same s c (fun x => { x with powered := false }))

/-! ## Repair of a common page (R383) -/

section
variable {cid : BitVec 4} {i : BitVec 32} {c : CommonRegion} {again : Bool}

/-- A page of a common region that stands poisoned in external memory. -/
structure State.PagePoisoned (s : State) (cid : BitVec 4) (i : BitVec 32) (c : CommonRegion) : Prop where
  region : Table.get CommonRegion.reset s.hearth.commons cid.toNat = c
  valid  : c.valid = true
  within : i.toNat < c.pages4k.toNat
  poison : ∃ l ∈ s.extPoison, l / 32 = c.pagePa i.toNat / 4096

/-- The address of the page's backing copy. -/
def CommonRegion.backingPa (c : CommonRegion) (i : Nat) : Nat := pageBase (listGet 0 c.backing (i / 512)) + i % 512 * 4096

/-- The backing copy cannot be used: a line of it is bad, or it fails its digest. -/
def State.backingBad (s : State) (c : CommonRegion) (i : Nat) : Bool :=
  (List.range 32).any (fun k => s.extBad (c.backingPa i / 128 + k))
    || Config.sha384 (s.extBytes (c.backingPa i) 4096) ≠ listGet (0 : Digest) c.digests i

theorem State.backingBad_eq_false {j : Nat} (hread : ∀ k, k < 32 → s.extBad (c.backingPa j / 128 + k) = false)
    (hdigest : Config.sha384 (s.extBytes (c.backingPa j) 4096) = listGet (0 : Digest) c.digests j) : s.backingBad c j = false := by
  simpa [State.backingBad, hdigest] using hread

theorem State.backingBad_of_digest {j : Nat}
    (hdigest : Config.sha384 (s.extBytes (c.backingPa j) 4096) ≠ listGet (0 : Digest) c.digests j) : s.backingBad c j = true := by
  rw [State.backingBad, decide_eq_true hdigest, Bool.or_true]

theorem exec_commonPageRepair (h : s.PagePoisoned cid i c) :
    exec (.commonPageRepair cid i again) s =
      if cid = 15 then
        .next (if again then s.repairFailed 15 i.toNat c else s.reinstall 15 i.toNat c (s.extBytes (c.pagePa i.toNat) 4096))
      else if s.hearth.repairMode || !c.backed then
        .next (s.updHearth (fun y =>
          { y with commons := Table.set y.commons cid.toNat { c with repairing := addOnce i.toNat c.repairing } }))
      else
        .next (if s.backingBad c i.toNat || again then s.repairFailed cid.toNat i.toNat c
          else s.reinstall cid.toNat i.toNat c (s.extBytes (c.backingPa i.toNat) 4096)) := by
  obtain ⟨rfl, hvalid, hwithin, hpoison⟩ := h
  exact if_neg (by simpa [hvalid, hwithin] using hpoison)

end

end Sys2Proof.Machine

open Sys2Proof Sys2Proof.Machine

/-- Settles O58: each row where its conditions hold. -/
theorem callsComplete : Obligations.CallsComplete := by
  intro s n
  refine ⟨fun hstate => ⟨exec_suiteBuildComplete_failed hstate, fun pages => exec_suiteBuildComplete_done hstate⟩,
    fun c hstate hchange => ⟨exec_suiteChangeComplete hstate hchange, fun hkilled hslices hleft => ?dropped,
      fun hkilled hslices hleft => ?everywhere⟩,
    exec_mailSlotMove, exec_suiteResetComplete, exec_suiteRemoveComplete, fun r => exec_pageChangeComplete,
    fun unit via r c result htest hroom hcores hpass => ?tested, fun cid i c hregion hvalid hwithin hpoison => ?repair⟩
  case dropped =>
    have hrow := exec_quiesceTimeout hstate hchange hkilled (by rwa [if_pos hslices])
    rwa [Change.killRooms, if_pos hslices] at hrow
  case everywhere =>
    have hrow := exec_quiesceTimeout hstate hchange hkilled (by rwa [if_neg hslices])
    rwa [Change.killRooms, if_neg hslices] at hrow
  case tested =>
    refine ⟨_, exec_selftestComplete_passed (by simp [htest]) hroom hcores hpass, State.coreTested_powered unit via c result, ?_⟩
    show s.hearth.selftests.filter (fun y => y.1 ≠ unit) = []
    simp [htest]
  case repair =>
    have hrow := fun again : Bool => exec_commonPageRepair (again := again) ⟨hregion, hvalid, hwithin, hpoison⟩
    refine ⟨fun hmonitor => ⟨(hrow false).trans (if_pos hmonitor), (hrow true).trans (if_pos hmonitor)⟩,
      fun hother hwaits again => ?_, fun hother hmode hbacked => ?_⟩
    · exact (hrow again).trans ((if_neg hother).trans (if_pos (by simpa using hwaits)))
    · have hcopy := fun again => (hrow again).trans ((if_neg hother).trans (if_neg (by simp [hmode, hbacked])))
      refine ⟨fun hgood hdigest => ?_, fun hdigest again => ?_⟩
      · exact (hcopy false).trans (congrArg _ (if_neg (by simp [State.backingBad_eq_false hgood hdigest])))
      · exact (hcopy again).trans (congrArg _ (if_pos (by simp [State.backingBad_of_digest hdigest])))

end
